-- ==== Sys2Proof/Word.lean ====
section
/-! DEFINITION. The plain word types of the block (R5, R8). -/

namespace Sys2Proof

/-- One byte (R5). -/
abbrev Byte := BitVec 8

/-- A 32-bit register of the control window (R444). -/
abbrev Word := BitVec 32

/-- A 64-bit value, held as a _LO/_HI pair (R13) or in an entry. -/
abbrev Word64 := BitVec 64

/-- A byte in Yard SRAM or in a flit, with its poison mark (R48, R322). -/
structure PByte where
  byte : Byte
  poison : Bool
  deriving DecidableEq, Repr

/-- A zero byte, poison-marked: what R48, R49 and R327 deliver for lost data. -/
def PByte.bad : PByte := ⟨0, true⟩

/-- A zero byte without a mark. -/
def PByte.zero : PByte := ⟨0, false⟩

/-- The segment, 64 KiB everywhere in the block (R24). -/
def segBytes : Nat := 65536

end Sys2Proof
end

