-- ==== Sys2Proof/Syntax.lean ====
section
/-! DEFINITION. The commands of the block: one constructor of Instr per row of spec/opcode_table.json, in the table's
order, and the data that commands carry from outside. -/

namespace Sys2Proof

/-- What a read on the host master port answered: the bytes, or an error (R59, R92). -/
inductive HostRead where
  | data (bytes : List Byte)
  | error
  deriving DecidableEq, Repr

/-- A flit as a receive channel delivers it (Table 2-2): its 64 bytes, byte 0 first, and FLIT_POISON. A packet is the list of
its flits, from the one with FLIT_SOP to the one with FLIT_EOP. -/
structure Flit where
  bytes : List Byte
  poison : Bool
  deriving DecidableEq, Repr

/-- What a staging port answered to the boot's read of a granule of the reserved area, by the granule's number there: STATUS ERROR or
not, DATA and META, or nothing within 10 µs (R58). -/
structure BootGranule where
  unit : Nat
  answer : Option (Bool × List Byte × List Byte)
  deriving DecidableEq, Repr

/-- What the boot's reads of the generation directory and the manifest store returned (R178, R194). A granule that is not listed reads
clean, as the block wrote it at the start: of a FREE directory entry of SEQ 0 (R180), or zero (R331). -/
structure BootReads where
  granules : List BootGranule := []
  deriving DecidableEq, Repr

/-- A processor that can crash or restart (Table 1-2). A Mast controller's dispatch pair and its service cores
recover apart (Table 13-5). -/
inductive Proc where
  | dispatch (mast : Nat)
  | service (mast core : Nat)
  | mainstay
  | shroud
  | trim
  | masthead
  deriving DecidableEq, Repr

/-- A reading as a device of the sensor port gives it (R390): a PMBus LINEAR11 word, a PMBus LINEAR16 word with its exponent of
VOUT_MODE, or the 16-bit value of an I3C target's register. -/
inductive BusWord where
  | linear11 (w : BitVec 16)
  | linear16 (w : BitVec 16) (exponent : BitVec 5)
  | raw (w : BitVec 16)
  deriving DecidableEq, Repr

/-- What waits for a usable port (R465). -/
inductive PortWait where
  | transfer (x : Nat)   -- a transfer of the block, by number
  | signal (e : Nat)     -- the CLEAT SIGNAL packet of an accepted entry
  deriving DecidableEq, Repr

/-- The failed part of a Yard BIST run (R427, Table 15-12). -/
structure BistFail where
  part : Nat     -- D1 of BIST_FAIL: 0x1 segment buffer ... 0x7 Ratline encoder
  buffer : Nat   -- D2 when the part is a segment buffer
  deriving DecidableEq, Repr

/-- What a loss of the always-on supply leaves torn (R397, R413, Table 13-13). -/
structure Torn where
  burn : Option (Nat × Nat)        -- the tally setting and value being burned
  store : Option Nat               -- the IMAGE code whose non-active slot was being written
  life : Bool := false             -- the life record was being written
  deriving DecidableEq, Repr

/-- The number of an accepted entry: acceptances are numbered as they happen. -/
abbrev EntryId := Nat

/-- The commands of the block. An entry's row runs the accepted entry that it names; the structures that the entry
points to are its operands, as the block's reads of them returned. -/
inductive Instr where
  -- Admin entries (R98, R99)
  | queueCreate (e : EntryId)
  | queueDestroy (e : EntryId)
  | sliceCreate (e : EntryId)
  | sliceResize (e : EntryId)
  | sliceReset (e : EntryId)
  | sliceFreeze (e : EntryId)
  | sliceSave (e : EntryId)
  | sliceLoad (e : EntryId) (image : HostRead)
  | rigStage (e : EntryId) (image : HostRead)
  | rigCommit (e : EntryId)
  | rigRollback (e : EntryId)
  | attachEndpoint (e : EntryId)
  | keyLoad (e : EntryId) (blob : HostRead)
  | fwStage (e : EntryId) (image : HostRead)
  | fwActivate (e : EntryId)
  -- I/O entries (R98, R100)
  | copy (e : EntryId)
  | fill (e : EntryId)
  | genOpen (e : EntryId) (regionList : HostRead) (manifest : HostRead)
  | cut (e : EntryId)
  | stamp (e : EntryId)
  | protect (e : EntryId) (groupList : HostRead)
  | drain (e : EntryId)
  | restore (e : EntryId) (targetMap : HostRead)
  | restoreSpare (e : EntryId)
  | sheetArm (e : EntryId) (dimBlock : HostRead) (header : HostRead) (adapter : HostRead)
  | sheetRearm (e : EntryId) (dimBlock : HostRead) (header : HostRead) (adapter : HostRead)
  | sheetStop (e : EntryId)
  | cleatSignal (e : EntryId)
  | cleatWait (e : EntryId)
  | digest (e : EntryId)
  | kuBlock (e : EntryId)
  | snapLatch (e : EntryId)
  -- Mailbox commands (R389): serve the request taken at the mailbox doorbell
  | sensorRead
  | sensorLimits
  | logRead
  | clockRead
  | calSet
  | dueSet
  | counterRead
  | jobLookup
  | tallyRead
  | tallyBurn
  | imageBegin
  | imageData
  | imageEnd
  | telltaleInput
  | telltaleRead
  -- SPDM requests (R315): serve the SPDM request taken at the mailbox doorbell
  | getVersion
  | getCapabilities
  | negotiateAlgorithms
  | getDigests
  | getCertificate
  | challenge
  | getMeasurements
  | setCertificate
  | unsupportedRequest
  -- Control window accesses
  | sqDoorbell (f slot : Nat) (tail : BitVec 16)
  | inv (f slot : Nat) (tail : BitVec 16)
  | cqDoorbell (f slot : Nat) (head : BitVec 16)
  | blkReset (value : Word) (laneFails : List Nat) (stored : BootReads)
  | pwrDown (value : Word)
  | globalFaultW1c (value : Word)
  | fabLock
  | drainLock
  | sensorLock
  | hostHeartbeat (f : Nat) (beat : Word)
  | hbInterval (f : Nat) (value : Word)
  | asqCtrl (value : Word)
  | acqCtrl (value : Word)
  | loRead (offset : Nat)
  | hiWrite (offset : Nat) (value : Word)
  | registerWrite (offset : Nat) (value : Word)
  | ctlBadAccess (offset size : Nat)
  -- Reset inputs, pins
  | porstAssertion
  | porstDeassertion (stagePresent : BitVec 8) (stageSizeSel : BitVec 3) (laneFails : List Nat)
  | blkRstAssertion
  | blkRstDeassertion (laneFails : List Nat) (stored : BootReads)
  | preemptN
  | wakeN (railsGood : Bool) (laneFails : List Nat) (stored : BootReads)
  | sbFallingEdge (line : Nat)
  | pmbAlertN (undervoltage : Bool)
  -- Fabric links
  | linkUpRise (port : Nat)
  | linkUpFall (port : Nat)
  | linkHello (port : Nat) (flits : List Flit)
  | rekey (port : Nat)
  | keyRollAck (port : Nat) (flits : List Flit)
  | linkStopLimit (port : Nat)
  -- Received packets, as the flits that came: what a packet is stands in its header flit (Table 2-3)
  | rdRsp (port : Nat) (flits : List Flit)
  | wrAck (port : Nat) (flits : List Flit)
  | rdReqToBlock (port : Nat) (flits : List Flit)
  | wrToBlock (port : Nat) (flits : List Flit)
  | cleatSignalPacket (port : Nat) (flits : List Flit)
  | malformedPacket (port : Nat) (flits : List Flit)
  | preemptNotice (port : Nat) (flits : List Flit)
  | quiesceDone (port : Nat) (flits : List Flit)
  | exportMap (port : Nat) (flits : List Flit)
  | resumeDone (port : Nat) (flits : List Flit)
  | armed (port : Nat) (flits : List Flit)
  | watchHit (port : Nat) (flits : List Flit)
  | holdRequest (port : Nat) (flits : List Flit)
  | forkRequest (port : Nat) (flits : List Flit)
  | readComplete (x : Nat)
  -- Responses of the other ports
  | stagingResponse (port tag : Nat) (err : Bool) (data check : List Byte)
  | stagingResponseTimeout (port tag : Nat)
  | hostResponse (req : Nat) (answer : HostRead)
  | sensorTransaction (index : Nat) (reading : Option BusWord)
  | inBandInterrupt (target : Nat) (reading : BitVec 16)
  -- Expiries and scheduling
  | fabricResponseTimeout (port tag : Nat)
  | usablePortTimeout (w : PortWait)
  | entryAccept (qid : Nat) (fetched : List HostRead)
  | queuedEntryStart (e : EntryId) (targetMap : HostRead)
  | transferDispatch (x yard lane port : Nat)
  | sheetWorkUnitStart (yard lane : Nat)
  | armingEnd (sheet : Nat)
  | coalTicksExpiry (ring : Nat)
  | waitTimeout (e : EntryId)
  | cutTimeout (e : EntryId)
  | resumeLate (ep : Nat)
  | sliceResetTimeout (e : EntryId)
  | heartbeatMiss (f : Nat)
  | telltaleSample
  | sensorPoll (index : Nat) (reading : Word)
  | spareSelfTest (fails : List (Nat × Nat))
  | yardBist (fails : List BistFail)
  | dueEntry (n : Nat)
  | lifeRecordWrite
  | idleEntry
  | yardGate (yard : Nat)
  | powerGoodTimeout (rail : Nat) (railsGood : Bool) (laneFails : List Nat) (stored : BootReads)
  -- Faults and power
  | lockstepMismatch (p : Proc) (pc : Word64)
  | watchdogExpiry (p : Proc) (pc : Word64)
  | trap (p : Proc) (pc : Word64) (ecc : Option (Nat × Nat))
  | processorRestartComplete (p : Proc) (checksPass : Bool)
  | datapathParityFault (lane : Nat) (spareFails : List (Nat × Nat))
  | laneStall (lane : Nat) (spareFails : List (Nat × Nat))
  | clockFault (clock : Nat) (relocked : Bool)
  | voltageFault (monitor : Nat) (mv : Word)
  | thermalTrip (diode : Nat)
  | keyUnitParityMismatch
  | entropyHealthFailure
  | debugUnlock
  | alwaysOnSupplyLoss (torn : Torn)
  | mainSupplyRemoval
  | keyUnitRequestDone
  | mainstayUnpairedTimeout
  deriving DecidableEq, Repr

end Sys2Proof
end

