-- ==== Sys2Proof/Decode.lean ====
section
/-! DEFINITION. The command that a table word spells. The table gives no row bits: a command of this block is a ring
entry in host memory, a register access, a packet or an event, and none is a word of its own. -/

namespace Sys2Proof

/-- No word of the opcode table spells a command: none of its rows has bits. -/
def decodeTableWord (_nbits _w : Nat) : Option Instr := none

end Sys2Proof
end

