-- ==== Sys2Proof/Config.lean ====
section
/-! DEFINITION. What one implementation fixes and the spec leaves open: free values. Each is an opaque constant
without a body, so that no proof can rest on a value of it; the state's counter of free values, or the operands it
depends on, are its arguments. -/

namespace Sys2Proof.Config

/-- The conditioned entropy that seeds the CTR_DRBG (R308): by draw number and byte. Log 9. -/
opaque entropy : Nat → Nat → Byte

/-- The lane cycles that pass between two commands (R265, Table 1-8): by draw number. Log 10. -/
opaque laneCycles : Nat → Nat

/-- The back-pressure cycles of a fabric port (Table 14-10, 0x4 field 2) in the lane cycles that pass: the receiver
holds FLIT_READY low as long as it likes (R41); by draw number and port. Log 10. -/
opaque backPressure : Nat → Nat → Nat

/-- The flits of a fabric port that its receiver takes in the lane cycles that pass (R41): by draw number and port. Log 10. -/
opaque flitsTaken : Nat → Nat → Nat

/-- Has a pin that was low risen since its last edge (R65, R445)? By draw number and bit of SB_STATUS. Log 198. -/
opaque pinRose : Nat → Nat → Bool

/-- The reading of a sensor whose value in the table's unit does not fit 32 bits (R390): by draw number. Log 18. -/
opaque wideReading : Nat → Word

/-- The words corrected in a firmware memory (Table 14-10, 0xD) as time passes: by draw number and instance. Log 14. -/
opaque firmwareWords : Nat → Nat → Nat

/-- The index of the 8 B word of a Yard or cache at which an ECC event is found (R319, R327): where a Yard places a buffer
lies open; by draw number. Log 42. -/
opaque eccWord : Nat → Nat

/-- The voltage monitor on the rail of Shroud (R429), which the spec does not number. Log 43. -/
opaque shroudRail : Nat

/-- The current value that TALLY_READ reports for a lane spare map without a record (R411): lanes 32 and 33 in every Yard
have no spelling as one VALUE. Log 44. -/
opaque shippedSpares : Nat

/-- The code lengths that the Reef encoder chooses (R224) for a plane's byte counts, when several tables are equally
short. Log 20. -/
opaque reefLengths : List Nat → List Nat

/-- The NaN that an FP32 operation on two operands gives (R233; IEEE 754 leaves sign and payload open). Log 24. -/
opaque nanResult : Nat → Nat → Word

/-- What unwritten surroundings memory read back as inside a read-modify-write is an operand; this is what remains:
the words of the request in progress after MB_REQ is written while BUSY (R456). Log 21. -/
opaque mailboxBytes : Nat → Nat → Byte

/-- The Lordal public keys that Shroud's boot ROM holds (R366): by byte, 97 B of ECDSA P-384 and then 2,592 B of ML-DSA-87. Log 22. -/
opaque lordalKey : Nat → Byte

/-- The manufacturer field of the test access port's IDCODE, which the integrator supplies (R72). Log 29. -/
opaque manufacturer : Nat

/-- The nonce of an SPDM response (R315): by draw number and byte. Log 23. -/
opaque spdmNonce : Nat → Nat → Byte

/-- The per-message secret of an ECDSA signature (R317; FIPS 186-5 leaves its choice open): by draw number. Log 23. -/
opaque signSecret : Nat → Nat

/-- A byte of the code digest, and of the whole digest, of a shipped firmware image: by IMAGE code and byte. Log 8. -/
opaque shippedCode : Nat → Nat → Byte
opaque shippedSum : Nat → Nat → Byte

end Sys2Proof.Config
end

