-- ==== Sys2Proof/Machine/Bytes.lean ====
section
/-! DEFINITION. Byte order, fields of numbers and byte ranges (R8). -/

namespace Sys2Proof.Machine

/-- The number that bytes spell, least significant first (R8). -/
def le : List Byte → Nat
  | [] => 0
  | b :: bs => b.toNat + 256 * le bs

/-- A number as n bytes, least significant first. -/
def toLe : Nat → Nat → List Byte
  | 0, _ => []
  | n + 1, v => BitVec.ofNat 8 v :: toLe n (v / 256)

/-- The number that bytes spell, most significant first, for the structures of published standards (R8). -/
def be (bs : List Byte) : Nat := bs.foldl (fun n b => n * 256 + b.toNat) 0

/-- A number as n bytes, most significant first. -/
def toBe (n v : Nat) : List Byte := (toLe n v).reverse

/-- The bytes from an offset on, at most so many. -/
def slice {α : Type} (xs : List α) (off len : Nat) : List α := (xs.drop off).take len

/-- The little-endian number at an offset. -/
def leAt (xs : List Byte) (off len : Nat) : Nat := le (slice xs off len)

/-- Bits hi down to lo of a number. -/
def bits (v hi lo : Nat) : Nat := v / 2 ^ lo % 2 ^ (hi + 1 - lo)

/-- Bit i of a number as a Bool. -/
def bitOf (v i : Nat) : Bool := v / 2 ^ i % 2 == 1

/-- A Bool as a field of one bit. -/
def b2n (b : Bool) : Nat := if b then 1 else 0

/-- Exactly n elements: the list cut, or filled up with a value. -/
def fit {α : Type} (n : Nat) (d : α) (xs : List α) : List α := xs.take n ++ List.replicate (n - xs.length) d

/-- Overwrite the elements from an offset on; the list keeps its length. -/
def overlay {α : Type} (xs : List α) (off : Nat) (ys : List α) : List α :=
  xs.take off ++ ys.take (xs.length - off) ++ xs.drop (off + ys.length)

/-- Are all bytes zero? -/
def allZero (bs : List Byte) : Bool := bs.all (· == 0)

/-- Unmarked bytes. -/
def plain (bs : List Byte) : List PByte := bs.map (⟨·, false⟩)

/-- The values of marked bytes. -/
def values (bs : List PByte) : List Byte := bs.map (·.byte)

/-- The number of poison-marked bytes. -/
def poisonCount (bs : List PByte) : Nat := (bs.filter (·.poison)).length

/-- Is some byte poison-marked? -/
def anyPoison (bs : List PByte) : Bool := bs.any (·.poison)

/-- Cut a list into pieces of n, the last possibly short. Fuel is the list's length. -/
def chunksAux {α : Type} (n : Nat) : Nat → List α → List (List α)
  | 0, _ => []
  | fuel + 1, xs => if xs.isEmpty then [] else xs.take n :: chunksAux n fuel (xs.drop n)

/-- Cut a list into pieces of n. -/
def chunks {α : Type} (n : Nat) (xs : List α) : List (List α) := chunksAux n xs.length xs

/-- Ceiling division. -/
def ceilDiv (a b : Nat) : Nat := (a + b - 1) / b

/-- The first power of two at or above a number (fuel 64). -/
def pow2Aux (n : Nat) : Nat → Nat → Nat
  | 0, p => p
  | f + 1, p => if n ≤ p then p else pow2Aux n f (2 * p)

/-- The first power of two at or above a number. -/
def pow2Ceil (n : Nat) : Nat := pow2Aux n 64 1

/-- Serial-number comparison of 32-bit values (R464): a is greater than b. -/
def serialGt (a b : BitVec 32) : Bool := 1 ≤ (a - b).toNat && (a - b).toNat ≤ 2 ^ 31 - 1

/-- A signed value as n bits of two's complement. -/
def twos (n : Nat) (v : Int) : Nat := (v % (2 ^ n : Int)).toNat

/-- The signed value of n bits. -/
def ofTwos (n v : Nat) : Int := if v < 2 ^ (n - 1) then (v : Int) else (v : Int) - 2 ^ n

/-- Element-wise exclusive or of two byte strings. -/
def xorBytes (a b : List Byte) : List Byte := List.zipWith (· ^^^ ·) a b

end Sys2Proof.Machine
end

