-- ==== Sys2Proof/Machine/Crypto.lean ====
section
/-! DEFINITION. The standard algorithms that the spec names: CRC-32C, arithmetic in GF(2^8), AES-256, GCM, AES Key
Wrap, SHA-2, HMAC and the counter-mode KDF (R51, R160, R295, R301, R306, R311 to R314), and the
CTR_DRBG (R308). -/

namespace Sys2Proof.Machine

/-! ### CRC-32C -/

/-- One bit of the reflected Castagnoli polynomial. -/
def crcBit (c : BitVec 32) : BitVec 32 := if c.getLsbD 0 then (c >>> 1) ^^^ 0x82F63B78#32 else c >>> 1

/-- One byte of CRC-32C. -/
def crcByte (c : BitVec 32) (b : Byte) : BitVec 32 :=
  (List.range 8).foldl (fun c _ => crcBit c) (c ^^^ b.setWidth 32)

/-- CRC-32C (Castagnoli) of bytes (R160). -/
def crc32c (bs : List Byte) : BitVec 32 := ~~~ (bs.foldl crcByte 0xFFFFFFFF#32)

/-! ### GF(2^8) -/

/-- Multiply by x, reducing by a polynomial whose low byte is given. -/
def gfX (p a : Byte) : Byte := if a.getLsbD 7 then (a <<< 1) ^^^ p else a <<< 1

/-- The product of two elements of GF(2^8) under a reduction polynomial. -/
def gfMul (p a b : Byte) : Byte :=
  ((List.range 8).foldl (fun (acc : Byte × Byte) i =>
    (if b.getLsbD i then acc.1 ^^^ acc.2 else acc.1, gfX p acc.2)) (0, a)).1

/-- A power of an element. -/
def gfPow (p a : Byte) : Nat → Byte
  | 0 => 1
  | n + 1 => gfMul p a (gfPow p a n)

/-- The inverse of an element (zero for zero). -/
def gfInv (p a : Byte) : Byte := gfPow p a 254

/-! ### AES-256 (FIPS 197) -/

/-- The reduction polynomial of AES, low byte. -/
def aesPoly : Byte := 0x1B

/-- The AES S-box. -/
def sbox (a : Byte) : Byte :=
  let b := gfInv aesPoly a
  b ^^^ b.rotateLeft 1 ^^^ b.rotateLeft 2 ^^^ b.rotateLeft 3 ^^^ b.rotateLeft 4 ^^^ 0x63

/-- The inverse of the AES S-box. -/
def sboxInv (a : Byte) : Byte :=
  gfInv aesPoly (a.rotateLeft 1 ^^^ a.rotateLeft 3 ^^^ a.rotateLeft 6 ^^^ 0x05)

/-- The round-key words of AES-256, newest first, after so many further words. -/
def aesExpandAux : Nat → Nat → List (List Byte) → List (List Byte)
  | 0, _, ws => ws
  | f + 1, i, ws =>
    let prev := ws.headD []
    let old := (ws.drop 7).headD []
    let t :=
      if i % 8 = 0 then
        let r := (prev.drop 1 ++ prev.take 1).map sbox
        xorBytes r [gfPow aesPoly 2 (i / 8 - 1), 0, 0, 0]
      else if i % 8 = 4 then prev.map sbox
      else prev
    aesExpandAux f (i + 1) (xorBytes old t :: ws)

/-- The fifteen round keys of AES-256. -/
def aesRoundKeys (key : List Byte) : List (List Byte) :=
  chunks 16 ((aesExpandAux 52 8 (chunks 4 key).reverse).reverse.flatten)

/-- Pick the bytes of a state in an order. -/
def pick (order : List Nat) (st : List Byte) : List Byte := order.map fun i => st.getD i 0

/-- ShiftRows on the column-wise state. -/
def shiftRows (st : List Byte) : List Byte := pick [0, 5, 10, 15, 4, 9, 14, 3, 8, 13, 2, 7, 12, 1, 6, 11] st

/-- InvShiftRows. -/
def shiftRowsInv (st : List Byte) : List Byte := pick [0, 13, 10, 7, 4, 1, 14, 11, 8, 5, 2, 15, 12, 9, 6, 3] st

/-- One column times a circulant matrix with the given first row. -/
def mixColumn (row col : List Byte) : List Byte :=
  (List.range 4).map fun i =>
    ((List.range 4).foldl (fun acc j => acc ^^^ gfMul aesPoly (row.getD ((j + 4 - i) % 4) 0) (col.getD j 0)) 0 : Byte)

/-- MixColumns with the given first row. -/
def mixColumns (row st : List Byte) : List Byte := ((chunks 4 st).map (mixColumn row)).flatten

/-- AES-256 encryption of one block. -/
def aesEnc (key block : List Byte) : List Byte :=
  let ks := aesRoundKeys key
  let s0 := xorBytes block (ks.headD [])
  let mid := ((ks.drop 1).take 13).foldl
    (fun st k => xorBytes (mixColumns [2, 3, 1, 1] (shiftRows (st.map sbox))) k) s0
  xorBytes (shiftRows (mid.map sbox)) (ks.getD 14 [])

/-- AES-256 decryption of one block. -/
def aesDec (key block : List Byte) : List Byte :=
  let ks := aesRoundKeys key
  let s0 := (shiftRowsInv (xorBytes block (ks.getD 14 []))).map sboxInv
  let mid := ((ks.drop 1).take 13).reverse.foldl
    (fun st k => (shiftRowsInv (mixColumns [14, 11, 13, 9] (xorBytes st k))).map sboxInv) s0
  xorBytes mid (ks.headD [])

/-! ### AES Key Wrap, KW (SP 800-38F) -/

/-- The default initial value of KW. -/
def kwIv : List Byte := List.replicate 8 0xA6

/-- One pass of KW wrapping over the half blocks: the register, the step number, the new half blocks reversed. -/
def kwWrapPass (key : List Byte) : List (List Byte) → List Byte → Nat → List (List Byte) → List Byte × Nat × List (List Byte)
  | [], a, t, out => (a, t, out.reverse)
  | r :: rs, a, t, out =>
    let b := aesEnc key (a ++ r)
    kwWrapPass key rs (xorBytes (b.take 8) (toBe 8 t)) (t + 1) (b.drop 8 :: out)

/-- KW wrapping of a plaintext of whole half blocks. -/
def kwWrap (key p : List Byte) : List Byte :=
  let r := (List.range 6).foldl (fun (st : List Byte × Nat × List (List Byte)) _ =>
    kwWrapPass key st.2.2 st.1 st.2.1 []) (kwIv, 1, chunks 8 p)
  r.1 ++ r.2.2.flatten

/-- One pass of KW unwrapping over the half blocks, last first. -/
def kwUnwrapPass (key : List Byte) : List (List Byte) → List Byte → Nat → List (List Byte) → List Byte × Nat × List (List Byte)
  | [], a, t, out => (a, t, out)
  | r :: rs, a, t, out =>
    let b := aesDec key (xorBytes a (toBe 8 t) ++ r)
    kwUnwrapPass key rs (b.take 8) (t - 1) (b.drop 8 :: out)

/-- KW unwrapping: the plaintext, or none when the integrity value fails. -/
def kwUnwrap (key c : List Byte) : Option (List Byte) :=
  let n := c.length / 8 - 1
  let r := (List.range 6).foldl (fun (st : List Byte × Nat × List (List Byte)) _ =>
    kwUnwrapPass key st.2.2.reverse st.1 st.2.1 []) (c.take 8, 6 * n, chunks 8 (c.drop 8))
  if r.1 = kwIv then some r.2.2.flatten else none

/-! ### GCM (SP 800-38D) -/

/-- The product in GCM's field. -/
def ghashMul (x y : BitVec 128) : BitVec 128 :=
  ((List.range 128).foldl (fun (zv : BitVec 128 × BitVec 128) i =>
    (if x.getMsbD i then zv.1 ^^^ zv.2 else zv.1,
     if zv.2.getLsbD 0 then (zv.2 >>> 1) ^^^ 0xE1000000000000000000000000000000#128 else zv.2 >>> 1)) (0, y)).1

/-- Zero-fill to whole 16-byte blocks. -/
def padBlock (bs : List Byte) : List Byte := bs ++ List.replicate ((16 - bs.length % 16) % 16) 0

/-- GHASH of whole blocks under a hash key. -/
def ghash (h : BitVec 128) (bs : List Byte) : BitVec 128 :=
  (chunks 16 bs).foldl (fun y b => ghashMul (y ^^^ BitVec.ofNat 128 (be b)) h) 0

/-- GHASH going on from an accumulator over more whole blocks. -/
def ghashOn (h y : BitVec 128) (bs : List Byte) : BitVec 128 :=
  (chunks 16 bs).foldl (fun y b => ghashMul (y ^^^ BitVec.ofNat 128 (be b)) h) y

/-- The hash key of GCM. -/
def gcmHashKey (key : List Byte) : BitVec 128 := BitVec.ofNat 128 (be (aesEnc key (List.replicate 16 0)))

/-- The key stream of GCM from a block number on. -/
def gcmStreamOn (key iv : List Byte) (block n : Nat) : List Byte :=
  ((List.range n).map fun i => aesEnc key (iv ++ toBe 4 (block + i + 2))).flatten

/-- The key stream of GCM from a counter value on. -/
def gcmStream (key iv : List Byte) (n : Nat) : List Byte :=
  ((List.range n).map fun i => aesEnc key (iv ++ toBe 4 (i + 2))).flatten

/-- The tag of GCM over additional data and ciphertext, for a 96-bit IV. -/
def gcmTag (key iv aad ct : List Byte) : List Byte :=
  let h := BitVec.ofNat 128 (be (aesEnc key (List.replicate 16 0)))
  let y := ghash h (padBlock aad ++ padBlock ct ++ toBe 8 (8 * aad.length) ++ toBe 8 (8 * ct.length))
  xorBytes (toBe 16 y.toNat) (aesEnc key (iv ++ [0, 0, 0, 1]))

/-- The ciphertext (or, run on it, the plaintext) of GCM for a 96-bit IV. -/
def gcmCrypt (key iv text : List Byte) : List Byte :=
  xorBytes text (gcmStream key iv (ceilDiv text.length 16))

/-! ### SHA-2 (FIPS 180-4) -/

/-- The round constants of SHA-512; their upper halves are those of SHA-256 (FIPS 180-4). -/
def shaK : List Nat :=
  [0x428A2F98D728AE22, 0x7137449123EF65CD, 0xB5C0FBCFEC4D3B2F, 0xE9B5DBA58189DBBC,
   0x3956C25BF348B538, 0x59F111F1B605D019, 0x923F82A4AF194F9B, 0xAB1C5ED5DA6D8118,
   0xD807AA98A3030242, 0x12835B0145706FBE, 0x243185BE4EE4B28C, 0x550C7DC3D5FFB4E2,
   0x72BE5D74F27B896F, 0x80DEB1FE3B1696B1, 0x9BDC06A725C71235, 0xC19BF174CF692694] ++
  [0xE49B69C19EF14AD2, 0xEFBE4786384F25E3, 0x0FC19DC68B8CD5B5, 0x240CA1CC77AC9C65,
   0x2DE92C6F592B0275, 0x4A7484AA6EA6E483, 0x5CB0A9DCBD41FBD4, 0x76F988DA831153B5,
   0x983E5152EE66DFAB, 0xA831C66D2DB43210, 0xB00327C898FB213F, 0xBF597FC7BEEF0EE4,
   0xC6E00BF33DA88FC2, 0xD5A79147930AA725, 0x06CA6351E003826F, 0x142929670A0E6E70] ++
  [0x27B70A8546D22FFC, 0x2E1B21385C26C926, 0x4D2C6DFC5AC42AED, 0x53380D139D95B3DF,
   0x650A73548BAF63DE, 0x766A0ABB3C77B2A8, 0x81C2C92E47EDAEE6, 0x92722C851482353B,
   0xA2BFE8A14CF10364, 0xA81A664BBC423001, 0xC24B8B70D0F89791, 0xC76C51A30654BE30,
   0xD192E819D6EF5218, 0xD69906245565A910, 0xF40E35855771202A, 0x106AA07032BBD1B8] ++
  [0x19A4C116B8D2D0C8, 0x1E376C085141AB53, 0x2748774CDF8EEB99, 0x34B0BCB5E19B48A8,
   0x391C0CB3C5C95A63, 0x4ED8AA4AE3418ACB, 0x5B9CCA4F7763E373, 0x682E6FF3D6B2B8A3,
   0x748F82EE5DEFB2FC, 0x78A5636F43172F60, 0x84C87814A1F0AB72, 0x8CC702081A6439EC,
   0x90BEFFFA23631E28, 0xA4506CEBDE82BDE9, 0xBEF9A3F7B2C67915, 0xC67178F2E372532B] ++
  [0xCA273ECEEA26619C, 0xD186B8C721C0C207, 0xEADA7DD6CDE0EB1E, 0xF57D4F7FEE6ED178,
   0x06F067AA72176FBA, 0x0A637DC5A2C898A6, 0x113F9804BEF90DAE, 0x1B710B35131C471B,
   0x28DB77F523047D84, 0x32CAAB7B40C72493, 0x3C9EBE0A15C9BEBC, 0x431D67C49C100D4C,
   0x4CC5D4BECB3E42B6, 0x597F299CFC657E2A, 0x5FCB6FAB3AD6FAEC, 0x6C44198C4A475817]

/-- The initial words of SHA-512 (first eight; upper halves: SHA-256) and of SHA-384 (last eight). -/
def shaH : List Nat :=
  [0x6A09E667F3BCC908, 0xBB67AE8584CAA73B, 0x3C6EF372FE94F82B, 0xA54FF53A5F1D36F1,
   0x510E527FADE682D1, 0x9B05688C2B3E6C1F, 0x1F83D9ABFB41BD6B, 0x5BE0CD19137E2179,
   0xCBBB9D5DC1059ED8, 0x629A292A367CD507, 0x9159015A3070DD17, 0x152FECD8F70E5939,
   0x67332667FFC00B31, 0x8EB44A8768581511, 0xDB0C2E0D64F98FA7, 0x47B5481DBEFA4FA4]

/-- The compression function over words of w bits: the rotation amounts of the four functions, and the round
constants. -/
def sha2Rounds (w : Nat) (rot : List Nat) (ks : List Nat) (st : List (BitVec w)) (ws : List (BitVec w)) :
    List (BitVec w) :=
  let g := fun i => rot.getD i 0
  let bigS0 := fun (x : BitVec w) => x.rotateRight (g 0) ^^^ x.rotateRight (g 1) ^^^ x.rotateRight (g 2)
  let bigS1 := fun (x : BitVec w) => x.rotateRight (g 3) ^^^ x.rotateRight (g 4) ^^^ x.rotateRight (g 5)
  let s0 := fun (x : BitVec w) => x.rotateRight (g 6) ^^^ x.rotateRight (g 7) ^^^ (x >>> g 8)
  let s1 := fun (x : BitVec w) => x.rotateRight (g 9) ^^^ x.rotateRight (g 10) ^^^ (x >>> g 11)
  let r := ks.foldl (fun (p : List (BitVec w) × List (BitVec w)) k =>
    let v := fun i => p.1.getD i 0
    let m := fun i => p.2.getD i 0
    let t1 := v 7 + bigS1 (v 4) + ((v 4 &&& v 5) ^^^ (~~~ (v 4) &&& v 6)) + BitVec.ofNat w k + m 0
    let t2 := bigS0 (v 0) + ((v 0 &&& v 1) ^^^ (v 0 &&& v 2) ^^^ (v 1 &&& v 2))
    ([t1 + t2, v 0, v 1, v 2, v 3 + t1, v 4, v 5, v 6],
     p.2.drop 1 ++ [s1 (m 14) + m 9 + s0 (m 1) + m 0])) (st, ws)
  List.zipWith (· + ·) st r.1

/-- The block length of an algorithm: 0 = SHA-256, 1 = SHA-384, 2 = SHA-512. -/
def shaBlockLen (alg : Nat) : Nat := if alg = 0 then 64 else 128

/-- The length of an algorithm's digest. -/
def shaOutLen (alg : Nat) : Nat := if alg = 0 then 32 else if alg = 1 then 48 else 64

/-- The initial hash value. -/
def shaInit (alg : Nat) : List Nat :=
  if alg = 0 then (shaH.take 8).map (· / 2 ^ 32) else if alg = 1 then shaH.drop 8 else shaH.take 8

/-- One block into the chaining state. -/
def shaBlock (alg : Nat) (st : List Nat) (block : List Byte) : List Nat :=
  if alg = 0 then
    (sha2Rounds 32 [2, 13, 22, 6, 11, 25, 7, 18, 3, 17, 19, 10] ((shaK.take 64).map (· / 2 ^ 32))
      (st.map (BitVec.ofNat 32 ·)) ((chunks 4 block).map fun b => BitVec.ofNat 32 (be b))).map (·.toNat)
  else
    (sha2Rounds 64 [28, 34, 39, 14, 18, 41, 1, 8, 7, 19, 61, 6] shaK
      (st.map (BitVec.ofNat 64 ·)) ((chunks 8 block).map fun b => BitVec.ofNat 64 (be b))).map (·.toNat)

/-- Whole blocks into the chaining state. -/
def shaBlocks (alg : Nat) (st : List Nat) (bs : List Byte) : List Nat :=
  (chunks (shaBlockLen alg) bs).foldl (shaBlock alg) st

/-- The digest that a chaining state spells. -/
def shaOut (alg : Nat) (st : List Nat) : List Byte :=
  ((st.map (toBe (shaBlockLen alg / 16))).flatten).take (shaOutLen alg)

/-- The padding of a message whose length, with what the state already holds, is given in bytes. -/
def shaPad (alg n : Nat) : List Byte :=
  let b := shaBlockLen alg
  let l := b / 8
  0x80 :: List.replicate ((2 * b - 1 - l - n % b) % b) 0 ++ toBe l (8 * n)

/-- The digest of a message. -/
def sha (alg : Nat) (msg : List Byte) : List Byte :=
  shaOut alg (shaBlocks alg (shaInit alg) (msg ++ shaPad alg msg.length))

/-- The key block of HMAC. -/
def hmacKeyBlock (alg : Nat) (key : List Byte) : List Byte :=
  fit (shaBlockLen alg) 0 (if key.length > shaBlockLen alg then sha alg key else key)

/-- The state after HMAC's inner key block (RFC 2104). -/
def hmacInner (alg : Nat) (key : List Byte) : List Nat :=
  shaBlock alg (shaInit alg) ((hmacKeyBlock alg key).map (· ^^^ 0x36))

/-- The state after HMAC's outer key block. -/
def hmacOuter (alg : Nat) (key : List Byte) : List Nat :=
  shaBlock alg (shaInit alg) ((hmacKeyBlock alg key).map (· ^^^ 0x5C))

/-- The outer hash of HMAC over an inner digest. -/
def hmacFinish (alg : Nat) (outer : List Nat) (inner : List Byte) : List Byte :=
  shaOut alg (shaBlocks alg outer (inner ++ shaPad alg (shaBlockLen alg + inner.length)))

/-- HMAC over a message. -/
def hmac (alg : Nat) (key msg : List Byte) : List Byte :=
  hmacFinish alg (hmacOuter alg key)
    (shaOut alg (shaBlocks alg (hmacInner alg key) (msg ++ shaPad alg (shaBlockLen alg + msg.length))))

/-- The counter-mode KDF of SP 800-108r1 with HMAC-SHA-384 (R51, R302): the first n bytes for a length of 8 n bits. -/
def kdf (key label context : List Byte) (n : Nat) : List Byte :=
  (((List.range (ceilDiv n 48)).map fun i =>
    hmac 1 key (toBe 4 (i + 1) ++ label ++ [0] ++ context ++ toBe 4 (8 * n))).flatten).take n

/-! ### The AES-256 CTR_DRBG with a derivation function (SP 800-90A) -/

/-- The chained encryption of the derivation function. -/
def drbgChain (key data : List Byte) : List Byte :=
  (chunks 16 data).foldl (fun c b => aesEnc key (xorBytes c b)) (List.replicate 16 0)

/-- The key of the derivation function: bytes 0 to 31. -/
def drbgDfKey : List Byte := (List.range 32).map fun i => BitVec.ofNat 8 i

/-- The derivation function: 48 bytes from any input. -/
def drbgDf (input : List Byte) : List Byte :=
  let body := padBlock (toBe 4 input.length ++ toBe 4 48 ++ input ++ [0x80])
  let temp := ((List.range 3).map fun i => drbgChain drbgDfKey (toBe 4 i ++ List.replicate 12 0 ++ body)).flatten
  let key := temp.take 32
  let x1 := aesEnc key (slice temp 32 16)
  let x2 := aesEnc key x1
  x1 ++ x2 ++ aesEnc key x2

/-- The counter block a number of steps on. -/
def drbgStep (v : List Byte) (n : Nat) : List Byte := toBe 16 ((be v + n) % 2 ^ 128)

/-- Output blocks from the counter block after the given one. -/
def drbgBlocks (key v : List Byte) (n : Nat) : List Byte :=
  ((List.range n).map fun i => aesEnc key (drbgStep v (i + 1))).flatten

/-- The update of key and counter block by 48 bytes. -/
def drbgUpdate (key v data : List Byte) : List Byte × List Byte :=
  let t := xorBytes (drbgBlocks key v 3) data
  (t.take 32, t.drop 32)

/-- ASCII text as bytes. -/
def ascii (s : String) : List Byte := s.toList.map fun c => BitVec.ofNat 8 c.toNat

/-- A direction's link key and salt (R51): 36 bytes, the AES-256 key and then the salt. -/
def linkKey (root : List Byte) (link : Nat) (peerToBlock : Bool) (blockHalf peerHalf : BitVec 64) : List Byte :=
  kdf root (ascii "IFI LINK")
    ([BitVec.ofNat 8 link, if peerToBlock then 1 else 0] ++ toLe 8 blockHalf.toNat ++ toLe 8 peerHalf.toNat) 36

/-- The device root KEK (R302). -/
def deviceKek (root : List Byte) : List Byte := kdf root (ascii "ZKB ROOT KEK") [] 32

end Sys2Proof.Machine
end

