-- ==== Sys2Proof/Machine/Map.lean ====
section
/-! DEFINITION. Finite maps as key-sorted lists: the canonical form in which State holds everything that the spec
addresses by number (queues, slices, endpoints, Cleats, counters). -/

namespace Sys2Proof.Machine

/-- A finite map from numbers, kept sorted by key with no key twice. -/
abbrev FMap (α : Type) := List (Nat × α)

namespace FMap

variable {α : Type}

/-- The entry at a key. -/
def find : FMap α → Nat → Option α
  | [], _ => none
  | (k, v) :: m, n => if k = n then some v else FMap.find m n

/-- The entry at a key, or a value for the keys not listed. -/
def getD (m : FMap α) (n : Nat) (d : α) : α := (FMap.find m n).getD d

/-- Is the key listed? -/
def has (m : FMap α) (n : Nat) : Bool := (FMap.find m n).isSome

/-- Remove a key. -/
def del : FMap α → Nat → FMap α
  | [], _ => []
  | (k, v) :: m, n => if k = n then m else (k, v) :: FMap.del m n

/-- Put a value at a key, keeping the list sorted. -/
def put : FMap α → Nat → α → FMap α
  | [], n, a => [(n, a)]
  | (k, v) :: m, n, a =>
    if n < k then (n, a) :: (k, v) :: m
    else if n = k then (n, a) :: m
    else (k, v) :: FMap.put m n a

/-- Change the value at a key, if the key is listed. -/
def modify (m : FMap α) (n : Nat) (f : α → α) : FMap α :=
  match FMap.find m n with
  | none => m
  | some v => FMap.put m n (f v)

/-- Change every value. -/
def mapV (m : FMap α) (f : Nat → α → α) : FMap α := m.map fun p => (p.1, f p.1 p.2)

/-- Keep the entries that a test accepts. -/
def keep (m : FMap α) (p : Nat → α → Bool) : FMap α := m.filter fun e => p e.1 e.2

/-- The keys rise strictly. -/
def Sorted : FMap α → Prop
  | [] => True
  | [_] => True
  | a :: b :: m => a.1 < b.1 ∧ Sorted (b :: m)

end FMap

/-- A map of counts in which an unlisted key counts zero and no zero is listed. -/
def NMap.get (m : FMap Nat) (k : Nat) : Nat := FMap.getD m k 0

/-- Set a count; a zero is not listed. -/
def NMap.set (m : FMap Nat) (k v : Nat) : FMap Nat :=
  if v = 0 then FMap.del m k else FMap.put m k v

end Sys2Proof.Machine
end

