-- ==== Sys2Proof/Machine/Types.lean ====
section
/-! DEFINITION. The data types that State is made of: decoded entries, rig sets, generations, Sheets, keys, links,
transfers, log entries and port outputs. Numbers that the spec addresses or counts by are Nat; what software reads as
a word is a bit vector. -/

namespace Sys2Proof.Machine

/-! ### Entries (R81, R98 to R100) -/

/-- The common entry header (Table 3-6). -/
structure Hdr where
  opcode : Nat
  noCqe : Bool
  fence : Bool
  sig : Bool
  tag : Nat
  cleatId : Nat
  sigCount : Nat
  sigEp : Nat
  deriving DecidableEq, Repr

/-- A space code (R98). -/
inductive Space where
  | fabric
  | staging
  | host
  deriving DecidableEq, Repr

/-- QUEUE_CREATE (Table 3-10). -/
structure QCreate where
  qid : Nat
  ring : Bool          -- TYPE 0x1
  enable : Bool        -- ACTION 0x1
  func : Nat
  log2 : Nat
  slot : Nat
  base : Nat
  cqId : Nat
  maxOut : Nat
  intAddr : Nat
  intData : Nat
  coalCount : Nat
  coalTicks : Nat
  deriving DecidableEq, Repr

/-- The allotments of SLICE_CREATE and SLICE_RESIZE. -/
structure Allot where
  lanes : Nat
  queues : Nat
  sheets : Nat
  staging : Nat
  deriving DecidableEq, Repr

/-- ATTACH_ENDPOINT (Table 3-10). -/
structure AttachF where
  ep : Nat
  slice : Nat
  belay : Nat
  quiesce : Bool
  detach : Bool
  winBase : Nat
  winLen : Nat
  forkBase : Nat
  forkSegs : Nat
  deriving DecidableEq, Repr

/-- COPY (Table 3-11). -/
structure CopyF where
  src : Nat
  dst : Nat
  len : Nat
  srcSpace : Space
  dstSpace : Space
  deriving DecidableEq, Repr

/-- FILL (Table 3-11). -/
structure FillF where
  dst : Nat
  len : Nat
  dstSpace : Space
  pattern : Nat
  deriving DecidableEq, Repr

/-- GEN_OPEN (Table 3-11). -/
structure GenOpenF where
  job : Nat
  fullImage : Bool
  tiers : Nat
  lookahead : Nat
  regions : Nat
  regionList : Nat
  manifest : Nat
  manifestMax : Nat
  deriving DecidableEq, Repr

/-- STAMP (Table 3-11). -/
structure StampF where
  job : Nat
  draws : Nat
  samples : Nat
  perSample : Nat
  blobLen : Nat
  ep : Nat
  blob : Nat
  epoch : Nat
  deriving DecidableEq, Repr

/-- PROTECT (Table 3-11). -/
structure ProtectF where
  job : Nat
  epoch : Nat
  tiers : Nat
  k : Nat
  m : Nat
  groupList : Nat
  deriving DecidableEq, Repr

/-- DRAIN (Table 3-11). -/
structure DrainF where
  job : Nat
  epoch : Nat
  target : Nat
  priority : Nat
  raw : Bool           -- FLAGS[0]: do not Reef-code
  keySlot : Nat
  deriving DecidableEq, Repr

/-- RESTORE (Table 3-11). -/
structure RestoreF where
  job : Nat
  epoch : Nat
  tier : Nat
  rerig : Bool
  targetMap : Nat
  mapLen : Nat
  keySlot : Nat
  deriving DecidableEq, Repr

/-- SHEET_ARM (Table 3-11). -/
structure ArmF where
  sheet : Nat
  elem : Nat
  dims : Nat
  slots : Nat
  outType : Nat
  persistent : Bool
  merge : Bool
  base : Nat
  ring : Nat
  slotSize : Nat
  period : Nat
  dimBlock : Nat
  frameBytes : Nat
  deriving DecidableEq, Repr

/-- DIGEST (Table 3-11). ALG 0 to 2 = SHA-256, SHA-384, SHA-512; hmac set for ALG 4 to 6. -/
structure DigestF where
  ctx : Nat
  alg : Nat
  hmac : Bool
  op : Nat
  hmacSlot : Nat
  src : Nat
  len : Nat
  out : Nat
  deriving DecidableEq, Repr

/-- The decoded operation of an entry (Table 3-9). -/
inductive Op where
  | queueCreate (f : QCreate)
  | queueDestroy (qid : Nat) (ring disable : Bool)
  | sliceCreate (slice pasid : Nat) (a : Allot)
  | sliceResize (slice : Nat) (a : Allot)
  | sliceReset (slice : Nat) (squash : Bool) (timeout : Nat)
  | sliceFreeze (slice : Nat)
  | sliceSave (slice dest len keySlot : Nat)
  | sliceLoad (slice pasid src len keySlot : Nat)
  | rigStage (src len gen : Nat)
  | rigCommit (gen : Nat)
  | rigRollback (gen : Nat)
  | attach (f : AttachF)
  | keyLoad (slot typ blob len : Nat)
  | fwStage (image src len : Nat)
  | fwActivate (image : Nat) (now : Bool)
  | copy (f : CopyF)
  | fill (f : FillF)
  | genOpen (f : GenOpenF)
  | cut (job step : Nat)
  | stamp (f : StampF)
  | protect (f : ProtectF)
  | drain (f : DrainF)
  | restore (f : RestoreF)
  | restoreSpare (job lost spare : Nat)
  | sheetArm (f : ArmF)
  | sheetRearm (sheet base dimBlock : Nat)
  | sheetStop (sheet : Nat) (atOnce : Bool)
  | cleatSignal (cleat count ep : Nat)
  | cleatWait (cleat threshold timeout : Nat)
  | digest (f : DigestF)
  | kuBlock (slot : Nat) (decrypt : Bool) (data : List Byte) (out : Nat)
  | snapLatch
  deriving DecidableEq, Repr

/-- A condition that an entry met: a status and its INFO (R86). -/
structure Cond where
  status : Nat
  info : Nat
  deriving DecidableEq, Repr

/-- How far an accepted entry has come. -/
inductive Phase where
  | accepted   -- taken into execution, not yet acted on
  | running    -- its work is under way
  | waiting    -- it waits for an event that its rules name
  | queued     -- a RESTORE or RESTORE_SPARE behind another of its job (R170)
  deriving DecidableEq, Repr

/-- An entry that is accepted and not completed (R78, R80). -/
structure Acc where
  id : Nat
  sq : Nat
  idx : Nat
  fn : Nat
  hdr : Hdr
  op : Op
  conds : List Cond := []
  seen : Nat := 0          -- how many of them it had met before this step (R463)
  phase : Phase := .accepted
  tick : Nat := 0          -- AO tick of acceptance (R286, R352)
  count : Nat := 0         -- what its OK INFO counts
  recv : Nat := 0          -- bytes received from sources that mark their end (R97)
  poisoned : Nat := 0      -- poison-marked bytes delivered (R461)
  hostLost : Nat := 0      -- bytes that HOST_ERROR affected (R59)
  sigSent : Bool := false  -- the header signal was sent or applied (R82, R282)
  sigWait : Bool := false  -- its CLEAT SIGNAL packet waits for a port (R465)
  after : Option Nat := none   -- the entry whose completion must be written before its own (R274)
  fin : Option Nat := none -- ended, with the INFO of an OK completion; its signal and completion follow
  step : Nat := 0          -- the step of a sequence of its own (SLICE_RESET, FW_ACTIVATE)
  note : List Byte := []   -- bytes it gathers (a key blob, a digest block)
  deriving DecidableEq, Repr

/-- A completion (Table 3-7). PHASE is set when it is written. -/
structure Completion where
  entry : Nat              -- the block's number of the entry, which Table 3-7 does not hold
  tag : Nat
  status : Nat
  sqId : Nat
  more : Bool
  info : Nat
  deriving DecidableEq, Repr

/-! ### Rings (R73 to R90) -/

/-- The states of a submission queue (Table 3-8). -/
inductive SqState where
  | absent
  | running
  | disabled
  | halted
  | destroying
  deriving DecidableEq, Repr

/-- A submission queue. -/
structure Sq where
  state : SqState
  fn : Nat
  slot : Nat
  log2 : Nat
  base : Nat
  head : Nat := 0
  tail : Nat := 0          -- the new tail, or the recorded one (R77)
  cq : Nat
  maxOut : Nat
  cache : List HostRead := []   -- entries fetched and not accepted, from the head on (R78)
  deriving DecidableEq, Repr

/-- The states of a completion ring (Table 3-5). -/
inductive CqState where
  | absent
  | running
  | halted
  deriving DecidableEq, Repr

/-- A completion ring. -/
structure Cq where
  state : CqState
  fn : Nat
  slot : Nat
  log2 : Nat
  base : Nat
  head : Nat := 0
  tail : Nat := 0
  phase : Bool := true
  intAddr : Nat
  intData : Nat
  coalCount : Nat
  coalTicks : Nat
  unsig : Nat := 0              -- unsignalled completions (R85)
  firstUnsig : Option Nat := none   -- tick of the first of them
  held : List Completion := []  -- completions held while the ring is full (R84)
  deriving DecidableEq, Repr

/-! ### Functions (R337 to R362) -/

/-- The states of a function (Table 12-3). -/
inductive FnState where
  | active
  | halted
  | orphaned
  | frozen
  deriving DecidableEq, Repr

/-- ORPHAN_REPORT (Table 12-5), but for ACTIVE, which is computed. -/
structure Orphan where
  orphaned : Bool := false
  life : Nat := 0
  boot : Nat := 0
  done : Nat := 0
  errors : Nat := 0
  gensProtected : Nat := 0
  gensDrained : Nat := 0
  sheetsStopped : Nat := 0
  waitsTimedOut : Nat := 0
  lastEpoch : Nat := 0
  deriving DecidableEq, Repr

/-- A function that exists. -/
structure Fn where
  state : FnState
  pasid : Nat
  lanes : Nat := 0
  queues : Nat := 0
  sheets : Nat := 0
  quotaBase : Nat := 0
  quotaLen : Nat := 0
  resize : Option Allot := none      -- a pending SLICE_RESIZE (R345)
  newBase : Nat := 0                 -- the run that a pending resize from a zero quota reserved
  cutSeen : Bool := false            -- a cut point of the slice since a pending resize was accepted
  haltCause : Nat := 0
  haltIndex : Nat := 0
  haltQid : Nat := 0
  beat : Nat := 0                    -- AO tick at which the heartbeat interval started
  missed : Bool := false             -- missed while an admin entry names it (R348)
  freezing : Bool := false           -- SLICE_FREEZE runs: no entry accepted (R355)
  resetting : Bool := false          -- SLICE_RESET runs: signals due are discarded (R290)
  bucket : Int := 0                  -- the tokens of FN_RATE (R265)
  orphan : Orphan := {}
  deriving DecidableEq, Repr

/-- An attached endpoint (R344). -/
structure Ep where
  fn : Nat
  belay : Nat
  quiesce : Bool
  winBase : Nat
  winLen : Nat
  forkBase : Nat
  forkSegs : Nat
  owesResume : Option Nat := none    -- epoch whose RESUME_DONE is owed (R134)
  quiesced : Option Nat := none      -- epoch for which it has quiesced (R132, R201)
  belayPorts : FMap Nat := []        -- by epoch, the port of its BELAY packets (R112)
  deriving DecidableEq, Repr

/-! ### Rig sets (R378 to R385) -/

/-- A cadence row (Table 4-9). -/
structure CadRow where
  stepN : List Nat
  timeS : List Nat
  pin : Nat
  cutTimeout : Nat
  wastePct : Nat
  deriving DecidableEq, Repr

/-- The cadence row of the reset set (R378). -/
def CadRow.reset : CadRow := ⟨[0, 0, 0, 0], [0, 0, 0, 0], 0, 33, 100⟩

/-- A slice-partition entry (Table 12-1). -/
structure PartEnt where
  queuesMax : Nat := 0
  lanesMax : Nat := 0
  sheetsMax : Nat := 0
  stagingMax : Nat := 0
  cleatBase : Nat := 0
  cleatCount : Nat := 0
  keyBase : Nat := 0
  keyCount : Nat := 0
  hmacBase : Nat := 0
  hmacCount : Nat := 0
  fnRate : Nat := 0
  fnBurst : Nat := 0
  deriving DecidableEq, Repr

/-- A Telltale source (Table 14-4). -/
structure TtSrc where
  kind : Nat
  staleFull : Bool
  weight : Nat
  select : Nat
  limit : Nat
  base : Int
  deriving DecidableEq, Repr

/-- The Telltale section (Table 14-3); unused sources are not listed. -/
structure TtSec where
  decay : Nat := 0
  t1 : Nat := 0
  t2 : Nat := 0
  t3 : Nat := 0
  hyst : Nat := 0
  srcs : FMap TtSrc := []
  deriving DecidableEq, Repr

/-- The spare policy (Table 15-4), with its defaults. -/
structure SparePolicy where
  strikes : Nat := 1
  window : Nat := 3600
  degradedFault : Bool := true
  idleDelay : Nat := 33
  deriving DecidableEq, Repr

/-- The precedence section (Table 15-9), with its defaults. -/
structure Precedence where
  timer : List Nat := [1, 2, 4, 3]
  unfurl : Nat := 2
  sheetShare : Nat := 8
  gcm : List Nat := [1, 2, 3]
  deriving DecidableEq, Repr

/-- A rig set. The defaults are the reset set, generation 0 (R378). A weight of 16, a reset cadence row and a zero
partition entry are not listed. -/
structure RigSet where
  gen : Nat := 0
  weights : FMap Nat := []
  tt : TtSec := {}
  cad : FMap CadRow := []
  part : FMap PartEnt := []
  ckptFloor : Nat := 16
  sheetFloor : Nat := 1
  sb : List Nat := [0, 0, 0, 0]
  spare : SparePolicy := {}
  prec : Precedence := {}
  deriving DecidableEq, Repr

/-- The rig sets that the block holds (R378). -/
structure Rigs where
  cur : RigSet := {}
  prev : Option RigSet := none
  staged : Option RigSet := none
  deriving DecidableEq, Repr

/-! ### Generations (R101 to R180) -/

/-- The states of a generation (Table 5-1). -/
inductive GenState where
  | opened
  | cut
  | stayed
  | parity
  | drained
  | committed
  | abandoned
  | released
  deriving DecidableEq, Repr

/-- A captured region (Table 4-2, Table 6-4). -/
structure Region where
  base : Nat
  len : Nat
  tensor : Nat
  kind : Nat
  noPrecopy : Bool
  sealed : Bool
  deriving DecidableEq, Repr

/-- The states of a captured segment (Table 4-7). -/
inductive SegState where
  | idle
  | provisional
  | invalid
  | guarded
  | rush
  | forked
  | copying
  | copied
  deriving DecidableEq, Repr

/-- One captured segment. -/
structure Seg where
  region : Nat                 -- index in the region list
  n : Nat                      -- segment of the region (R24)
  state : SegState := .idle
  guardSent : Bool := false    -- a bitmap of the cut under way sets G on it (Table 4-5)
  watch : Bool := false        -- the watch is armed
  hit : Bool := false          -- hit this step
  stable : Nat := 0
  hasRead : Bool := false      -- its tier-1 read has reached Yard SRAM
  wrote : Bool := false        -- its buddy write is acknowledged
  spare : Nat := 0             -- address of its fork spare
  poisoned : Bool := false     -- its read returned poison (R129)
  taken : List PByte := []     -- what the read took, for R192, until the tier-1 record
  deriving DecidableEq, Repr

/-- A group-list member entry (Table 5-3), with the buddy's window base of Table 6-3. -/
structure Member where
  ep : Nat
  buddy : Nat
  winOffset : Nat
  slotSegs : Nat
  winBase : Nat
  deriving DecidableEq, Repr

/-- A group list (Table 5-2). -/
structure Groups where
  slots : Nat
  members : List Member
  parityBase : Nat
  k : Nat
  m : Nat
  deriving DecidableEq, Repr

/-- A cursor stamp (R141, R142). -/
structure Stamp where
  ep : Nat
  draws : Nat
  samples : Nat
  perSample : Nat
  blob : List Byte
  deriving DecidableEq, Repr

/-- A tensor record (Table 6-6). -/
structure Tensor where
  firstPiece : Nat
  pieces : Nat
  typ : Nat
  rank : Nat
  shape : List Nat
  label : Nat
  deriving DecidableEq, Repr

/-- A piece record (Table 6-7). -/
structure Piece where
  tensor : Nat
  region : Nat
  offset : Nat
  origin : List Nat
  extent : List Nat
  deriving DecidableEq, Repr

/-- The step of a cut under way (Table 4-5, Table 4-8). -/
inductive CutStage where
  | arm        -- state-set step 3, or full-image step 7
  | quiesce    -- full-image step 3
  | mapping    -- full-image step 5
  deriving DecidableEq, Repr

/-- A cut under way. -/
structure Cutting where
  entry : Nat
  step : Nat
  stage : CutStage
  await : List Nat             -- endpoints whose answer is awaited
  mapped : List Nat := []      -- endpoints whose map has come
  mapRx : FMap (Nat × List PByte) := []   -- by endpoint, the entry count and the bytes of a map that is coming (R196)
  since : Nat                  -- AO tick at which the awaited step started
  point : Nat := 0             -- life clock at the cut point (R136)
  deriving DecidableEq, Repr

/-- A range that an export map names; `filled` where its entry lies in the zero-filled, poison-marked remainder of a short map (R97). -/
structure MapEnt where
  base : Nat
  len : Nat
  filled : Bool
  deriving DecidableEq, Repr

/-- A tier-3 copy: where it lies and the key that sealed it (Table 5-4). -/
structure Tier3 where
  target : Nat
  keySlot : Nat
  keyId : Nat
  wrapKeyId : Nat
  manLen : Nat
  records : Nat                -- N of R165
  deriving DecidableEq, Repr

/-- A generation. -/
structure Gen where
  job : Nat
  epoch : Nat
  fn : Nat
  pasid : Nat := 0             -- PASID of the owning slice, which the directory entry names (R178)
  fullImage : Bool
  tiers : Nat
  lookahead : Nat
  state : GenState := .opened
  regions : List Region
  pauseSig : Bool
  pauseCleat : Nat
  pauseEp : Nat
  manAddr : Nat                -- MANIFEST buffer
  manMax : Nat
  manKnown : Bool := true      -- false after recognition: the buffer is not updated (R181)
  poisonTotal : Nat := 0       -- POISONED of a recognised generation's entry (Table 5-4)
  neverCommits : Bool := false -- the write of its generation record failed (R161)
  digests : Bool
  tensors : List Tensor
  pieces : List Piece
  groups : Option Groups := none
  slot : Nat := 0
  step : Nat := 0
  segs : List Seg
  records : Nat := 0           -- RECORDS of Table 5-4
  writing : Option Nat := none -- the record bit being written
  poisonList : List (Nat × Nat) := []   -- member, shard segment (R193)
  poisonOvf : List Nat := []
  stayLost : List Nat := []    -- member indices
  t2Lost : List Nat := []      -- groups
  stamps : List Stamp := []
  shas : List (Nat × List Byte) := []   -- member, SHA-384 (R192)
  drainBy : Option Nat := none -- the DRAIN entry at work
  t3Draft : Option Tier3 := none        -- the drain under way
  t3 : Option Tier3 := none    -- the recorded tier-3 copy
  raised : Bool := false       -- its drain priority is raised by a notice (R138)
  prio : Nat := 0
  cutting : Option Cutting := none
  provTaken : Nat := 0         -- provisional copies taken (R119)
  provInvalid : Nat := 0
  provPoison : List Nat := []  -- segments whose valid provisional copy is poisoned, in the order found (R193, log 66)
  provBytes : Nat := 0         -- bytes of the provisional copies taken, and of the invalidated ones
  invalBytes : Nat := 0
  batches : List (Nat × Bool × List Nat) := []   -- GUARD_ARM batches not yet answered: endpoint, WATCH, segments; one of a cut that failed sets nothing
  rushQ : List Nat := []       -- rush copies in order of hit receipt (R124)
  heldHits : List (Nat × Bool) := []    -- hits that wait for the cut point, in order of receipt: segment, fork (R128)
  maps : List (Nat × List MapEnt) := []          -- export maps that have come, by endpoint
  ranges : List Region := []   -- full image: the region list as given, while `regions` holds the mapped ranges
  parityDone : List (Nat × Nat) := []   -- group, stripe: parity acknowledged
  dirIdx : Nat := 0
  dirSeq : Nat := 0
  manUnit : Nat := 0xFFFFFFFF
  manLen : Nat := 0
  shardShare : List (Nat × Nat) := []   -- full image: member endpoint, shard segments
  armedEps : List Nat := []    -- endpoints that hold guards of the epoch
  released : List Nat := []    -- PAUSE endpoints already released (R122)
  subs : List (Nat × Nat) := []         -- endpoint of the region list, endpoint that stands in for it (R172)
  deriving DecidableEq, Repr

/-- A job that holds generations (R107, R136, R407). -/
structure Job where
  fn : Nat
  idx : Option Nat
  lastStep : Option Nat := none
  base : Option (Nat × Nat) := none    -- S_b and T_b in AO ticks of life (R136)
  interval : Bool := false
  notice : Bool := false
  noticeLate : List Nat := []          -- the CUT entries that were accepted and not complete when a notice came (R140)
  level : Nat := 0                     -- the Telltale level of its latest step mark (R137)
  cad : CadRow := CadRow.reset         -- the cadence row of its latest step mark (R384)
  restored : List Nat := []            -- waiting or running restores, in order (R170)
  deriving DecidableEq, Repr

/-- A fork-pool spare in use (R126). -/
structure Fork where
  ep : Nat
  epoch : Nat
  spare : Nat
  seg : Nat
  deriving DecidableEq, Repr

/-- What the block knows of a valid copy of a generation directory entry (Table 5-4): SEQ and FREE. -/
structure DirCopy where
  seq : BitVec 32
  isFree : Bool
  deriving DecidableEq, Repr

/-- A directory entry: two copies, each valid or not (R160). -/
structure DirEnt where
  a : Option DirCopy
  b : Option DirCopy
  deriving DecidableEq, Repr

/-- A change of a directory entry that waits, or is being written (R161). -/
structure DirChange where
  idx : Nat
  epoch : Nat
  code : Nat                   -- the RECORDS bit; 14 sets the entry FREE, 15 sets no bit
  going : Bool := false
  deriving DecidableEq, Repr

/-- What a run of block writes puts into staging. -/
inductive FillKind where
  | zero                       -- zero data (R331, R334)
  | freeEntry (seq : BitVec 32) -- copies of a FREE directory entry (R178, R180)
  deriving DecidableEq, Repr

/-- A run of staging that the block writes of its own accord, granule by granule (R180, R331, R334). -/
structure Scrub where
  entry : Nat                  -- the entry that waits for it, 0 for none
  base : Nat
  len : Nat
  next : Nat := 0              -- bytes whose writes have been issued
  fill : FillKind := .zero
  fn : Option Nat := none      -- the slice whose transfers on the run it waits for (R334, R336)
  deriving DecidableEq, Repr

/-! ### Restores (R170 to R217) -/

/-- A gather of a re-rig plan (R208, R209). -/
structure Gather where
  member : Nat
  srcOff : Nat
  dst : Nat
  scaleDst : Nat
  counts : List Nat
  srcStrides : List Nat
  dstStrides : List Nat
  inType : Nat
  outType : Nat
  deriving DecidableEq, Repr

/-- A copy entry of a target map (Table 6-13). -/
structure CopyEnt where
  region : Nat
  dst : Nat
  deriving DecidableEq, Repr

/-- A target piece (Table 6-12). -/
structure TPiece where
  tensor : Nat
  outType : Nat
  dst : Nat
  scaleDst : Nat
  origin : List Nat
  extent : List Nat
  deriving DecidableEq, Repr

/-- A target map (Table 6-11). -/
structure TMap where
  job : Nat
  epoch : Nat
  pieces : List TPiece
  copies : List CopyEnt
  deriving DecidableEq, Repr

/-- A restore under way. -/
structure Restoring where
  entry : Nat
  job : Nat
  epoch : Nat                  -- the chosen generation
  src : List Nat               -- source tier by member index
  tier : Nat                   -- TIER of the RESTORE, 0 for RESTORE_SPARE
  only : Nat                   -- EPOCH of the RESTORE, 0 for any
  keySlot : Option Nat         -- the RESTORE's KEY_SLOT
  plan : Option (List Gather × List CopyEnt)
  lost : Nat                   -- LOST_EP, 0 for RESTORE
  spare : Nat
  ref : Nat                    -- the reference generation of Table 5-8
  t3Checked : Bool := false    -- the commit record of the drained copy was checked (R292)
  t3Bad : List Nat := []       -- epochs whose drained copy failed
  quiesceAwait : List Nat := []
  quiesced : List Nat := []
  since : Nat := 0
  wrote : Bool := false
  poisonSegs : List (Nat × Nat) := []
  doneMembers : List Nat := [] -- members counted as done (R176 item 4)
  stops : List Nat := []       -- endpoints that are written no more
  resumed : List Nat := []     -- endpoints that were sent RESUME with RELOAD
  before : List Nat := []      -- endpoints that quiesced for an earlier choice (R176, R201)
  ending : Bool := false       -- all is written, and the substitutions of R172 are being recorded
  lostWrite : Bool := false
  shortfall : Nat := 0         -- lane cycles of waiting for an Unfurl unit that serves Sheets (R214)
  deriving DecidableEq, Repr

/-! ### Sheets (R229, R244 to R275) -/

/-- A packed-tensor header (Table 7-5). -/
structure PackHdr where
  factored : Bool
  reef : Bool
  gcm : Bool
  typ : Nat
  rank : Nat
  rows : Nat
  cols : Nat
  keyId : Nat
  dataOff : Nat
  dataSegs : Nat
  scaleOff : Nat
  scaleSegs : Nat
  label : Nat
  deriving DecidableEq, Repr

/-- A dimension block (Table 8-2). -/
structure DimBlk where
  space : Space
  packed : Bool
  inType : Nat
  outstanding : Nat
  fillCleat : Nat
  fillEp : Nat
  releaseCleat : Nat
  affinity : Nat
  srcGen : Nat
  keySlot : Nat
  rate : Nat
  burst : Nat
  adapter : Nat
  scaleRing : Nat
  start : Nat
  counts : List Nat
  strides : List Nat
  deriving DecidableEq, Repr

/-- What one arming of a Sheet reads. -/
structure ArmSrc where
  base : Nat
  dim : DimBlk
  hdr : Option PackHdr
  ad : Option PackHdr
  deriving DecidableEq, Repr

/-- A place that a transfer reads or writes. -/
inductive Loc where
  | fabric (addr : Nat)            -- fabric address, [63:52] the endpoint
  | staging (off : Nat)            -- absolute staging offset
  | host (pasid addr : Nat)
  deriving DecidableEq, Repr

/-- One contiguous piece of a transfer. -/
structure Part where
  loc : Loc
  len : Nat
  chunks : FMap (List PByte) := []  -- what has come, or what is to be written, by offset
  failed : Bool := false
  dirty : Bool := false            -- a read returned poison-marked bytes of it (R268)
  flips : List (Nat × Byte) := []  -- ECC test: the words with flipped check bytes, by offset (R325, R335)
  deriving DecidableEq, Repr

/-- A Sheet out of IDLE (Table 8-1). -/
structure Sheet where
  fn : Nat
  entry : Nat
  stopping : Bool := false
  atOnce : Bool := false
  stopAfter : Option Nat := none   -- SHEET_STOP 0x0: the last slot it finishes
  stopEntry : Option Nat := none   -- the SHEET_STOP that waits for IDLE
  elem : Nat
  slots : Nat
  outType : Nat
  persistent : Bool
  merge : Bool
  ring : Nat
  slotSize : Nat
  period : Nat
  frameBytes : Nat
  sigStop : Option Nat := none     -- no slot from this one on is signalled (R274, R275)
  tails : List (Nat × Part) := []  -- the last WR of each slot, sent when the rest of the slot has been (R255)
  cur : ArmSrc
  pend : Option ArmSrc := none
  w : Nat := 0
  l : Nat := 0
  w0 : Nat := 0
  yard : Nat
  next : Nat := 0                  -- next work unit of the arming
  sent : List Nat := []            -- units of the arming whose writes have been sent
  written : List Nat := []         -- units of the arming whose writes are acknowledged
  ports : FMap Nat := []           -- the port of each slot under way (R255)
  fresh : Bool := false            -- an arming has ended and the next has started no unit (R273)
  bucket : Int := 0
  tS : Nat := 0                    -- cycle of the latest release (R264)
  conds : List Cond := []
  poisoned : Nat := 0
  failed : Bool := false           -- a slot write failed (R275)
  deriving DecidableEq, Repr

/-- A line of a Tackle cache (R267). -/
structure Line where
  mast : Nat
  space : Space
  pasid : Nat
  addr : Nat
  gen : Nat
  used : Nat                       -- recency
  data : List Byte
  flip : Option Byte := none       -- ECC test: mask of a flipped check byte (R335)
  deriving DecidableEq, Repr

/-! ### Keys and digests (R296 to R314) -/

/-- A loaded key or HMAC slot (R300). -/
structure KeySlot where
  key : List Byte
  typ : Nat
  keyId : Nat
  ku : Bool
  migExport : Bool
  hmacAlg : Nat
  wrapKeyId : Nat
  salt : Nat := 0
  counter : Nat := 0
  inner : List Nat := []
  outer : List Nat := []
  deriving DecidableEq, Repr

/-- The states of a digest context (Table 10-4); FREE contexts are not listed. -/
structure DigestCtx where
  fn : Nat
  finished : Bool
  alg : Nat
  hmac : Bool
  hmacSlot : Nat
  initState : List Nat
  outer : List Nat
  chain : List Nat
  half : List Byte
  count : Nat
  deriving DecidableEq, Repr

/-- A request that waits for the Key Unit or is in it (R306). -/
structure KuReq where
  entry : Nat
  fn : Nat
  wrapper : List Byte -- the key it runs under
  deriving DecidableEq, Repr

/-- The working state of the CTR_DRBG (R308; SP 800-90A): key, counter block, and requests since the last seed. -/
structure Drbg where
  key : List Byte
  v : List Byte
  count : Nat
  deriving DecidableEq, Repr

/-- The test access port (R72): its instruction register, which TRST_N and the reset state set to IDCODE. -/
structure Tap where
  idcode : Bool := true
  dr : List Bool := []             -- the register between TDI and TDO, the bit next to TDO first
  deriving DecidableEq, Repr

/-- The key stores and the Key Unit. -/
structure Keys where
  store : FMap KeySlot := []
  hmac : FMap KeySlot := []
  queue : List KuReq := []
  drbg : Option Drbg := none       -- none until the first draw seeds it
  drbgStopped : Bool := false
  ctxs : FMap DigestCtx := []
  deriving DecidableEq, Repr

/-! ### Ports (R40 to R60) -/

/-- The states of a fabric link (Table 2-5). -/
inductive LinkState where
  | down
  | hello
  | up
  | roll
  | stopped
  deriving DecidableEq, Repr

/-- A fabric link. -/
structure Link where
  state : LinkState := .down
  linkUp : Bool := false
  retrain : Bool := false
  blockHalf : Word64 := 0
  peerHalf : Word64 := 0
  newHalf : Option Word64 := none
  rollSent : Bool := false
  helloSent : Bool := false        -- LINK_HELLO sent since HELLO was entered (R54)
  helloGot : Bool := false         -- LINK_HELLO received since then
  txKey : List Byte := []          -- the running session's key and salt, block to peer: 36 bytes (R51)
  rxKey : List Byte := []          -- and peer to block
  tx : Nat := 0
  rx : Nat := 0
  offered : Nat := 0               -- flits offered at the port and not taken yet (R41)
  deriving DecidableEq, Repr

/-- An IFI packet header (Table 2-3). -/
structure Pkt where
  cls : Nat
  op : Nat
  src : Nat
  dst : Nat
  len : Nat := 0
  addr : Nat := 0
  tag : Nat := 0
  err : Bool := false
  ackReq : Bool := false
  last : Bool := false
  slice : Nat := 0
  sig : Bool := false
  sigCount : Nat := 0
  cleat : Nat := 0
  arg32 : Nat := 0
  argA : Nat := 0
  argB : Nat := 0
  deriving DecidableEq, Repr

/-- How a restored range is had from its source. -/
structure RestHow where
  tier : Nat
  off : Nat                        -- first byte wanted within the segment
  len : Nat
  recIdx : Nat := 0                -- record index of a tier-3 read
  target : Nat := 0                -- index rebuilt within the group
  have_ : List Nat := []           -- indices of the K sources of a rebuild
  m : Nat := 0
  inType : Nat := 0x18
  outType : Nat := 0x18
  shardSeg : Nat := 0
  poison : Bool := false           -- listed as poisoned (R193)
  bad : Bool := false              -- its bytes came out poison-marked (R204)
  deriving DecidableEq, Repr

/-- What a transfer is for. -/
inductive Work where
  | copy (e : Nat)
  | fill (e : Nat)
  | stamp (e : Nat)
  | digest (e : Nat)
  | resultOut (e : Nat)                          -- a result that an entry writes to host memory
  | tier1 (job epoch seg : Nat)
  | stripe (job epoch group j : Nat)
  | dirMan (idx epoch code : Nat)                -- a piece of the manifest that a directory change updates (R147, R161)
  | dirWrite (idx epoch code : Nat)              -- the directory copy of the change
  | manBuf (job epoch : Nat)
  | drainSeg (e n member seg : Nat) (how : RestHow)
  | drainMan (e : Nat)
  | drainRec (e : Nat)
  | t3Check (e : Nat)
  | rest (e member : Nat) (hows : List RestHow)
  | sheet (n unit : Nat)
  | tail (n slot : Nat)                          -- the last WR of a slot, with its fill signal (R255)
  deriving DecidableEq, Repr

/-- The phases of a transfer through its Yard buffer. -/
inductive XPhase where
  | queued
  | reading
  | loaded
  | writing
  deriving DecidableEq, Repr

/-- Where a transfer stands in the stages of its Yard's shared engines (Table 1-8, R239, R293, R438). -/
inductive Stage where
  | idle
  | pipeWait (objs : List (Nat × Nat))   -- sealed objects that wait for a GCM pipe: which, and its bytes
  | pipe (done : Nat) (objs : List (Nat × Nat))  -- a pipe works on the first of them, up to a lane cycle
  | unitWait                             -- ready for the Unfurl unit
  | unit (done : Nat)                    -- in the Unfurl unit, up to a lane cycle
  | over
  deriving DecidableEq, Repr

/-- The context of a GCM seal in a pipe, or saved in its context store (R293): the running GHASH accumulator, the counter block
and the lengths, with the key and header of the object and the ciphertext so far. -/
structure GcmCtx where
  key : List Byte
  head : List Byte
  iv : List Byte
  ghash : BitVec 128
  block : Nat
  done : Nat
  out : List Byte
  deriving DecidableEq, Repr

/-- The arbitration of a Yard's shared resources (R376, R377, R440). -/
structure Arb where
  rounds : FMap Nat := []          -- by queue, the lane dispatches in the round
  weights : FMap Nat := []         -- the weights of that round, which a commit does not change (R384)
  unitAll : Nat := 0               -- dispatches of the Unfurl unit in the window of 16 while both claimants waited
  unitSheets : Nat := 0            -- of them, Sheet work units
  behind : FMap Nat := []          -- by claimant, consecutive dispatches of higher precedence that it has waited behind
  deriving DecidableEq, Repr

/-- A transfer: what one or more lane transfers move into and out of one Yard's SRAM. -/
structure Xfer where
  id : Nat
  fn : Nat
  work : Work
  srcs : List Part
  dsts : List Part
  phase : XPhase := .queued
  yard : Nat := 0
  lane : Nat := 0
  port : Nat := 0
  ports : FMap Nat := []           -- a Sheet's unit: the ports of its reads, by endpoint or segment, then of its writes, by slot (R46, R255, R450)
  again : Bool := false            -- the re-read of R268 is under way
  rereads : List Nat := []         -- source parts that have been read again
  stage : Stage := .idle
  keys : FMap KeySlot := []        -- by sealed object, the content of its key slot when a pipe took it (R304)
  slots : List Nat := []           -- a Sheet's unit: the slot that each part to be written belongs to
  replayed : Bool := false         -- started again after a lane fault or a takeover (R276)
  parked : Bool := false           -- a Sheet's unit that waits for a lane to be replayed on (R421, R423)
  hits : List Nat := []            -- source parts that the Tackle cache served
  stale : List Nat := []           -- source parts that a write met while they were being read, which no cache keeps (R21)
  sigLast : Option (Nat × Nat) := none   -- Cleat and count that ride on the last WR
  deriving DecidableEq, Repr

/-- An outstanding fabric request (R45, R49). -/
structure FabReq where
  port : Nat
  tag : Nat
  xfer : Nat
  part : Nat
  off : Nat
  len : Nat
  write : Bool
  ep : Nat
  got : Nat := 0
  since : Nat
  limit : Nat                      -- the timeout in force when it was issued (R449)
  num : Nat                        -- the number it was issued under, whose low 32 bits are the tag
  deriving DecidableEq, Repr

/-- An outstanding staging request (R57). -/
structure StgReq where
  port : Nat
  tag : Nat
  xfer : Nat
  part : Nat
  off : Nat                        -- offset of the granule within the part's span of granules
  unitAddr : Nat                   -- stack offset in 64 B units
  write : Bool
  rmw : Bool := false              -- the read half of a read-modify-write (R324)
  old : Bool := false              -- its transfer waits for it no more (R57, R421)
  deriving DecidableEq, Repr

/-- What an outstanding host master request is for (R59). -/
inductive HostUse where
  | data (xfer part off len : Nat) (write : Bool)
  | completion (ring index : Nat)
  | interrupt (ring : Nat)
  deriving DecidableEq, Repr

/-- An outstanding host master request. -/
structure HostReq where
  id : Nat
  use : HostUse
  deriving DecidableEq, Repr

/-- What the block has driven at its ports. -/
inductive Out where
  | packet (port : Nat) (flits : List Flit)             -- a packet, as the flits of the port's transmit channel
  | staging (port tag unitAddr : Nat) (write : Bool) (data check : List Byte)
  | hostRead (id pasid addr len : Nat)                -- number 0: a read whose answer is a command's operand
  | hostWrite (id pasid addr : Nat) (bytes : List Byte)
  | ctlRead (offset : Nat) (value : Word)
  | ctlError (offset size : Nat)
  | sideband (bus addr : Nat) (command : Nat)           -- a PMBus command on the sensor port
  deriving DecidableEq, Repr

/-! ### Yards, Masts, processors (R16 to R23, R420 to R430) -/

/-- A Yard whose registers differ from a whole, gated Yard (Table 16-16). -/
structure Yard where
  gated : Bool := true
  fenced : List Nat := []
  standA : Option Nat := none
  standB : Option Nat := none
  degraded : Bool := false
  strikes : List (Nat × Nat) := [] -- lane, life-clock second
  deriving DecidableEq, Repr

/-- A failing active lane that the spare self-test lets end its transfer before it is fenced (R426): its physical lane block index and
the failed check. -/
structure Trial where
  lane : Nat
  check : Nat
  under : Option (Nat × Nat) := none   -- the spare that serves its number meanwhile, as a physical lane, and the number
  deriving DecidableEq, Repr

/-- A Yard BIST run that has not ended (R427). -/
structure BistRun where
  yard : Nat
  due : Nat
  fails : List BistFail
  late : Bool := false             -- logged as MAINT_LATE
  deriving DecidableEq, Repr

/-- The latent-fault tests under way. -/
structure Tests where
  trials : List Trial := []        -- in order; the first of each Yard is under test
  bist : Option BistRun := none
  deriving DecidableEq, Repr

/-! ### Masthead (R387 to R404) -/

/-- A sensor (R390, R391). -/
structure Sensor where
  reading : Word := 0
  read : Bool := false             -- a reading has been taken
  stale : Bool := false
  retried : Bool := false          -- its last transaction failed and is retried (R64)
  warn : Bool := false
  crit : Bool := false
  low : Word := 0x80000000
  warnAt : Word := 0x80000000
  critAt : Word := 0x80000000
  hyst : Word := 0x80000000
  deriving DecidableEq, Repr

/-- The request that the mailbox has taken (R387). -/
structure MbReq where
  cmd : Nat
  reserved : Nat
  len : Nat
  tag : Nat
  payload : List Byte
  deriving DecidableEq, Repr

/-- The mailbox (Table 16-17). -/
structure Mailbox where
  req : FMap Nat := []             -- MB_REQ words by index
  resp : List Byte := []           -- MB_RESP; zero beyond
  outstanding : Option MbReq := none
  notReady : Bool := true
  done : Bool := false
  rom : Bool := false
  deriving DecidableEq, Repr

/-- An event-log entry (Table 14-7). -/
structure LogEnt where
  seq : BitVec 32
  boot : Nat
  lifeS : Nat
  lifeTick : Nat
  sev : Nat
  src : Nat
  mast : Nat
  code : Nat
  func : Option Nat
  d : List Nat
  deriving DecidableEq, Repr

/-- The event log (R401, R404). -/
structure Log where
  next : BitVec 32 := 0
  always : List LogEnt := []       -- oldest first
  persist : List LogEnt := []
  slot : Nat := 0                  -- the place of the next entry in the persistent store
  toStage : List (Nat × LogEnt) := []   -- entries that are still to be written there, by place
  held : List LogEnt := []         -- held while Masthead restarts
  lost : Nat := 0                  -- lost since the last LOG_GAP
  deriving DecidableEq, Repr

/-- The Telltale's state (R394, R395). -/
structure Telltale where
  held : Nat := 0
  raw : Nat := 0
  level : Nat := 0
  lastRatio : FMap Nat := []
  terms : FMap Nat := []
  inputs : FMap Nat := []
  bases : FMap Nat := []           -- counter bases by source
  edges : FMap Nat := []           -- SB edge counts by line
  sampling : Bool := false
  next : Nat := 0                  -- AO tick of the next sample (R396)
  deriving DecidableEq, Repr

/-- The sampling period in AO ticks (R396). -/
def samplePeriod : Nat := 3277

/-- The AO tick of the next sample: the first of the schedule that has not passed (R396). -/
def Telltale.nextAfter (t : Telltale) (now : Nat) : Nat :=
  if now ≤ t.next then t.next else t.next + (now - t.next + samplePeriod - 1) / samplePeriod * samplePeriod

/-- The mailbox image staging (R414). -/
structure ImgStage where
  image : Nat
  total : Nat
  chunks : List (Nat × List Byte) := []   -- offset and bytes, in the order written
  deriving DecidableEq, Repr

/-! ### Firmware store (R364 to R370) -/

/-- A stored firmware image: its header fields and whether its digest and signatures verify (R365, R366). -/
structure FwImage where
  image : Nat
  minRev : Nat
  svn : Nat
  build : Nat
  journal : Nat
  codeLen : Nat
  digest : List Byte
  sum : List Byte                  -- SHA-384 of the whole image (R317)
  genuine : Bool
  deriving DecidableEq, Repr

/-- The two slots of one IMAGE code (R364). -/
structure FwCode where
  a : Option FwImage
  b : Option FwImage
  activeB : Bool := false
  pending : Bool := false          -- the other slot is pending
  deriving DecidableEq, Repr

/-! ### SPDM (R315, R316) -/

/-- The responder's state. -/
structure Spdm where
  chain : List Byte := []          -- slot 0, empty when []
  vca : List Byte := []            -- the messages of version, capabilities and algorithms, from the last GET_VERSION on
  certs : List Byte := []          -- the messages about digests and certificates since the last CHALLENGE
  meas : List Byte := []           -- the messages about measurements since the last signature over them
  deriving DecidableEq, Repr

/-! ### Always-on domain (R397 to R413) -/

/-- A life record (R397). -/
structure LifeRec where
  lifeS : Nat := 0
  boot : Nat := 0
  bistPtr : Nat := 0
  spareDue : Nat := 0
  bistDue : Nat := 0
  crc : BitVec 32 := 0
  deriving DecidableEq, Repr

/-- A due entry (R400). -/
structure Due where
  cert : Bool
  due : Nat
  label : Nat
  deriving DecidableEq, Repr

/-- A burned tally record (R411, R413). -/
structure TallyRec where
  setting : Nat
  value : Nat
  committed : Bool
  deriving DecidableEq, Repr

/-- The tally-fused values in force (R310, R411). The spare map lists the Yards that a record changed. -/
structure InForce where
  svn : Nat := 0
  safety : Nat := 0
  spares : FMap (Nat × Nat) := []
  keyFault : Nat := 0
  deriving DecidableEq, Repr

/-! ### Counters (R405 to R410) -/

/-- The counters, live and latched, with the carried bytes of the 4 KiB counters (Table 14-9). -/
structure Counters where
  live : FMap Nat := []
  rem : FMap Nat := []
  zeroed : List Nat := []          -- counters zeroed since the Telltale last took its bases (R394)
  shadow : FMap Nat := []
  latchSeq : BitVec 32 := 0
  shadowHeld : Nat := 0
  shadowLevel : Nat := 0
  shadowLife : Nat × Nat := (0, 0)
  deriving DecidableEq, Repr

end Sys2Proof.Machine
end

