-- ==== Sys2Proof/Machine/State.lean ====
section
/-! DEFINITION. The state of the block: every register, ring, store, link, transfer and pin level that the spec gives
it, as plain data, with the queue of waiting commands; and State.reset. -/

namespace Sys2Proof.Machine

/-- The power states (R434, R62). `held` is reset asserted, `boot` the boot while staging that it must write is not written (R180). -/
inductive Power where
  | held
  | boot
  | run
  | idle
  | pennant
  deriving DecidableEq, Repr

/-- The set-up registers that a lock guards, and the samples of the tie-offs: what only set-up writes and PORST_N
change (R36, R448, R450, R457). -/
structure Setup where
  fabLock : Bool
  drainLock : Bool
  sensorLock : Bool
  fabEp : Nat                  -- FAB_CFG.FAB_EP, 12 bits
  drainPresent : BitVec 4
  drainCount : Nat             -- 13 bits
  drainBase : Nat              -- 12 bits
  pmbDev : List Word           -- PMB_DEV[0..15]
  i3cDev : List Word           -- I3C_DEV[0..15]
  vmon : List Word             -- VMON[0..7]
  stagePresent : BitVec 8
  stageSize : BitVec 3
  deriving DecidableEq, Repr

/-- Status and control of the whole block (R445 to R447). -/
structure Glob where
  power : Power
  porstLow : Bool
  blkRstLow : Bool
  afterPorst : Bool            -- the next boot starts at step 1 of Table 2-12
  areaStale : Bool             -- the directory area has not been written since PORST_N (R180)
  unready : Bool               -- no boot since PORST_N has set READY (R400)
  unlogged : Bool              -- Masthead has not come up since PORST_N: TALLY_TORN is owed (R413)
  ready : Bool
  recovery : Bool
  halted : Bool
  mainstayUnpaired : Bool
  throttled : Bool
  throttleBy : Nat             -- the diode that was in CRIT at entry to THROTTLED (R430)
  fault : BitVec 16            -- GLOBAL_FAULT
  debugUnlocked : Bool
  pfPasid : Nat
  fabTimeout : Nat
  eccFlip : Word
  latches : FMap Word          -- the read latch of each pair, by the offset of _LO (R13)
  held : FMap Word             -- the held _LO write of each pair (R13)
  preemptHigh : Bool
  wakeHigh : Bool
  pmbHigh : Bool
  sbHigh : BitVec 4
  deriving DecidableEq, Repr

/-- The admin queue registers (R452). -/
structure Adm where
  asqBase : Nat
  asqLog2 : Nat
  asqEnable : Bool
  acqBase : Nat
  acqLog2 : Nat
  acqEnable : Bool
  acqIntAddr : Nat
  acqIntData : Nat
  coalTicks : Nat
  coalCount : Nat
  acqStopping : Bool           -- ENABLE 0 written: waits for the last admin completion (R453)
  deriving DecidableEq, Repr

/-- The always-on domain: clocks, records, fuses, calendar (R396 to R400, R411 to R413). -/
structure Pen where
  powered : Bool
  lifeS : Nat
  lifeTick : Nat
  timer : Nat                  -- AO ticks of the Pennant timer
  boot : Nat
  recA : LifeRec
  recB : LifeRec
  recNext : Bool               -- the next life record goes to B
  lostSupply : Bool
  calOffset : Nat
  calValid : Bool
  dues : FMap Due
  spareDue : Nat
  bistDue : Nat
  bistPtr : Nat
  tally : List TallyRec        -- oldest first
  inForce : InForce
  linkRoot : List Byte         -- fuse fields: 32 bytes (R50, R302), 48 bytes of SHA-384 (R366)
  deviceRoot : List Byte
  integratorKey : List Byte
  lordalKeys : List Byte       -- Shroud's boot ROM (R366): ECDSA P-384, then ML-DSA-87
  deriving DecidableEq, Repr

/-- The processors (R371 to R374). -/
structure Procs where
  restarting : List Proc := []       -- crashed and not back
  adopted : FMap Nat := []           -- Mast without its own pair: the adopting Mast, or none when it equals itself
  orphanMasts : List Nat := []       -- Masts without a dispatcher (R374)
  tackleOn : List Nat := []          -- Masts whose Tackle cache is powered
  unpairedSince : Option Nat := none -- AO tick at which Mainstay lost its standby
  clockWait : Option (Nat × Bool) := none -- a clock fault whose reaction waits for Trim (Table 13-5)
  pwrWait : Bool := false            -- a PWR_DOWN that waits for Trim
  laneFaults : List (Nat × Nat × List (Nat × Nat)) := []  -- lane faults of Masts without a dispatcher: lane, cause, failing spares (R374)
  alert : Option Bool := none        -- a PMB_ALERT_N that came while Masthead restarts, with its report of an undervoltage (R65)
  deriving DecidableEq, Repr

/-- Wakes and clocks under way. -/
structure Waking where
  railsTried : Nat := 0              -- failed waits for power-good in this wake (R437)
  waiting : Bool := false            -- the wait for power-good runs
  fromPennant : Bool := false        -- the boot under way leaves PENNANT
  deriving DecidableEq, Repr

/-- The state of the block. -/
structure State where
  setup : Setup
  glob : Glob
  adm : Adm
  pen : Pen
  sqs : FMap Sq
  cqs : FMap Cq
  accepted : List Acc              -- in acceptance order
  fns : FMap Fn
  hbInt : FMap Nat                 -- HB_INTERVAL where it is not 0x0040
  eps : FMap Ep
  lost : List Nat                  -- endpoints held as lost (R168)
  rigs : Rigs
  epochSeq : Nat
  jobs : FMap Job
  gens : List Gen                  -- oldest epoch first
  restores : List Restoring
  forks : List Fork
  dir : FMap DirEnt                -- what the block knows of the directory's copies
  dirQ : List DirChange            -- changes of the directory, in order (R161)
  scrubs : List Scrub              -- runs of staging that the block is writing
  manStore : List Nat              -- manifest-store units in use
  sheets : FMap Sheet
  tackle : List Line
  cleats : FMap Nat                -- counts that are not zero
  keys : Keys
  spdm : Spdm
  tap : Tap
  links : FMap Link
  drainUp : List Nat               -- drain ports whose LINK_UP is high
  freqs : List FabReq
  waitPkts : List (Nat × Pkt × List PByte)   -- packets that wait for a port (R465): entry or 0, packet, payload
  sreqs : List StgReq
  unknown : FMap (List Nat)        -- unknown granules by staging port (R329)
  hreqs : List HostReq
  xfers : FMap Xfer
  arbs : FMap Arb                  -- by Yard
  pipeCtx : FMap GcmCtx            -- the seals in the GCM pipes and their context stores, by transfer (R293)
  rounds : FMap Nat                -- by queue, the entries accepted in the round (R376)
  roundW : FMap Nat                -- the weights of that round, which a commit does not change (R384)
  yards : FMap Yard
  tests : Tests
  procs : Procs
  waking : Waking
  mb : Mailbox
  sensors : FMap Sensor
  droopArmed : Bool
  idleSince : Option Nat           -- AO tick from which the conditions of R435 have held
  timerAt : Nat                    -- AO tick from which the Pennant timer serves its next deadline (Table 15-8)
  tt : Telltale
  log : Log
  image : Option ImgStage
  fw : FMap FwCode
  ctr : Counters
  free : Nat                       -- index of the next free value
  laneCycle : Nat
  nextId : Nat                     -- next entry, transfer, request or TAG number
  issued : List Out                -- what the block has driven, oldest first
  pending : List Instr
  deriving DecidableEq, Repr

/-- Why a step stops with a fault. -/
inductive Fault where
  /-- A register access inside the debug region while Lordal's procedure has unlocked it: the region's contents lie
  outside the manual (R458). Raised by register accesses at 0x0080_0000 and above, and by nothing else. Safe. -/
  | debugRegion (offset : Nat)
  deriving DecidableEq, Repr

/-- Why a step is refused. -/
inductive Refusal where
  /-- A command without a meaning yet: raised by the arms of exec only. Safe. -/
  | notModelled (mnemonic : String)
  deriving DecidableEq, Repr

/-- The set-up fields at PORST_N (Tables 16-8, 16-9, 16-18). -/
def Setup.reset : Setup where
  fabLock := false
  drainLock := false
  sensorLock := false
  fabEp := 0
  drainPresent := 0
  drainCount := 0
  drainBase := 0
  pmbDev := List.replicate 16 0
  i3cDev := List.replicate 16 0
  vmon := List.replicate 8 0x80000000
  stagePresent := 0
  stageSize := 0

/-- The global fields at PORST_N (Tables 16-5 to 16-13), while PORST_N is asserted. -/
def Glob.reset : Glob where
  power := .held
  porstLow := true
  blkRstLow := false
  afterPorst := true
  areaStale := true
  unready := true
  unlogged := true
  ready := false
  recovery := false
  halted := false
  mainstayUnpaired := false
  throttled := false
  throttleBy := 0
  fault := 0
  debugUnlocked := false
  pfPasid := 0
  fabTimeout := 0x21
  eccFlip := 0
  latches := []
  held := []
  preemptHigh := true
  wakeHigh := true
  pmbHigh := true
  sbHigh := 0xF

/-- The admin queue registers at reset (Table 16-14). -/
def Adm.reset : Adm where
  asqBase := 0
  asqLog2 := 0
  asqEnable := false
  acqBase := 0
  acqLog2 := 0
  acqEnable := false
  acqIntAddr := 0
  acqIntData := 0
  coalTicks := 0
  coalCount := 0
  acqStopping := false

/-- The bytes of a life record that its CRC covers (R397): the fields in order, little-endian. Log 16. -/
def LifeRec.bytes (r : LifeRec) : List Byte := toLe 4 r.lifeS ++ toLe 4 r.boot ++ toLe 1 r.bistPtr ++ toLe 4 r.spareDue ++ toLe 4 r.bistDue

/-- A life record with its CRC-32C. -/
def LifeRec.sealed (r : LifeRec) : LifeRec := { r with crc := crc32c r.bytes }

/-- Is the copy valid? -/
def LifeRec.valid (r : LifeRec) : Bool := r.crc == crc32c r.bytes

/-- The always-on domain of a part as shipped, before its first boot. Logs 4 and 5. -/
def Pen.reset : Pen where
  powered := true
  lifeS := 0
  lifeTick := 0
  timer := 0
  boot := 0
  recA := LifeRec.sealed {}
  recB := LifeRec.sealed {}
  recNext := false
  lostSupply := false
  calOffset := 0
  calValid := false
  dues := []
  spareDue := 0
  bistDue := 0
  bistPtr := 0
  tally := []
  inForce := {}
  linkRoot := List.replicate 32 1
  deviceRoot := List.replicate 32 2
  integratorKey := List.replicate 48 0
  lordalKeys := (List.range 2689).map Config.lordalKey

/-- A firmware image that verifies, as the store of a shipped part holds it. Log 8. -/
def FwImage.shipped (code : Nat) : FwImage where
  image := code
  minRev := 0x0201
  svn := 0
  build := 1
  journal := if code = 1 then 1 else 0
  codeLen := 4096
  digest := (List.range 48).map (Config.shippedCode code)
  sum := (List.range 48).map (Config.shippedSum code)
  genuine := true

/-- The block while PORST_N is asserted for the first time after its supplies rise (R12, R70). Logs 1 to 12. -/
def State.reset : State where
  setup := Setup.reset
  glob := Glob.reset
  adm := Adm.reset
  pen := Pen.reset
  sqs := []
  cqs := []
  accepted := []
  fns := []
  hbInt := []
  eps := []
  lost := []
  rigs := {}
  epochSeq := 1
  jobs := []
  gens := []
  restores := []
  forks := []
  dir := []
  dirQ := []
  scrubs := []
  manStore := []
  sheets := []
  tackle := []
  cleats := []
  keys := {}
  spdm := {}
  tap := {}
  links := []
  drainUp := []
  freqs := []
  waitPkts := []
  sreqs := []
  unknown := []
  hreqs := []
  xfers := []
  arbs := []
  pipeCtx := []
  rounds := []
  roundW := []
  yards := []
  tests := {}
  procs := {}
  waking := {}
  mb := {}
  sensors := []
  droopArmed := true
  idleSince := none
  timerAt := 0
  tt := {}
  log := {}
  image := none
  fw := [(0, ⟨some (FwImage.shipped 0), none, false, false⟩), (1, ⟨some (FwImage.shipped 1), none, false, false⟩),
    (2, ⟨some (FwImage.shipped 2), none, false, false⟩), (3, ⟨some (FwImage.shipped 3), none, false, false⟩),
    (4, ⟨some (FwImage.shipped 4), none, false, false⟩)]
  ctr := {}
  free := 0
  laneCycle := 0
  nextId := 1
  issued := []
  pending := []

end Sys2Proof.Machine
end

