-- ==== Sys2Proof/Machine/Commit.lean ====
section
/-! DEFINITION. What a command may change: the outcome of a command is the next state that its effect gives, with the queue of
waiting commands, and, by the kind of the command, the set-up, the fuses, the always-on domain, the rig sets, the firmware
store, the SPDM responder and the heartbeat intervals, as they were. -/

namespace Sys2Proof.Machine

/-- The always-on domain of `q` with the fuses of `p` and a list of tally records: only a burn writes a fuse (R411). -/
def Pen.withFuses (p q : Pen) (tally : List TallyRec) : Pen :=
  { q with
    tally := tally, linkRoot := p.linkRoot, deviceRoot := p.deviceRoot, integratorKey := p.integratorKey
    lordalKeys := p.lordalKeys }

/-- Take over an effect with the given set-up and tally records; the queue and the other fuses stay. -/
def State.commit (s : State) (u : Setup) (tally : List TallyRec) (t : State) : State :=
  { t with pending := s.pending, setup := u, pen := s.pen.withFuses t.pen tally }

/-- Take over an effect that changes no set-up register and no fuse (R411, R448). -/
def State.keepSetup (s t : State) : State := s.commit s.setup s.pen.tally t

/-- Keep the rig sets, the firmware store, the SPDM responder and the heartbeat intervals as well; of the always-on domain
the boot count and the values in force. -/
def State.keepTimed (s t : State) : State :=
  { s.keepSetup t with
    rigs := s.rigs, fw := s.fw, spdm := s.spdm, hbInt := s.hbInt
    pen := { (s.keepSetup t).pen with boot := s.pen.boot, inForce := s.pen.inForce } }

/-- Keep all of these and the whole always-on domain. -/
def State.keepFixed (s t : State) : State :=
  { t with pending := s.pending, setup := s.setup, pen := s.pen, rigs := s.rigs, fw := s.fw, spdm := s.spdm,
           hbInt := s.hbInt }

/-- The outcome of a command that may reset or boot the block. -/
def State.done (s t : State) : Host.Outcome State Fault Refusal := .next (s.keepSetup t)

/-- The outcome of an expiry, or of a command on the always-on domain. -/
def State.doneTimed (s t : State) : Host.Outcome State Fault Refusal := .next (s.keepTimed t)

/-- The outcome of an ordinary command. -/
def State.doneFixed (s t : State) : Host.Outcome State Fault Refusal := .next (s.keepFixed t)

/-- The outcome of a command that changes the rig sets. -/
def State.doneRigs (s t : State) : Host.Outcome State Fault Refusal := .next { s.keepFixed t with rigs := t.rigs }

/-- The outcome of a command that changes the firmware store. -/
def State.doneFw (s t : State) : Host.Outcome State Fault Refusal := .next { s.keepFixed t with fw := t.fw }

/-- The outcome of an SPDM request. -/
def State.doneSpdm (s t : State) : Host.Outcome State Fault Refusal := .next { s.keepFixed t with spdm := t.spdm }

/-- The outcome of a write of a heartbeat interval. -/
def State.doneBeat (s t : State) : Host.Outcome State Fault Refusal := .next { s.keepFixed t with hbInt := t.hbInt }

end Sys2Proof.Machine
end

