-- ==== Sys2Proof/Machine/Attest.lean ====
section
/-! DEFINITION. The DeviceID key and its signatures (R316, R317): the curve P-384, key-pair generation and ECDSA (FIPS 186-5), and the
public key of an X.509 leaf certificate. -/

namespace Sys2Proof.Machine

/-! ### The curve P-384 -/

/-- The prime of the field. -/
def p384 : Nat := 2 ^ 384 - 2 ^ 128 - 2 ^ 96 + 2 ^ 32 - 1

/-- The order of the base point. -/
def p384Order : Nat :=
  0xFFFFFFFFFFFFFFFFFFFFFFFFFFFFFFFFFFFFFFFFFFFFFFFFC7634D81F4372DDF581A0DB248B0A77AECEC196ACCC52973

/-- A point; none is the point at infinity. -/
abbrev Point := Option (Nat × Nat)

/-- The base point. -/
def p384Base : Point := some
  (0xAA87CA22BE8B05378EB1C71EF320AD746E1D3B628BA79B9859F741E082542A385502F25DBF55296C3A545E3872760AB7,
    0x3617DE4A96262C6F5D9E98BF9292DC29F8F41DBD289A147CE9DA3113B5F0B8C00A60B1CE1D7E819D7A431D7C90EA0E5F)

/-- A power modulo a number, over the exponent's lowest bits. -/
def powMod (m b e : Nat) : Nat → Nat
  | 0 => 1
  | n + 1 => powMod m (b * b % m) (e / 2) n * (if e % 2 = 1 then b else 1) % m

/-- The inverse modulo a prime below 2^384. -/
def invMod (m a : Nat) : Nat := powMod m (a % m) (m - 2) 384

/-- A difference in the field. -/
def subMod (m a b : Nat) : Nat := (a + m - b % m) % m

/-- The third point on the line of a slope, reflected. -/
def lineTo (l x1 y1 x2 : Nat) : Point :=
  let x := subMod p384 (subMod p384 (l * l) x1) x2
  some (x, subMod p384 (l * subMod p384 x1 x) y1)

/-- The sum of two points. -/
def Point.add (a b : Point) : Point :=
  match a, b with
  | none, _ => b
  | _, none => a
  | some (x1, y1), some (x2, y2) =>
    if x1 = x2 then
      if (y1 + y2) % p384 = 0 then none
      else lineTo (subMod p384 (3 * x1 * x1) 3 * invMod p384 (2 * y1) % p384) x1 y1 x2
    else lineTo (subMod p384 y2 y1 * invMod p384 (subMod p384 x2 x1) % p384) x1 y1 x2

/-- A multiple of a point, over the multiplier's lowest bits. -/
def Point.times (a : Point) (k : Nat) : Nat → Point
  | 0 => none
  | n + 1 => Point.add (Point.times (Point.add a a) (k / 2) n) (if k % 2 = 1 then a else none)

/-- A multiple of the base point. -/
def p384Times (k : Nat) : Point := p384Base.times k 384

/-! ### The DeviceID key pair (R316) -/

/-- Candidate c for the private key. -/
def deviceCandidate (root : List Byte) (c : Nat) : Nat := be (kdf root (ascii "ZKB DEVICE ID") [BitVec.ofNat 8 c] 48)

/-- The private key: one more than the first candidate that is not above n - 2. The single byte c has 256 values; past them the key is
1. -/
def deviceKey (root : List Byte) : Nat :=
  (((List.range 256).map (deviceCandidate root)).find? fun v => decide (v ≤ p384Order - 2)).getD 0 + 1

/-- The public key: both coordinates, 48 bytes each. -/
def devicePublic (root : List Byte) : List Byte :=
  match p384Times (deviceKey root) with
  | some (x, y) => toBe 48 x ++ toBe 48 y
  | none => List.replicate 96 0

/-- ECDSA with SHA-384: the signature of a message under a private key with a per-message secret k, as r and s. -/
def ecdsaSign (d k : Nat) (msg : List Byte) : List Byte :=
  let r := match p384Times k with
    | some (x, _) => x % p384Order
    | none => 0
  let s := invMod p384Order k * (be (sha 1 msg) + r * d) % p384Order
  toBe 48 r ++ toBe 48 s

/-! ### The leaf certificate's public key (X.509, DER) -/

/-- The length of a DER item: the bytes of its length field, and the length of its content. -/
def derLength (bs : List Byte) : Nat × Nat :=
  let n := leAt bs 0 1
  if n < 128 then (1, n) else (n - 127, be (slice bs 1 (n - 128)))

/-- The first DER item: tag, content and what follows it. -/
def derItem (bs : List Byte) : Option (Nat × List Byte × List Byte) :=
  match bs with
  | [] => none
  | t :: rest =>
    let l := derLength rest
    if rest.length < l.1 + l.2 then none else some (t.toNat, slice rest l.1 l.2, rest.drop (l.1 + l.2))

/-- The whole bytes of the first item, and what follows. -/
def derSplit (bs : List Byte) : Option (List Byte × List Byte) :=
  (derItem bs).map fun i => (bs.take (bs.length - i.2.2.length), i.2.2)

/-- The items of a sequence's content. Fuel is its length. -/
def derItems : Nat → List Byte → List (List Byte)
  | 0, _ => []
  | n + 1, bs =>
    match derSplit bs with
    | some (i, rest) => i :: derItems n rest
    | none => []

/-- The content of an item. -/
def derContent (bs : List Byte) : List Byte := ((derItem bs).map (·.2.1)).getD []

/-- The subject's public key information of a certificate: the sixth item of its body after an explicit version. -/
def certKeyInfo (cert : List Byte) : List Byte :=
  let body := derContent (((derItems 4 (derContent cert))[0]?).getD [])
  let items := derItems 16 body
  let items := if ((items[0]?).map fun i => leAt i 0 1) = some 0xA0 then items.drop 1 else items
  (items[5]?).getD []

/-- The public key information of a P-384 key: id-ecPublicKey, secp384r1, and the uncompressed point. -/
def keyInfoOf (pub : List Byte) : List Byte :=
  [0x30, 0x76, 0x30, 0x10, 0x06, 0x07, 0x2A, 0x86, 0x48, 0xCE, 0x3D, 0x02, 0x01, 0x06, 0x05, 0x2B, 0x81, 0x04, 0x00, 0x22, 0x03,
    0x62, 0x00, 0x04] ++ pub

/-- Does the leaf of a certificate chain hold a public key? The chain is a 52 B header, as DSP0274 lays it out, and certificates from
the root to the leaf. -/
def leafHolds (chain pub : List Byte) : Bool :=
  match (derItems chain.length (chain.drop 52)).getLast? with
  | some leaf => certKeyInfo leaf == keyInfoOf pub
  | none => false

end Sys2Proof.Machine
end

