-- ==== Sys2Proof/Machine/MlDsa.lean ====
section
/-! DEFINITION. The verification of firmware signatures (R365, R366): SHAKE (FIPS 202), ML-DSA-87 (FIPS 204) and ECDSA P-384
(FIPS 186-5). Log 22. -/

namespace Sys2Proof.Machine

/-! ### Keccak and SHAKE (FIPS 202) -/

/-- A 64-bit lane. -/
abbrev Lane64 := BitVec 64

/-- Lane (x, y) of a state of 25 lanes, lane x + 5 y at place x + 5 y. -/
def keccakLane (a : List Lane64) (x y : Nat) : Lane64 := a.getD (x % 5 + 5 * (y % 5)) 0

/-- A state by its lanes. -/
def keccakOf (f : Nat → Nat → Lane64) : List Lane64 := (List.range 25).map fun i => f (i % 5) (i / 5)

/-- The rotation of lane x + 5 y. -/
def keccakRot : List Nat :=
  [0, 1, 62, 28, 27, 36, 44, 6, 55, 20, 3, 10, 43, 25, 39, 41, 45, 15, 21, 8, 18, 2, 61, 56, 14]

/-- The round constants. -/
def keccakRc : List Lane64 :=
  [0x0000000000000001, 0x0000000000008082, 0x800000000000808A, 0x8000000080008000, 0x000000000000808B, 0x0000000080000001,
    0x8000000080008081, 0x8000000000008009, 0x000000000000008A, 0x0000000000000088, 0x0000000080008009, 0x000000008000000A,
    0x000000008000808B, 0x800000000000008B, 0x8000000000008089, 0x8000000000008003, 0x8000000000008002, 0x8000000000000080,
    0x000000000000800A, 0x800000008000000A, 0x8000000080008081, 0x8000000000008080, 0x0000000080000001, 0x8000000080008008]

/-- One round: theta, rho with pi, chi and iota. -/
def keccakRound (a : List Lane64) (rc : Lane64) : List Lane64 :=
  let c := (List.range 5).map fun x => (List.range 5).foldl (fun v y => v ^^^ keccakLane a x y) 0
  let d := (List.range 5).map fun x => c.getD ((x + 4) % 5) 0 ^^^ (c.getD ((x + 1) % 5) 0).rotateLeft 1
  let t := (List.zipWith (fun v r => (v, r)) a keccakRot).zipIdx.map fun p => (p.1.1 ^^^ d.getD (p.2 % 5) 0).rotateLeft p.1.2
  let b := keccakOf fun x y => keccakLane t (x + 3 * y) x
  let e := keccakOf fun x y => keccakLane b x y ^^^ (~~~ keccakLane b (x + 1) y &&& keccakLane b (x + 2) y)
  match e with
  | v :: vs => (v ^^^ rc) :: vs
  | [] => []

/-- The permutation. -/
def keccak (a : List Lane64) : List Lane64 := keccakRc.foldl keccakRound a

/-- Absorb a block. -/
def keccakAbsorb (a : List Lane64) (block : List Byte) : List Lane64 :=
  keccak (List.zipWith (fun v w => v ^^^ w) a (fit 25 0 ((chunks 8 block).map fun w => BitVec.ofNat 64 (le w))))

/-- The bytes of a state, at most a rate. -/
def keccakOut (rate : Nat) (a : List Lane64) : List Byte := (a.flatMap fun v => toLe 8 v.toNat).take rate

/-- Blocks squeezed from a state. -/
def keccakSqueeze (rate : Nat) : Nat → List Lane64 → List Byte
  | 0, _ => []
  | n + 1, a => keccakOut rate a ++ keccakSqueeze rate n (keccak a)

/-- The padding of a message for an extendable-output function. -/
def shakePad (rate : Nat) (msg : List Byte) : List Byte :=
  let k := rate - msg.length % rate
  if k = 1 then msg ++ [0x9F] else msg ++ [0x1F] ++ List.replicate (k - 2) 0 ++ [0x80]

/-- So many blocks of a SHAKE's output: the rate is 168 for SHAKE128 and 136 for SHAKE256. -/
def shakeBlocks (rate n : Nat) (msg : List Byte) : List Byte :=
  keccakSqueeze rate n ((chunks rate (shakePad rate msg)).foldl keccakAbsorb (List.replicate 25 0))

/-- The hash H of ML-DSA: bytes of SHAKE256. -/
def shake256 (n : Nat) (msg : List Byte) : List Byte := (shakeBlocks 136 (ceilDiv n 136) msg).take n

/-! ### Polynomials (FIPS 204) -/

/-- The modulus. -/
def mlQ : Nat := 8380417

/-- A polynomial: 256 coefficients below the modulus. -/
abbrev Poly := List Nat

/-- Bits of a number below 256, reversed. -/
def bitRev8 (m : Nat) : Nat := (List.range 8).foldl (fun v i => 2 * v + m / 2 ^ i % 2) 0

/-- The power of the root 1753 at a node of the transform. -/
def mlZeta (m : Nat) : Nat := powMod mlQ 1753 (bitRev8 m) 8

/-- The inverse of that power: the root has order 512. -/
def mlZetaInv (m : Nat) : Nat := powMod mlQ 1753 (512 - bitRev8 m) 10

/-- The transform below a node, over the levels that remain. -/
def nttAt : Nat → Nat → Poly → Poly
  | 0, _, w => w
  | n + 1, m, w =>
    let lo := w.take (2 ^ n)
    let hi := (w.drop (2 ^ n)).map fun v => mlZeta m * v % mlQ
    nttAt n (2 * m) (List.zipWith (fun a b => (a + b) % mlQ) lo hi) ++
      nttAt n (2 * m + 1) (List.zipWith (fun a b => (a + mlQ - b) % mlQ) lo hi)

/-- NTT. -/
def ntt (w : Poly) : Poly := nttAt 8 1 w

/-- The inverse transform below a node, without the division by two of each level. -/
def nttInvAt : Nat → Nat → Poly → Poly
  | 0, _, w => w
  | n + 1, m, w =>
    let a := nttInvAt n (2 * m) (w.take (2 ^ n))
    let b := nttInvAt n (2 * m + 1) (w.drop (2 ^ n))
    List.zipWith (fun a b => (a + b) % mlQ) a b ++ List.zipWith (fun a b => mlZetaInv m * (a + mlQ - b) % mlQ) a b

/-- The inverse of NTT: 8347681 is the inverse of 256. -/
def nttInv (w : Poly) : Poly := (nttInvAt 8 1 w).map fun v => 8347681 * v % mlQ

/-- A difference modulo q of two coefficients. -/
def mlSub (a b : Nat) : Nat := (a + mlQ - b % mlQ) % mlQ

/-! ### Sampling (FIPS 204, Algorithms 14, 29, 30 and 32) -/

/-- The coefficients that triples of bytes give, those at or above q left out. -/
def mlTriples : List Byte → List Nat
  | a :: b :: c :: rest =>
    let v := a.toNat + 256 * b.toNat + 65536 * (c.toNat % 128)
    if v < mlQ then v :: mlTriples rest else mlTriples rest
  | _ => []

/-- An entry of the matrix that a seed expands to. FIPS 204 sets no limit on the blocks that the sampling may take; 16 give 896
triples, of which fewer than 256 below q is not to be met. -/
def mlEntry (rho : List Byte) (row col : Nat) : Poly :=
  fit 256 0 (mlTriples (shakeBlocks 168 16 (rho ++ [BitVec.ofNat 8 col, BitVec.ofNat 8 row])))

/-- Place the signs of the challenge: the places that remain, the sign bits from the next on, and the bytes to draw from. -/
def mlBall : List Nat → List Bool → List Byte → Poly → Poly
  | i :: is, sign :: signs, bs, c =>
    match bs.dropWhile fun b => decide (i < b.toNat) with
    | b :: rest => mlBall is signs rest ((c.set i (c.getD b.toNat 0)).set b.toNat (if sign then mlQ - 1 else 1))
    | [] => c
  | _, _, _, c => c

/-- The challenge polynomial: 60 coefficients of 1 or -1. -/
def mlChallenge (seed : List Byte) : Poly :=
  let bs := shakeBlocks 136 8 seed
  mlBall ((List.range 60).map (· + 196)) ((List.range 60).map (bitOf (leAt bs 0 8))) (bs.drop 8) (List.replicate 256 0)

/-! ### Encodings (FIPS 204, section 7) -/

/-- The fields of w bits that bytes hold, lowest first. -/
def mlFields (w n : Nat) (bs : List Byte) : List Nat :=
  let v := le bs
  (List.range n).map fun i => v / 2 ^ (w * i) % 2 ^ w

/-- The places of the hints of the polynomials that remain, from an index on: none where the encoding is malformed. -/
def mlHints (ys : List Nat) : Nat → List Nat → Option (List (List Nat))
  | i, [] => if (ys.drop i).all (· == 0) then some [] else none
  | i, e :: ends =>
    let places := slice ys i (e - i)
    if e < i ∨ 75 < e ∨ ¬ (List.zipWith (fun a b => decide (a < b)) places (places.drop 1)).all id then none
    else (mlHints ys e ends).map (places :: ·)

/-- The parts of a signature. -/
structure MlSig where
  seed : List Byte
  z : List Poly
  hints : List (List Nat)
  small : Bool                 -- the greatest coefficient of z stays below 2^19 - 120

/-- Read a signature of 4,627 bytes. -/
def mlSig (bs : List Byte) : Option MlSig :=
  let fields := (List.range 7).map fun i => mlFields 20 256 (slice bs (64 + 640 * i) 640)
  let ys := (slice bs 4544 83).map (·.toNat)
  (mlHints (ys.take 75) 0 (ys.drop 75)).map fun hints =>
    { seed := bs.take 64
      z := fields.map fun p => p.map fun v => mlSub 524288 v
      hints := hints
      small := fields.all fun p => p.all fun v => decide (120 < v ∧ v + 120 < 1048576) }

/-! ### Verification (FIPS 204, Algorithms 3 and 8) -/

/-- The high bits of a coefficient, moved by a hint. -/
def mlUseHint (hint : Bool) (r : Nat) : Nat :=
  let r1 := (r + 261887) / 523776
  if !hint then r1 % 16
  else if 523776 * r1 < r then (r1 + 1) % 16
  else (r1 + 15) % 16

/-- Row i of A z - c t, with the operands transformed. -/
def mlRow (entries z : List Poly) (c t : Poly) : Poly :=
  nttInv ((List.range 256).map fun k =>
    mlSub ((List.zipWith (fun a v => a.getD k 0 * v.getD k 0) entries z).sum) (c.getD k 0 * t.getD k 0))

/-- Does an ML-DSA-87 signature verify over a message, with an empty context, under a public key of 2,592 bytes? -/
def mlVerify (pk msg sig : List Byte) : Bool :=
  match mlSig sig with
  | none => false
  | some g =>
    let mu := shake256 64 (shake256 64 pk ++ [0, 0] ++ msg)
    let c := ntt (mlChallenge g.seed)
    let z := g.z.map ntt
    let high := (List.zipWith (fun hints row => (row, hints)) g.hints (List.range 8)).flatMap fun p =>
      let t := ntt ((mlFields 10 256 (slice pk (32 + 320 * p.1) 320)).map fun v => v * 8192 % mlQ)
      let w := mlRow ((List.range 7).map (mlEntry (pk.take 32) p.1)) z c t
      w.zipIdx.map fun q => mlUseHint (p.2.contains q.2) q.1
    g.small && shake256 64 (mu ++ (chunks 2 high).map fun p => BitVec.ofNat 8 (p.getD 0 0 + 16 * p.getD 1 0)) == g.seed

/-! ### ECDSA (FIPS 186-5) -/

/-- Does an affine point lie on the curve? -/
def onP384 (x y : Nat) : Bool :=
  decide (x < p384) && decide (y < p384) && y * y % p384 == (x * x * x + p384 * 3 - 3 * x +
    0xB3312FA7E23EE7E4988E056BE3F82D19181D9C6EFE8141120314088F5013875AC656398D8A2ED19D2A85C8EDD3EC2AEF) % p384

/-- Does an ECDSA P-384 signature with SHA-384, r then s, verify over a message under an uncompressed key of 97 bytes? -/
def ecdsaVerify (key msg sig : List Byte) : Bool :=
  let x := be (slice key 1 48)
  let y := be (slice key 49 48)
  let r := be (sig.take 48)
  let t := be (slice sig 48 48)
  let inv := invMod p384Order t
  let sum := Point.add (p384Times (be (sha 1 msg) * inv % p384Order)) (Point.times (some (x, y)) (r * inv % p384Order) 384)
  key.headD 0 == 4 && onP384 x y && decide (0 < r ∧ r < p384Order ∧ 0 < t ∧ t < p384Order) &&
    (match sum with
    | some (v, _) => v % p384Order == r
    | none => false)

/-- Do both signatures of a part of the signature block verify over a header (Table 13-3)? The keys are 97 B of ECDSA and 2,592 B of
ML-DSA, and the signatures 96 B and 4,627 B, the rest zero. -/
def bothSigned (keys hdr sigs : List Byte) : Bool :=
  ecdsaVerify (keys.take 97) hdr (sigs.take 96) && mlVerify (keys.drop 97) hdr (slice sigs 96 4627) && allZero (sigs.drop 4723)

end Sys2Proof.Machine
end

