-- ==== Sys2Proof/Machine/Ecc.lean ====
section
/-! DEFINITION. The error-correcting code of stored data and the granules of staging (R319 to R324). -/

namespace Sys2Proof.Machine

/-- The number of one bits of a 7-bit value. -/
def weight7 (v : Nat) : Nat := ((List.range 7).filter (bitOf v)).length

/-- The columns of the data bits: the 7-bit values with two or more bits set, smallest first (R320). -/
def eccColumns : List Nat := ((List.range 128).filter fun v => decide (2 ≤ weight7 v)).take 64

/-- H(d): the exclusive or of the columns of the data bits that are one (R320). -/
def eccH (d : Nat) : Nat := (eccColumns.zipIdx.foldl (fun acc ci => if bitOf d ci.2 then acc ^^^ ci.1 else acc) 0)

/-- F(a): the exclusive or of the aligned 7-bit groups of the word address (R320). -/
def eccF (a : Nat) : Nat := (List.range 8).foldl (fun acc i => acc ^^^ bits a (7 * i + 6) (7 * i)) 0

/-- The parity of a 64-bit word and a check byte: true when odd. -/
def eccOdd (d c : Nat) : Bool :=
  (((List.range 64).filter (bitOf d)).length + ((List.range 8).filter (bitOf c)).length) % 2 == 1

/-- The check byte of a word at an address (R320). -/
def eccCheck (d a : Nat) : Byte :=
  let c := eccH d ^^^ eccF a
  BitVec.ofNat 8 (c + 128 * b2n (eccOdd d c))

/-- The outcome of reading one word (Table 11-2). -/
inductive WordRead where
  | clean (d : Nat)
  | corrected (d syndrome : Nat)
  | candidate                      -- it shows its poison pattern (R323)
  | uncorrectable
  deriving DecidableEq, Repr

/-- The poison pattern of word w of a granule (R323). -/
def poisonPattern (w : Nat) : Nat := if w % 2 = 0 then 0x55 else 0x33

/-- Classify a word read at an address (R321); pattern is its poison pattern, zero outside staging. -/
def eccRead (d c a pattern : Nat) : WordRead :=
  let s := eccH d ^^^ (c % 128) ^^^ eccF a
  if eccOdd d c then
    if s = 0 then .corrected d 0
    else if weight7 s = 1 then .corrected d s
    else
      match eccColumns.findIdx? (· == s) with
      | some i => .corrected (d ^^^ 2 ^ i) s
      | none => .uncorrectable
  else if s = 0 then .clean d
  else if s = pattern then .candidate
  else .uncorrectable

/-- How a word with a flipped check byte reads outside staging (R321, R335): the code is linear, so the data and the address do not
matter; what a correction does to the data shows on a zero word. -/
def flipResult (mask : Byte) : WordRead := eccRead 0 ((eccCheck 0 0) ^^^ mask).toNat 0 0

/-- The word address of word w of a granule: the port in [36:34], the 8-byte stack unit below (Table 11-1). -/
def stagingWordAddr (port unitAddr w : Nat) : Nat := port * 2 ^ 34 + unitAddr * 8 + w

/-- What a granule read delivers. -/
structure GranuleRead where
  data : List PByte
  bad : Nat                        -- uncorrectable words
  poisoned : Bool
  corrected : List (Nat × Nat)     -- word and syndrome of each corrected word
  deriving DecidableEq, Repr

/-- A granule of zero bytes, poison-marked. -/
def badGranule : List PByte := List.replicate 64 PByte.bad

/-- Bytes of a Yard's SRAM as a read delivers them, where the word at an offset has a flipped check byte (R321, R327): a corrected
word may have a data bit turned over, and an uncorrectable one takes its 64 B with it. -/
def deliverFlip (bs : List PByte) (f : Nat × Byte) : List PByte :=
  match flipResult f.2 with
  | .clean _ => bs
  | .corrected d _ =>
    overlay bs f.1 (List.zipWith (fun (b : PByte) m => { b with byte := b.byte ^^^ m }) (slice bs f.1 8) (toLe 8 d))
  | _ => overlay bs (f.1 / 64 * 64) badGranule

/-- Read a granule from the DATA and META that a port returned (R323); corrected words show beside bad ones (R333). -/
def readGranule (port unitAddr : Nat) (data check : List Byte) : GranuleRead :=
  let ws := (List.range 8).map fun w =>
    (w, eccRead (leAt data (8 * w) 8) (leAt check w 1) (stagingWordAddr port unitAddr w) (poisonPattern w))
  let corrected := ws.filterMap fun p =>
    match p.2 with
    | .corrected _ syn => some (p.1, syn)
    | _ => none
  if 5 ≤ (ws.filter fun p => p.2 == .candidate).length then ⟨badGranule, 0, true, []⟩
  else if ws.any fun p => p.2 == .candidate || p.2 == .uncorrectable then
    ⟨badGranule, (ws.filter fun p => p.2 == .candidate || p.2 == .uncorrectable).length, false, corrected⟩
  else
    ⟨plain ((ws.map fun p =>
        match p.2 with
        | .clean d => toLe 8 d
        | .corrected d _ => toLe 8 d
        | .candidate => List.replicate 8 0
        | .uncorrectable => List.replicate 8 0).flatten), 0, false, corrected⟩

/-- The META of a granule as the block writes it (R320, R323): the word that an armed ECC_FLIP_MASK selects has the
mask in its check byte (R335). -/
def granuleMeta (port unitAddr : Nat) (bs : List PByte) (flip : Option (Nat × Byte)) : List Byte :=
  (List.range 8).map fun w =>
    let c := eccCheck (leAt (values bs) (8 * w) 8) (stagingWordAddr port unitAddr w)
    let c := if anyPoison bs then c ^^^ BitVec.ofNat 8 (poisonPattern w) else c
    match flip with
    | some (fw, m) => if fw = w then c ^^^ m else c
    | none => c

end Sys2Proof.Machine
end

