-- ==== Sys2Proof/Machine/Packets.lean ====
section
/-! DEFINITION. IFI packets as flits: the header flit of Table 2-3, what breaks it (R43, R44), and the sealing and opening
of a packet under its link session (R52, R53). -/

namespace Sys2Proof.Machine

/-! ### The header flit (Table 2-3) -/

/-- Header bytes 0 to 47, which a sealed packet authenticates. -/
def Pkt.header (p : Pkt) : List Byte :=
  toLe 1 (0x10 + p.cls) ++ toLe 1 p.op ++ toLe 2 p.src ++ toLe 2 p.dst ++ toLe 2 p.len ++ toLe 8 p.addr ++ toLe 4 p.tag ++
    toLe 1 (4 * b2n p.err + 2 * b2n p.ackReq + b2n p.last) ++ toLe 1 p.slice ++ toLe 2 0 ++
    toLe 4 (2 ^ 31 * b2n p.sig + 2 ^ 16 * p.sigCount + p.cleat) ++ toLe 4 p.arg32 ++ toLe 8 p.argA ++ toLe 8 p.argB

/-- The fields of a header flit. -/
def parsePkt (h : List Byte) : Pkt where
  cls := leAt h 0 1 % 16
  op := leAt h 1 1
  src := leAt h 2 2 % 4096
  dst := leAt h 4 2 % 4096
  len := leAt h 6 2 % 8192
  addr := leAt h 8 8
  tag := leAt h 16 4
  err := bitOf (leAt h 20 1) 2
  ackReq := bitOf (leAt h 20 1) 1
  last := bitOf (leAt h 20 1) 0
  slice := leAt h 21 1
  sig := bitOf (leAt h 24 4) 31
  sigCount := bits (leAt h 24 4) 23 16
  cleat := leAt h 24 2
  arg32 := leAt h 28 4
  argA := leAt h 32 8
  argB := leAt h 40 8

/-- The classes and opcodes that are not reserved (Table 2-4). -/
def opcodes : List (Nat × Nat) :=
  [(1, 0x01), (1, 0x02), (2, 0x01), (2, 0x02), (3, 0x01), (3, 0x02), (3, 0x03), (3, 0x04), (3, 0x05), (3, 0x06), (3, 0x10),
    (3, 0x20), (3, 0x21), (3, 0x22), (3, 0x23), (4, 0x01), (4, 0x02), (4, 0x03), (4, 0x04), (4, 0x05), (4, 0x06), (5, 0x01)]

/-- Does a packet of the class and opcode carry payload (Table 2-4)? -/
def carriesPayload (p : Pkt) : Bool :=
  (p.cls == 1 && p.op == 2 && !p.err) || (p.cls == 2 && p.op == 1) || (p.cls == 3 && p.op == 4) || (p.cls == 4 && p.op == 1)

/-- The data flits that a header calls for (R43); none for a packet without payload (log 137). -/
def Pkt.dataFlits (p : Pkt) : Nat := if carriesPayload p then ceilDiv p.len 64 else 0

/-- Are the reserved bits of a header flit zero (Table 2-3)? -/
def reservedZero (h : List Byte) : Bool :=
  leAt h 2 2 < 4096 && leAt h 4 2 < 4096 && leAt h 6 2 < 8192 && leAt h 20 1 < 8 && leAt h 22 2 == 0 &&
    bits (leAt h 24 4) 30 24 == 0

/-- Does a received packet keep Table 2-3: HVER 0x1, a class and opcode that are not reserved, reserved bits zero, and as
many data flits as LEN says (R43)? A payload of more than 512 B, and SIG set where it is not valid, break it too: log 137. -/
def headerOk (h : List Byte) (dataFlits : Nat) : Bool :=
  let p := parsePkt h
  leAt h 0 1 / 16 == 1 && opcodes.contains (p.cls, p.op) && reservedZero h && dataFlits == p.dataFlits &&
    (!carriesPayload p || decide (p.len ≤ 512)) && (!p.sig || (p.cls == 2 && p.op == 1) || p.cls == 5)

/-- Is a packet link-local: LINK_HELLO and the rekey messages (R44, Table 2-4)? -/
def Pkt.isLocal (p : Pkt) : Bool := p.cls == 3 && decide (0x20 ≤ p.op)

/-- Is an identifier one that no packet may name (R44)? -/
def badEp (ep : Nat) : Bool := ep == 0 || decide (0xFFF ≤ ep)

/-- Does a packet name endpoints as R44 lets it: a link-local one DST_EP 0x000, any other neither 0x000 nor 0xFFF? -/
def Pkt.endpointsOk (p : Pkt) : Bool := if p.isLocal then p.dst == 0 else !badEp p.src && !badEp p.dst

/-! ### Sealing (R51, R52) -/

/-- A payload with its padding to whole flits. -/
def padFlits (bs : List PByte) : List PByte := fit (64 * ceilDiv bs.length 64) PByte.zero bs

/-- The IV of a packet: the session's salt, then its 64-bit counter (R52). -/
def linkIv (key : List Byte) (counter : Nat) : List Byte := key.drop 32 ++ toBe 8 counter

/-- What seals the packets of one direction: its key and salt, and the counter of the next packet; none outside a
session. -/
abbrev Sealing := Option (List Byte × Nat)

/-- The ciphertext of a payload; the payload itself in the clear. -/
def Sealing.crypt (k : Sealing) (text : List Byte) : List Byte :=
  match k with
  | some (key, n) => gcmCrypt (key.take 32) (linkIv key n) text
  | none => text

/-- The ICV of a header and its ciphertext; zero in the clear (log 54). -/
def Sealing.icv (k : Sealing) (header ct : List Byte) : List Byte :=
  match k with
  | some (key, n) => gcmTag (key.take 32) (linkIv key n) header ct
  | none => List.replicate 16 0

/-- A packet as flits: the header flit with its ICV, then the data flits, FLIT_POISON set on each that carries
poison-marked bytes (R43, R48, R52). -/
def Pkt.flits (p : Pkt) (k : Sealing) (payload : List PByte) : List Flit :=
  let data := padFlits payload
  let ct := k.crypt (values data)
  ⟨p.header ++ k.icv p.header ct, false⟩ ::
    List.zipWith (fun c d => ⟨c, anyPoison d⟩) (chunks 64 ct) (chunks 64 data)

/-! ### Opening (R48, R53) -/

/-- The ciphertext of the data flits. -/
def bodyOf (data : List Flit) : List Byte := data.flatMap (·.bytes)

/-- Does the ICV of a received packet verify? -/
def Sealing.verifies (k : Sealing) (h : Flit) (data : List Flit) : Bool :=
  k.isNone || k.icv (h.bytes.take 48) (bodyOf data) == h.bytes.drop 48

/-- The payload of a received packet: a poisoned flit counts as 64 zero bytes, marked (R48), and every flit where the ICV
failed (R53). -/
def Sealing.payload (k : Sealing) (all : Bool) (data : List Flit) : List PByte :=
  (List.zipWith (fun (f : Flit) c => if all || f.poison then List.replicate 64 PByte.bad else plain c) data
    (chunks 64 (k.crypt (bodyOf data)))).flatten

/-- The session key and salt of each direction of a link (R51), 36 bytes each: block to peer, peer to block. -/
def sessionKeys (root : List Byte) (port : Nat) (blockHalf peerHalf : Word64) : List Byte × List Byte :=
  (linkKey root port false blockHalf peerHalf, linkKey root port true blockHalf peerHalf)

end Sys2Proof.Machine
end

