-- ==== Sys2Proof/Machine/Ops.lean ====
section
/-! DEFINITION. The shared operations of the block: free values, counters, the event log, faults, staging geometry,
packets, host requests, completions and the ending of entries. -/

namespace Sys2Proof.Machine

/-! ### Numbers and free values -/

/-- A fresh number for an entry, a request or a transfer. -/
def State.fresh (s : State) : Nat × State := (s.nextId, { s with nextId := s.nextId + 1 })

/-- Bytes of the conditioned entropy source (R308): free values. -/
def State.entropy (n : Nat) (s : State) : List Byte × State :=
  ((List.range n).map (Config.entropy s.free), { s with free := s.free + 1 })

/-- The requests after which the CTR_DRBG reseeds (R308). -/
def drbgLife : Nat := 65536

/-- Seed a CTR_DRBG from its earlier key and counter block. -/
def Drbg.seeded (key v entropy : List Byte) : Drbg :=
  let u := drbgUpdate key v (drbgDf entropy)
  ⟨u.1, u.2, 0⟩

/-- The CTR_DRBG ready for a request: instantiated at its first, reseeded after every 65,536 (R308; log 9). -/
def State.drbgReady (s : State) : Drbg × State :=
  match s.keys.drbg with
  | none =>
    let (e, s) := s.entropy 48
    (Drbg.seeded (List.replicate 32 0) (List.replicate 16 0) e, s)
  | some d =>
    if drbgLife ≤ d.count then
      let (e, s) := s.entropy 32
      (Drbg.seeded d.key d.v e, s)
    else (d, s)

/-- The output of a request and the state after it, without additional input (SP 800-90A). -/
def Drbg.generate (d : Drbg) (n : Nat) : List Byte × Drbg :=
  let blocks := ceilDiv n 16
  let u := drbgUpdate d.key (drbgStep d.v blocks) (List.replicate 48 0)
  ((drbgBlocks d.key d.v blocks).take n, ⟨u.1, u.2, d.count + 1⟩)

/-- A request of n bytes to the CTR_DRBG (R308). -/
def State.draw (n : Nat) (s : State) : List Byte × State :=
  let (d, s) := s.drbgReady
  let (bs, d) := d.generate n
  (bs, { s with keys := { s.keys with drbg := some d } })

/-- What the block drives at a port. -/
def State.emit (o : Out) (s : State) : State := { s with issued := s.issued ++ [o] }

/-! ### Counters (R405 to R408) -/

/-- The classes of Table 14-9. -/
inductive CtrClass where
  | activity
  | event
  | lastValue
  deriving DecidableEq, Repr

/-- The counters of a scope, in number order (Table 14-10): the instances that exist and the classes. -/
def ctrScope (scope : Nat) : Option (Nat × List CtrClass) :=
  let a := CtrClass.activity
  let e := CtrClass.event
  let l := CtrClass.lastValue
  match scope with
  | 0x0 => some (1, [a, e, e, e])
  | 0x1 => some (8, [a, e, e])
  | 0x2 => some (64, [a, e, e, e, e, e, l, l])
  | 0x3 => some (2176, [a, a, e])
  | 0x4 => some (32, [a, a, a, e, e, e])
  | 0x5 => some (8, [a, a, e, e, e, e, e, e, l, l])
  | 0x6 => some (4, [a, a, e])
  | 0x7 => some (256, [e, e, e, a, a, a, a, e, e, e, e, e, e])
  | 0x8 => some (4096, [a])
  | 0x9 => some (4096, [a])
  | 0xA => some (512, [a, a, a, a, a, a, a, a, a, a, a, a, e, e, e])
  | 0xB => some (256, [a, a, e])
  | 0xC => some (4096, [e, e, e])
  | 0xD => some (4096, [e])
  | _ => none

/-- A COUNTER_ID (R407). -/
def ctrId (scope inst num : Nat) : Nat := scope * 2 ^ 20 + inst * 2 ^ 8 + num

/-- The class of a counter, none for a reserved scope or number (R407). -/
def ctrClass (id : Nat) : Option CtrClass := (ctrScope (id / 2 ^ 20)).bind fun p => p.2[id % 256]?

/-- A counter's value. -/
def Counters.value (c : Counters) (id : Nat) : Nat := NMap.get c.live id

/-- Add to a counter by its class (Table 14-9). -/
def Counters.add (c : Counters) (id n : Nat) : Counters :=
  let v := NMap.get c.live id + n
  match ctrClass id with
  | some .event => { c with live := NMap.set c.live id (min v (2 ^ 48 - 1)) }
  | some .activity => { c with live := NMap.set c.live id (v % 2 ^ 64) }
  | _ => { c with live := NMap.set c.live id v }

/-- Add bytes to a counter in units of 4,096 B, carrying the remainder (Table 14-9). -/
def Counters.addBytes (c : Counters) (id n : Nat) : Counters :=
  let t := NMap.get c.rem id + n
  { c.add id (t / 4096) with rem := NMap.set c.rem id (t % 4096) }

/-- Write a last-value counter. -/
def Counters.last (c : Counters) (id v : Nat) : Counters := { c with live := NMap.set c.live id v }

/-- Zero the counters of an instance that comes into being (R408). -/
def Counters.zero (c : Counters) (scope inst : Nat) : Counters :=
  let other := fun (k : Nat) (_ : Nat) => decide (k / 256 ≠ scope * 2 ^ 12 + inst)
  { c with live := FMap.keep c.live other, rem := FMap.keep c.rem other,
           zeroed := c.zeroed ++ [scope * 2 ^ 12 + inst] }

/-- Count n in a counter. -/
def State.count (id n : Nat) (s : State) : State := { s with ctr := s.ctr.add id n }

/-- Count one event. -/
def State.bump (id : Nat) (s : State) : State := s.count id 1

/-- Count bytes in a byte counter. -/
def State.countBytes (id n : Nat) (s : State) : State := { s with ctr := s.ctr.addBytes id n }

/-- Zero an instance's counters. -/
def State.zeroCtr (scope inst : Nat) (s : State) : State := { s with ctr := s.ctr.zero scope inst }

/-! ### Staging geometry (R36 to R39) -/

/-- The present staging ports in ascending order. -/
def Setup.stagePorts (u : Setup) : List Nat := (List.range 8).filter fun i => u.stagePresent.getLsbD i

/-- The stack size in bytes (Table 1-9); none for a reserved encoding. -/
def Setup.stackBytes (u : Setup) : Option Nat :=
  (([24, 36, 48, 64, 72, 96] : List Nat)[u.stageSize.toNat]?).map (· * 10 ^ 9)

/-- Is staging present (R39)? -/
def Setup.hasStaging (u : Setup) : Bool := u.stagePresent != 0 && u.stackBytes.isSome

/-- The tie-off error (R39). -/
def Setup.tieoffErr (u : Setup) : Bool := u.stackBytes.isNone

/-- Staging space in bytes, zero when staging is absent. -/
def Setup.stagingBytes (u : Setup) : Nat :=
  if u.hasStaging then u.stagePorts.length * u.stackBytes.getD 0 else 0

/-- The reserved top area, 256 MiB (R38). -/
def reservedBytes : Nat := 268435456

/-- The start of the reserved area. -/
def Setup.reservedBase (u : Setup) : Nat := u.stagingBytes - reservedBytes

/-- The port and the 64 B unit of the stack that hold a staging offset (R38). -/
def Setup.stagingPlace (u : Setup) (off : Nat) : Nat × Nat :=
  let p := u.stagePorts.length
  let n := off / segBytes
  (u.stagePorts.getD (n % p) 0, (n / p * segBytes + off % segBytes) / 64)

/-! ### Life clock and event log (R397, R401 to R404, R466) -/

/-- AO ticks of the Pennant timer: the clock of every timeout (R35). -/
def State.now (s : State) : Nat := s.pen.timer

/-- AO ticks of powered life: what cadence times count in (R35, R397). -/
def State.lifeTicks (s : State) : Nat := s.pen.lifeS * 32768 + s.pen.lifeTick

/-- The severity of an event code (Tables 14-8 and 15-12). -/
def eventSev (code : Nat) : Nat :=
  if code ∈ [0x0102, 0x0205, 0x0305, 0x0704] then 0
  else if code ∈ [0x0101, 0x0204, 0x0301, 0x0303, 0x0501, 0x0503, 0x0504, 0x0505, 0x0601, 0x0602, 0x0709, 0x0804,
      0x0805, 0x0806, 0x0807] then 2
  else if code ∈ [0x0201, 0x0203, 0x0502, 0x0506, 0x0702, 0x0808, 0x080A] then 3
  else 1

/-- The logging processor of an event code (R466). -/
def eventSrc (code : Nat) : Nat :=
  if code ∈ [0x0101, 0x0103, 0x0602] then 6
  else if code ∈ [0x0801, 0x0802, 0x0803, 0x0804, 0x0805, 0x0806] then 0
  else if (decide (0x0201 ≤ code) && decide (code ≤ 0x0403)) || code == 0x0506 then 1
  else if code ∈ [0x0102, 0x0501, 0x0502, 0x0504, 0x0505] then 2
  else if code ∈ [0x0807, 0x0808, 0x0809, 0x080B] then 3
  else if code == 0x080A then 5
  else 4

/-- An event-log entry's 64 bytes (Table 14-7). -/
def LogEnt.bytes (e : LogEnt) : List Byte :=
  toLe 4 e.seq.toNat ++ toLe 4 e.boot ++ toLe 4 e.lifeS ++ toLe 2 e.lifeTick ++ toLe 1 e.sev ++ toLe 1 (e.src + 16 * e.mast) ++
    toLe 2 e.code ++ toLe 1 (e.func.getD 0) ++ toLe 1 (b2n e.func.isSome) ++ toLe 4 0 ++ (fit 5 0 e.d).flatMap (toLe 8)

/-- The stores after one entry is written: the always-on store, and with staging the persistent one, whose copy in staging
is written next (R401). -/
def Log.write (l : Log) (persistent : Bool) (e : LogEnt) : Log :=
  let e := { e with seq := l.next }
  let push := fun (cap : Nat) (xs : List LogEnt) => (xs ++ [e]).drop (xs.length + 1 - cap)
  let l := { l with next := l.next + 1, always := push 16384 l.always }
  if persistent then { l with persist := push 524288 l.persist, slot := (l.slot + 1) % 524288, toStage := l.toStage ++ [(l.slot, e)] }
  else l

/-- Is the processor restarting? -/
def State.restarting (s : State) (p : Proc) : Bool := s.procs.restarting.contains p

/-- Log one entry: held or lost while Masthead restarts (R404). -/
def State.logEntry (e : LogEnt) (s : State) : State :=
  if s.restarting .masthead then
    if s.log.held.length < 256 then { s with log := { s.log with held := s.log.held ++ [e] } }
    else { s with log := { s.log with lost := s.log.lost + 1 }, ctr := s.ctr.add (ctrId 0 0 1) 1 }
  else
    { s with log := s.log.write (s.setup.hasStaging && s.glob.power != .pennant) e }

/-- Log an event with its severity, source, Mast, function and data words. -/
def State.logWith (code sev src mast : Nat) (func : Option Nat) (d : List Nat) (s : State) : State :=
  s.logEntry ⟨0, s.pen.boot, s.pen.lifeS, s.pen.lifeTick, sev, src, mast, code, func, (d ++ [0, 0, 0, 0, 0]).take 5⟩

/-- Log an event that concerns no function. -/
def State.logEvent (code : Nat) (d : List Nat) (s : State) : State :=
  s.logWith code (eventSev code) (eventSrc code) 0 none d

/-- Log an event that concerns a function's work. -/
def State.logFn (code f : Nat) (d : List Nat) (s : State) : State :=
  s.logWith code (eventSev code) (eventSrc code) 0 (some f) d

/-- Log an event of a Mast controller. -/
def State.logMast (code mast : Nat) (d : List Nat) (s : State) : State := s.logWith code (eventSev code) 0 mast none d

/-- A control access that the block records (R61, R447, R448, R453). -/
def State.logBadAccess (offset size : Nat) (s : State) : State := s.logEvent 0x0103 [offset, size]

/-! ### Functions, endpoints and addresses -/

/-- The PASID of a function (R337). -/
def State.pasidOf (s : State) (f : Nat) : Nat :=
  if f = 0 then s.glob.pfPasid else ((FMap.find s.fns f).map (·.pasid)).getD 0

/-- Is the endpoint attached to the function? -/
def State.attachedTo (s : State) (ep f : Nat) : Bool :=
  match FMap.find s.eps ep with
  | some x => x.fn == f
  | none => false

/-- The endpoints attached to a function. -/
def State.epsOf (s : State) (f : Nat) : List Nat := (s.eps.filter fun p => p.2.fn == f).map (·.1)

/-- Is the endpoint a drain endpoint (R450)? -/
def Setup.isDrainEp (u : Setup) (ep : Nat) : Bool :=
  u.drainLock && decide (u.drainBase ≤ ep) && decide (ep < u.drainBase + u.drainCount)

/-- The endpoint of a fabric address. -/
def epOf (addr : Nat) : Nat := addr / 2 ^ 52

/-- A fabric address from an endpoint and an offset. -/
def fabAddr (ep off : Nat) : Nat := ep * 2 ^ 52 + off

/-- Change a function. -/
def State.modFn (f : Nat) (g : Fn → Fn) (s : State) : State := { s with fns := FMap.modify s.fns f g }

/-- The function's partition entry in the current rig set. -/
def State.part (s : State) (f : Nat) : PartEnt := FMap.getD s.rigs.cur.part f {}

/-- The function's cadence row. -/
def State.cad (s : State) (f : Nat) : CadRow := FMap.getD s.rigs.cur.cad f CadRow.reset

/-- Do two byte ranges meet? -/
def overlaps (a la b lb : Nat) : Bool := decide (0 < la) && decide (0 < lb) && decide (a < b + lb) && decide (b < a + la)

/-- Does a range lie in another? -/
def within (a la b lb : Nat) : Bool := decide (b ≤ a) && decide (a + la ≤ b + lb)

/-! ### Power (R31, R434) -/

/-- A trigger: IDLE is left for RUN (R31); while Trim restarts it is held and joins the wake that follows. -/
def State.wake (s : State) : State :=
  if s.glob.power = .idle then
    if s.restarting .trim then { s with waking := { s.waking with waiting := true } }
    else { s with glob := { s.glob with power := .run } }
  else s

/-- Does the control target port serve accesses (R62)? -/
def State.ctlReady (s : State) : Bool := s.glob.power = .run || s.glob.power = .idle

/-- Ungate a Yard and its Mast's Tackle cache (R434). -/
def State.ungate (y : Nat) (s : State) : State :=
  { s with yards := FMap.put s.yards y { FMap.getD s.yards y {} with gated := false },
           procs := { s.procs with tackleOn := if s.procs.tackleOn.contains (y / 8) then s.procs.tackleOn
                                               else s.procs.tackleOn ++ [y / 8] } }

/-! ### Links and packets (R43, R46, R54, R465) -/

/-- A fabric link. -/
def State.link (s : State) (p : Nat) : Link := FMap.getD s.links p {}

/-- Change a fabric link. -/
def State.modLink (p : Nat) (g : Link → Link) (s : State) : State :=
  { s with links := FMap.put s.links p (g (s.link p)) }

/-- Is a link's session running (UP or ROLL)? -/
def Link.running (l : Link) : Bool := l.state == .up || l.state == .roll

/-- The usable fabric ports (R465). -/
def State.fabricPorts (s : State) : List Nat := (List.range 32).filter fun p => (s.link p).running

/-- The usable drain ports as ports 32 to 35 (R450, R465). -/
def State.drainPorts (s : State) : List Nat :=
  ((List.range 4).filter fun n => s.setup.drainLock && s.setup.drainPresent.getLsbD n && s.drainUp.contains n).map (32 + ·)

/-- The usable ports toward an endpoint. -/
def State.portsTo (s : State) (ep : Nat) : List Nat :=
  if s.setup.isDrainEp ep then s.drainPorts else s.fabricPorts

/-- The flits of a packet: the header and its data flits. -/
def flitsOf (p : Pkt) (payload : Nat) : Nat := 1 + (if payload = 0 then 0 else ceilDiv (min payload p.len) 64)

/-- What seals the next packet that the block sends at a port: the running session (R52); nothing at a drain port. -/
def State.txSeal (s : State) (port : Nat) : Sealing :=
  let l := s.link port
  if port < 32 && l.running then some (l.txKey, l.tx) else none

/-- What opens the next packet that comes at a port. -/
def State.rxSeal (s : State) (port : Nat) : Sealing :=
  let l := s.link port
  if port < 32 && l.running then some (l.rxKey, l.rx) else none

/-- Send a packet at a port, sealed where a session runs: its counter advances and the flits count (R43, R48, R52). -/
def State.sendAt (port : Nat) (p : Pkt) (payload : List PByte) (s : State) : State :=
  let s := s.emit (.packet port (p.flits (s.txSeal port) payload))
  if port < 32 then
    (s.modLink port fun l => { l with
      tx := if l.running then l.tx + 1 else l.tx, offered := l.offered + flitsOf p payload.length }).count (ctrId 4 port 0)
      (flitsOf p payload.length)
  else s.countBytes (ctrId 6 (port - 32) 0) (64 * flitsOf p payload.length)

/-- A header from the block to an endpoint. -/
def State.pkt (s : State) (cls op dst : Nat) : Pkt := { cls := cls, op := op, src := s.setup.fabEp, dst := dst }

/-- The port of a MSG or BELAY packet: the lowest usable one, but for a BELAY packet the one that the endpoint's BELAY
packets of the epoch go through (R112), while it is usable. Log 82. -/
def State.protoPort (s : State) (p : Pkt) : Option Nat :=
  match if p.cls = 4 then (FMap.find s.eps p.dst).bind fun x => FMap.find x.belayPorts p.argA else none with
  | some q => if (s.portsTo p.dst).contains q then some q else none
  | none => (s.portsTo p.dst).head?

/-- The endpoint's BELAY packets of an epoch go through one port from here on (R112). The record of an epoch without a
generation is dropped. -/
def State.keepPort (p : Pkt) (port : Nat) (s : State) : State :=
  if p.cls ≠ 4 then s
  else { s with eps := FMap.modify s.eps p.dst fun x => { x with
           belayPorts := FMap.put (FMap.keep x.belayPorts fun e _ => s.gens.any (·.epoch == e)) p.argA port } }

/-- Send a MSG or BELAY packet to an endpoint, or put it behind the packets that wait (R112, R465). -/
def State.sendProto (p : Pkt) (payload : List PByte) (s : State) : State :=
  let blocked := s.waitPkts.any fun w => w.1 == 0 && w.2.1.dst == p.dst
  match s.protoPort p with
  | none => { s with waitPkts := s.waitPkts ++ [(0, p, payload)] }
  | some port =>
    if blocked then { s with waitPkts := s.waitPkts ++ [(0, p, payload)] } else (s.keepPort p port).sendAt port p payload

/-! ### Host master port (R59, R60, R337) -/

/-- Issue a host read for a use. -/
def State.hostRead (f addr len : Nat) (use : HostUse) (s : State) : State :=
  let id := s.nextId
  { s with nextId := id + 1, hreqs := s.hreqs ++ [⟨id, use⟩],
           issued := s.issued ++ [.hostRead id (s.pasidOf f) addr len] }

/-- Read a structure that an entry points to, or an entry of a ring, under a function's PASID, at most 4,096 B a request (R59,
R337). What the reads returned is the operand of a command. -/
def State.readHost (f addr len : Nat) (s : State) : State :=
  (List.range (ceilDiv len 4096)).foldl (fun s i =>
    s.emit (.hostRead 0 (s.pasidOf f) (addr + 4096 * i) (min 4096 (len - 4096 * i)))) s

/-- The reads of a structure whose bytes came back, or of which one was answered with an error. -/
def State.readStruct (f addr : Nat) (r : HostRead) (s : State) : State :=
  match r with
  | .data bs => s.readHost f addr bs.length
  | .error => s.readHost f addr 64

/-- Issue a host write for a use. -/
def State.hostWrite (f addr : Nat) (bs : List Byte) (use : HostUse) (s : State) : State :=
  let id := s.nextId
  { s with nextId := id + 1, hreqs := s.hreqs ++ [⟨id, use⟩],
           issued := s.issued ++ [.hostWrite id (s.pasidOf f) addr bs] }

/-! ### Orphan report (R350) -/

/-- Change the report of an ORPHANED function. -/
def State.report (f : Nat) (g : Orphan → Orphan) (s : State) : State :=
  s.modFn f fun x => if x.orphan.orphaned then { x with orphan := g x.orphan } else x

/-- A 16-bit saturating count. -/
def sat16 (n : Nat) : Nat := min n 0xFFFF

/-- An entry of a function has completed with a status: its completion is written, or NO_CQE suppresses it. -/
def State.countDone (f status : Nat) (s : State) : State :=
  s.report f fun o => { o with
    done := min (o.done + 1) 0xFFFFFFFF
    errors := if 0x20 ≤ status then sat16 (o.errors + 1) else o.errors
    waitsTimedOut := if status = 0x60 then sat16 (o.waitsTimedOut + 1) else o.waitsTimedOut }

/-! ### Completion rings (R83 to R85) -/

/-- The number of entries of a ring. -/
def ringSize (log2 : Nat) : Nat := 2 ^ log2

/-- Is the completion ring full (R84)? -/
def Cq.full (c : Cq) : Bool := (c.tail + 1) % ringSize c.log2 == c.head

/-- A completion's 16 bytes (Table 3-7). -/
def Completion.bytes (c : Completion) (phase : Bool) : List Byte :=
  toLe 4 c.tag ++ toLe 1 c.status ++ toLe 3 (c.sqId * 2 ^ 12 + 2 * b2n c.more + b2n phase) ++ toLe 8 c.info

/-- Raise the ring's interrupt (R85). -/
def State.interrupt (q : Nat) (s : State) : State :=
  match FMap.find s.cqs q with
  | none => s
  | some c =>
    let s := { s with cqs := FMap.put s.cqs q { c with unsig := 0, firstUnsig := none } }
    if c.intAddr = 0 then s else s.hostWrite c.fn c.intAddr (toLe 4 c.intData) (.interrupt q)

/-- Write a completion at the ring's tail and signal it as the coalescing settings ask (R83, R85); it counts now (R350). -/
def State.placeCompletion (q : Nat) (c : Completion) (s : State) : State :=
  match FMap.find s.cqs q with
  | none => s
  | some r =>
    let tail := (r.tail + 1) % ringSize r.log2
    let r' := { r with tail := tail, phase := if tail = 0 then !r.phase else r.phase, unsig := r.unsig + 1,
                       firstUnsig := r.firstUnsig.orElse fun _ => some s.now }
    let s := ({ s with cqs := FMap.put s.cqs q r' }.hostWrite r.fn (r.base + 16 * r.tail) (c.bytes r.phase)
      (.completion q r.tail)).countDone r.fn c.status
    if r.intAddr = 0 || (decide (r'.unsig < max 1 r.coalCount) && decide (c.status < 0x80)) then s else s.interrupt q

/-- Write a completion, or hold it while the ring is full or halted (R84, R96). -/
def State.writeCompletion (q : Nat) (c : Completion) (s : State) : State :=
  match FMap.find s.cqs q with
  | none => s
  | some r =>
    if r.state = .running && !r.full && r.held.isEmpty then s.placeCompletion q c
    else { s with cqs := FMap.put s.cqs q { r with held := r.held ++ [c] } }

/-- Write the held completions that a ring has room for (R84). Fuel is their number. -/
def State.flushHeld (q : Nat) : Nat → State → State
  | 0, s => s
  | f + 1, s =>
    match FMap.find s.cqs q with
    | none => s
    | some r =>
      match r.held with
      | [] => s
      | c :: rest =>
        if r.state = .running && !r.full then
          flushHeld q f ({ s with cqs := FMap.put s.cqs q { r with held := rest } }.placeCompletion q c)
        else s

/-- Write what a ring holds and has room for, but in IDLE, where the host master port issues ring-entry fetches only (R40, R84). -/
def State.flushRing (q : Nat) (s : State) : State :=
  match FMap.find s.cqs q with
  | some r => if s.glob.power = .idle then s else s.flushHeld q r.held.length
  | none => s

/-! ### Entries under way -/

/-- The accepted entry with a number. -/
def State.acc (s : State) (e : Nat) : Option Acc := s.accepted.find? (·.id == e)

/-- Change an accepted entry. -/
def State.modAcc (e : Nat) (g : Acc → Acc) (s : State) : State :=
  { s with accepted := s.accepted.map fun a => if a.id = e then g a else a }

/-- Is the INFO of a status a count over the whole entry (R97, R461), so that the entry meets it once? -/
def countedOnce (status : Nat) : Bool := status == 0x20 || status == 0x22

/-- An entry meets a condition (R86): each is a condition of its own, but for those whose INFO counts over the entry. -/
def State.meet (e status info : Nat) (s : State) : State :=
  s.modAcc e fun a =>
    if a.fin.isNone && !(countedOnce status && a.conds.contains ⟨status, info⟩) then { a with conds := a.conds ++ [⟨status, info⟩] }
    else a

/-- An entry meets a condition whose status it does not hold yet. -/
def State.meetOnce (e status info : Nat) (s : State) : State :=
  s.modAcc e fun a => if a.fin.isNone && !(a.conds.any (·.status == status)) then { a with conds := a.conds ++ [⟨status, info⟩] } else a

/-- The entry's own work has ended: its signal and its completion follow (R82). -/
def State.endEntry (e okInfo : Nat) (s : State) : State :=
  s.modAcc e fun a => if a.fin.isNone then { a with fin := some okInfo } else a

/-- End an entry with one status. -/
def State.failEntry (e status info : Nat) (s : State) : State := (s.meet e status info).endEntry e 0

/-- The condition that a completion carries: the highest class, within it the first met (R86). -/
def chosen (cs : List Cond) : Option Cond :=
  cs.foldl (fun acc c =>
    match acc with
    | none => some c
    | some b => if b.status / 16 < c.status / 16 then some c else some b) none

/-- The class of what an entry would complete with; 0 for OK. -/
def Acc.cls (a : Acc) : Nat := ((chosen a.conds).map (·.status / 16)).getD 0

/-- Does the entry still owe its header signal (R82)? -/
def Acc.owesSignal (a : Acc) : Bool := a.hdr.sig && !a.sigSent && !(decide (4 ≤ a.cls))

/-! ### Queue halts (R88, R94, R327) -/

/-- Move a submission queue to HALTED, DISABLED or DESTROYING: its cache is discarded and its head frozen (R88). -/
def Sq.stop (q : Sq) (st : SqState) : Sq := { q with state := st, cache := [] }

/-- Halt one queue (R327). R327 moves a queue that is DISABLED by then as well, which Table 3-8's row of DISABLED does not list: log 34,
DESIGN CHOICE. -/
def State.haltQueue (q : Nat) (s : State) : State :=
  { s with sqs := FMap.modify s.sqs q fun x => if x.state = .running || x.state = .disabled then x.stop .halted else x }

/-- Halt every submission queue of a function; queue 0 is not part of function 0's halt (R94). -/
def State.haltQueuesOf (f : Nat) (s : State) : State :=
  { s with sqs := FMap.mapV s.sqs fun k x =>
      if x.fn = f && k ≠ 0 && (x.state = .running || x.state = .disabled) then x.stop .halted else x }

/-- Halt a function with its cause, index and queue (R94, R175). An ORPHANED function, which leaves that state only through SLICE_RESET,
SLICE_FREEZE or R96, stays as it is, and so do its queues (R349, R351, Table 12-3; log 36). -/
def State.haltFn (f cause index qid : Nat) (s : State) : State :=
  if ((FMap.find s.fns f).map (·.state)) == some .orphaned then s else
  (s.haltQueuesOf f).modFn f fun x =>
    if x.state = .halted || x.state = .frozen then x
    else { x with state := .halted, haltCause := cause, haltIndex := index, haltQid := qid }

/-- Set a bit of GLOBAL_FAULT (Table 16-6). -/
def State.setFault (bit : Nat) (s : State) : State :=
  { s with glob := { s.glob with fault := s.glob.fault ||| (1#16 <<< bit) } }

/-- Are a function's queues halted, so that R91 applies? A function in HALTED, or one whose submission queues, if it
has any, are all HALTED. -/
def State.queuesHalted (s : State) (f : Nat) : Bool :=
  let qs := s.sqs.filter fun p => p.2.fn == f && p.2.state != .absent
  ((FMap.find s.fns f).map (·.state)) == some .halted || (!qs.isEmpty && qs.all fun p => p.2.state == .halted)

/-- Are all queues of a function halted, so that the writes of its doorbells are ignored (R77)? The admin queue, one of function
0's queues, is no part of its halt (R94). -/
def State.doorbellsOff (s : State) (f : Nat) : Bool :=
  s.queuesHalted f && (f != 0 || ((FMap.find s.sqs 0).map fun q => q.state == .halted).getD true)

/-! ### Heartbeats and orphaning (R348, R349, R375) -/

/-- The heartbeat interval of a function in AO ticks (R375). -/
def State.hbTicks (s : State) (f : Nat) : Nat := FMap.getD s.hbInt f 0x40 * 1024

/-- Move a function to ORPHANED (R348, R349): persistent Sheets lose a pending re-arm. -/
def State.orphan (f : Nat) (s : State) : State :=
  let s := s.modFn f fun x => { x with state := .orphaned, missed := false, orphan :=
    { orphaned := true, life := s.pen.lifeS, boot := s.pen.boot } }
  let s := { s with sheets := FMap.mapV s.sheets fun _ h => if h.fn = f then { h with pend := none } else h }
  s.logFn 0x0204 f [s.pen.lifeS]

/-- Restart a function's heartbeat interval (R375). -/
def State.restartBeat (f : Nat) (s : State) : State := s.modFn f fun x => { x with beat := s.now, missed := false }

end Sys2Proof.Machine
end

