-- ==== Sys2Proof/Machine/Cleats.lean ====
section
/-! DEFINITION. Cleats: ownership, signals, waits, binding and clearing (R277 to R291), and the sending of CLEAT SIGNAL
packets (R281, R465). -/

namespace Sys2Proof.Machine

/-- The largest count of a Cleat. -/
def cleatMax : Nat := 2147483647

/-- A Cleat's count. -/
def State.cleat (s : State) (c : Nat) : Nat := NMap.get s.cleats c

/-- Set a Cleat's count. -/
def State.setCleat (c n : Nat) (s : State) : State := { s with cleats := NMap.set s.cleats c n }

/-- The owner of a Cleat under a partition (R278). -/
def cleatOwnerIn (part : FMap PartEnt) (c : Nat) : Nat :=
  match part.find? fun p => p.1 != 0 && decide (p.2.cleatBase ≤ c) && decide (c < p.2.cleatBase + p.2.cleatCount) with
  | some p => p.1
  | none => 0

/-- The function that owns a Cleat (R278). -/
def State.cleatOwner (s : State) (c : Nat) : Nat := cleatOwnerIn s.rigs.cur.part c

/-- The Sheet that a Cleat is bound to as release Cleat (R289). -/
def State.boundSheet (s : State) (c : Nat) : Option Nat :=
  (s.sheets.find? fun p => p.2.cur.dim.releaseCleat == c).map (·.1)

/-- The Cleat that an entry waits on, with its threshold. -/
def Acc.waitsOn (a : Acc) : Option (Nat × Nat) :=
  match a.op with
  | .cleatWait c t _ => if a.phase = .waiting && a.fin.isNone then some (c, t) else none
  | _ => none

/-- The pending waits of a Cleat in acceptance order. -/
def State.waitsOf (s : State) (c : Nat) : List Acc :=
  s.accepted.filter fun a => (a.waitsOn.map (·.1)) == some c

/-- INFO of the Cleat statuses (Table 9-2). -/
def cleatInfo (c q count : Nat) : Nat := c + q * 2 ^ 16 + count * 2 ^ 32

/-- One due wait of an evaluation (R284). -/
def State.serveWait (c : Nat) (a : Acc) (s : State) : State :=
  let t := (a.waitsOn.map (·.2)).getD 0
  if s.cleat c < t then s.failEntry a.id 0x61 (cleatInfo c a.sq (s.cleat c))
  else (s.setCleat c (s.cleat c - t)).endEntry a.id (s.cleat c - t)

/-- Evaluate a Cleat's pending waits (R284): those that the count reaches now, in acceptance order. -/
def State.evaluate (c : Nat) (s : State) : State :=
  ((s.waitsOf c).filter fun a => decide ((a.waitsOn.map (·.2)).getD 0 ≤ s.cleat c)).foldl
    (fun s a => s.serveWait c a) s

/-- Take the units of a bound Cleat while L < W (R256). -/
def State.takeUnits (h : Nat) (s : State) : State :=
  match FMap.find s.sheets h with
  | none => s
  | some x =>
    let c := x.cur.dim.releaseCleat
    let n := min (s.cleat c) (x.w - x.l)
    if n = 0 then s
    else
      ({ s with sheets := FMap.put s.sheets h { x with l := x.l + n, tS := s.laneCycle } }.setCleat c
        (s.cleat c - n)).count (ctrId 0xA h 1) n

/-- Apply a signal to a block Cleat (R280, R285, R290): true when it would overflow, and then nothing is applied. -/
def State.applySignal (c n : Nat) (s : State) : Bool × State :=
  let owner := s.cleatOwner c
  if ((FMap.find s.fns owner).map (·.resetting)).getD false then (false, s)
  else if cleatMax < s.cleat c + n then (true, s)
  else
    let s := s.setCleat c (s.cleat c + n)
    match s.boundSheet c with
    | some h =>
      let room := ((FMap.find s.sheets h).map fun x => x.w - x.l).getD 0
      (false, (s.count (ctrId 0xA h 14) (n - min n room)).takeUnits h)
    | none => (false, s.evaluate c)

/-- A signal that arrives from the fabric (R279, R280, R285). -/
def State.fabricSignal (src c n : Nat) (s : State) : State :=
  let owner := s.cleatOwner c
  if !s.attachedTo src owner then
    (s.bump (ctrId 7 owner 1)).logFn 0x0402 owner [src, c]
  else
    match s.applySignal c n with
    | (false, s) => s
    | (true, s) => (s.bump (ctrId 7 owner 2)).logFn 0x0403 owner [src, c]

/-- The CLEAT SIGNAL packet to an accelerator's Cleat (Table 2-4). -/
def State.signalPkt (s : State) (ep c n : Nat) : Pkt :=
  { s.pkt 0x5 0x01 ep with sig := true, sigCount := n, cleat := c }

/-- An entry's signal to a block Cleat: applied, or OVERFLOW met (R285). -/
def State.entrySignalOwn (e c n : Nat) (s : State) : State :=
  let q := ((s.acc e).map (·.sq)).getD 0
  match s.applySignal c n with
  | (false, s) => s.modAcc e fun a => { a with sigSent := true }
  | (true, s) =>
    s.modAcc e fun a => { a with sigSent := true, conds := a.conds ++ [⟨0x62, cleatInfo c q (s.cleat c)⟩] }

/-- An entry's CLEAT SIGNAL packet has left: a CLEAT_SIGNAL entry ends with it (R281), a header signal is sent (R82). -/
def State.signalGone (e : Nat) (s : State) : State :=
  s.modAcc e fun a => if a.fin.isNone then { a with fin := some 0, sigWait := false } else { a with sigSent := true, sigWait := false }

/-- An entry's signal to an accelerator's Cleat: sent, or waiting for a usable port (R465). -/
def State.entrySignalFar (e ep c n : Nat) (s : State) : State :=
  let f := ((s.acc e).map (·.fn)).getD 0
  let p := { s.signalPkt ep c n with slice := f }
  match s.portsTo ep with
  | port :: _ => (s.sendAt port p []).signalGone e
  | [] => { s with waitPkts := s.waitPkts ++ [(e, p, [])] }.modAcc e fun a => { a with sigWait := true, tick := s.now }

/-- The signal that an entry owes when its own work has ended (R82). -/
def State.entrySignal (e c n ep : Nat) (s : State) : State :=
  if ep = s.setup.fabEp then s.entrySignalOwn e c n else s.entrySignalFar e ep c n

/-- A PAUSE release (R122, R285): to a block Cleat, or as a packet to the endpoint that holds it. R465 bounds the wait of a
signal that an entry sends, and names no bound for this one: it waits as the protocol packets do (log 82, DESIGN CHOICE). -/
def State.pauseSignal (job f ep c : Nat) (s : State) : State :=
  if ep = s.setup.fabEp then
    match s.applySignal c 1 with
    | (false, s) => s
    | (true, s) => s.logFn 0x0403 f [job, c]
  else s.sendProto { s.signalPkt ep c 1 with slice := f } []

/-- Bind a release Cleat: its count is zero and its waits end with CONFLICT (R289). -/
def State.bindCleat (c : Nat) (s : State) : State :=
  ((s.waitsOf c).foldl (fun s a => s.failEntry a.id 0x40 16) s).setCleat c 0

/-- Clear every Cleat that a function owns (R290). -/
def State.clearCleatsOf (f : Nat) (s : State) : State :=
  { s with cleats := FMap.keep s.cleats fun c _ => s.cleatOwner c != f }

/-- The header signal's refusals (R279): at acceptance, by the entry's function. -/
def State.signalRefusal (s : State) (f : Nat) (h : Hdr) : Option Cond :=
  if !h.sig then none
  else if h.sigEp = s.setup.fabEp then
    if s.cleatOwner h.cleatId = f then none else some ⟨0x40, 8⟩
  else if s.attachedTo h.sigEp f then none
  else some ⟨0x40, 12⟩

/-- Send the packets that waited for a port, in order, as far as they have one now (R112, R465). -/
def State.flushPkts (s : State) : State :=
  s.waitPkts.foldl (fun s w =>
    if w.1 = 0 then s.sendProto w.2.1 w.2.2
    else
      match s.portsTo w.2.1.dst with
      | port :: _ => (s.sendAt port w.2.1 []).signalGone w.1
      | [] => { s with waitPkts := s.waitPkts ++ [w] }) { s with waitPkts := [] }

end Sys2Proof.Machine
end

