-- ==== Sys2Proof/Machine/Flags.lean ====
section
/-! DEFINITION. The status that the block computes: lanes and spares (R17, R18, R420, R423), the global status and fault
lines (R66, R432, R445), function, queue, Yard and Mast status (R452 to R456). -/

namespace Sys2Proof.Machine

/-! ### Lanes (R17, R18, R420, R423) -/

/-- The two spare lanes of a Yard, lower first (R18). -/
def State.spareMap (s : State) (y : Nat) : Nat × Nat := FMap.getD s.pen.inForce.spares y (32, 33)

/-- The logical number of a physical lane; none for a spare (R18). -/
def logicalOf (sp : Nat × Nat) (p : Nat) : Option Nat :=
  if p = sp.1 || p = sp.2 then none
  else some ((List.range p).filter fun q => q != sp.1 && q != sp.2).length

/-- The physical lane of a logical number (R18). -/
def physicalOf (sp : Nat × Nat) (k : Nat) : Nat :=
  ((List.range 34).filter fun q => q != sp.1 && q != sp.2).getD k 0

/-- A Yard's registers. -/
def State.yard (s : State) (y : Nat) : Yard := FMap.getD s.yards y {}

/-- Change a Yard. -/
def State.modYard (y : Nat) (g : Yard → Yard) (s : State) : State := { s with yards := FMap.put s.yards y (g (s.yard y)) }

/-- Is a logical lane served: by its own physical lane, or by a stand-in (R423)? -/
def Yard.serves (v : Yard) (sp : Nat × Nat) (k : Nat) : Bool :=
  !v.fenced.contains (physicalOf sp k) || v.standA == some k || v.standB == some k

/-- The logical number that a physical lane serves. -/
def Yard.servesAs (v : Yard) (sp : Nat × Nat) (p : Nat) : Option Nat :=
  if v.fenced.contains p then none
  else if p = sp.1 then v.standA
  else if p = sp.2 then v.standB
  else logicalOf sp p

/-- The number that a spare stands in for from here on; a lane that is no spare keeps its own. -/
def Yard.stand (sp : Nat × Nat) (p : Nat) (k : Option Nat) (v : Yard) : Yard :=
  if p = sp.1 then { v with standA := k } else if p = sp.2 then { v with standB := k } else v

/-- The lane under test in a Yard: one at a time (R426). -/
def State.trialOf (s : State) (y : Nat) : Option Trial := s.tests.trials.find? fun t => t.lane / 34 == y

/-- The number under which a physical lane moves transfers: 32 + p for a lane p under test whose own number a spare serves (R426). -/
def State.numberOf (s : State) (y p : Nat) : Option Nat :=
  let own := (s.yard y).servesAs (s.spareMap y) p
  match s.trialOf y with
  | some t => if t.lane % 34 = p && t.under.isSome then some (32 + p) else own
  | none => own

/-- Is dispatch withheld from a number, because its lane is under test and no spare serves it (R426)? -/
def State.withheld (s : State) (y k : Nat) : Bool :=
  match s.trialOf y with
  | some t => t.under.isNone && s.numberOf y (t.lane % 34) == some k
  | none => false

/-- The usable logical lanes of a Yard (R423). -/
def State.usable (s : State) (y : Nat) : Nat :=
  match FMap.find s.yards y with
  | none => 32
  | some v => ((List.range 32).filter (v.serves (s.spareMap y))).length

/-- The usable lanes of the block. -/
def State.usableLanes (s : State) : Nat := ((List.range 64).map s.usable).foldl (· + ·) 0

/-- The spares of a Yard that are available (R420), as physical lanes: a spare that failed a self-test is fenced (R426). -/
def State.sparesFree (s : State) (y : Nat) : List Nat :=
  let v := s.yard y
  let sp := s.spareMap y
  let ok := fun (p : Nat) (use : Option Nat) => use.isNone && !v.fenced.contains p
  (if ok sp.1 v.standA then [sp.1] else []) ++ (if ok sp.2 v.standB then [sp.2] else [])

/-- The slices that exist. -/
def State.slices (s : State) : FMap Fn := FMap.keep s.fns fun k _ => k != 0

/-- A sum over the slices. -/
def State.sliceSum (s : State) (g : Fn → Nat) : Nat := (s.slices.map fun p => g p.2).foldl (· + ·) 0

/-! ### Lane shares (R340, R343, R424) -/

/-- The slice from whose share a lane is taken next: the largest share above its floor of 32 lanes per attached endpoint. -/
def largestShare (floor : Nat → Nat) (m : FMap Nat) : Option Nat :=
  ((m.filter fun p => decide (floor p.1 < p.2)).foldl (fun acc p =>
    match acc with
    | none => some p
    | some b => if b.2 < p.2 then some p else some b) (none : Option (Nat × Nat))).map (·.1)

/-- Take n lanes from the slices' shares. -/
def reduceShares (floor : Nat → Nat) : Nat → FMap Nat → FMap Nat
  | 0, m => m
  | n + 1, m =>
    match largestShare floor m with
    | some f => reduceShares floor n (FMap.modify m f (· - 1))
    | none => m

/-- The lanes that a slice's attached endpoints draw (R343). -/
def State.laneFloor (s : State) (f : Nat) : Nat := 32 * (s.epsOf f).length

/-- The slices' shares as the usable lanes allow them (R424). -/
def State.shares (s : State) : FMap Nat :=
  let m : FMap Nat := s.slices.map fun p => (p.1, p.2.lanes)
  reduceShares s.laneFloor (s.sliceSum (·.lanes) - s.usableLanes) m

/-- The lanes by which the slices' shares are reduced (R424). -/
def State.shareLoss (s : State) : Nat := s.sliceSum (·.lanes) - (s.shares.map (·.2)).foldl (· + ·) 0

/-- Are the slices' shares reduced? -/
def State.sharesCut (s : State) : Bool := s.shareLoss != 0

/-- YARD_DEGRADED (R442). -/
def State.logDegraded (y : Nat) (s : State) : State :=
  s.logMast 0x0806 (y / 8) [y, s.usable y, s.usableLanes, b2n s.sharesCut]

/-- A command made the slices' shares larger: a reduction beyond the lanes by which they were reduced before is logged, for the lowest
Yard that runs short (R424). Log 26. -/
def State.logCut (loss : Nat) (s : State) : State :=
  if s.shareLoss ≤ loss then s else s.logDegraded (((s.yards.filter (·.2.degraded)).map (·.1)).headD 0)

/-- CAPACITY_SHORT: the floors exceed the usable lanes (R424). -/
def State.capacityShort (s : State) : Bool :=
  decide (s.usableLanes < (s.slices.map fun p => s.laneFloor p.1).foldl (· + ·) 0)

/-! ### Global status -/

/-- FAULT_N asserted (R66, R367, R432): a fault bit is set, or the block is in reset, boot or RECOVERY. -/
def State.faultN (s : State) : Bool :=
  s.glob.fault != 0 || s.glob.porstLow || s.glob.blkRstLow || s.glob.power == .held || s.glob.power == .boot || s.glob.recovery

/-- Is a fuse field blank? -/
def blank (key : List Byte) : Bool := key.all (· == 0)

/-- A word from fields given as a value and its low bit. -/
def fields (fs : List (Nat × Nat)) : Word := BitVec.ofNat 32 (fs.foldl (fun n f => n + f.1 * 2 ^ f.2) 0)

/-- GLOBAL_STATUS (Table 16-5). -/
def State.globalStatus (s : State) : Word :=
  fields [(b2n s.glob.ready, 31), (b2n s.glob.recovery, 30), (b2n s.glob.halted, 29), (b2n (blank s.pen.linkRoot), 28),
    (b2n s.setup.tieoffErr, 27), (b2n s.setup.hasStaging, 26), (b2n s.glob.mainstayUnpaired, 25),
    (b2n s.capacityShort, 24), (b2n s.glob.throttled, 23), (b2n (s.glob.power == .idle), 22)]

/-- LOCK (Table 16-8). -/
def State.lockReg (s : State) : Word :=
  fields [(b2n !s.glob.debugUnlocked, 31), (b2n s.setup.sensorLock, 2), (b2n s.setup.drainLock, 1), (b2n s.setup.fabLock, 0)]

/-- The level of an SB line: a second fault output (use 2) is low while FAULT_N is asserted (R67, R432); any other line shows its
input. -/
def State.sbLevel (s : State) (n : Nat) : Bool := if s.rigs.cur.sb.getD n 0 = 2 then !s.faultN else s.glob.sbHigh.getLsbD n

/-- SB_STATUS (Table 16-10). -/
def State.sbStatus (s : State) : Word :=
  fields ((List.range 4).map (fun n => (s.rigs.cur.sb.getD n 0, 16 + 4 * n)) ++
    [(b2n s.faultN, 7), (b2n s.glob.preemptHigh, 6), (b2n s.glob.wakeHigh, 5), (b2n s.glob.pmbHigh, 4),
     (((List.range 4).map fun n => b2n (s.sbLevel n) * 2 ^ n).foldl (· + ·) 0, 0)])

/-- The code of a link state (Table 16-12). -/
def LinkState.code : LinkState → Nat
  | .down => 0
  | .hello => 1
  | .up => 2
  | .roll => 3
  | .stopped => 4

/-- LINK_STATE[i] (Table 16-12). -/
def State.linkStateReg (s : State) (i : Nat) : Word :=
  fields ((List.range 8).map fun j => ((s.link (8 * i + j)).state.code, 4 * j))

/-- S_Y of a rig set (R261). -/
def RigSet.perYard (r : RigSet) : Nat := (16 - r.ckptFloor) / r.sheetFloor

/-- The lane share of a function (R340, R424): the physical function's absorbs a loss of lanes first. -/
def State.lanesOf (s : State) (f : Nat) : Nat :=
  if f = 0 then s.usableLanes - s.sliceSum (·.lanes) else FMap.getD s.shares f 0

/-- The Sheet budget of a function (R340). -/
def State.sheetsOf (s : State) (f : Nat) : Nat :=
  if f = 0 then 64 * s.rigs.cur.perYard - s.sliceSum (·.sheets) else ((FMap.find s.fns f).map (·.sheets)).getD 0

/-- The queue count of a function (R340). -/
def State.queuesOf (s : State) (f : Nat) : Nat :=
  if f = 0 then 255 else ((FMap.find s.fns f).map (·.queues)).getD 0

/-! ### Function pages (Table 16-15) -/

/-- The code of a function's state. -/
def FnState.code : FnState → Nat
  | .active => 1
  | .halted => 2
  | .orphaned => 3
  | .frozen => 4

/-- Is work of the function still running anywhere in the block (Table 12-5)? -/
def State.fnBusy (s : State) (f : Nat) : Bool :=
  s.accepted.any (·.fn == f) || s.sheets.any (·.2.fn == f) || s.xfers.any (·.2.fn == f)

/-- A register of the function page of an existing function (R454). -/
def State.fnReg (s : State) (f : Nat) (x : Fn) (o : Nat) : Word :=
  let r := x.orphan
  let busy := if r.orphaned then s.fnBusy f else false
  match o with
  | 0x000 => fields [(x.state.code, 29), (x.haltCause, 24), (s.pasidOf f, 0)]
  | 0x004 => fields [(x.haltIndex, 16), (x.haltQid, 0)]
  | 0x00C => fields [(FMap.getD s.hbInt f 0x40, 0)]
  | 0x010 => fields [(s.lanesOf f % 4096, 16), (s.queuesOf f % 512, 0)]
  | 0x014 => fields [((s.epsOf f).length % 32, 16), (s.sheetsOf f % 1024, 0)]
  | 0x018 => fields [(b2n x.resize.isSome, 0)]
  | 0x020 => BitVec.ofNat 32 x.quotaBase
  | 0x028 => BitVec.ofNat 32 x.quotaLen
  | 0x040 => fields [(b2n r.orphaned, 31), (b2n busy, 30)]
  | 0x044 => BitVec.ofNat 32 r.life
  | 0x048 => BitVec.ofNat 32 r.boot
  | 0x04C => BitVec.ofNat 32 r.done
  | 0x050 => fields [(r.errors, 16), (r.gensProtected, 0)]
  | 0x054 => fields [(r.gensDrained, 16), (r.sheetsStopped, 0)]
  | 0x058 => fields [(r.waitsTimedOut, 0)]
  | 0x060 => BitVec.ofNat 32 r.lastEpoch
  | _ => 0

/-! ### Queues (Tables 3-3, 3-5) -/

/-- The code of a submission queue's state. -/
def SqState.code : SqState → Nat
  | .absent => 0
  | .running => 1
  | .disabled => 2
  | .halted => 3
  | .destroying => 4

/-- The code of a completion ring's state. -/
def CqState.code : CqState → Nat
  | .absent => 0
  | .running => 1
  | .halted => 3

/-- The submission queue of a function's local slot. -/
def State.sqAt (s : State) (f slot : Nat) : Option (Nat × Sq) :=
  s.sqs.find? fun p => p.2.fn == f && p.2.slot == slot && p.2.state != .absent

/-- The completion ring of a function's local slot. -/
def State.cqAt (s : State) (f slot : Nat) : Option (Nat × Cq) :=
  s.cqs.find? fun p => p.2.fn == f && p.2.slot == slot && p.2.state != .absent

/-- SQ_HEAD of a slot. -/
def State.sqHead (s : State) (f slot : Nat) : Word :=
  match s.sqAt f slot with
  | none => 0
  | some (_, q) => fields [(q.state.code, 29), (q.head, 0)]

/-- CQ_TAIL of a slot. -/
def State.cqTail (s : State) (f slot : Nat) : Word :=
  match s.cqAt f slot with
  | none => 0
  | some (_, r) => fields [(r.state.code, 29), (b2n r.full, 28), (r.tail, 0)]

/-! ### Yards and Masts (Table 16-16) -/

/-- A stand-in field. -/
def standField (v : Option Nat) : Nat := v.getD 0x3F

/-- A register of a Yard's block. -/
def State.yardReg (s : State) (y o : Nat) : Word :=
  let v := s.yard y
  let sp := s.spareMap y
  let fence := v.fenced.foldl (fun n k => n ||| (1 <<< k)) 0
  match o with
  | 0x00 => fields [(b2n v.gated, 31), (b2n v.degraded, 30), ((s.sparesFree y).length, 6), (s.usable y, 0)]
  | 0x04 => BitVec.ofNat 32 fence
  | 0x08 => BitVec.ofNat 32 (fence >>> 32)
  | 0x0C => fields [(standField v.standB, 24), (standField v.standA, 16), (sp.2, 8), (sp.1, 0)]
  | _ => 0

/-- MAST_STATUS. -/
def State.mastReg (s : State) (m : Nat) : Word :=
  let d := if s.procs.orphanMasts.contains m then 2
    else if (FMap.find s.procs.adopted m).isSome then 1 else 0
  fields [(d, 30), (b2n !s.procs.tackleOn.contains m, 29)]

/-! ### Mailbox (Table 16-17) -/

/-- MB_STATUS. -/
def State.mbStatus (s : State) : Word :=
  fields [(b2n s.mb.notReady, 31), (b2n s.mb.outstanding.isSome, 30), (b2n s.mb.done, 29), (b2n s.mb.rom, 28)]

end Sys2Proof.Machine
end

