-- ==== Sys2Proof/Machine/Xfers.lean ====
section
/-! DEFINITION. Transfers: the pieces that lanes move between ports and Yard SRAM (R19, R24, R354), the requests that they
issue at the fabric, staging and host ports (R45, R46, R57, R59), and the bytes that come back. -/

namespace Sys2Proof.Machine

/-! ### Pieces -/

/-- A length cut at multiples of n: offset and bytes of each piece. -/
def spans (len n : Nat) : List (Nat × Nat) := (List.range (ceilDiv len n)).map fun i => (i * n, min n (len - i * n))

/-- A length cut at segment boundaries (R24). -/
def piecesOf (len : Nat) : List (Nat × Nat) := spans len segBytes

/-- The place a number of bytes further on. -/
def Loc.shift (l : Loc) (n : Nat) : Loc :=
  match l with
  | .fabric a => .fabric (a + n)
  | .staging o => .staging (o + n)
  | .host p a => .host p (a + n)

/-- A place to read. -/
def Part.at (l : Loc) (len : Nat) : Part := { loc := l, len := len }

/-- A place to write with the bytes to write there. -/
def Part.load (l : Loc) (bs : List PByte) : Part := { loc := l, len := bs.length, chunks := [(0, bs)] }

/-- Widen poison marks to units of n bytes (R322: words of 8 B; R48: flits of 64 B). -/
def widen (n : Nat) (bs : List PByte) : List PByte :=
  ((chunks n bs).map fun c => if anyPoison c then c.map fun b => { b with poison := true } else c).flatten

/-- The bytes of a part as its Yard buffer holds them: what came; zero, poison-marked bytes where a part failed (R49, R59, R97);
and zero for what was not written since the buffer was allocated (R360). The buffer's tag is the transfer's function, and the
chunks are its written map. -/
def Part.stored (p : Part) : List PByte :=
  widen 8 (p.chunks.foldl (fun acc c => overlay acc c.1 c.2) (List.replicate p.len (if p.failed then PByte.bad else PByte.zero)))

/-- The bytes of a part as a read of its Yard buffer delivers them (R321, R325, R327). -/
def Part.bytes (p : Part) : List PByte := p.flips.foldl deliverFlip p.stored

/-- Bytes are written into a part's Yard buffer: an armed flip strikes the first word, and words that are written anew are whole
again (R325, R335). -/
def Part.write (off : Nat) (bs : List PByte) (flip : Option (Nat × Byte)) (p : Part) : Part :=
  { p with
    chunks := FMap.put p.chunks off bs
    flips := (p.flips.filter fun f => !within f.1 1 off bs.length) ++ (flip.map fun f => (off / 8 * 8, f.2)).toList }

/-- What an armed flip strikes where parts are written into Yard buffers: the first word (R335). -/
def strike (flip : Option (Nat × Byte)) (ps : List Part) : List Part :=
  match flip, ps with
  | some f, p :: rest => { p with flips := [(0, f.2)] } :: rest
  | _, ps => ps

/-- The place that a space code and an address of a function's entry name (R98, R342). -/
def State.locOf (s : State) (f : Nat) (sp : Space) (addr : Nat) : Loc :=
  match sp with
  | .fabric => .fabric addr
  | .staging => .staging (((FMap.find s.fns f).map (·.quotaBase)).getD 0 + addr)
  | .host => .host (s.pasidOf f) addr

/-! ### The store of transfers -/

/-- Queue a transfer for dispatch. -/
def State.queueXfer (fn : Nat) (w : Work) (srcs dsts : List Part) (s : State) : State :=
  let id := s.nextId
  { s with nextId := id + 1, xfers := FMap.put s.xfers id { id := id, fn := fn, work := w, srcs := srcs, dsts := dsts } }

/-- Change a transfer. -/
def State.modXfer (x : Nat) (g : Xfer → Xfer) (s : State) : State := { s with xfers := FMap.modify s.xfers x g }

/-- Is a port request of the transfer outstanding? -/
def State.owes (s : State) (x : Nat) : Bool :=
  s.freqs.any (·.xfer == x) || s.sreqs.any (fun r => r.xfer == x && !r.old) ||
    s.hreqs.any fun r => match r.use with
      | .data y _ _ _ _ => y == x
      | _ => false

/-- An outstanding host request of a transfer that waits for it no more. -/
def HostReq.disown (x : Nat) (r : HostReq) : HostReq :=
  match r.use with
  | .data y i off len w => if y = x then { r with use := .data 0 i off len w } else r
  | _ => r

/-- Stop waiting for the port responses of a transfer (R354). What stands at the staging and host ports stays outstanding there
until it is answered (R57, R59). -/
def State.forget (x : Nat) (s : State) : State :=
  { s with freqs := s.freqs.filter (·.xfer != x)
           sreqs := s.sreqs.map fun r => if r.xfer = x then { r with old := true } else r
           hreqs := s.hreqs.map (HostReq.disown x) }

/-- Remove a transfer and everything it waits for. -/
def State.dropXfer (x : Nat) (s : State) : State := { s.forget x with xfers := FMap.del s.xfers x }

/-- Remove the transfers whose work a test accepts. -/
def State.dropWork (p : Work → Bool) (s : State) : State :=
  (s.xfers.filter fun e => p e.2.work).foldl (fun s e => s.dropXfer e.1) s

/-- Is a transfer of such work in the block? -/
def State.hasWork (s : State) (p : Work → Bool) : Bool := s.xfers.any fun e => p e.2.work

/-! ### The ECC test (R335) -/

/-- Take an armed flip for a memory and unit: the word and the mask; ARM clears. -/
def State.takeFlip (target unit : Nat) (s : State) : Option (Nat × Byte) × State :=
  let v := s.glob.eccFlip.toNat
  if bitOf v 31 && bits v 30 28 == target && bits v 27 22 == unit then
    (some (bits v 21 19, BitVec.ofNat 8 v), { s with glob := { s.glob with eccFlip := s.glob.eccFlip &&& 0x7FFFFFFF } })
  else (none, s)

/-! ### Tackle lines that a write makes stale (R21) -/

/-- The space, PASID and address that key a place in the caches (R361). -/
def Loc.key (l : Loc) : Space × Nat × Nat :=
  match l with
  | .fabric a => (.fabric, 0, a)
  | .staging o => (.staging, 0, o)
  | .host p a => (.host, p, a)

/-- Does a line of a place meet a range? -/
def Loc.meets (a : Loc) (alen : Nat) (b : Loc) (blen : Nat) : Bool :=
  decide (a.key.1 = b.key.1) && a.key.2.1 == b.key.2.1 && overlaps a.key.2.2 alen b.key.2.2 blen

/-- The source parts of a transfer that a write meets: no cache keeps what they bring. -/
def Xfer.markStale (l : Loc) (len : Nat) (x : Xfer) : Xfer :=
  let bad := (x.srcs.zipIdx.filter fun p => p.1.loc.meets p.1.len l len).map (·.2)
  if bad.isEmpty then x else { x with stale := (x.stale ++ bad).eraseDups }

/-- A write goes out, or completes: the lines of all caches that it touches are invalid, and so is what is being read for them. -/
def State.staleLines (l : Loc) (len : Nat) (s : State) : State :=
  { s with
    tackle := s.tackle.filter fun t =>
      !(decide (t.space = l.key.1) && t.pasid == l.key.2.1 && overlaps t.addr t.data.length l.key.2.2 len)
    xfers := FMap.mapV s.xfers fun _ x => x.markStale l len }

/-! ### Requests -/

/-- The staging offset of a 64 B unit of a port's stack. -/
def Setup.stagingOff (u : Setup) (port unit : Nat) : Nat :=
  let a := unit * 64
  (a / segBytes * u.stagePorts.length + (u.stagePorts.findIdx (· == port))) * segBytes + a % segBytes

/-- A free tag of a staging port (R57). -/
def State.stgTag (s : State) (port : Nat) : Nat :=
  ((List.range 1024).find? fun t => !s.sreqs.any fun r => r.port == port && r.tag == t).getD 0

/-- The granules that a staging range touches: offset relative to the range's first granule, and absolute offset. -/
def granules (off len : Nat) : List (Nat × Nat) :=
  if len = 0 then [] else
    (List.range ((off + len - 1) / 64 - off / 64 + 1)).map fun i => (64 * i, (off / 64 + i) * 64)

/-- Request one granule at a staging port. -/
def State.stgRead (x i rel off : Nat) (rmw : Bool) (s : State) : State :=
  let pl := s.setup.stagingPlace off
  let tag := s.stgTag pl.1
  let r : StgReq := ⟨pl.1, tag, x, i, rel, pl.2, false, rmw, false⟩
  ({ s with sreqs := s.sreqs ++ [r] }.emit
    (.staging pl.1 tag pl.2 false [] [])).countBytes (ctrId 5 pl.1 0) 64

/-- Write one granule at a staging port, with fresh check bytes (R320, R323) and an armed flip (R335). -/
def State.stgWrite (x i rel off : Nat) (bs : List PByte) (s : State) : State :=
  let pl := s.setup.stagingPlace off
  let tag := s.stgTag pl.1
  let (flip, s) := s.takeFlip 2 pl.1
  let r : StgReq := ⟨pl.1, tag, x, i, rel, pl.2, true, false, false⟩
  ({ s with sreqs := s.sreqs ++ [r] }.emit
    (.staging pl.1 tag pl.2 true (values bs) (granuleMeta pl.1 pl.2 bs flip))).countBytes (ctrId 5 pl.1 1) 64

/-! ### What the block writes into staging of its own accord (R180, R331, R334, R401) -/

/-- Bytes 8 to 1,023 of a directory copy that is FREE: no generation, and no unit of the manifest store. -/
def freeBody (seq : Nat) : List Byte := toLe 4 seq ++ toLe 636 16 ++ toLe 8 0xFFFFFFFF ++ List.replicate 368 0

/-- A directory copy around its body (Table 5-4). -/
def dirCopyOf (body : List Byte) : List Byte := toLe 4 0x4E45475A ++ toLe 4 (crc32c body).toNat ++ body

/-- A FREE directory copy. -/
def freeCopy (seq : Nat) : List Byte := dirCopyOf (freeBody seq)

/-- The granule that a run writes at a distance from its base. -/
def FillKind.granule (k : FillKind) (off : Nat) : List Byte :=
  match k with
  | .zero => List.replicate 64 0
  | .freeEntry seq => slice (freeCopy seq.toNat) (off % 1024) 64

/-- Has a staging port room for a write of one of its units: fewer than 1,024 requests, and none to the unit (R57)? -/
def State.stgRoom (s : State) (place : Nat × Nat) : Bool :=
  decide ((s.sreqs.filter fun r => r.port == place.1).length < 1024) &&
    !s.sreqs.any fun r => r.port == place.1 && r.unitAddr == place.2

/-- Issue what a run of block writes has room for. Fuel bounds the granules: eight ports of 1,024 requests. -/
def State.scrubRun (base len : Nat) (fill : FillKind) : Nat → Nat → State → Nat × State
  | 0, next, s => (next, s)
  | n + 1, next, s =>
    if next < len && s.stgRoom (s.setup.stagingPlace (base + next)) then
      scrubRun base len fill n (next + 64)
        ((s.staleLines (.staging (base + next)) 64).stgWrite 0 0 next (base + next) (plain (fill.granule next)))
    else (next, s)

/-- Is a write of the block's own into a range outstanding? -/
def State.scrubOwes (s : State) (base len : Nat) : Bool :=
  s.sreqs.any fun r => r.xfer == 0 && within (s.setup.stagingOff r.port r.unitAddr) 64 base len

/-- Does a transfer of a function read or write a range of staging? -/
def State.stagingBusy (s : State) (f base len : Nat) : Bool :=
  s.xfers.any fun x => x.2.fn == f && (x.2.srcs ++ x.2.dsts).any fun p =>
    match p.loc with
    | .staging a => overlaps a p.len base len
    | _ => false

/-- Move one run on, once the transfers that it waits for have ended (R336). -/
def State.scrubOn (k : Scrub) (s : State) : State :=
  if (k.fn.map fun f => s.stagingBusy f k.base k.len).getD false then s else
  let r := State.scrubRun k.base k.len k.fill 8192 k.next s
  { r.2 with scrubs := r.2.scrubs.map fun x => if x = k then { k with next := r.1 } else x }

/-- The block's own runs of writes go on; those whose every granule was answered are done. -/
def State.settleScrubs (s : State) : State :=
  let s := s.scrubs.foldl (fun s k => s.scrubOn k) s
  { s with scrubs := s.scrubs.filter fun k => decide (k.next < k.len) || s.scrubOwes k.base k.len }

/-- Start a run of block writes, for an entry or for none. -/
def State.startScrub (entry base len : Nat) (fill : FillKind) (s : State) : State :=
  if len = 0 then s else { s with scrubs := s.scrubs ++ [{ entry := entry, base := base, len := len, fill := fill }] }

/-- Scrub staging that leaves a slice's quota, once the slice's transfers on it have ended (R334, R336). -/
def State.scrubQuota (entry f base len : Nat) (s : State) : State :=
  if len = 0 then s else { s with scrubs := s.scrubs ++ [{ entry := entry, base := base, len := len, fn := some f }] }

/-- Does a run of block writes that an entry waits for go on? -/
def State.scrubsFor (s : State) (e : Nat) : Bool := s.scrubs.any (·.entry == e)

/-- Does a staging range meet a run of block writes that is not done? -/
def State.scrubbing (s : State) (off len : Nat) : Bool := s.scrubs.any fun k => overlaps off len k.base k.len

/-- Does a staging range meet a run of block writes that keeps transfers off it? A scrub that still waits for its slice's transfers lets
them go on (R334, R336). -/
def State.scrubBars (s : State) (off len : Nat) : Bool :=
  s.scrubs.any fun k => overlaps off len k.base k.len && (k.fn.isNone || k.next != 0)

/-- The persistent event log in staging: the top 32 MiB of the reserved area (R401). -/
def Setup.logBase (u : Setup) : Nat := u.reservedBase + 0xE000000

/-- Write the entries that wait into the persistent event log, once its area has been written (R331, R401). -/
def State.settleLog (s : State) : State :=
  s.log.toStage.foldl (fun s e =>
    let off := s.setup.logBase + 64 * e.1
    if !s.setup.hasStaging || s.scrubbing off 64 || !s.stgRoom (s.setup.stagingPlace off) then s
    else ({ s with log := { s.log with toStage := s.log.toStage.erase e } }.staleLines (.staging off) 64).stgWrite 0 0 0 off
      (plain e.2.bytes)) s

/-! ### Fabric and host requests -/

/-- Request one piece over the fabric; the length is rounded up to the 64 B that RD_REQ counts in (Table 2-3). -/
def State.fabRead (fn x i port a off len : Nat) (s : State) : State :=
  let tag := s.nextId % 2 ^ 32
  let n := ceilDiv len 64 * 64
  let r : FabReq := ⟨port, tag, x, i, off, n, false, epOf a, 0, s.now, s.glob.fabTimeout, s.nextId⟩
  ({ s with nextId := s.nextId + 1, freqs := s.freqs ++ [r] }.sendAt port
    { s.pkt 1 1 (epOf a) with len := n, addr := a + off, tag := tag, slice := fn } [])

/-- Write one piece of at most 4,096 B over the fabric as WR packets; the last asks for the acknowledgement, and
carries the Cleat signal where it is the last of the guarded data (R47). -/
def State.fabWrite (fn x i port a off : Nat) (bs : List PByte) (sig : Option (Nat × Nat)) (s : State) : State :=
  let tag := s.nextId % 2 ^ 32
  let r : FabReq := ⟨port, tag, x, i, off, bs.length, true, epOf a, 0, s.now, s.glob.fabTimeout, s.nextId⟩
  let s := { s with nextId := s.nextId + 1, freqs := s.freqs ++ [r] }
  (spans bs.length 512).foldl (fun s c =>
    let last := c.1 + c.2 == bs.length
    let p := { s.pkt 2 1 (epOf a) with len := c.2, addr := a + off + c.1, tag := tag, slice := fn, ackReq := last }
    let p := match sig with
      | some (cleat, n) => if last then { p with sig := true, sigCount := n, cleat := cleat } else p
      | none => p
    s.sendAt port p (widen 64 (slice bs c.1 c.2))) s

/-- Issue a host read or write of a transfer. -/
def State.hostData (pasid a x i off len : Nat) (bs : Option (List Byte)) (s : State) : State :=
  let id := s.nextId
  { s with nextId := id + 1, hreqs := s.hreqs ++ [⟨id, .data x i off len bs.isSome⟩],
           issued := s.issued ++ [match bs with
             | none => .hostRead id pasid (a + off) len
             | some v => .hostWrite id pasid (a + off) v] }

/-- Issue the reads of one part. -/
def State.readPart (x : Xfer) (i port : Nat) (p : Part) (s : State) : State :=
  match p.loc with
  | .fabric a => (spans p.len 4096).foldl (fun s c => s.fabRead x.fn x.id i port a c.1 c.2) s
  | .staging o => (granules o p.len).foldl (fun s g => s.stgRead x.id i g.1 g.2 false) s
  | .host pasid a => (spans p.len 4096).foldl (fun s c => s.hostData pasid a x.id i c.1 c.2 none) s

/-- The bytes of a part that lie in one granule, at their place in it. -/
def granuleOf (o : Nat) (bs : List PByte) (g : Nat × Nat) : List (Option PByte) :=
  (List.range 64).map fun j => if g.2 + j < o then none else bs[g.2 + j - o]?

/-- Issue the writes of one part (R324: a partial granule is read first). -/
def State.writePart (x : Xfer) (i port : Nat) (lastPart : Bool) (p : Part) (s : State) : State :=
  let bs := p.bytes
  let s := s.staleLines p.loc p.len
  match p.loc with
  | .fabric a =>
    (spans p.len 4096).foldl (fun s c =>
      s.fabWrite x.fn x.id i port a c.1 (slice bs c.1 c.2)
        (if lastPart && c.1 + c.2 == p.len then x.sigLast else none)) s
  | .staging o =>
    (granules o p.len).foldl (fun s g =>
      let c := granuleOf o bs g
      if c.all (·.isSome) then s.stgWrite x.id i g.1 g.2 (c.map fun b => b.getD PByte.zero)
      else s.stgRead x.id i g.1 g.2 true) s
  | .host pasid a => (spans p.len 512).foldl (fun s c => s.hostData pasid a x.id i c.1 c.2 (some (values (slice bs c.1 c.2)))) s

/-- Issue every read of a transfer. -/
def State.startReads (x : Xfer) (port : Nat) (s : State) : State :=
  x.srcs.zipIdx.foldl (fun s p => s.readPart x p.2 port p.1) s

/-- Issue every write of a transfer. -/
def State.startWrites (x : Xfer) (port : Nat) (s : State) : State :=
  x.dsts.zipIdx.foldl (fun s p => s.writePart x p.2 port (p.2 + 1 == x.dsts.length) p.1) s

/-- The reads that are outstanding on the host master port (R59). -/
def State.hostReads (s : State) : Nat := (s.hreqs.filter fun r => match r.use with
  | .data _ _ _ _ w => !w
  | _ => false).length

/-- Has the host master port room for the reads of a ring or a pointed structure (R59)? They are issued one as another is answered.
Log 28. -/
def State.readRoom (s : State) : Bool := decide (s.hostReads < 512)

/-- May the parts go through the port, and have the staging and host ports room for them (R46, R57, R59, R450)? -/
def State.portsAllow (s : State) (ps : List Part) (write : Bool) (port : Nat) : Bool :=
  let stg := ps.flatMap fun p => match p.loc with
    | .staging o => (granules o p.len).map fun g => s.setup.stagingPlace g.2
    | _ => []
  let host := (ps.map fun p => match p.loc with
    | .host _ _ => ceilDiv p.len 4096
    | _ => 0).foldl (· + ·) 0
  (ps.all fun p => match p.loc with
    | .fabric a => (s.portsTo (epOf a)).contains port
    | .staging o => s.setup.hasStaging && !s.scrubBars o p.len
    | .host _ _ => true) &&
  ((List.range 8).all fun q => decide ((stg.filter (·.1 == q)).length + (s.sreqs.filter (·.port == q)).length ≤ 1024)) &&
  (stg.all fun g => !s.sreqs.any fun r => r.port == g.1 && r.unitAddr == g.2 && (write || r.write || r.rmw)) &&
  (write || decide (host + s.hostReads ≤ 512))

/-- Write bytes into the Yard buffer of a source part; `dirty` says whether a read returned them poison-marked (R268). -/
def State.putBytes (x i off : Nat) (bs : List PByte) (dirty : Bool) (s : State) : State :=
  match FMap.find s.xfers x with
  | none => s
  | some t =>
    let r := s.takeFlip 0 t.yard
    r.2.modXfer x fun t => { t with srcs := t.srcs.zipIdx.map fun p =>
      if p.2 = i then { p.1.write off bs r.1 with dirty := p.1.dirty || dirty } else p.1 }

/-- Bytes that came for a part of a transfer's source. -/
def State.putChunk (x i off : Nat) (bs : List PByte) (s : State) : State := s.putBytes x i off bs (anyPoison bs)

/-- Bytes of a part that do not come: zero and poison-marked (R59, R97). -/
def State.putBad (x i off n : Nat) (s : State) : State :=
  if n = 0 then s else s.putBytes x i off (List.replicate n PByte.bad) false

/-- What is to be written has been put into the transfer's Yard buffers (R335). -/
def State.storeOut (x : Nat) (s : State) : State :=
  match FMap.find s.xfers x with
  | none => s
  | some t =>
    if t.dsts.isEmpty then s
    else
      let r := s.takeFlip 0 t.yard
      r.2.modXfer x fun t => { t with dsts := strike r.1 t.dsts }

/-- A part of a transfer failed. -/
def State.failPart (x i : Nat) (write : Bool) (s : State) : State :=
  let mark := fun (ps : List Part) => ps.zipIdx.map fun p => if p.2 = i then { p.1 with failed := true } else p.1
  s.modXfer x fun t => if write then { t with dsts := mark t.dsts } else { t with srcs := mark t.srcs }

/-- The source bytes of a transfer, part by part. -/
def Xfer.input (t : Xfer) : List (List PByte) := t.srcs.map (·.bytes)

/-! ### Uncorrectable data (R327) -/

/-- INFO of ECC_UNCORRECTABLE. -/
def eccInfo (mem cause unit word : Nat) : Nat := mem + cause * 16 + unit * 256 + word * 2 ^ 32

/-- An uncorrectable event: counted and logged, and the queue of the entry that owns the work is halted (R327, R466). -/
def State.uncEvent (owner : Option Acc) (mem cause unit word n : Nat) (s : State) : State :=
  let info := eccInfo mem cause unit word
  let s := s.count (if mem = 1 then ctrId 2 unit (1 + cause) else ctrId 5 unit (2 + cause)) n
  match owner with
  | some a => (s.haltQueue a.sq).logFn 0x0602 a.fn [info]
  | none => s.logEvent 0x0602 [info]

/-! ### What entries record of their transfers (R86, R97, R461) -/

/-- The entry met poison: its INFO is filled when it ends. -/
def State.meetPoison (e n : Nat) (s : State) : State :=
  if n = 0 then s
  else (s.meet e 0x22 0).modAcc e fun a => if a.fin.isNone then { a with poisoned := a.poisoned + n } else a

/-- The host master port did not return, or did not confirm, bytes of the entry (R59). -/
def State.meetHost (e n : Nat) (s : State) : State :=
  (s.meet e 0x22 (2 ^ 32)).modAcc e fun a => if a.fin.isNone then { a with hostLost := a.hostLost + n } else a

/-- An entry meets a condition of its own, whatever it holds (R269). -/
def State.meetNew (e status info : Nat) (s : State) : State :=
  s.modAcc e fun a => if a.fin.isNone then { a with conds := a.conds ++ [⟨status, info⟩] } else a

/-- The source's data was longer than declared (R97). -/
def State.meetLong (e n : Nat) (s : State) : State :=
  s.modAcc e fun a =>
    if a.fin.isSome then a
    else if a.conds.any (·.status == 0x21) then
      { a with conds := a.conds.map fun c => if c.status = 0x21 then { c with info := c.info + n } else c }
    else { a with conds := a.conds ++ [⟨0x21, n⟩] }

/-- FABRIC_LOST: the port and the cause (R461). -/
def lostInfo (port cause : Nat) : Nat := port + cause * 256

/-- Put a condition among others by its code, behind those of the same code. -/
def insertCond (c : Cond) : List Cond → List Cond
  | [] => [c]
  | d :: ds => if c.status < d.status then c :: d :: ds else d :: insertCond c ds

/-- The conditions of an entry in the order in which they count as met: those of one step by their codes (R463,
log 46). -/
def Acc.ordered (a : Acc) : List Cond :=
  a.conds.take a.seen ++ (a.conds.drop a.seen).foldl (fun acc c => insertCond c acc) []

/-- The step ends: what entries met in it stands in its order. -/
def Acc.stepOver (a : Acc) : Acc := { a with conds := a.ordered, seen := a.conds.length }

/-- Is it a SHEET_ARM? -/
def Acc.isArm (a : Acc) : Bool :=
  match a.op with
  | .sheetArm _ => true
  | _ => false

/-- The conditions of an entry with the INFO that its end fixes (R97, R461): LENGTH_SHORT's is the bytes received over all reads of
the entry, and LENGTH_LONG is not met beside it (R97; log 84). Each read of a Sheet is a transfer of its own (R97, R268, R269), and a
SHEET_ARM none of whose output bytes was poison-marked does not hold POISONED (R268, R269; log 144). -/
def Acc.finalConds (a : Acc) : List Cond :=
  let short := a.conds.any (·.status == 0x20)
  let cs := if short && !a.isArm then a.ordered.filter (·.status != 0x21) else a.ordered
  let cs := if a.isArm && a.poisoned == 0 then cs.filter (· != ⟨0x22, 0⟩) else cs
  cs.map fun c =>
    if c.status = 0x20 && !a.isArm then ⟨0x20, a.recv⟩
    else if c = ⟨0x22, 0⟩ then ⟨0x22, a.poisoned % 2 ^ 32⟩
    else if c = ⟨0x22, 2 ^ 32⟩ then ⟨0x22, 2 ^ 32 + a.hostLost % 2 ^ 32⟩
    else c

end Sys2Proof.Machine
end

