-- ==== Sys2Proof/Machine/Gens.lean ====
section
/-! DEFINITION. Generations: their places in the stay-copy windows, in parity and in the manifest (R154, R158, R183), the
manifest and the directory copy byte for byte (Tables 5-4, 6-1 to 6-8), commit records (R144 to R147, R160, R161),
abandonment and release (R151, R169). -/

namespace Sys2Proof.Machine

/-- The epoch 0, which is never reserved. -/
def noEpoch : Nat := 0

/-! ### Looking up -/

/-- The generation of an epoch. -/
def State.gen (s : State) (e : Nat) : Option Gen := s.gens.find? (·.epoch == e)

/-- Change a generation. -/
def State.modGen (e : Nat) (f : Gen → Gen) (s : State) : State :=
  { s with gens := s.gens.map fun g => if g.epoch = e then f g else g }

/-- Is the generation retained: neither ABANDONED nor RELEASED? -/
def Gen.retained (g : Gen) : Bool := g.state != .abandoned && g.state != .released

/-- Is a tier requested (TIERS)? -/
def Gen.tier (g : Gen) (n : Nat) : Bool := bitOf g.tiers (n - 1)

/-- Is a RECORDS bit written (Table 5-4)? -/
def Gen.recorded (g : Gen) (bit : Nat) : Bool := bitOf g.records bit

/-- Is the generation protected (R145)? -/
def Gen.safe (g : Gen) : Bool := g.retained && g.recorded 0 && (!g.tier 2 || g.recorded 1)

/-- The retained generations of a job, oldest first. -/
def State.gensOf (s : State) (job : Nat) : List Gen := s.gens.filter fun g => g.job == job && g.retained

/-- The generation with the greatest epoch of a list. -/
def newest (gs : List Gen) : Option Gen :=
  gs.foldl (fun acc g =>
    match acc with
    | none => some g
    | some b => if b.epoch < g.epoch then some g else some b) none

/-- The job's newest protected generation (R145). -/
def State.newestSafe (s : State) (job : Nat) : Option Gen := newest ((s.gensOf job).filter Gen.safe)

/-- The job's OPEN generation. -/
def State.openGen (s : State) (job : Nat) : Option Gen := (s.gensOf job).find? (·.state == .opened)

/-! ### Members and segments (R149, R154) -/

/-- The endpoint that stands in for an endpoint of the region list (R172). -/
def Gen.standIn (g : Gen) (ep : Nat) : Nat := (((g.subs.find? (·.1 == ep)).map (·.2))).getD ep

/-- The endpoint that holds a region now. -/
def Gen.regionEp (g : Gen) (r : Region) : Nat := g.standIn (epOf r.base)

/-- The segments of a region (R24). -/
def Region.segs (r : Region) : Nat := ceilDiv r.len segBytes

/-- The distinct endpoints that hold captured regions, in list order. -/
def Gen.holders (g : Gen) : List Nat := (g.regions.map g.regionEp).eraseDups

/-- The members (Table 5-3). -/
def Gen.members (g : Gen) : List Member := (g.groups.map (·.members)).getD []

/-- The index of the member that holds a region. -/
def Gen.memberOf (g : Gen) (r : Region) : Nat := (g.members.findIdx? (·.ep == g.regionEp r)).getD 0

/-- The regions of a member in shard order, with their indices (R154). -/
def Gen.regionsOf (g : Gen) (i : Nat) : List (Nat × Region) :=
  (g.regions.zipIdx.filter fun p => g.memberOf p.1 == i).map fun p => (p.2, p.1)

/-- The shard segment at which a region begins (R154). -/
def Gen.shardSeg (g : Gen) (ri : Nat) : Nat :=
  match g.regions[ri]? with
  | none => 0
  | some r => (((g.regions.take ri).filter fun q => g.regionEp q == g.regionEp r).map Region.segs).foldl (· + ·) 0

/-- The captured segments of a member. -/
def Gen.captured (g : Gen) (i : Nat) : Nat := ((g.regionsOf i).map fun p => p.2.segs).foldl (· + ·) 0

/-- The true bytes of a member's regions. -/
def Gen.shardBytes (g : Gen) (i : Nat) : Nat := ((g.regionsOf i).map fun p => p.2.len).foldl (· + ·) 0

/-- The member and shard segment of a captured segment. -/
def Gen.place (g : Gen) (x : Seg) : Nat × Nat :=
  match g.regions[x.region]? with
  | none => (0, 0)
  | some r => (g.memberOf r, g.shardSeg x.region + x.n)

/-- The true bytes of a captured segment. -/
def Gen.segLen (g : Gen) (x : Seg) : Nat :=
  match g.regions[x.region]? with
  | none => 0
  | some r => min segBytes (r.len - x.n * segBytes)

/-- The fabric address of a captured segment, on the endpoint that holds it now. -/
def Gen.segAddr (g : Gen) (x : Seg) : Nat :=
  match g.regions[x.region]? with
  | none => 0
  | some r => fabAddr (g.regionEp r) (r.base % 2 ^ 52 + x.n * segBytes)

/-- The endpoint of a captured segment. -/
def Gen.segEp (g : Gen) (x : Seg) : Nat := epOf (g.segAddr x)

/-- Where a shard segment lies in the buddy's window (R154). -/
def Gen.stayAddr (g : Gen) (i n : Nat) : Nat :=
  match g.members[i]? with
  | none => 0
  | some m => fabAddr m.buddy (m.winBase + m.winOffset + (g.slot * m.slotSegs + n) * segBytes)

/-- The true bytes of a member's shard segment; zero past its end. -/
def Gen.shardLen (g : Gen) (i n : Nat) : Nat :=
  match (g.regionsOf i).find? fun p => decide (g.shardSeg p.1 ≤ n) && decide (n < g.shardSeg p.1 + p.2.segs) with
  | none => 0
  | some p => min segBytes (p.2.len - (n - g.shardSeg p.1) * segBytes)

/-! ### Ratline groups (R156, R158) -/

/-- K of the generation's groups, 0 without tier 2. -/
def Gen.k (g : Gen) : Nat := (g.groups.map (·.k)).getD 0

/-- M of the generation's groups. -/
def Gen.m (g : Gen) : Nat := (g.groups.map (·.m)).getD 0

/-- The number of groups. -/
def Gen.groupCount (g : Gen) : Nat := if g.k = 0 then 0 else g.members.length / g.k

/-- The group of a member. -/
def Gen.groupOf (g : Gen) (i : Nat) : Nat := if g.k = 0 then 0 else i / g.k

/-- T_g: the stripes of a group (R156). -/
def Gen.stripes (g : Gen) (r : Nat) : Nat :=
  ((List.range g.k).map fun i => g.captured (r * g.k + i)).foldl max 0

/-- P_g: the largest SLOT_SEGS of a group (R158). -/
def Gen.slotSpan (g : Gen) (r : Nat) : Nat :=
  ((List.range g.k).map fun i => ((g.members[r * g.k + i]?).map (·.slotSegs)).getD 0).foldl max 0

/-- The parity area of the whole job: its offset in the quota and its bytes (R158). -/
def Groups.parityArea (gr : Groups) : Nat × Nat :=
  if gr.k = 0 then (gr.parityBase, 0)
  else
    let spans := (List.range (gr.members.length / gr.k)).map fun r =>
      ((slice gr.members (r * gr.k) gr.k).map (·.slotSegs)).foldl max 0
    (gr.parityBase, gr.slots * gr.m * spans.foldl (· + ·) 0 * segBytes)

/-- The absolute staging offset of a parity segment (R158). -/
def State.parityOff (s : State) (g : Gen) (r j q : Nat) : Nat :=
  let gr := g.groups
  let before := ((List.range r).map g.slotSpan).foldl (· + ·) 0
  ((FMap.find s.fns g.fn).map (·.quotaBase)).getD 0 + (gr.map (·.parityBase)).getD 0 +
    segBytes * ((gr.map (·.slots)).getD 0 * g.m * before + (g.slot * g.slotSpan r + j) * g.m + q)

/-! ### The manifest (R182 to R195) -/

/-- Round up to 64. -/
def up64 (n : Nat) : Nat := ceilDiv n 64 * 64

/-- The record counts of the manifest's sections (Table 6-2). -/
def sectionCounts (members regions tensors pieces : Nat) (full digests : Bool) : List Nat :=
  [members, if full then 256 * members else regions, tensors, pieces, members, if digests then members else 0, 1024]

/-- The record sizes of the manifest's sections. -/
def sectionSizes : List Nat := [64, 32, 64, 64, 4160, 64, 8]

/-- The sections' offsets and the end of the last (R183). -/
def sectionOffsets (counts : List Nat) : List Nat × Nat :=
  (counts.zip sectionSizes).foldl (fun acc c => (acc.1 ++ [up64 acc.2], up64 acc.2 + c.1 * c.2)) ([], 256)

/-- TOTAL_LEN (R183). -/
def manifestLen (counts : List Nat) : Nat := up64 (sectionOffsets counts).2

/-- The section counts of a generation. -/
def Gen.counts (g : Gen) : List Nat :=
  sectionCounts g.members.length g.regions.length g.tensors.length g.pieces.length g.fullImage g.digests

/-- The poisoned segments of a generation; of a recognised one, as its directory entry counts them (R178). -/
def Gen.poisonCount (g : Gen) : Nat := if g.manKnown then (g.segs.filter (·.poisoned)).length else g.poisonTotal

/-- A member record (Table 6-3). -/
def Gen.memberRecord (g : Gen) (i : Nat) (m : Member) : List Byte :=
  toLe 2 m.ep ++ toLe 2 m.buddy ++ toLe 1 (b2n (g.stayLost.contains i) + 2 * b2n (g.poisonOvf.contains i)) ++
  toLe 1 (g.groupOf i) ++ toLe 2 0 ++ toLe 8 m.winOffset ++ toLe 8 m.slotSegs ++ toLe 8 (g.captured i) ++
  toLe 8 (g.shardBytes i) ++ toLe 8 m.winBase ++ toLe 16 0

/-- A region record (Table 6-4). -/
def Gen.regionRecord (g : Gen) (ri : Nat) (r : Region) : List Byte :=
  toLe 8 r.base ++ toLe 8 r.len ++ toLe 4 r.tensor ++ toLe 1 r.kind ++ toLe 1 (b2n r.sealed + 2 * b2n r.noPrecopy) ++
  toLe 2 (g.memberOf r) ++ toLe 8 (g.shardSeg ri)

/-- A tensor record (Table 6-6). -/
def tensorRecord (t : Tensor) : List Byte :=
  toLe 4 t.firstPiece ++ toLe 4 t.pieces ++ toLe 1 t.typ ++ toLe 1 t.rank ++ toLe 6 0 ++
  (fit 6 0 t.shape).flatMap (toLe 4) ++ toLe 8 t.label ++ toLe 16 0

/-- A piece record (Table 6-7). -/
def pieceRecord (p : Piece) : List Byte :=
  toLe 4 p.tensor ++ toLe 4 p.region ++ toLe 8 p.offset ++ (fit 6 0 p.origin).flatMap (toLe 4) ++
  (fit 6 0 p.extent).flatMap (toLe 4)

/-- A stamp record (Table 6-8). -/
def Gen.stampRecord (g : Gen) (m : Member) : List Byte :=
  match g.stamps.find? (·.ep == m.ep) with
  | none => toLe 2 m.ep ++ List.replicate 4158 0
  | some t =>
    toLe 2 m.ep ++ toLe 2 1 ++ toLe 2 t.blob.length ++ toLe 2 0 ++ toLe 8 t.draws ++ toLe 8 t.samples ++
    toLe 4 t.perSample ++ toLe 4 0 ++ toLe 8 g.epoch ++ toLe 24 0 ++ fit 4096 0 t.blob

/-- A digest record (Table 6-8). -/
def Gen.digestRecord (g : Gen) (i : Nat) (m : Member) : List Byte :=
  match g.shas.find? (·.1 == i) with
  | none => toLe 2 m.ep ++ List.replicate 62 0
  | some d => toLe 2 m.ep ++ toLe 14 1 ++ fit 48 0 d.2

/-- The tier-3 facts in force: recorded, or of the drain under way. -/
def Gen.tier3 (g : Gen) : Option Tier3 := g.t3.orElse fun _ => g.t3Draft

/-- The manifest's header with its CRC field given (Table 6-1). -/
def Gen.manifestHeader (g : Gen) (crc : Nat) : List Byte :=
  let offs := (sectionOffsets g.counts).1
  let gr := g.groups
  ascii "ZHORAX01" ++ toLe 2 1 ++ toLe 2 0 ++ toLe 4 (manifestLen g.counts) ++ toLe 4 crc ++ toLe 1 (b2n g.digests) ++
  toLe 1 g.records ++ toLe 1 (b2n g.fullImage) ++ toLe 1 g.tiers ++ toLe 8 g.job ++ toLe 8 g.epoch ++
  toLe 8 g.step ++ toLe 1 ((gr.map (·.slots)).getD 0) ++ toLe 1 g.slot ++ toLe 1 g.k ++ toLe 1 g.m ++
  toLe 4 g.poisonCount ++ toLe 8 ((gr.map (·.parityBase)).getD 0) ++ toLe 8 ((g.tier3.map (·.target)).getD 0) ++
  toLe 4 ((g.tier3.map (·.keyId)).getD 0) ++ toLe 4 ((g.tier3.map (·.wrapKeyId)).getD 0) ++
  toLe 4 ((g.tier3.map (·.keySlot)).getD 0) ++ toLe 12 0 ++
  ((offs.zip g.counts).flatMap fun p => toLe 4 p.1 ++ toLe 4 p.2) ++ toLe 8 0 ++ List.replicate 96 0

/-- The region section: state-set as the list; full-image 256 records for each member (Table 6-2). -/
def Gen.regionSection (g : Gen) : List Byte :=
  if g.fullImage then
    (List.range g.members.length).flatMap fun i =>
      fit (256 * 32) 0 ((g.regionsOf i).flatMap fun p => g.regionRecord p.1 p.2)
  else g.regions.zipIdx.flatMap fun p => g.regionRecord p.2 p.1

/-- The sections, each at its offset. -/
def Gen.manifestBody (g : Gen) : List Byte :=
  let secs : List (List Byte) :=
    [ g.members.zipIdx.flatMap fun p => g.memberRecord p.2 p.1,
      g.regionSection,
      g.tensors.flatMap tensorRecord,
      g.pieces.flatMap pieceRecord,
      g.members.flatMap g.stampRecord,
      if g.digests then g.members.zipIdx.flatMap fun p => g.digestRecord p.2 p.1 else [],
      fit 8192 0 ((g.poisonList.take 1024).flatMap fun p => toLe 2 p.1 ++ toLe 6 p.2) ]
  secs.flatMap fun x => fit (up64 x.length) 0 x

/-- The manifest (R182, R183). -/
def Gen.manifest (g : Gen) : List Byte :=
  let body := g.manifestBody
  g.manifestHeader (crc32c (g.manifestHeader 0 ++ body)).toNat ++ body

/-! ### The directory copy (Table 5-4) -/

/-- The group list as held (Tables 5-2, 5-3). -/
def Gen.groupBytes (g : Gen) : List Byte :=
  match g.groups with
  | none => List.replicate 576 0
  | some gr =>
    fit 576 0 (toLe 8 g.job ++ toLe 2 gr.slots ++ toLe 6 gr.members.length ++ toLe 8 gr.parityBase ++ List.replicate 40 0 ++
      gr.members.flatMap fun m => toLe 2 m.ep ++ toLe 6 m.buddy ++ toLe 8 m.winOffset ++ toLe 8 m.slotSegs ++ toLe 8 0)

/-- A bit set as a number. -/
def bitSet (xs : List Nat) : Nat := xs.foldl (fun n i => n ||| (1 <<< i)) 0

/-- Bytes 8 to 1,023 of the copy of a generation's directory entry. -/
def Gen.dirBody (g : Gen) (seq : Nat) : List Byte :=
  fit 1016 0 (toLe 4 seq ++ toLe 1 g.records ++ toLe 1 g.fn ++ toLe 1 g.slot ++ toLe 1 g.tiers ++
    toLe 4 g.pasid ++ toLe 1 (b2n g.fullImage) ++ toLe 3 (if g.k = 0 then 0 else g.m * 16 + (g.k - 1)) ++
    toLe 8 g.job ++ toLe 8 g.epoch ++ toLe 8 g.step ++ toLe 8 ((g.t3.map (·.target)).getD 0) ++
    toLe 4 ((g.t3.map (·.keySlot)).getD 0) ++ toLe 4 ((g.t3.map (·.keyId)).getD 0) ++ g.groupBytes ++
    toLe 2 (bitSet g.stayLost) ++ toLe 2 (bitSet g.t2Lost) ++ toLe 4 g.poisonCount ++ toLe 4 g.manUnit ++ toLe 4 g.manLen)

/-- The copy of a generation's directory entry (R160). -/
def Gen.dirCopy (g : Gen) (seq : Nat) : List Byte := dirCopyOf (g.dirBody seq)

/-- Which copy holds the entry: 0, 1, or none (R160). -/
def DirEnt.holder (d : DirEnt) : Option Nat :=
  match d.a, d.b with
  | none, none => none
  | some _, none => some 0
  | none, some _ => some 1
  | some x, some y => if serialGt y.seq x.seq then some 1 else some 0

/-- The copy that holds the entry. -/
def DirEnt.held (d : DirEnt) : Option DirCopy :=
  match d.holder with
  | some 0 => d.a
  | some _ => d.b
  | none => none

/-- A directory entry as PORST_N's boot writes it: FREE, in both copies (R180). -/
def DirEnt.initial : DirEnt := ⟨some ⟨0, true⟩, some ⟨0, true⟩⟩

/-- The code of a change that sets the entry FREE. -/
def recFree : Nat := 14

/-- The code of a change that sets no record bit. -/
def recOther : Nat := 15

/-- RECORDS as a change of a code leaves it. -/
def recordsAfter (records code : Nat) : Nat := if code < 4 then records ||| (1 <<< code) else records

/-- The bytes that the tier-1 reads took are no longer held. -/
def Gen.dropTaken (g : Gen) : Gen := { g with segs := g.segs.map fun x => { x with taken := [] } }

/-- What the block knows of a directory entry. -/
def State.dirEnt (s : State) (idx : Nat) : DirEnt := FMap.getD s.dir idx DirEnt.initial

/-- SEQ of an entry's next change. -/
def DirEnt.nextSeq (d : DirEnt) : BitVec 32 := ((d.held.map (·.seq)).getD 0) + 1

/-- The copy that an entry's next change writes: the one that does not hold the entry (R161). -/
def DirEnt.nextCopy (d : DirEnt) : Nat := if d.holder = some 0 then 1 else 0

/-- An entry with a copy in the place of the one that does not hold it. -/
def DirEnt.put (d : DirEnt) (copy : Option DirCopy) : DirEnt :=
  if d.holder = some 0 then { d with b := copy } else { d with a := copy }

/-- A change of a directory entry is written, or its copy is not known to be (R161). -/
def State.dirStore (idx : Nat) (isFree ok : Bool) (s : State) : State :=
  let d := s.dirEnt idx
  { s with dir := FMap.put s.dir idx (d.put (if ok then some ⟨d.nextSeq, isFree⟩ else none)) }

/-- The absolute offset of a copy of a directory entry. -/
def State.dirOff (s : State) (idx copy : Nat) : Nat := s.setup.reservedBase + idx * 2048 + copy * 1024

/-- The absolute offset of a manifest-store unit (R194). -/
def State.manOff (s : State) (unit : Nat) : Nat := s.setup.reservedBase + 2097152 + unit * segBytes

/-! ### Writing the buffer and the directory -/

/-- Write the whole manifest over the MANIFEST buffer (R147, R181). A piece goes out after the queued pieces of an earlier record that it
writes over. -/
def State.writeManBuffer (e : Nat) (s : State) : State :=
  match s.gen e with
  | none => s
  | some g =>
    if g.manKnown then
      let bs := plain g.manifest
      (piecesOf bs.length).foldl (fun s c =>
        s.queueXfer g.fn (.manBuf g.job e) [] [Part.load (.host (s.pasidOf g.fn) (g.manAddr + c.1)) (slice bs c.1 c.2)]) s
    else s

/-- The entries of a generation: a waiting PROTECT or DRAIN that names it, or the CUT that takes it. -/
def Acc.ofGen (a : Acc) (g : Gen) : Bool :=
  a.fin.isNone && a.phase != .accepted &&
  match a.op with
  | .protect f => f.job == g.job && a.count == g.epoch
  | .drain f => f.job == g.job && a.count == g.epoch
  | .cut _ _ => (g.cutting.map (·.entry)) == some a.id
  | _ => false

/-- Send an epoch's GUARD_DISARM to an endpoint; its spares are free again (R127, R128). -/
def State.disarm (ep e : Nat) (s : State) : State :=
  let s := s.sendProto { s.pkt 0x4 0x06 ep with argA := e, slice := ((FMap.find s.eps ep).map (·.fn)).getD 0 } []
  let s := { s with forks := s.forks.filter fun f => !(f.ep == ep && f.epoch == e) }
  s.modGen e fun g => { g with armedEps := g.armedEps.filter (· != ep) }

/-- Send RESUME to an endpoint for an epoch; its RESUME_DONE is owed (R134). -/
def State.resume (ep e arg : Nat) (s : State) : State :=
  let s := s.sendProto { s.pkt 0x3 0x05 ep with argA := e, arg32 := arg,
                                                slice := ((FMap.find s.eps ep).map (·.fn)).getD 0 } []
  { s with eps := FMap.modify s.eps ep fun x => { x with quiesced := none, owesResume := some e } }

/-- Send RESUME to every endpoint that is quiesced for an epoch. -/
def State.resumeAll (e : Nat) (s : State) : State :=
  (s.eps.filter fun p => p.2.quiesced == some e).foldl (fun s p => s.resume p.1 e 0) s

/-- Work of a generation in the block. -/
def Work.ofGen (e : Nat) : Work → Bool
  | .tier1 _ x _ => x == e
  | .stripe _ x _ _ => x == e
  | .manBuf _ x => x == e
  | _ => false

/-- The writes of a change of a directory entry. -/
def Work.ofDir (idx : Nat) : Work → Bool
  | .dirMan i _ _ => i == idx
  | .dirWrite i _ _ => i == idx
  | _ => false

/-- Work of a drain entry. -/
def Work.ofDrain (a : Nat) : Work → Bool
  | .drainSeg e _ _ _ _ => e == a
  | .drainMan e => e == a
  | .drainRec e => e == a
  | _ => false

/-- A job that holds no retained generation and has no restore at work is forgotten, and its counter index is free
(R107, R407, R468). -/
def State.cleanJob (job : Nat) (s : State) : State :=
  match FMap.find s.jobs job with
  | none => s
  | some j => if (s.gensOf job).isEmpty && j.restored.isEmpty then { s with jobs := FMap.del s.jobs job } else s

/-- Drop the changes of a directory entry of which no write of a copy has been issued. -/
def State.dropChanges (idx : Nat) (s : State) : State :=
  let s := (s.xfers.filter fun x => x.2.work.ofDir idx && x.2.phase == .queued).foldl (fun s x => s.dropXfer x.1) s
  { s with dirQ := s.dirQ.filter fun c => c.idx != idx || c.code == recFree || (c.going && s.hasWork fun w => w == .dirWrite idx c.epoch c.code) }

/-- Set a directory entry FREE, unless it is, with no change of it going (R160, R169). -/
def State.freeEntry (idx epoch : Nat) (s : State) : State :=
  if ((s.dirEnt idx).held.map (·.isFree)).getD true && !s.dirQ.any (fun c => c.idx == idx && c.code != recFree) then s
  else { s with dirQ := s.dirQ ++ [{ idx := idx, epoch := epoch, code := recFree }] }

/-- Free a generation's slot, directory entry and manifest-store units (R160, R194). -/
def State.freePlaces (g : Gen) (s : State) : State :=
  if g.groups.isNone then s
  else
    let n := ceilDiv g.manLen segBytes
    let s := { s with manStore := s.manStore.filter fun u => !(decide (g.manUnit ≤ u) && decide (u < g.manUnit + n)) }
    (s.dropChanges g.dirIdx).freeEntry g.dirIdx g.epoch

/-- Abandon a generation (R169): guards and quiesced endpoints are released, its places freed, its entries ended. -/
def State.abandon (e cause ep : Nat) (s : State) : State :=
  match s.gen e with
  | none => s
  | some g =>
    if !g.retained || g.safe then s
    else
      let s := g.armedEps.foldl (fun s p => s.disarm p e) s
      let s := s.resumeAll e
      let s := (s.accepted.filter (·.ofGen g)).foldl (fun s a => s.failEntry a.id 0x66 (ep % 4096 + cause * 4096)) s
      let s := s.dropWork (Work.ofGen e)
      let s := match g.drainBy with
        | some d => s.dropWork (Work.ofDrain d)
        | none => s
      let s := s.modGen e fun x => { x with state := .abandoned, cutting := none, drainBy := none, t3Draft := none,
                                            writing := none, segs := [], armedEps := [] }
      ((s.freePlaces g).cleanJob g.job)

/-- Release a generation (R144). A PROTECT or DRAIN that still waits for it ends as one that names a RELEASED generation does
(R148, R163): log 140, DESIGN CHOICE. -/
def State.release (e : Nat) (s : State) : State :=
  match s.gen e with
  | none => s
  | some g =>
    if !g.retained then s
    else
      let s := (s.accepted.filter (·.ofGen g)).foldl (fun s a => s.failEntry a.id 0x40 24) s
      let s := s.dropWork (Work.ofGen e)
      let s := s.modGen e fun x => { x with state := .released, drainBy := none, t3Draft := none, writing := none, segs := [] }
      ((s.freePlaces g).cleanJob g.job)

/-- The generations that a failure of Table 5-6 abandons: OPEN, CUT, and STAYED with tier 2 requested. -/
def Gen.loose (g : Gen) : Bool :=
  g.state == .opened || g.state == .cut || (g.state == .stayed && g.tier 2 && !g.recorded 1)

/-- Abandon the loose generations of a job. -/
def State.abandonLoose (job cause ep : Nat) (s : State) : State :=
  ((s.gensOf job).filter Gen.loose).foldl (fun s g => s.abandon g.epoch cause ep) s

/-- Is the generation releasable (R151)? -/
def State.releasable (s : State) (g : Gen) : Bool :=
  let mine := s.gensOf g.job
  !g.loose && g.state != .opened &&
  ((s.newestSafe g.job).map (·.epoch)) != some g.epoch &&
  ((newest (mine.filter (·.recorded 2))).map (·.epoch)) != some g.epoch &&
  g.drainBy.isNone && !(s.restores.any fun r => r.job == g.job && r.epoch == g.epoch)

/-! ### Commit records (R146, R147, R161) -/

/-- Take the segments' tier-1 data as a digest for each member (R192). -/
def Gen.withDigests (g : Gen) : Gen :=
  if g.digests then
    { g with shas := (List.range g.members.length).map fun i =>
        (i, sha 1 ((g.regionsOf i).flatMap fun p =>
          (List.range p.2.segs).flatMap fun n =>
            match g.segs.find? fun x => x.region == p.1 && x.n == n with
            | some x => (values x.taken).take (g.segLen x)
            | none => [])) }
  else g

/-- Is every captured segment in its buddy window (R144)? -/
def Gen.tier1Done (g : Gen) : Bool := g.segs.all fun x => x.state == .copied && x.wrote

/-- Is every parity segment acknowledged? -/
def Gen.tier2Done (g : Gen) : Bool :=
  (List.range g.groupCount).all fun r => (List.range (g.stripes r)).all fun j => g.parityDone.contains (r, j)

/-- Is an accepted STAMP of the generation still running (R142)? -/
def State.stamping (s : State) (e : Nat) : Bool :=
  s.accepted.any fun a => a.fin.isNone && match a.op with
    | .stamp f => f.epoch == e
    | _ => false

/-- Complete the PROTECTs that wait for a generation (R148, R155). -/
def State.protectDone (e : Nat) (s : State) : State :=
  match s.gen e with
  | none => s
  | some g =>
    let n := g.poisonCount
    (s.accepted.filter fun a => a.ofGen g && (match a.op with
        | .protect _ => true
        | _ => false)).foldl (fun s a => (s.meetPoison a.id n).endEntry a.id e) s

/-- Start a change of a generation's directory entry: a commit record, or another change (R161). What it writes is taken
when its turn comes. -/
def State.startRecord (e code : Nat) (s : State) : State :=
  match s.gen e with
  | none => s
  | some g =>
    let g := if code = 0 then { g.withDigests with writing := some 0 } else if code < 4 then { g with writing := some code } else g
    { (s.modGen e fun _ => g) with dirQ := s.dirQ ++ [{ idx := g.dirIdx, epoch := e, code := code }] }

/-- A change that sets no record: it is written while a directory entry is held (R161, R168, R172); one that already waits
takes it along. -/
def State.noteChange (e : Nat) (s : State) : State :=
  match s.gen e with
  | some g =>
    if !g.retained || g.groups.isNone || g.records == 0 || s.dirQ.any (fun c => c.epoch == e && c.code == recOther && !c.going) then s
    else s.startRecord e recOther
  | none => s

/-- The next commit record that a generation is due: tier 1 after the data and the stamps, tier 2 after the parity, the
generation record after the last tier record (R144, R146). Tier 3 is the DRAIN's. -/
def State.dueRecord (s : State) (g : Gen) : Option Nat :=
  if g.writing.isSome || !g.retained then none
  else if g.state = .cut && g.tier1Done && !s.stamping g.epoch then some 0
  else if g.recorded 0 && g.tier 2 && !g.recorded 1 then if g.tier2Done then some 1 else none
  else if g.safe && (!g.tier 3 || g.recorded 2) && !g.recorded 3 && !g.neverCommits then some 3
  else none

/-- Start the record that a generation is due. -/
def State.advance (e : Nat) (s : State) : State :=
  match s.gen e with
  | none => s
  | some g =>
    match s.dueRecord g with
    | some c => s.startRecord e c
    | none => s

/-- The generation became protected (R145, R148, R350). -/
def State.becameSafe (e : Nat) (s : State) : State :=
  match s.gen e with
  | none => s
  | some g =>
    (s.protectDone e).report g.fn fun o =>
      { o with gensProtected := sat16 (o.gensProtected + 1), lastEpoch := max o.lastEpoch e }

/-- The state after a commit record (Table 5-1). -/
def GenState.afterRecord (st : GenState) (code : Nat) : GenState :=
  match code with
  | 0 => .stayed
  | 1 => .parity
  | 2 => .drained
  | 3 => .committed
  | _ => st

/-- A commit record is written (R161): it takes effect, the buffer is brought up to date, and what waited goes on. -/
def State.recordWritten (e code : Nat) (s : State) : State :=
  match s.gen e with
  | none => s
  | some g =>
    if !g.retained || 4 ≤ code then s
    else
      let s := s.modGen e fun x => { x with records := recordsAfter x.records code, state := x.state.afterRecord code,
                                            writing := none }
      let s := if code = 0 then s.modGen e Gen.dropTaken else s
      let s := if code < 3 then s.writeManBuffer e else s
      let s := if !g.safe && ((s.gen e).map Gen.safe).getD false then s.becameSafe e else s
      s.advance e

/-- A commit record is not written (R161). INFO is that of R327. -/
def State.recordFailed (e code info : Nat) (s : State) : State :=
  match s.gen e with
  | none => s
  | some g =>
    if !g.retained then s
    else
      match code with
      | 0 => s.abandon e 2 0
      | 1 => s.abandon e 3 0
      | 2 =>
        let s := match g.drainBy with
          | some d => (s.meetOnce d 0x82 info).endEntry d 0
          | none => s
        s.modGen e fun x => { x with writing := none, drainBy := none, t3Draft := none, t3 := none }
      | 3 => s.modGen e fun x => { x with writing := none, neverCommits := true }
      | _ => s

/-! ### The directory's changes, one at a time for each entry (R161) -/

/-- A change has been written, or not. -/
def State.changeOver (c : DirChange) (fail : Option Nat) (s : State) : State :=
  let s := { s with dirQ := s.dirQ.erase c }.dirStore c.idx (c.code == recFree) fail.isNone
  match fail with
  | none => s.recordWritten c.epoch c.code
  | some info => s.recordFailed c.epoch c.code info

/-- The change of an entry that is being written. -/
def State.changeGoing (s : State) (idx epoch code : Nat) : Option DirChange :=
  s.dirQ.find? fun c => c.going && c.idx == idx && c.epoch == epoch && c.code == code

/-- The generation as a change leaves it. -/
def Gen.after (g : Gen) (code : Nat) : Gen := { g with records := recordsAfter g.records code }

/-- Does a change update the manifest in the store (R147, R161)? -/
def DirChange.updatesManifest (c : DirChange) : Bool := decide (c.code < 3) || c.code == recOther

/-- Write the copy of a change (R160, R161): its SEQ and its place follow from the entry as it now stands. -/
def State.writeCopy (c : DirChange) (s : State) : State :=
  let d := s.dirEnt c.idx
  let seq := d.nextSeq.toNat
  let bs := if c.code = recFree then some (freeCopy seq) else (s.gen c.epoch).map fun g => (g.after c.code).dirCopy seq
  match bs with
  | some bs => s.queueXfer 0 (.dirWrite c.idx c.epoch c.code) [] [Part.load (.staging (s.dirOff c.idx d.nextCopy)) (plain bs)]
  | none => { s with dirQ := s.dirQ.erase c }

/-- Write the manifest that a change updates into the store, segment by segment. -/
def State.writeManStore (c : DirChange) (g : Gen) (s : State) : State :=
  let bs := plain (g.after c.code).manifest
  (piecesOf bs.length).foldl (fun s p =>
    s.queueXfer 0 (.dirMan c.idx c.epoch c.code) [] [Part.load (.staging (s.manOff g.manUnit + p.1)) (slice bs p.1 p.2)]) s

/-- May a change start: it is the entry's next, nothing of an earlier one is left, and the generation record follows the
manifest write after the last tier record (R147)? -/
def State.changeReady (s : State) (c : DirChange) : Bool :=
  !c.going && s.dirQ.find? (·.idx == c.idx) == some c && !s.hasWork (Work.ofDir c.idx) &&
    (c.code != 3 || !s.xfers.any fun x => x.2.phase == .queued && match x.2.work with
      | .manBuf _ e => e == c.epoch
      | _ => false)

/-- Start a change. With staging absent the directory is Mainstay's memory (R162). -/
def State.startChange (c : DirChange) (s : State) : State :=
  if !s.setup.hasStaging then s.changeOver c none
  else
    let c' := { c with going := true }
    let s := { s with dirQ := s.dirQ.map fun x => if x = c then c' else x }
    match if c.updatesManifest then s.gen c.epoch else none with
    | some g => s.writeManStore c' g
    | none => s.writeCopy c'

/-- Start every change whose turn has come. -/
def State.settleDir (s : State) : State := s.dirQ.foldl (fun s c => if s.changeReady c then s.startChange c else s) s

/-- A piece of a change's manifest is written: the copy follows the last piece (R161). -/
def State.manPieceDone (idx epoch code : Nat) (fail : Option Nat) (s : State) : State :=
  match s.changeGoing idx epoch code with
  | none => s
  | some c =>
    match fail with
    | some info =>
      let s := (s.xfers.filter fun x => x.2.work.ofDir idx && x.2.phase == .queued).foldl (fun s x => s.dropXfer x.1) s
      s.changeOver c (some info)
    | none => if s.hasWork (Work.ofDir idx) then s else s.writeCopy c

/-- The copy of a change is written. -/
def State.copyDone (idx epoch code : Nat) (fail : Option Nat) (s : State) : State :=
  match s.changeGoing idx epoch code with
  | none => s
  | some c => s.changeOver c fail

end Sys2Proof.Machine
end

