-- ==== Sys2Proof/Machine/Belay.lean ====
section
/-! DEFINITION. Cuts and Belay (R108 to R140): watches and pre-copy, the cut sequences of Tables 4-5 and 4-8, hits, the
release of guards, rush copies and forks, and what makes a cut due. -/

namespace Sys2Proof.Machine

/-! ### Endpoints -/

/-- The BELAY capability of an endpoint: 0 for PAUSE (Table 4-6). -/
def State.belayOf (s : State) (ep : Nat) : Nat := ((FMap.find s.eps ep).map (·.belay)).getD 0

/-- The endpoints of the region list as given; in full-image mode they need not all have mapped a range. -/
def Gen.allHolders (g : Gen) : List Nat :=
  if g.ranges.isEmpty then g.holders else (g.ranges.map g.regionEp).eraseDups

/-- The Belay endpoints that hold captured regions. -/
def State.belayHolders (s : State) (g : Gen) : List Nat := g.allHolders.filter fun ep => s.belayOf ep != 0

/-- The endpoints of the generation that attach without Belay. -/
def State.pauseHolders (s : State) (g : Gen) : List Nat := g.allHolders.filter fun ep => s.belayOf ep == 0

/-! ### Segments by index -/

/-- Change the segment with an index. -/
def Gen.modSeg (g : Gen) (i : Nat) (f : Seg → Seg) : Gen :=
  { g with segs := g.segs.zipIdx.map fun p => if p.2 = i then f p.1 else p.1 }

/-- Change a segment of a generation. -/
def State.modSeg (e i : Nat) (f : Seg → Seg) (s : State) : State := s.modGen e fun g => g.modSeg i f

/-- The segment of a generation at a fabric address. -/
def Gen.segAt (g : Gen) (addr : Nat) : Option Nat := g.segs.findIdx? fun x => g.segAddr x == addr

/-- The indices of an endpoint's segments that a test accepts. -/
def Gen.pick (g : Gen) (ep : Nat) (p : Seg → Bool) : List Nat :=
  (g.segs.zipIdx.filter fun x => g.segEp x.1 == ep && p x.1).map (·.2)

/-- The region list's segments, in list order (R24). -/
def segsOfRegions (rs : List Region) : List Seg :=
  rs.zipIdx.flatMap fun p => (List.range p.1.segs).map fun n => { region := p.2, n := n }

/-! ### Guard batches (R111, Table 4-4) -/

/-- A bitmap of n bytes: bit i of byte j describes segment 8 j + i (R111). -/
def bitmapBytes (n : Nat) (segs : List Nat) : List PByte :=
  plain ((List.range n).map fun j =>
    BitVec.ofNat 8 (((List.range 8).map fun i => b2n (segs.contains (8 * j + i)) * 2 ^ i).foldl (· + ·) 0))

/-- The GUARD_ARM packets of a batch: one for each 4,096 segments of a region that holds a bit: the address that bit 0
describes, and the bitmap. An empty batch is one packet without payload. -/
def Gen.batchPackets (g : Gen) (idxs : List Nat) : List (Nat × List PByte) :=
  let segs := idxs.filterMap fun i => g.segs[i]?
  let pks := g.regions.zipIdx.flatMap fun r =>
    (List.range (ceilDiv r.1.segs 4096)).filterMap fun b =>
      let bits := (segs.filter fun x => x.region == r.2 && x.n / 4096 == b).map fun x => x.n % 4096
      if bits.isEmpty then none
      else some (fabAddr (g.regionEp r.1) (r.1.base % 2 ^ 52 + b * 4096 * segBytes),
        bitmapBytes (ceilDiv (min 4096 (r.1.segs - b * 4096)) 8) bits)
  if pks.isEmpty then [(0, [])] else pks

/-- Send a batch to an endpoint, FINAL on its last packet, and await its ARMED. -/
def State.sendBatch (e ep : Nat) (watch : Bool) (idxs : List Nat) (s : State) : State :=
  match s.gen e with
  | none => s
  | some g =>
    let pks := g.batchPackets idxs
    let s := pks.zipIdx.foldl (fun s p =>
      let final := p.2 + 1 == pks.length
      s.sendProto { s.pkt 0x4 0x01 ep with len := p.1.2.length, argA := e, argB := p.1.1, slice := g.fn,
                                           arg32 := b2n watch + 2 * b2n final } p.1.2) s
    s.modGen e fun g => { g with batches := g.batches ++ [(ep, watch, idxs)],
                                 armedEps := if g.armedEps.contains ep then g.armedEps else g.armedEps ++ [ep],
                                 segs := if watch then g.segs else
                                   g.segs.zipIdx.map fun x => if idxs.contains x.2 then { x.1 with guardSent := true } else x.1 }

/-- Watch every segment of the Belay endpoints of a generation that opens (R107). -/
def State.watchAll (e : Nat) (s : State) : State :=
  match s.gen e with
  | none => s
  | some g =>
    if g.fullImage then s
    else (s.belayHolders g).foldl (fun s ep => s.sendBatch e ep true (g.pick ep fun _ => true)) s

/-! ### Tier-1 copies -/

/-- Queue the tier-1 copy of a segment: a fabric read and a write into the buddy's window (Table 1-7). -/
def State.queueTier1 (e i : Nat) (s : State) : State :=
  match s.gen e with
  | none => s
  | some g =>
    match g.segs[i]? with
    | none => s
    | some x =>
      let pl := g.place x
      let n := g.segLen x
      s.queueXfer g.fn (.tier1 g.job e i) [Part.at (.fabric (g.segAddr x)) n]
        [Part.at (.fabric (g.stayAddr pl.1 pl.2)) n]

/-- Drop a segment's tier-1 copy. -/
def State.dropTier1 (e i : Nat) (s : State) : State :=
  s.dropWork fun w => match w with
    | .tier1 _ x j => x == e && j == i
    | _ => false

/-- Count bytes of a job's pre-copy (R116). -/
def State.countJob (job num n : Nat) (s : State) : State :=
  match (FMap.find s.jobs job).bind (·.idx) with
  | some i => s.countBytes (ctrId 0xB i num) n
  | none => s

/-- Start a provisional copy (R114); none starts for an ORPHANED function (R349). -/
def State.startProvisional (e i : Nat) (s : State) : State :=
  match s.gen e with
  | none => s
  | some g =>
    if ((FMap.find s.fns g.fn).map (·.state)) == some .orphaned then s
    else
      let n := ((g.segs[i]?).map g.segLen).getD 0
      (s.modGen e fun g => { g.modSeg i fun x => { x with state := .provisional } with
        provTaken := g.provTaken + 1, provBytes := g.provBytes + n }).queueTier1 e i

/-- A cut adds its generation's figures to the job's counters (R116). -/
def State.countPrecopy (g : Gen) (s : State) : State := (s.countJob g.job 0 g.provBytes).countJob g.job 1 g.invalBytes

/-- A watch hit (R113, R115): a batch on its way that set W again arms the segment no more, and one that set G on it does not spare it a
further round of step 4 (R143). -/
def State.watchHit (e i : Nat) (s : State) : State :=
  match s.gen e with
  | none => s
  | some g =>
    match g.segs[i]? with
    | none => s
    | some x =>
      let n := g.segLen x
      let s := s.modGen e fun g => { g.modSeg i fun x => { x with watch := false, hit := true } with
        batches := g.batches.map fun b => if b.2.1 then (b.1, b.2.1, b.2.2.filter (· != i)) else b }
      if x.state = .provisional then
        s.modGen e fun g => { g.modSeg i fun x => { x with state := .invalid, guardSent := false } with
          provPoison := g.provPoison.filter (· != i), provInvalid := g.provInvalid + 1, invalBytes := g.invalBytes + n }
      else s

/-- The step mark of a job's OPEN generation (R113, R114): watched segments count it, and W is set again on those hit. -/
def State.stepMark (e : Nat) (s : State) : State :=
  match s.gen e with
  | none => s
  | some g =>
    if g.fullImage then s
    else
      let hit := (g.segs.zipIdx.filter fun p => p.1.hit).map (·.2)
      let s := s.modGen e fun g => { g with segs := g.segs.map fun x =>
        if x.hit then { x with stable := 0, hit := false }
        else if x.watch then { x with stable := x.stable + 1 } else x }
      let g := (s.gen e).getD g
      let start := if g.lookahead = 0 || g.groups.isNone then []
        else (g.segs.zipIdx.filter fun p =>
          p.1.watch && decide (g.lookahead ≤ p.1.stable) && p.1.state == .idle &&
            !((g.regions[p.1.region]?).map (·.noPrecopy)).getD true).map (·.2)
      let s := start.foldl (fun s i => s.startProvisional e i) s
      (s.belayHolders g).foldl (fun s ep =>
        let again := hit.filter fun i => ((g.segs[i]?).map g.segEp) == some ep
        if again.isEmpty then s else s.sendBatch e ep true again) s

/-! ### Guards after the cut (R121 to R130) -/

/-- Send GUARD_RELEASE for a segment. -/
def State.sendRelease (ep e addr : Nat) (s : State) : State :=
  s.sendProto { s.pkt 0x4 0x03 ep with argA := e, argB := addr,
                                       slice := ((FMap.find s.eps ep).map (·.fn)).getD 0 } []

/-- Send FORK_REMAP for a segment. ARG_A, which Table 2-4 lists neither for FORK_REMAP nor for FORK_ASSIGN, carries the epoch
in both: log 80, DESIGN CHOICE. -/
def State.sendRemap (ep e addr spare : Nat) (s : State) : State :=
  s.sendProto { s.pkt 0x4 0x05 ep with argA := e, argB := addr, addr := spare,
                                       slice := ((FMap.find s.eps ep).map (·.fn)).getD 0 } []

/-- The release of an endpoint whose captured segments are all read: GUARD_DISARM for Belay (R128), the PAUSE signal
otherwise (R122), RESUME in full-image mode (Table 4-8 step 9). -/
def State.endpointRead (e ep : Nat) (s : State) : State :=
  match s.gen e with
  | none => s
  | some g =>
    if !(g.pick ep fun x => x.state != .copied).isEmpty || g.state == .opened then s
    else if s.belayOf ep != 0 then if g.armedEps.contains ep then s.disarm ep e else s
    else if g.released.contains ep then s
    else
      let s := s.modGen e fun g => { g with released := g.released ++ [ep] }
      let s := if g.fullImage then s.resume ep e 0 else s
      if g.pauseSig then s.pauseSignal g.job g.fn g.pauseEp g.pauseCleat else s

/-- A captured segment's read has reached Yard SRAM after the cut point (R123, Table 4-7). -/
def State.segRead (e i : Nat) (s : State) : State :=
  match s.gen e with
  | none => s
  | some g =>
    match g.segs[i]? with
    | none => s
    | some x =>
      let ep := g.segEp x
      let addr := g.segAddr x
      let s := if s.belayOf ep = 0 then s
        else if x.state = .forked then s.sendRemap ep e addr x.spare
        else s.sendRelease ep e addr
      let s := s.modGen e fun g => { g.modSeg i fun x => { x with state := .copied } with rushQ := g.rushQ.filter (· != i) }
      s.endpointRead e ep

/-- The lowest-addressed free spare of an endpoint's fork pool (R126). -/
def State.freeSpare (s : State) (ep : Nat) : Option Nat :=
  match FMap.find s.eps ep with
  | none => none
  | some x =>
    ((List.range x.forkSegs).find? fun i =>
      !s.forks.any fun f => f.ep == ep && f.spare == fabAddr ep (x.forkBase + i * segBytes)).map fun i =>
        fabAddr ep (x.forkBase + i * segBytes)

/-- A hold or fork request for a segment after the cut point (R125, R126, R128). FORK_ASSIGN's ARG_A: log 80. -/
def State.belayHit (e i : Nat) (fork : Bool) (s : State) : State :=
  match s.gen e with
  | none => s
  | some g =>
    match g.segs[i]? with
    | none => s
    | some x =>
      let ep := g.segEp x
      let addr := g.segAddr x
      if x.state != .guarded && x.state != .copying then
        if fork then s.sendRemap ep e addr 0 else s.sendRelease ep e addr
      else
        let spare := if fork && s.belayOf ep == 2 then s.freeSpare ep else none
        match spare with
        | some sp =>
          let s := s.sendProto { s.pkt 0x4 0x04 ep with argA := e, argB := addr, addr := sp, slice := g.fn } []
          let fk : Fork := ⟨ep, e, sp, i⟩
          { s with forks := s.forks ++ [fk] }.modSeg e i fun x => { x with state := .forked, spare := sp }
        | none =>
          let s := if fork then s.bump (ctrId 0xC ep 2) else s
          s.modGen e fun g => { g.modSeg i fun x => { x with state := .rush } with rushQ := g.rushQ ++ [i] }

/-- A hit received: held until the cut point while its cut runs, answered as unguarded where its epoch holds no guard on
the segment (R128, Table 4-10). -/
def State.takeHit (ep e addr : Nat) (fork : Bool) (s : State) : State :=
  let s := s.bump (ctrId 0xC ep (if fork then 1 else 0))
  let unguarded := fun (s : State) => if fork then s.sendRemap ep e addr 0 else s.sendRelease ep e addr
  match s.gen e with
  | none => unguarded s
  | some g =>
    match g.segAt addr with
    | none => unguarded s
    | some i =>
      if g.state = .opened then
        if g.cutting.isSome then s.modGen e fun g => { g with heldHits := g.heldHits.filter (·.1 != i) ++ [(i, fork)] }
        else unguarded s
      else if g.retained then s.belayHit e i fork
      else unguarded s

/-! ### What makes a cut due (R135 to R140) -/

/-- Change a job. -/
def State.modJob (job : Nat) (f : Job → Job) (s : State) : State := { s with jobs := FMap.modify s.jobs job f }

/-- The step trigger at a mark (R136), at the level of that mark (R137). -/
def Job.stepDue (j : Job) (step : Nat) : Bool :=
  let n := j.cad.stepN.getD j.level 0
  match j.base with
  | some b => n != 0 && decide (b.1 + n ≤ step)
  | none => false

/-- Is the interval trigger of a job overdue, at the level of its latest mark (R136, R137)? -/
def State.intervalDue (s : State) (j : Job) : Bool :=
  let t := j.cad.timeS.getD j.level 0
  match j.base with
  | some b => t != 0 && decide (b.2 + t * 32768 ≤ s.lifeTicks)
  | none => false

/-- The interval trigger at a Telltale sample (R136): it stays due until a cut is taken. -/
def State.testIntervals (s : State) : State :=
  { s with jobs := FMap.mapV s.jobs fun _ j => if s.intervalDue j then { j with interval := true } else j }

/-- A step mark of a job: the Telltale level and the current cadence row take effect (R137, R384), and a trigger that a rise of the level
makes overdue is due. Before its first mark a job stands at level 0: log 30, DESIGN CHOICE. -/
def State.markLevel (s : State) (j : Job) : Job :=
  let up : Bool := decide (j.level < s.tt.level)
  let j := { j with level := s.tt.level, cad := s.cad j.fn }
  if up && s.intervalDue j then { j with interval := true } else j

/-- The CUT entries of the job that are accepted and not complete (R140). -/
def State.cutsPending (s : State) (job : Nat) : List Nat :=
  (s.accepted.filter fun a => match a.op with
    | .cut j _ => j == job
    | _ => false).map (·.id)

/-- The drain of a generation is raised to priority 3, where its TIERS includes tier 3 (R138). -/
def Gen.raise (g : Gen) : Gen := if g.tier 3 && !g.recorded 2 then { g with raised := true } else g

/-- The drain of the generation that a due cut of the job will take is raised (R138). -/
def State.raiseOpen (job : Nat) (s : State) : State :=
  match s.openGen job with
  | some g => s.modGen g.epoch Gen.raise
  | none => s

/-- A preemption notice for one job (R138): a cut falls due, the drain is raised, and the eager pre-copy starts. A notice that
meets accepted CUTs waits for what becomes of them (R140, log 69). -/
def State.noticeJob (job : Nat) (s : State) : State :=
  let cuts := s.cutsPending job
  let s := if cuts.isEmpty then s.modJob job fun j => { j with notice := true }
    else s.modJob job fun j => { j with noticeLate := (j.noticeLate ++ cuts).eraseDups }
  let cut := newest ((s.gensOf job).filter fun g => g.state != .opened && !g.recorded 2)
  let s := match cut with
    | some g => s.modGen g.epoch Gen.raise
    | none => s
  match s.openGen job with
  | none => s
  | some g =>
    let s := s.raiseOpen job
    if g.groups.isNone || g.cutting.isSome then s
    else
      let start := (g.segs.zipIdx.filter fun p => p.1.watch && !p.1.hit && p.1.state == .idle &&
        !((g.regions[p.1.region]?).map (·.noPrecopy)).getD true).map (·.2)
      start.foldl (fun s i => s.startProvisional g.epoch i) s

/-- A preemption notice for a job of a slice, which a FROZEN one does not take (R68, R138). -/
def State.noticeOf (f job : Nat) (s : State) : State :=
  match FMap.find s.fns f with
  | none => s
  | some x => if x.state = .frozen then s else s.noticeJob job

/-- A preemption notice for a slice, or for one job of it. -/
def State.notice (f job : Nat) (s : State) : State :=
  ((s.jobs.filter fun j => j.2.fn == f && (job == 0 || j.1 == job)).map (·.1)).foldl (fun s j => s.noticeOf f j) s

/-! ### Taking the cut (R117 to R120, R132 to R134) -/

/-- The segment's state at the cut point (Table 4-7). -/
def Seg.atCutPoint (x : Seg) (belay : Bool) : Seg :=
  if !belay then { x with state := .copying, hasRead := false, wrote := false, poisoned := false }
  else if x.state = .provisional then
    if x.hasRead then { x with state := .copied } else { x with state := .copying }
  else { x with state := .guarded, hasRead := false, wrote := false, poisoned := false, taken := [] }

/-- The captured segment's poison, listed in the order found (R193). -/
def Gen.listPoison (g : Gen) (i : Nat) : Gen :=
  match g.segs[i]? with
  | none => g
  | some x =>
    let pl := g.place x
    if !x.poisoned || g.poisonList.contains pl then g
    else if g.poisonList.length < 1024 then { g with poisonList := g.poisonList ++ [pl] }
    else if g.poisonOvf.contains pl.1 then g else { g with poisonOvf := g.poisonOvf ++ [pl.1] }

/-- Complete the CUT at its cut (R119). -/
def State.completeCut (g : Gen) (c : Cutting) (s : State) : State :=
  let pct := (((FMap.find s.jobs g.job).map (·.cad)).getD CadRow.reset).wastePct
  let s := if g.provBytes * pct < g.invalBytes * 100 then s.meet c.entry 0x11 (g.provInvalid + g.provTaken * 2 ^ 32) else s
  s.endEntry c.entry g.epoch

/-- The generation enters CUT: segments take their states, the copies are queued, held hits are served, the CUT
completes (Table 4-5 step 5, Table 4-8 step 8). -/
def State.enterCut (e : Nat) (s : State) : State :=
  match s.gen e with
  | none => s
  | some g =>
    match g.cutting with
    | none => s
    | some c =>
      let old := g.segs.zipIdx
      let keep := old.filter fun p => s.belayOf (g.segEp p.1) != 0 && p.1.state == .provisional
      let s := s.dropWork fun w => match w with
        | .tier1 _ x j => x == e && !keep.any fun p => p.2 == j
        | _ => false
      let s := s.modGen e fun g => { g with
        state := .cut, step := c.step, cutting := none, batches := [], heldHits := [], provPoison := []
        segs := g.segs.map fun x => (x.atCutPoint (s.belayOf (g.segEp x) != 0)) }
      let s := (s.modJob g.job fun j => { j with
        base := some (c.step, c.point), interval := false, notice := false
        noticeLate := if j.noticeLate.contains c.entry then j.noticeLate else [] }).countPrecopy g
      let s := (g.provPoison.filter fun i => keep.any fun p => p.2 == i).foldl (fun s i => s.modGen e fun g => g.listPoison i) s
      -- a provisional segment that was guarded and has been read is released at once (R115)
      let s := keep.foldl (fun s p =>
        if p.1.hasRead && p.1.guardSent then s.sendRelease (g.segEp p.1) e (g.segAddr p.1) else s) s
      let fresh := old.filter fun p => !keep.any fun q => q.2 == p.2
      let s := fresh.foldl (fun s p => s.queueTier1 e p.2) s
      let s := g.heldHits.foldl (fun s h => s.belayHit e h.1 h.2) s
      let s := s.modGen e fun g => { g with segs := g.segs.map fun x => { x with guardSent := false } }
      let s := if g.fullImage then (s.belayHolders g).foldl (fun s ep => s.resume ep e 0) s else s
      let s := s.completeCut g c
      g.allHolders.foldl (fun s ep => s.endpointRead e ep) s

/-- Await the answers of endpoints from now on. -/
def State.awaitCut (e : Nat) (stage : CutStage) (eps : List Nat) (s : State) : State :=
  s.modGen e fun g => { g with cutting := g.cutting.map fun c => { c with stage := stage, await := eps, since := s.now } }

/-- The cut point of a cut: the life clock is taken, and the slice has an epoch boundary (R117, R132, R345). -/
def State.markPoint (e : Nat) (s : State) : State :=
  let f := ((s.gen e).map (·.fn)).getD 0
  (s.modGen e fun g => { g with cutting := g.cutting.map fun c => { c with point := s.lifeTicks } }).modFn f fun x =>
    { x with cutSeen := true }

/-- Send the guard batches of a cut and await the ARMED answers; with no Belay endpoint the cut goes on at once (R117,
R118). -/
def State.armCut (e : Nat) (s : State) : State :=
  match s.gen e with
  | none => s
  | some g =>
    let eps := s.belayHolders g
    let s := s.awaitCut e .arm eps
    let s := eps.foldl (fun s ep =>
      s.sendBatch e ep false (g.pick ep fun x => !(x.state == .provisional && x.hasRead))) s
    if eps.isEmpty then
      let s := if g.fullImage then s else s.markPoint e
      s.enterCut e
    else s

/-- Start the cut of a job's OPEN generation (R117, R132). -/
def State.startCut (entry step : Nat) (g : Gen) (s : State) : State :=
  let c : Cutting := { entry := entry, step := step, stage := if g.fullImage then .quiesce else .arm, await := [], since := s.now }
  let s := s.modGen g.epoch fun g => { g with cutting := some c }
  let s := s.modAcc entry fun a => { a with phase := .waiting, count := g.epoch }
  if g.fullImage then
    let s := s.awaitCut g.epoch .quiesce g.holders
    g.holders.foldl (fun s ep => s.sendProto { s.pkt 0x3 0x01 ep with argA := g.epoch, slice := g.fn } []) s
  else s.armCut g.epoch

/-- End a CUT whose endpoints did not answer, or whose map cannot be taken: guards are disarmed, quiesced endpoints are
resumed, provisional copies are invalid, every provisional count is zero, and the generation stays OPEN with its trigger due
(R120, R134). A hit that waited for the cut point is answered by the GUARD_DISARM alone: log 81, DESIGN CHOICE. An ARMED that is still owed
arms nothing when it comes, and answers no batch of a later cut (R46, R112). -/
def State.failCut (e status info : Nat) (s : State) : State :=
  match s.gen e with
  | none => s
  | some g =>
    match g.cutting with
    | none => s
    | some c =>
      let s := g.armedEps.foldl (fun s ep => s.disarm ep e) s
      let s := s.resumeAll e
      let s := s.dropWork fun w => match w with
        | .tier1 _ x _ => x == e
        | _ => false
      let s := s.modGen e fun g => { g with
        cutting := none, batches := g.batches.map fun b => (b.1, true, []), heldHits := []
        provTaken := 0, provBytes := 0, provInvalid := 0, invalBytes := 0, provPoison := []
        regions := if g.ranges.isEmpty then g.regions else g.ranges
        ranges := [], maps := []
        segs := if g.fullImage then [] else g.segs.map fun x => { x with
          watch := false, hit := true, stable := 0, guardSent := false
          state := if x.state = .provisional then .invalid else x.state } }
      let s := s.modJob g.job fun j => { j with interval := true }
      s.failEntry c.entry status info

/-- CUT_TIMEOUT: the lowest endpoint that has not answered, and the cause of the stage (R120, R134). -/
def State.cutTimeout (e : Nat) (s : State) : State :=
  match (s.gen e).bind (·.cutting) with
  | none => s
  | some c =>
    let ep := c.await.foldl min 0xFFF
    let cause := match c.stage with
      | .quiesce => 1
      | .arm => 2
      | .mapping => 3
    s.failCut e 0x65 (ep + cause * 4096)

/-- The segments of an endpoint that a watch hit has invalidated since its last batch (Table 4-5 step 4). -/
def Gen.unguarded (g : Gen) (ep : Nat) : List Nat := g.pick ep fun x => x.state == .invalid && !x.guardSent

/-- The ARMED that answers a batch (R113, R117). -/
def State.takeArmed (ep e : Nat) (s : State) : State :=
  match s.gen e with
  | none => s
  | some g =>
    match g.batches.find? fun b => b.1 == ep with
    | none => s
    | some b =>
      let s := s.modGen e fun g => { g with batches := g.batches.erase b }
      if b.2.1 then
        s.modGen e fun g => { g with
          segs := g.segs.zipIdx.map fun x => if b.2.2.contains x.2 then { x.1 with watch := true } else x.1 }
      else
        match g.cutting with
        | none => s
        | some c =>
          let more := g.unguarded ep
          if !more.isEmpty then s.sendBatch e ep false more
          else
            let left := c.await.filter (· != ep)
            let s := s.modGen e fun g => { g with cutting := some { c with await := left } }
            if left.isEmpty then
              let s := if g.fullImage then s else s.markPoint e
              s.enterCut e
            else s

/-- QUIESCE_DONE of a cut: when the last has come, the maps are asked for (Table 4-8 steps 3 and 4). -/
def State.cutQuiesced (ep e : Nat) (s : State) : State :=
  match s.gen e with
  | none => s
  | some g =>
    match g.cutting with
    | none => s
    | some c =>
      if c.stage != .quiesce || !c.await.contains ep then s
      else
        let s := { s with eps := FMap.modify s.eps ep fun x => { x with quiesced := some e } }
        let left := c.await.filter (· != ep)
        let s := s.modGen e fun g => { g with cutting := some { c with await := left } }
        if !left.isEmpty then s
        else
          let s := (s.markPoint e).awaitCut e .mapping g.holders
          g.holders.foldl (fun s p => s.sendProto { s.pkt 0x3 0x03 p with argA := e, slice := g.fn } []) s

/-- The entries of an export map (Table 6-9), of which so many bytes have come. -/
def mapEntries (got : Nat) (bs : List Byte) : List MapEnt :=
  (((chunks 16 bs).filter fun c => c.length == 16).zipIdx).map fun c =>
    ⟨leAt c.1 0 8, leAt c.1 8 8, decide (got < 16 * c.2 + 16)⟩

/-- The entries of a map that name ranges: those that came whole (log 135). -/
def namedRanges (es : List MapEnt) : List MapEnt := es.filter (!·.filled)

/-- Is an export map bad (R196)? -/
def badMap (ep count : Nat) (es : List MapEnt) : Bool :=
  let rs := namedRanges es
  decide (256 < count) ||
  rs.any (fun x => x.len == 0 || decide (2 ^ 40 < x.len) || x.base % 64 != 0 || epOf x.base != ep) ||
  rs.zipIdx.any fun a => rs.zipIdx.any fun b => decide (a.2 < b.2) && overlaps a.1.base a.1.len b.1.base b.1.len

/-- A map of which fewer bytes came than it declares: the remainder is zero and poison-marked (R97). -/
def fillMap (want : Nat) (bs : List PByte) : List PByte := fit want PByte.bad bs

/-- The entries that a map delivers: its declared length, the filled remainder with the rest (R97). An entry in the remainder names no
range, so that the cut goes on with the bytes delivered (R133; log 135). -/
def mapGiven (want : Nat) (bs : List PByte) : List MapEnt := mapEntries bs.length (values (fillMap want bs))

/-- The ranges that a full-image endpoint's map names become its captured regions (R133); FLAGS are those of its KIND 0x5
entry (Table 6-4). -/
def Gen.mappedRegions (g : Gen) (ep : Nat) : List Region :=
  let given := g.regions.find? fun r => g.regionEp r == ep
  (namedRanges (((g.maps.find? fun m => m.1 == ep).map (·.2)).getD [])).map fun x =>
    { base := x.base, len := x.len, tensor := 0xFFFFFFFF, kind := 5, noPrecopy := (given.map (·.noPrecopy)).getD false
      sealed := (given.map (·.sealed)).getD false }

/-- The whole EXPORT_MAP series of an endpoint (R133, R196). An entry above Table 6-9's 2^40 B is taken as a bad map: log 86,
DESIGN CHOICE. -/
def State.mapComplete (g : Gen) (c : Cutting) (ep count : Nat) (bs : List PByte) (s : State) : State :=
  let want := 16 * count
  let s := s.modAcc c.entry fun a => { a with recv := a.recv + min bs.length want }
  let s := if bs.length < want then s.meetOnce c.entry 0x20 0
    else if want < bs.length then s.meetLong c.entry (bs.length - want) else s
  let es := mapGiven want bs
  let limit := ((g.regions.filter fun r => g.regionEp r == ep).map (·.len)).foldl (· + ·) 0
  if badMap ep count es then
    let s := s.logFn 0x0303 g.fn [ep, g.epoch]
    s.failCut g.epoch 0x65 (ep + 3 * 4096)
  else if limit < ((namedRanges es).map (·.len)).foldl (· + ·) 0 then s.failCut g.epoch 0x41 ep
  else
    let s := s.modGen g.epoch fun g => { g with
      maps := g.maps.filter (·.1 != ep) ++ [(ep, es)]
      cutting := some { c with await := c.await.filter (· != ep), mapped := c.mapped ++ [ep], mapRx := FMap.del c.mapRx ep } }
    match s.gen g.epoch with
    | none => s
    | some g' =>
      if !((g'.cutting.map (·.await)).getD []).isEmpty then s
      else
        let rs := g'.holders.flatMap g'.mappedRegions
        let s := s.modGen g.epoch fun g => { g with ranges := g.regions, regions := rs, segs := segsOfRegions rs, maps := [] }
        s.armCut g.epoch

/-- One packet of an EXPORT_MAP series (R133, R196): its data joins what has come, poison marks and all (R48); the first
packet's ARG32 declares the entries, and LAST ends the series. One that no cut awaits is ignored. -/
def State.takeMap (ep count : Nat) (data : List PByte) (last : Bool) (s : State) : State :=
  match s.gens.find? fun g => match g.cutting with
      | some c => g.retained && c.stage == .mapping && c.await.contains ep
      | none => false with
  | none => s
  | some g =>
    match g.cutting with
    | none => s
    | some c =>
      let rx := (FMap.find c.mapRx ep).getD (count, [])
      let bs := rx.2 ++ data
      if last then s.mapComplete g c ep rx.1 bs
      else s.modGen g.epoch fun g => { g with cutting := some { c with mapRx := FMap.put c.mapRx ep (rx.1, bs) } }

/-- A watch hit that comes from the fabric (R113, Table 4-10). Before the final ARMED of the cut it may call for a further
guard round of its endpoint, which is awaited again. One of a generation that has left OPEN is ignored, and counted in the
port's malformed-packet counter: log 136, DESIGN CHOICE. -/
def State.takeWatchHit (port ep e addr : Nat) (s : State) : State :=
  match (s.gen e).filter (·.state == .opened) with
  | none => if port < 32 then s.bump (ctrId 4 port 3) else s.bump (ctrId 6 (port - 32) 2)
  | some g =>
    match g.segAt addr with
    | none => s
    | some i =>
      let s := s.watchHit e i
      match g.cutting with
      | none => s
      | some c =>
        let more := ((s.gen e).map fun g => g.unguarded ep).getD []
        if c.stage != .arm || g.fullImage || c.await.contains ep || more.isEmpty then s
        else (s.modGen e fun g => { g with cutting := some { c with await := c.await ++ [ep] } }).sendBatch e ep false more

end Sys2Proof.Machine
end

