-- ==== Sys2Proof/Machine/Float.lean ====
section
/-! DEFINITION. Number formats: exact values, rounding, FP32 arithmetic of the Unfurl unit, and the conversions of
R212, R213 and R233. -/

namespace Sys2Proof.Machine

/-- A floating-point value: a finite dyadic number, an infinity, or a NaN with the 32 bits that carry it. -/
inductive Fp where
  | fin (neg : Bool) (m : Nat) (e : Int)
  | inf (neg : Bool)
  | nan (w : Word)
  deriving DecidableEq, Repr

/-- A binary format: exponent bits, significand bits, bias. -/
structure FpFormat where
  eb : Nat
  mb : Nat
  bias : Nat
  maxCode : Nat                -- the code of the largest finite magnitude
  deriving DecidableEq, Repr

def fmt32 : FpFormat := ⟨8, 23, 127, 0x7F7FFFFF⟩
def fmtBf16 : FpFormat := ⟨8, 7, 127, 0x7F7F⟩
def fmtFp16 : FpFormat := ⟨5, 10, 15, 0x7BFF⟩
def fmtE4M3 : FpFormat := ⟨4, 3, 7, 0x7E⟩
def fmtE5M2 : FpFormat := ⟨5, 2, 15, 0x7B⟩
def fmtE3M2 : FpFormat := ⟨3, 2, 3, 0x1F⟩
def fmtE2M3 : FpFormat := ⟨2, 3, 1, 0x1F⟩
def fmtE2M1 : FpFormat := ⟨2, 1, 1, 0x7⟩

/-- The finite value that a code spells, sign included. -/
def fpFinite (f : FpFormat) (code : Nat) : Fp :=
  let neg := bitOf code (f.eb + f.mb)
  let e := bits code (f.eb + f.mb - 1) f.mb
  let m := code % 2 ^ f.mb
  if e = 0 then .fin neg m (1 - (f.bias : Int) - f.mb) else .fin neg (2 ^ f.mb + m) ((e : Int) - f.bias - f.mb)

/-- The value of an FP32 word. -/
def fpOf32 (w : Nat) : Fp :=
  if bits w 30 23 = 255 then
    if w % 2 ^ 23 = 0 then .inf (bitOf w 31) else .nan (BitVec.ofNat 32 w)
  else fpFinite fmt32 w

/-- The FP32 value of a stored element of type 0x00 to 0x04 (Table 6-5): each is exact in FP32. -/
def fpOfType (typ code : Nat) : Fp :=
  if typ = 0x00 then fpOf32 code
  else if typ = 0x01 then fpOf32 (code * 65536)
  else if typ = 0x02 then
    if bits code 14 10 = 31 then
      if code % 1024 = 0 then .inf (bitOf code 15)
      else .nan (BitVec.ofNat 32 (b2n (bitOf code 15) * 2 ^ 31 + 0x7F800000 + code % 1024 * 2 ^ 13))
    else fpFinite fmtFp16 code
  else if typ = 0x03 then
    if code % 128 = 127 then .nan (BitVec.ofNat 32 (b2n (bitOf code 7) * 2 ^ 31 + 0x7FC00000)) else fpFinite fmtE4M3 code
  else
    if bits code 6 2 = 31 then
      if code % 4 = 0 then .inf (bitOf code 7)
      else .nan (BitVec.ofNat 32 (b2n (bitOf code 7) * 2 ^ 31 + 0x7F800000 + code % 4 * 2 ^ 21))
    else fpFinite fmtE5M2 code

/-- A magnitude m · 2^e rounded to a format's precision, ties to even, with no upper limit: the code of its magnitude
(R212). Subnormal results are kept. -/
def fpRound (f : FpFormat) (m : Nat) (e : Int) : Nat :=
  if m = 0 then 0
  else
    let emin : Int := 1 - (f.bias : Int)
    let q := max ((Nat.log2 m : Int) + e - f.mb) (emin - f.mb)
    let n :=
      if q ≤ e then m * 2 ^ (e - q).toNat
      else
        let k := (q - e).toNat
        let fl := m / 2 ^ k
        let r := m % 2 ^ k
        let h := 2 ^ k / 2
        if r < h || (r == h && fl % 2 == 0) then fl else fl + 1
    ((q - (emin - f.mb)).toNat) * 2 ^ f.mb + n

/-- The sign bit of a format's code. -/
def fpSign (f : FpFormat) (neg : Bool) : Nat := b2n neg * 2 ^ (f.eb + f.mb)

/-- A result rounded to FP32 (R233). -/
def fp32 (v : Fp) : Fp :=
  match v with
  | .fin neg m e =>
    let c := fpRound fmt32 m e
    if fmt32.maxCode < c then .inf neg else fpFinite fmt32 (fpSign fmt32 neg + c)
  | .inf n => .inf n
  | .nan w => .nan w

/-- The bits of a value that is an FP32 value. -/
def fpBits (v : Fp) : Nat :=
  match v with
  | .fin neg m e => fpSign fmt32 neg + fpRound fmt32 m e
  | .inf n => fpSign fmt32 n + 0x7F800000
  | .nan w => w.toNat

/-- The NaN that an FP32 operation gives: IEEE 754 leaves its sign and payload open. Log 24. -/
def fpNan (a b : Fp) : Fp := .nan (Config.nanResult (fpBits a) (fpBits b) ||| 0x7FC00000)

/-- The exact product. -/
def fpMul (a b : Fp) : Fp :=
  match a, b with
  | .fin na ma ea, .fin nb mb eb => .fin (na != nb) (ma * mb) (ea + eb)
  | .inf na, .inf nb => .inf (na != nb)
  | .inf na, .fin nb m e => if m = 0 then fpNan (.inf na) (.fin nb m e) else .inf (na != nb)
  | .fin na m e, .inf nb => if m = 0 then fpNan (.fin na m e) (.inf nb) else .inf (na != nb)
  | .nan w, y => fpNan (.nan w) y
  | x, .nan w => fpNan x (.nan w)

/-- The exact sum. -/
def fpAdd (a b : Fp) : Fp :=
  match a, b with
  | .fin na ma ea, .fin nb mb eb =>
    let e := min ea eb
    let x : Int := (ma : Int) * 2 ^ (ea - e).toNat * (if na then -1 else 1)
    let y : Int := (mb : Int) * 2 ^ (eb - e).toNat * (if nb then -1 else 1)
    let s := x + y
    if s = 0 then .fin (na && nb) 0 e else .fin (decide (s < 0)) s.natAbs e
  | .inf na, .inf nb => if na = nb then .inf na else fpNan (.inf na) (.inf nb)
  | .inf na, .fin _ _ _ => .inf na
  | .fin _ _ _, .inf nb => .inf nb
  | .nan w, y => fpNan (.nan w) y
  | x, .nan w => fpNan x (.nan w)

/-- Narrow to a format that overflows to infinity, with the given infinity and NaN codes (R212). -/
def fpNarrow (f : FpFormat) (overflow infinity nan : Nat) (v : Fp) : Nat :=
  match v with
  | .fin neg m e =>
    let c := fpRound f m e
    fpSign f neg + (if f.maxCode < c then overflow else c)
  | .inf neg => fpSign f neg + infinity
  | .nan w => fpSign f (w.getLsbD 31) + nan

/-- The code of an FP32 value in an output type without scales (R212). -/
def fpConvert (out : Nat) (v : Fp) : Nat :=
  if out = 0x00 then fpBits v
  else if out = 0x01 then fpNarrow fmtBf16 0x7F80 0x7F80 0x7FC0 v
  else if out = 0x02 then fpNarrow fmtFp16 0x7C00 0x7C00 0x7E00 v
  else if out = 0x03 then fpNarrow fmtE4M3 0x7E 0x7E 0x7F v
  else fpNarrow fmtE5M2 0x7B 0x7C 0x7F v

/-- The element format and emax of an MX type (R213). -/
def mxFormat (out : Nat) : FpFormat × Nat :=
  if out = 0x08 then (fmtE4M3, 8)
  else if out = 0x09 then (fmtE5M2, 15)
  else if out = 0x0A then (fmtE3M2, 4)
  else if out = 0x0B then (fmtE2M3, 2)
  else (fmtE2M1, 2)

/-- Is the code an MX type? -/
def isMx (typ : Nat) : Bool := decide (0x08 ≤ typ) && decide (typ ≤ 0x0C)

/-- floor(log2) of a finite magnitude, none for zero. -/
def fpLog (v : Fp) : Option Int :=
  match v with
  | .fin _ m e => if m = 0 then none else some ((Nat.log2 m : Int) + e)
  | _ => none

/-- Is the value finite? -/
def fpIsFin (v : Fp) : Bool :=
  match v with
  | .fin _ _ _ => true
  | _ => false

/-- The scale code and element codes of an MX block (R213). Elements are scaled by 2^X, with X as item 2 gives it.
Log 25. -/
def mxBlock (out : Nat) (vs : List Fp) : Nat × List Nat :=
  if vs.any fun v => !fpIsFin v then (0xFF, vs.map fun _ => 0)
  else
    match (vs.filterMap fpLog).max? with
    | none => (0, vs.map fun _ => 0)
    | some l =>
      let f := (mxFormat out).1
      let x := l - (mxFormat out).2
      (min (x + 127).toNat 254, vs.map fun v =>
        match v with
        | .fin neg m e => fpSign f neg + min (fpRound f m (e - x)) f.maxCode
        | _ => 0)

/-- Element codes of an MX type packed into bytes (R213). -/
def mxPack (out : Nat) (codes : List Nat) : List Byte :=
  if out = 0x08 || out = 0x09 then codes.map (BitVec.ofNat 8 ·)
  else if out = 0x0A || out = 0x0B then
    ((chunks 4 codes).map fun g => toLe 3 ((g.zipIdx.map fun c => c.1 * 2 ^ (6 * c.2)).foldl (· + ·) 0)).flatten
  else ((chunks 2 codes).map fun g => BitVec.ofNat 8 (g.headD 0 + 16 * g.getD 1 0))

/-- The bytes of one element of a type without scales (Table 6-5). -/
def typeSize (typ : Nat) : Nat :=
  if typ = 0x00 || typ = 0x12 then 4
  else if typ = 0x01 || typ = 0x02 || typ = 0x11 then 2
  else if typ = 0x13 then 8
  else 1

/-- The packed bytes of one MX block. -/
def mxBytes (out : Nat) : Nat := if out = 0x08 || out = 0x09 then 32 else if out = 0x0C then 16 else 24

/-- Is the code an element type at all (Table 6-5)? -/
def isType (typ : Nat) : Bool :=
  decide (typ ≤ 4) || isMx typ || (decide (0x10 ≤ typ) && decide (typ ≤ 0x13)) || typ == 0x18

/-- Is the code a stored type (Table 6-5)? -/
def isStored (typ : Nat) : Bool := isType typ && !isMx typ

/-- Is a conversion permitted (Table 6-14)? -/
def convertible (stored out : Nat) : Bool :=
  if stored = 0 then decide (out ≤ 4) || isMx out else out == stored && isStored out

end Sys2Proof.Machine
end

