-- ==== Sys2Proof/Machine/Operands.lean ====
section
/-! DEFINITION. The operand forms: the layouts of Tables 3-6, 3-10 and 3-11, their malformations (R92, R93) and the
decoding of a submission entry. -/

namespace Sys2Proof.Machine

/-- A field of an entry: byte offset, bytes, and how many low bits it uses; the bits above are reserved. -/
abbrev Field := Nat × Nat × Nat

/-- A field that uses all its bits. -/
def whole (off len : Nat) : Field := (off, len, 8 * len)

/-- The fields of the common header (Table 3-6). Bytes 2, 3, 11, 14 and 15 are reserved. -/
def headerFields : List Field :=
  [whole 0 1, (1, 1, 3), whole 4 4, whole 8 2, whole 10 1, (12, 2, 12)]

/-- The opcode-specific fields of the admin entries (Table 3-10). -/
def adminFields (op : Nat) : List Field :=
  match op with
  | 0x01 => [(16, 2, 12), whole 18 1, whole 19 1, whole 20 1, whole 21 1, whole 22 1, whole 24 8, (32, 2, 12),
             whole 34 2, whole 40 8, whole 48 4, whole 52 2, whole 54 2]
  | 0x02 => [(16, 2, 12), whole 18 1, whole 19 1]
  | 0x03 => [whole 16 1, (20, 4, 20), whole 24 2, whole 26 2, whole 28 2, whole 32 8]
  | 0x04 => [whole 16 1, whole 24 2, whole 26 2, whole 28 2, whole 32 8]
  | 0x05 => [whole 16 1, whole 17 1, whole 20 4]
  | 0x06 => [whole 16 1]
  | 0x07 => [whole 16 1, whole 24 8, whole 32 4, whole 36 4]
  | 0x08 => [whole 16 1, (20, 4, 20), whole 24 8, whole 32 4, whole 36 4]
  | 0x09 => [whole 24 8, whole 32 4, whole 36 4]
  | 0x0A => [whole 16 4]
  | 0x0B => [whole 16 4]
  | 0x0C => [(16, 2, 12), whole 18 1, whole 19 1, (20, 1, 1), whole 21 1, whole 24 8, whole 32 8, whole 40 8,
             whole 48 4]
  | 0x0D => [whole 16 4, whole 20 1, whole 24 8, whole 32 2]
  | 0x0E => [whole 16 1, whole 24 8, whole 32 4]
  | 0x0F => [whole 16 1, whole 17 1]
  | _ => []

/-- The opcode-specific fields of the I/O entries (Table 3-11). -/
def ioFields (op : Nat) : List Field :=
  match op with
  | 0x20 => [whole 16 8, whole 24 8, whole 32 8, whole 40 1, whole 41 1]
  | 0x21 => [whole 16 8, whole 24 8, whole 32 1, whole 40 8]
  | 0x22 => [whole 16 8, whole 24 1, (25, 1, 3), whole 26 1, whole 28 4, whole 32 8, whole 40 8, whole 48 4]
  | 0x23 => [whole 16 8, whole 24 8]
  | 0x24 => [whole 16 8, whole 24 8, whole 32 8, whole 40 4, whole 44 2, (46, 2, 12), whole 48 8, whole 56 8]
  | 0x25 => [whole 16 8, whole 24 8, (32, 1, 3), whole 33 1, whole 34 1, whole 40 8]
  | 0x26 => [whole 16 8, whole 24 8, whole 32 8, whole 40 1, (41, 1, 1), whole 44 4]
  | 0x27 => [whole 16 8, whole 24 8, whole 32 1, (33, 1, 1), whole 40 8, whole 48 4, whole 52 4]
  | 0x28 => [whole 16 8, (24, 2, 12), (26, 2, 12)]
  | 0x29 => [whole 16 2, whole 18 1, whole 19 1, whole 20 1, whole 21 1, (22, 1, 2), whole 24 8, whole 32 8,
             whole 40 4, whole 44 4, whole 48 8, whole 56 4]
  | 0x2A => [whole 16 2, whole 24 8, whole 32 8]
  | 0x2B => [whole 16 2, whole 18 1]
  | 0x2C => [whole 16 2, whole 18 1, (20, 2, 12)]
  | 0x2D => [whole 16 2, whole 20 4, whole 24 4]
  | 0x2E => [whole 16 1, whole 17 1, whole 18 1, whole 19 1, whole 24 8, whole 32 4, whole 40 8]
  | 0x2F => [whole 16 4, whole 20 1, whole 24 16, whole 40 8]
  | _ => []

/-- Is the code an admin opcode (R98)? -/
def isAdminOp (op : Nat) : Bool := decide (0x01 ≤ op) && decide (op ≤ 0x0F)

/-- Is the code an I/O opcode (R98)? -/
def isIoOp (op : Nat) : Bool := decide (0x20 ≤ op) && decide (op ≤ 0x30)

/-- A check of one field: its offset, the reason that a breach has (R93), and whether the field passes. -/
abbrev Check := Nat × Nat × Bool

/-- Reserved content: non-zero reserved bits of listed fields, and non-zero bytes that no field lists (R92). -/
def reservedChecks (raw : List Byte) (fs : List Field) : List Check :=
  (fs.map fun f => (f.1, 0x02, decide (leAt raw f.1 f.2.1 < 2 ^ f.2.2))) ++
  (List.range 64).map fun i =>
    (i, 0x02, fs.any (fun f => decide (f.1 ≤ i) && decide (i < f.1 + f.2.1)) || leAt raw i 1 == 0)

/-- A value in a range. -/
def rng (off v lo hi : Nat) : Check := (off, 0x03, decide (lo ≤ v) && decide (v ≤ hi))

/-- A value that must be zero under a condition. -/
def zeroIf (c : Bool) (off v : Nat) : Check := (off, 0x03, !c || v == 0)

/-- A value that must be a multiple (a range, R93). -/
def mult (off v m : Nat) : Check := (off, 0x03, v % m == 0)

/-- An address that must be aligned, under a condition. -/
def aligned (c : Bool) (off v m : Nat) : Check := (off, 0x04, !c || v % m == 0)

/-- The ranges of the allotment fields. -/
def allotChecks (v : Nat → Nat → Nat) : List Check :=
  [rng 24 (v 24 2) 0 2048, rng 26 (v 26 2) 1 256, rng 28 (v 28 2) 0 512, mult 32 (v 32 8) 65536]

/-- The ranges and alignments of the admin entries (Table 3-10). -/
def adminChecks (op : Nat) (v : Nat → Nat → Nat) : List Check :=
  match op with
  | 0x01 =>
    let enable := v 19 1 == 1
    let sq := v 19 1 == 0 && v 18 1 == 0
    let ring := v 19 1 == 0 && v 18 1 == 1
    [rng 16 (v 16 2 % 4096) 1 4095, rng 18 (v 18 1) 0 1, rng 19 (v 19 1) 0 1,
     zeroIf enable 20 (v 20 1), zeroIf enable 21 (v 21 1), zeroIf enable 22 (v 22 1), zeroIf enable 24 (v 24 8),
     zeroIf enable 32 (v 32 2), zeroIf enable 34 (v 34 2), zeroIf enable 40 (v 40 8), zeroIf enable 48 (v 48 4),
     zeroIf enable 52 (v 52 2), zeroIf enable 54 (v 54 2),
     (21, 0x03, enable || (decide (4 ≤ v 21 1) && decide (v 21 1 ≤ 16))),
     (22, 0x03, enable || v 20 1 != 0 || v 22 1 != 0),
     aligned (!enable) 24 (v 24 8) 4096,
     zeroIf ring 32 (v 32 2), zeroIf ring 34 (v 34 2),
     (34, 0x03, !sq || (decide (1 ≤ v 34 2) && decide (v 34 2 ≤ 256))),
     aligned ring 40 (v 40 8) 4,
     zeroIf sq 40 (v 40 8), zeroIf sq 48 (v 48 4), zeroIf sq 52 (v 52 2), zeroIf sq 54 (v 54 2)]
  | 0x02 => [rng 18 (v 18 1) 0 1, rng 19 (v 19 1) 0 1]
  | 0x03 => rng 16 (v 16 1) 1 255 :: allotChecks v
  | 0x04 => rng 16 (v 16 1) 1 255 :: allotChecks v
  | 0x05 => [rng 17 (v 17 1) 0 1, (20, 0x03, (v 17 1 == 0) == (v 20 4 != 0) || decide (1 < v 17 1))]
  | 0x06 => [rng 16 (v 16 1) 1 255]
  | 0x07 => [rng 16 (v 16 1) 1 255, mult 32 (v 32 4) 64]
  | 0x08 => [rng 16 (v 16 1) 1 255]
  | 0x09 => [rng 32 (v 32 4) 64 1048576]
  | 0x0C =>
    let attach := v 21 1 == 0
    let fork := v 19 1 == 2
    [(16, 0x03, v 16 2 % 4096 != 0 && v 16 2 % 4096 != 0xFFF), rng 21 (v 21 1) 0 1,
     (19, 0x03, !attach || decide (v 19 1 ≤ 2)), aligned attach 24 (v 24 8) 65536,
     (32, 0x03, !attach || v 32 8 % 65536 == 0), aligned (attach && fork) 40 (v 40 8) 65536,
     zeroIf (attach && !fork) 40 (v 40 8),
     (48, 0x03, !(attach && fork) || (decide (1 ≤ v 48 4) && decide (v 48 4 ≤ 65536))),
     zeroIf (attach && !fork) 48 (v 48 4)]
  | 0x0D => [rng 20 (v 20 1) 0 3, rng 32 (v 32 2) 48 512, mult 32 (v 32 2) 16]
  | 0x0E => [rng 16 (v 16 1) 0 4]
  | 0x0F => [rng 16 (v 16 1) 0 4, rng 17 (v 17 1) 0 1]
  | _ => []

/-- The tiers field: tier 1 must be set (Table 3-11). -/
def tiersCheck (off v : Nat) : Check := (off, 0x03, v % 2 == 1)

/-- The ranges and alignments of the I/O entries (Table 3-11, R26). -/
def ioChecks (op : Nat) (v : Nat → Nat → Nat) : List Check :=
  match op with
  | 0x20 => [aligned true 16 (v 16 8) 64, aligned true 24 (v 24 8) 64, rng 32 (v 32 8) 1 (2 ^ 40),
             rng 40 (v 40 1) 0 2, rng 41 (v 41 1) 0 2]
  | 0x21 => [aligned true 16 (v 16 8) 64, rng 24 (v 24 8) 64 (2 ^ 40), mult 24 (v 24 8) 64, rng 32 (v 32 1) 0 2]
  | 0x22 => [rng 24 (v 24 1) 0 1, tiersCheck 25 (v 25 1), rng 26 (v 26 1) 0 15, rng 28 (v 28 4) 1 65536,
             mult 48 (v 48 4) 64]
  | 0x24 => [rng 44 (v 44 2) 0 4096, zeroIf (v 44 2 == 0) 48 (v 48 8)]
  | 0x25 =>
    let t2 := bitOf (v 32 1) 1
    [tiersCheck 32 (v 32 1), (33, 0x03, !t2 || (decide (1 ≤ v 33 1) && decide (v 33 1 ≤ 16))),
     (34, 0x03, !t2 || (decide (1 ≤ v 34 1) && decide (v 34 1 ≤ 4))), zeroIf (!t2) 33 (v 33 1), zeroIf (!t2) 34 (v 34 1)]
  | 0x26 => [rng 40 (v 40 1) 0 3]
  | 0x27 =>
    let plainRestore := !bitOf (v 33 1) 0
    [rng 32 (v 32 1) 0 3, zeroIf plainRestore 40 (v 40 8), zeroIf plainRestore 48 (v 48 4)]
  | 0x29 => [rng 16 (v 16 2) 0 511, rng 18 (v 18 1) 0 3, rng 19 (v 19 1) 1 6, rng 20 (v 20 1) 3 64,
             (21, 0x03, isType (v 21 1)), aligned true 24 (v 24 8) 64, aligned true 32 (v 32 8) 65536,
             rng 40 (v 40 4) 65536 4194304, mult 40 (v 40 4) 65536, rng 44 (v 44 4) 1 (2 ^ 32 - 1),
             rng 56 (v 56 4) 1 (2 ^ 32 - 1)]
  | 0x2A => [rng 16 (v 16 2) 0 511, aligned true 24 (v 24 8) 64]
  | 0x2B => [rng 16 (v 16 2) 0 511, rng 18 (v 18 1) 0 1]
  | 0x2C => [rng 18 (v 18 1) 1 255]
  | 0x2D => [rng 20 (v 20 4) 1 2147483647, rng 24 (v 24 4) 1 (2 ^ 32 - 1)]
  | 0x2E =>
    let hm := decide (4 ≤ v 17 1)
    let init := v 18 1 == 0
    [rng 16 (v 16 1) 0 15, (17, 0x03, decide (v 17 1 ≤ 6) && v 17 1 != 3), rng 18 (v 18 1) 0 2,
     (19, 0x03, !hm || decide (v 19 1 ≤ 63)), zeroIf (!hm) 19 (v 19 1), zeroIf init 24 (v 24 8),
     zeroIf init 32 (v 32 4), mult 32 (v 32 4) (if v 17 1 % 4 = 0 then 64 else 128),
     zeroIf (v 18 1 != 2) 40 (v 40 8)]
  | 0x2F => [rng 20 (v 20 1) 0 1]
  | _ => []

/-- The header's rules (Table 3-6): CLEAT_ID and SIG_COUNT are zero without SIG. -/
def headerChecks (v : Nat → Nat → Nat) : List Check :=
  let sig := bitOf (v 1 1) 0
  [zeroIf (!sig) 8 (v 8 2), zeroIf (!sig) 10 (v 10 1), (10, 0x03, !sig || decide (1 ≤ v 10 1))]

/-- The first offending field: the smallest offset among the failed checks, then the smallest reason (R93). -/
def firstBreach (cs : List Check) : Option (Nat × Nat) :=
  (cs.filter (!·.2.2)).foldl (fun acc c =>
    match acc with
    | none => some (c.1, c.2.1)
    | some p => if c.1 < p.1 || (c.1 == p.1 && decide (c.2.1 < p.2)) then some (c.1, c.2.1) else some p) none

/-- The malformation of an entry, if it has one (R92): the offset and the reason of R93. -/
def entryBreach (admin : Bool) (raw : List Byte) : Option (Nat × Nat) :=
  let op := leAt raw 0 1
  let v := fun off len => leAt raw off len
  if (if admin then isAdminOp op else isIoOp op) then
    firstBreach (reservedChecks raw (headerFields ++ (if admin then adminFields op else ioFields op)) ++
      headerChecks v ++ (if admin then adminChecks op v else ioChecks op v))
  else some (0, 0x01)

/-- The common header of an entry. -/
def decodeHeader (raw : List Byte) : Hdr where
  opcode := leAt raw 0 1
  noCqe := bitOf (leAt raw 1 1) 2
  fence := bitOf (leAt raw 1 1) 1
  sig := bitOf (leAt raw 1 1) 0
  tag := leAt raw 4 4
  cleatId := leAt raw 8 2
  sigCount := leAt raw 10 1
  sigEp := leAt raw 12 2

/-- A space code (R98). -/
def spaceOf (v : Nat) : Space := if v = 0 then .fabric else if v = 1 then .staging else .host

/-- The allotment fields. -/
def allotOf (v : Nat → Nat → Nat) : Allot := ⟨v 24 2, v 26 2, v 28 2, v 32 8⟩

/-- The operation of an admin entry that is not malformed. -/
def adminOp (v : Nat → Nat → Nat) : Op :=
  match v 0 1 with
  | 0x01 => .queueCreate ⟨v 16 2, v 18 1 == 1, v 19 1 == 1, v 20 1, v 21 1, v 22 1, v 24 8, v 32 2, v 34 2, v 40 8,
              v 48 4, v 52 2, v 54 2⟩
  | 0x02 => .queueDestroy (v 16 2) (v 18 1 == 1) (v 19 1 == 1)
  | 0x03 => .sliceCreate (v 16 1) (v 20 4) (allotOf v)
  | 0x04 => .sliceResize (v 16 1) (allotOf v)
  | 0x05 => .sliceReset (v 16 1) (v 17 1 == 1) (v 20 4)
  | 0x06 => .sliceFreeze (v 16 1)
  | 0x07 => .sliceSave (v 16 1) (v 24 8) (v 32 4) (v 36 4)
  | 0x08 => .sliceLoad (v 16 1) (v 20 4) (v 24 8) (v 32 4) (v 36 4)
  | 0x09 => .rigStage (v 24 8) (v 32 4) (v 36 4)
  | 0x0A => .rigCommit (v 16 4)
  | 0x0B => .rigRollback (v 16 4)
  | 0x0C => .attach ⟨v 16 2, v 18 1, v 19 1, v 20 1 == 1, v 21 1 == 1, v 24 8, v 32 8, v 40 8, v 48 4⟩
  | 0x0D => .keyLoad (v 16 4) (v 20 1) (v 24 8) (v 32 2)
  | 0x0E => .fwStage (v 16 1) (v 24 8) (v 32 4)
  | _ => .fwActivate (v 16 1) (v 17 1 == 1)

/-- The operation of an I/O entry that is not malformed. -/
def ioOp (raw : List Byte) (v : Nat → Nat → Nat) : Op :=
  match v 0 1 with
  | 0x20 => .copy ⟨v 16 8, v 24 8, v 32 8, spaceOf (v 40 1), spaceOf (v 41 1)⟩
  | 0x21 => .fill ⟨v 16 8, v 24 8, spaceOf (v 32 1), v 40 8⟩
  | 0x22 => .genOpen ⟨v 16 8, v 24 1 == 1, v 25 1, v 26 1, v 28 4, v 32 8, v 40 8, v 48 4⟩
  | 0x23 => .cut (v 16 8) (v 24 8)
  | 0x24 => .stamp ⟨v 16 8, v 24 8, v 32 8, v 40 4, v 44 2, v 46 2, v 48 8, v 56 8⟩
  | 0x25 => .protect ⟨v 16 8, v 24 8, v 32 1, v 33 1, v 34 1, v 40 8⟩
  | 0x26 => .drain ⟨v 16 8, v 24 8, v 32 8, v 40 1, v 41 1 == 1, v 44 4⟩
  | 0x27 => .restore ⟨v 16 8, v 24 8, v 32 1, v 33 1 == 1, v 40 8, v 48 4, v 52 4⟩
  | 0x28 => .restoreSpare (v 16 8) (v 24 2) (v 26 2)
  | 0x29 => .sheetArm ⟨v 16 2, v 18 1, v 19 1, v 20 1, v 21 1, bitOf (v 22 1) 0, bitOf (v 22 1) 1, v 24 8, v 32 8,
              v 40 4, v 44 4, v 48 8, v 56 4⟩
  | 0x2A => .sheetRearm (v 16 2) (v 24 8) (v 32 8)
  | 0x2B => .sheetStop (v 16 2) (v 18 1 == 1)
  | 0x2C => .cleatSignal (v 16 2) (v 18 1) (v 20 2)
  | 0x2D => .cleatWait (v 16 2) (v 20 4) (v 24 4)
  | 0x2E => .digest ⟨v 16 1, v 17 1 % 4, decide (4 ≤ v 17 1), v 18 1, v 19 1, v 24 8, v 32 4, v 40 8⟩
  | 0x2F => .kuBlock (v 16 4) (v 20 1 == 1) (slice raw 24 16) (v 40 8)
  | _ => .snapLatch

/-- The operation of an entry that is not malformed. -/
def decodeOp (admin : Bool) (raw : List Byte) : Op :=
  if admin then adminOp (fun off len => leAt raw off len) else ioOp raw (fun off len => leAt raw off len)

/-- The I/O opcodes' job field, where the entry names a job (R468). -/
def Op.job? : Op → Option Nat
  | .genOpen f => some f.job
  | .cut j _ => some j
  | .stamp f => some f.job
  | .protect f => some f.job
  | .drain f => some f.job
  | .restore f => some f.job
  | .restoreSpare j _ _ => some j
  | _ => none

end Sys2Proof.Machine
end

