-- ==== Sys2Proof/Machine/Rings.lean ====
section
/-! DEFINITION. Rings and queues (R73 to R97): doorbells, acceptance, malformed entries and halts, creation and
destruction of queues, the admin queue's registers (R452, R453), and the completion of entries. -/

namespace Sys2Proof.Machine

/-! ### Halts (R94, R95) -/

/-- Halt the block (R95): every submission queue and function, GUARD_DISARM for every armed epoch, unprotected generations
abandoned, and the bit of the global fault status. -/
def State.haltBlock (bit : Nat) (s : State) : State :=
  let s : State := { s with
    sqs := FMap.mapV s.sqs fun _ q => if q.state = .running || q.state = .disabled then q.stop .halted else q
    fns := FMap.mapV s.fns fun _ x =>
      if x.state = .active || x.state = .orphaned then { x with state := .halted, haltCause := 4 } else x }
  let armed := s.gens.flatMap fun g => g.armedEps.map fun ep => (ep, g.epoch)
  let s := armed.foldl (fun s p => s.disarm p.1 p.2) s
  let s := (s.gens.filter fun g => g.retained && !g.safe).foldl (fun s g => s.abandon g.epoch 5 0) s
  { s with glob := { s.glob with halted := true } }.setFault bit

/-- INFO of a MALFORMED completion (R93). -/
def malformedInfo (a : Acc) (offset reason : Nat) : Nat :=
  offset + reason * 2 ^ 8 + a.sq * 2 ^ 16 + a.idx * 2 ^ 32 + b2n (a.sq == 0) * 2 ^ 48

/-- An entry is found malformed (R93 to R95): its function halts, or the block where it came on the admin queue. -/
def State.malformed (e offset reason : Nat) (s : State) : State :=
  match s.acc e with
  | none => s
  | some a =>
    let info := malformedInfo a offset reason
    let s := if a.sq = 0 then s.haltBlock 0 else s.haltFn a.fn 1 a.idx a.sq
    (s.logFn 0x0201 a.fn [info]).failEntry e 0x80 info

/-- A completion write was answered with an error (R96). -/
def State.cqWriteError (ring index : Nat) (s : State) : State :=
  match FMap.find s.cqs ring with
  | none => s
  | some r =>
    let s := { s with cqs := FMap.put s.cqs ring { r with state := .halted } }
    let s := s.logFn 0x0203 r.fn [ring, index]
    if ring = 0 then s.haltBlock 15 else
      (s.haltQueuesOf r.fn).modFn r.fn fun x =>
        if x.state = .frozen || x.state = .halted then x
        else { x with state := .halted, haltCause := 2, haltIndex := index, haltQid := ring }

/-! ### Doorbells (R76 to R79) -/

/-- A write of SQ_DOORBELL (R77, R79). A TAIL at or above the ring size counts where the slot takes TAIL; of a slot that ignores the
write it counts nothing: log 80, DESIGN CHOICE. -/
def State.sqDoorbell (f slot tail : Nat) (inv : Bool) (s : State) : State :=
  if !s.ctlReady || !FMap.has s.fns f || s.doorbellsOff f then s
  else
    match s.sqAt f slot with
    | none => s
    | some (qid, q) =>
      if q.state = .running || q.state = .disabled then
        if ringSize q.log2 ≤ tail then s.bump (ctrId 7 f 0)
        else
          { s with sqs := FMap.put s.sqs qid { q with tail := tail, cache := if inv then [] else q.cache } }.wake
      else s

/-- A write of CQ_DOORBELL (R74, R77, R84). A HEAD at or above the ring size counts in every state of the ring: log 80, DESIGN
CHOICE. -/
def State.cqDoorbell (f slot head : Nat) (s : State) : State :=
  if !s.ctlReady || !FMap.has s.fns f || s.doorbellsOff f then s
  else
    match s.cqAt f slot with
    | none => s
    | some (qid, r) =>
      if ringSize r.log2 ≤ head then s.bump (ctrId 7 f 0)
      else if r.state = .running then
        ({ s with cqs := FMap.put s.cqs qid { r with head := head } }.wake).flushRing qid
      else s

/-! ### The admin queue (R90, R452, R453) -/

/-- Are the admin queue's registers writable: the block is neither halted nor in RECOVERY (R453 item 6)? -/
def State.admWritable (s : State) : Bool := !s.glob.halted && !s.glob.recovery

/-- Queue 0 takes the registers' base and size, with its indices back to zero (R453 item 1). -/
def State.asqReset (s : State) : State :=
  { s with sqs := FMap.modify s.sqs 0 fun q =>
      { q with head := 0, tail := 0, cache := [], base := s.adm.asqBase, log2 := s.adm.asqLog2 } }

/-- Write ASQ_CTRL (R453 items 1, 3 to 6). -/
def State.writeAsqCtrl (v : Nat) (s : State) : State :=
  if !s.ctlReady || !s.admWritable then s
  else
    let enable := bitOf v 31
    let size := bits v 4 0
    let valid := decide (4 ≤ size) && decide (size ≤ 16)
    if s.adm.asqEnable then
      if enable then s
      else
        { s with
          adm := { s.adm with asqEnable := false }
          sqs := FMap.modify s.sqs 0 fun q => if q.state = .running then q.stop .disabled else q }
    else
      let s := if valid && size != s.adm.asqLog2 then
          ({ s with adm := { s.adm with asqLog2 := size } }.asqReset) else s
      if !enable then s
      else if s.glob.ready && s.adm.acqEnable && !s.adm.acqStopping && decide (4 ≤ s.adm.asqLog2) &&
          s.adm.asqBase % 4096 == 0 then
        { s with
          adm := { s.adm with asqEnable := true }
          sqs := FMap.modify s.sqs 0 fun q => { q with state := .running, base := s.adm.asqBase, log2 := s.adm.asqLog2 } }.wake
      else s.logBadAccess 0x00010008 4

/-- Write ACQ_CTRL (R453 items 1, 2, 4 to 6). A disable waits for the last admin completion. -/
def State.writeAcqCtrl (v : Nat) (s : State) : State :=
  if !s.ctlReady || !s.admWritable then s
  else
    let enable := bitOf v 31
    let size := bits v 4 0
    let valid := decide (4 ≤ size) && decide (size ≤ 16)
    if s.adm.acqEnable then
      if enable || s.adm.asqEnable then s
      else { s with adm := { s.adm with acqStopping := true } }
    else
      let s := if valid && size != s.adm.acqLog2 then { s with adm := { s.adm with acqLog2 := size } } else s
      if !enable then s
      else if s.glob.ready && decide (4 ≤ s.adm.acqLog2) && s.adm.acqBase % 4096 == 0 then
        let r : Cq := { state := .running, fn := 0, slot := 0, log2 := s.adm.acqLog2, base := s.adm.acqBase,
                        intAddr := s.adm.acqIntAddr, intData := s.adm.acqIntData, coalCount := s.adm.coalCount,
                        coalTicks := s.adm.coalTicks }
        { s with adm := { s.adm with acqEnable := true }, cqs := FMap.put s.cqs 0 r }
      else s.logBadAccess 0x00010018 4

/-- A deferred disable of the admin completion ring takes effect (R453 item 5). -/
def State.stopAcq (s : State) : State :=
  if s.adm.acqStopping && !(s.accepted.any (·.sq == 0)) &&
      ((FMap.find s.cqs 0).map (·.held.isEmpty)).getD true then
    { s with adm := { s.adm with acqStopping := false, acqEnable := false }, cqs := FMap.del s.cqs 0 }
  else s

/-! ### Acceptance (R78, R80) -/

/-- May the queue accept an entry now, leaving aside what the entry itself asks? -/
def State.mayAccept (s : State) (qid : Nat) (q : Sq) : Bool :=
  let out := (s.accepted.filter (·.sq == qid)).length
  let ring := FMap.find s.cqs q.cq
  q.state == .running && q.head != q.tail &&
  ((ring.map fun r => r.state == .running && !r.full && r.held.isEmpty).getD false) &&
  (if qid = 0 then out == 0
   else
     decide (out < q.maxOut) &&
     ((FMap.find s.fns q.fn).map fun x => x.state == .active && !x.freezing && !x.resetting).getD false)

/-- The bytes that a host read returned. -/
def readBytes : HostRead → List Byte
  | .data bs => bs
  | .error => []

/-- Fetch into the cache: at most 8 unaccepted entries, never past the tail (R78). -/
def Sq.fetch (q : Sq) (fetched : List HostRead) : Sq :=
  let posted := (q.tail + ringSize q.log2 - q.head) % ringSize q.log2
  { q with cache := (q.cache ++ fetched).take (min 8 posted) }

/-- The mailbox staging that is open once an entry is accepted: a FW_STAGE closes one of its own IMAGE code (R414). -/
def Op.imageLeft (op : Op) (image : Option ImgStage) : Option ImgStage :=
  match op with
  | .fwStage code _ _ => if (image.map (·.image)) == some code then none else image
  | _ => image

/-- Take the entry at the head into execution (R78, R80, R92). -/
def State.accept (qid : Nat) (q : Sq) (e : HostRead) (s : State) : State :=
  let raw := fit 64 0 (readBytes e)
  let hdr := decodeHeader raw
  let busy := s.accepted.any (·.sq == qid)
  if hdr.fence && busy && e != .error then s
  else
    let id := s.nextId
    let q' := { q with head := (q.head + 1) % ringSize q.log2, cache := q.cache.drop 1 }
    let s := { s with nextId := id + 1, sqs := FMap.put s.sqs qid q' }
    match e with
    | .error =>
      let a : Acc := { id := id, sq := qid, idx := q.head, fn := q.fn, hdr := { hdr with tag := 0, sig := false, noCqe := false },
                       op := .snapLatch, tick := s.now }
      { s with accepted := s.accepted ++ [a] }.malformed id 0 6
    | .data _ =>
      match entryBreach (qid == 0) raw with
      | some (off, reason) =>
        let a : Acc := { id := id, sq := qid, idx := q.head, fn := q.fn, hdr := hdr, op := .snapLatch, tick := s.now }
        { s with accepted := s.accepted ++ [a] }.malformed id off reason
      | none =>
        let a : Acc := { id := id, sq := qid, idx := q.head, fn := q.fn, hdr := hdr, op := decodeOp (qid == 0) raw,
                         tick := s.now }
        { s with accepted := s.accepted ++ [a], image := a.op.imageLeft s.image }.bump (ctrId 8 qid 0)

/-- The ring reads of a fetch: each entry at base + 64 × its index, under the PASID of the queue's function (R73, R337). -/
def State.readRing (q : Sq) (n : Nat) (s : State) : State :=
  (List.range n).foldl (fun s i =>
    s.readHost q.fn (q.base + 64 * ((q.head + q.cache.length + i) % ringSize q.log2)) 64) s

/-- Does FENCE hold back the entry that a queue has fetched for its head (R80)? -/
def State.fenced (s : State) (qid : Nat) (q : Sq) : Bool :=
  match q.cache with
  | .data bs :: _ => (decodeHeader (fit 64 0 bs)).fence && s.accepted.any (·.sq == qid)
  | _ => false

/-- Has a queue posted an entry that it may accept (R80)? -/
def State.hasNext (s : State) (qid : Nat) (q : Sq) : Bool := s.mayAccept qid q && !s.fenced qid q

/-- The weights of the round of acceptance: those that were current when it began (R384, log 67). -/
def State.roundWeights (s : State) : FMap Nat := if s.rounds.isEmpty then s.rigs.cur.weights else s.roundW

/-- Has an I/O queue room in the round of acceptance (R376)? -/
def State.turnLeft (s : State) (qid : Nat) : Bool := decide (FMap.getD s.rounds qid 0 < FMap.getD s.roundWeights qid 16)

/-- Does a RUNNING I/O queue with posted entries yield the rest of its round, because its next cannot be accepted (R376)? -/
def State.yields (s : State) (qid : Nat) (q : Sq) : Bool :=
  qid != 0 && q.state == .running && q.head != q.tail && !s.hasNext qid q

/-- Is it a queue's turn: the admin queue goes ahead of every other, and a queue whose round is used up waits for those that have
room in it (R376)? -/
def State.hasTurn (s : State) (qid : Nat) : Bool :=
  qid == 0 || !s.sqs.any fun p => s.hasNext p.1 p.2 && (p.1 == 0 || (p.1 != qid && s.turnLeft p.1 && !s.turnLeft qid))

/-- Count an acceptance in its queue's round, whose rest each queue that cannot accept yields; with the round used up, a new one begins
under the current weights (R376, R384). -/
def State.countTurn (qid : Nat) (s : State) : State :=
  if qid = 0 then s
  else
    let goes := s.turnLeft qid
    let weights := if goes then s.roundWeights else s.rigs.cur.weights
    let rounds := (s.sqs.filter fun p => s.yields p.1 p.2).foldl (fun m p => FMap.put m p.1 (FMap.getD weights p.1 16))
      (if goes then s.rounds else [])
    { s with rounds := FMap.put rounds qid (FMap.getD rounds qid 0 + 1), roundW := weights }

/-- ENTRY_ACCEPT: fetch, and accept the entry at the head where the queue may and its turn has come. The fetch is a trigger; while
Trim restarts, IDLE lasts and nothing is accepted (R31, R40). -/
def State.fetchAccept (qid : Nat) (fetched : List HostRead) (s : State) : State :=
  if s.glob.power != .run && s.glob.power != .idle then s
  else
    match FMap.find s.sqs qid with
    | none => s
    | some q =>
      if q.state != .running then s
      else
        let fetched := if s.readRoom then fetched else []
        let n := (q.fetch fetched).cache.length - q.cache.length
        let s := s.readRing q n
        let q := q.fetch fetched
        let s := { s with sqs := FMap.put s.sqs qid q }
        match q.cache with
        | [] => s
        | e :: _ =>
          let s := if s.hasNext qid q && s.hasTurn qid then s.wake else s
          if s.hasNext qid q && s.hasTurn qid && s.glob.power != .idle then (s.countTurn qid).accept qid q e else s

/-! ### QUEUE_CREATE and QUEUE_DESTROY (R87 to R89, R91, R347) -/

/-- FUNCTION_HALTED where the function named has its queues halted (R91). -/
def State.haltedRefusal (s : State) (f : Nat) : Option Cond := if s.queuesHalted f then some ⟨0x81, f⟩ else none

/-- The first of a list of refusals. -/
def firstCond (cs : List (Option Cond)) : Option Cond := cs.findSome? id

/-- A refusal under a test. -/
def refuse (b : Bool) (status info : Nat) : Option Cond := if b then some ⟨status, info⟩ else none

/-- The limit of new queues: the lesser of the current and a pending value (R345). -/
def State.queueLimit (s : State) (f : Nat) : Nat :=
  match (FMap.find s.fns f).bind (·.resize) with
  | some r => min (s.queuesOf f) r.queues
  | none => s.queuesOf f

/-- The function's submission queues that are not ABSENT, but for the admin queue. -/
def State.queuesHeld (s : State) (f : Nat) : Nat :=
  (s.sqs.filter fun p => p.1 != 0 && p.2.fn == f && p.2.state != .absent).length

/-- The refusals of QUEUE_CREATE's create form. Identifier 0 is the admin queue's and its ring's (R90). -/
def State.createRefusal (s : State) (a : Acc) (f : QCreate) : Option Cond :=
  let fn := FMap.find s.fns f.func
  firstCond
    [ s.haltedRefusal f.func,
      refuse (f.qid == 0 || (if f.ring then FMap.has s.cqs f.qid else FMap.has s.sqs f.qid)) 0x40 16,
      refuse (if f.ring then (s.cqAt f.func f.slot).isSome else (s.sqAt f.func f.slot).isSome) 0x40 22,
      refuse (!f.ring && ((FMap.find s.cqs f.cqId).map fun r => r.fn != f.func).getD true) 0x40 32,
      refuse fn.isNone 0x40 20,
      refuse (!f.ring && decide (s.queueLimit f.func ≤ s.queuesHeld f.func)) 0x41 20,
      s.signalRefusal a.fn a.hdr,
      refuse ((fn.map fun x => x.state == .frozen).getD false) 0x40 20 ]

/-- The refusals of QUEUE_CREATE's enable form. With TYPE 0x1, which cannot be enabled, QID is looked up among the submission queues too,
so that the queue of that number gives the function whose halt counts: log 33, DESIGN CHOICE. -/
def State.enableRefusal (s : State) (a : Acc) (f : QCreate) : Option Cond :=
  match FMap.find s.sqs f.qid with
  | none => some ⟨0x40, 16⟩
  | some q =>
    firstCond
      [ s.haltedRefusal q.fn, refuse (f.ring || q.state != .disabled) 0x40 16, s.signalRefusal a.fn a.hdr,
        refuse (((FMap.find s.fns q.fn).map fun x => x.state == .frozen).getD false) 0x40 16 ]

/-- End an entry with a refusal, or go on. -/
def State.orRefuse (e : Nat) (r : Option Cond) (f : State → State) (s : State) : State :=
  match r with
  | some c => s.failEntry e c.status c.info
  | none => f s

/-- QUEUE_CREATE. -/
def State.runQueueCreate (a : Acc) (f : QCreate) (s : State) : State :=
  let e := a.id
  if f.enable then
    s.orRefuse e (s.enableRefusal a f) fun s =>
      ({ s with sqs := FMap.modify s.sqs f.qid fun q => { q with state := .running } }.endEntry e 0)
  else
    s.orRefuse e (s.createRefusal a f) fun s =>
      if f.ring then
        let r : Cq := { state := .running, fn := f.func, slot := f.slot, log2 := f.log2, base := f.base, intAddr := f.intAddr,
                        intData := f.intData, coalCount := f.coalCount, coalTicks := f.coalTicks }
        (({ s with cqs := FMap.put s.cqs f.qid r }.zeroCtr 9 f.qid).endEntry e 0)
      else
        let q : Sq := { state := .running, fn := f.func, slot := f.slot, log2 := f.log2, base := f.base, cq := f.cqId,
                        maxOut := f.maxOut }
        (({ s with sqs := FMap.put s.sqs f.qid q }.zeroCtr 8 f.qid).endEntry e 0)

/-- The refusals of QUEUE_DESTROY (R89). -/
def State.destroyRefusal (s : State) (a : Acc) (qid : Nat) (ring disable : Bool) : Option Cond :=
  if ring then
    match FMap.find s.cqs qid with
    | none => some ⟨0x40, 16⟩
    | some r =>
      firstCond [ s.haltedRefusal r.fn, refuse (qid == 0) 0x40 16,
        refuse (s.sqs.any fun p => p.2.cq == qid && p.2.state != .absent) 0x40 16, refuse disable 0x40 16,
        s.signalRefusal a.fn a.hdr ]
  else
    match FMap.find s.sqs qid with
    | none => some ⟨0x40, 16⟩
    | some q =>
      firstCond [ s.haltedRefusal q.fn, refuse (qid == 0) 0x40 16,
        refuse (!disable && q.state == .destroying) 0x40 16, refuse (disable && q.state != .running) 0x40 16,
        s.signalRefusal a.fn a.hdr ]

/-- Completions that a RUNNING ring holds, of one submission queue or of all (R84). A HALTED ring writes nothing more (R96). -/
def State.holds (s : State) (sq : Option Nat) : Bool := s.cqs.any fun p =>
  p.2.state == .running && p.2.held.any fun c => sq.isNone || sq == some c.sqId

/-- A completion ring becomes ABSENT once it holds no completion that it may still write (R84, R89, R96). -/
def State.dropRing (e qid : Nat) (s : State) : State :=
  match FMap.find s.cqs qid with
  | some r =>
    if r.state == .running && !r.held.isEmpty then s else { s with cqs := FMap.del s.cqs qid }.endEntry e r.tail
  | none => s.endEntry e 0

/-- QUEUE_DESTROY: a queue with accepted entries, or a ring that holds completions, is waited for. -/
def State.runQueueDestroy (a : Acc) (qid : Nat) (ring disable : Bool) (s : State) : State :=
  let e := a.id
  s.orRefuse e (s.destroyRefusal a qid ring disable) fun s =>
    if ring then (s.modAcc e fun a => { a with phase := .waiting }).dropRing e qid
    else
      let st : SqState := if disable then .disabled else .destroying
      { s with sqs := FMap.modify s.sqs qid fun q => q.stop st }.modAcc e fun a => { a with phase := .waiting }

/-- A QUEUE_DESTROY whose queue holds no accepted entry any more completes (Table 3-8, Table 3-10). -/
def State.settleDestroy (a : Acc) (s : State) : State :=
  match a.op with
  | .queueDestroy qid false disable =>
    if a.phase = .waiting && a.fin.isNone && !(s.accepted.any (·.sq == qid)) && !s.holds (some qid) then
      let head := ((FMap.find s.sqs qid).map (·.head)).getD 0
      let s := if disable then s else { s with sqs := FMap.del s.sqs qid }
      s.endEntry a.id head
    else s
  | .queueDestroy qid true _ => if a.phase = .waiting && a.fin.isNone then s.dropRing a.id qid else s
  | _ => s

/-! ### The end of an entry (R80, R82, R86, R348, R350) -/

/-- The functions that an admin entry names (R91, R348). -/
def State.named (s : State) (op : Op) : Option Nat :=
  match op with
  | .queueCreate f => if f.enable then (FMap.find s.sqs f.qid).map (·.fn) else some f.func
  | .queueDestroy qid ring _ => if ring then (FMap.find s.cqs qid).map (·.fn) else (FMap.find s.sqs qid).map (·.fn)
  | .sliceCreate f _ _ => some f
  | .sliceResize f _ => some f
  | .sliceReset f _ _ => some f
  | .sliceFreeze f => some f
  | .sliceSave f _ _ _ => some f
  | .sliceLoad f _ _ _ _ => some f
  | .attach f => if f.detach then (FMap.find s.eps f.ep).map (·.fn) else some f.slice
  | _ => none

/-- The function that an admin entry names, KEY_LOAD's by the owner of its slot. -/
def State.namedBy (s : State) (op : Op) (keyOwner : Nat → Bool → Nat) : Option Nat :=
  match op with
  | .keyLoad slot typ _ _ => some (keyOwner slot (typ == 1))
  | op => s.named op

/-- The owner of a key or HMAC slot (R300). -/
def State.keyOwner (s : State) (slot : Nat) (hmac : Bool) : Nat :=
  match s.rigs.cur.part.find? fun p => p.1 != 0 &&
      (if hmac then decide (p.2.hmacBase ≤ slot) && decide (slot < p.2.hmacBase + p.2.hmacCount)
       else decide (p.2.keyBase ≤ slot) && decide (slot < p.2.keyBase + p.2.keyCount)) with
  | some p => p.1
  | none => 0

/-- Orphaning that waited for an admin entry's completion (R348). -/
def State.orphanMissed (s : State) : State :=
  (s.fns.filter fun p => p.2.missed && p.2.state == .active).foldl (fun s p => s.orphan p.1) s

/-- A CUT that a notice met completes (R140): the cut that it took satisfies the notice where it ends with OK or PRECOPY_WASTE. Where
no CUT that the notice met is left, the notice stays due, and so does the raise of the generation that the due cut will take (R138). -/
def State.settleNotice (a : Acc) (status : Nat) (s : State) : State :=
  match a.op with
  | .cut job _ =>
    match FMap.find s.jobs job with
    | none => s
    | some j =>
      if !j.noticeLate.contains a.id then s
      else if decide (status < 0x20) && a.fin != some 0 then s.modJob job fun j => { j with noticeLate := [] }
      else
        let left := j.noticeLate.filter (· != a.id)
        if left.isEmpty then (s.modJob job fun j => { j with noticeLate := [], notice := true }).raiseOpen job
        else s.modJob job fun j => { j with noticeLate := left }
  | _ => s

/-- Write the completion of an entry that has ended, log its further conditions, and remove it. -/
def State.complete (a : Acc) (s : State) : State :=
  let conds := a.finalConds
  let best := chosen conds
  let status := (best.map (·.status)).getD 0
  let info := match best with
    | some c => c.info
    | none => a.fin.getD 0
  let others := match best with
    | some c => conds.erase c
    | none => []
  let s := others.foldl (fun s c => s.logFn 0x0202 a.fn [a.hdr.tag, a.sq, c.status, c.info]) s
  let s := { s with accepted := s.accepted.filter (·.id != a.id) }
  let s := s.settleNotice a status
  let s := if status = 0 && a.hdr.noCqe then s.countDone a.fn status
    else
      match FMap.find s.sqs a.sq with
      | some q => s.writeCompletion q.cq ⟨a.id, a.hdr.tag, status, a.sq, !others.isEmpty, info⟩
      | none => s
  if a.sq = 0 then s.orphanMissed else s

/-- Is the completion of an entry written, or suppressed: the entry is neither accepted nor held at a RUNNING
ring (R84, R96)? -/
def State.completed (s : State) (e : Nat) : Bool := (s.acc e).isNone && 
  !s.cqs.any fun p => p.2.state == .running && p.2.held.any (·.entry == e)

/-- Is the entry ready to complete: ended, and its signal neither owed nor waiting? -/
def Acc.ready (a : Acc) : Bool := a.fin.isSome && !a.sigWait && !a.owesSignal

/-- The signal of an ended entry is sent or applied; it may go on waiting for a port (R82). -/
def State.signalEnd (a : Acc) (s : State) : State := s.entrySignal a.id a.hdr.cleatId a.hdr.sigCount a.hdr.sigEp

end Sys2Proof.Machine
end

