-- ==== Sys2Proof/Machine/Capture.lean ====
section
/-! DEFINITION. GEN_OPEN, PROTECT, STAMP and CUT (R101 to R109, R141, R142, R148 to R153, R181 to R190): the checks of their
pointed structures, their refusals and their effects. -/

namespace Sys2Proof.Machine

/-- The job check of R468: the job is bound to another function. -/
def State.jobRefusal (s : State) (f job : Nat) : Option Cond :=
  match FMap.find s.jobs job with
  | some j => refuse (j.fn != f) 0x40 16
  | none => none

/-- Are the bytes of a structure zero where none of the ranges lists them (R10)? -/
def zeroOutside (bs : List Byte) (n : Nat) (ranges : List (Nat × Nat)) : Bool :=
  (List.range n).all fun i => ranges.any (fun r => decide (r.1 ≤ i) && decide (i < r.1 + r.2)) || leAt bs i 1 == 0

/-! ### The region list (R104 to R106) -/

/-- A region entry (Table 4-2). -/
def parseRegion (bs : List Byte) (at_ : Nat) : Region :=
  { base := leAt bs at_ 8, len := leAt bs (at_ + 8) 8, tensor := leAt bs (at_ + 16) 4, kind := leAt bs (at_ + 20) 1,
    noPrecopy := bitOf (leAt bs (at_ + 21) 1) 1, sealed := bitOf (leAt bs (at_ + 21) 1) 0 }

/-- The region entries of a list. -/
def parseRegions (bs : List Byte) (n : Nat) : List Region := (List.range n).map fun i => parseRegion bs (64 + 32 * i)

/-- Is one region entry well formed? -/
def regionOk (bs : List Byte) (i : Nat) (full : Bool) : Bool :=
  let o := 64 + 32 * i
  let r := parseRegion bs o
  decide (1 ≤ r.len) && decide (r.len ≤ 2 ^ 40) && decide (r.kind ≤ 5) && (r.kind == 5) == full &&
  decide (leAt bs (o + 21) 1 ≤ 3) && zeroOutside (slice bs o 32) 32 [(0, 22)]

/-- Is a region's base misaligned (R26)? -/
def misaligned (rs : List Region) : Bool := rs.any fun r => r.base % 64 != 0

/-- Is the region list well formed (R106), its bases' alignment aside (R26)? The tensor count is that of the manifest's input section (R186). -/
def regionListOk (f : GenOpenF) (bs : List Byte) (tensors : Option Nat) : Bool :=
  let rs := parseRegions bs f.regions
  let sig := bitOf (leAt bs 12 1) 0
  leAt bs 0 8 == f.job && (sig || leAt bs 8 2 == 0) && decide (leAt bs 10 2 < 4096) && decide (leAt bs 12 1 ≤ 1) &&
  zeroOutside bs 64 [(0, 13), (16, 8)] && leAt bs 16 8 == (rs.map (·.len)).foldl (· + ·) 0 &&
  ((List.range f.regions).all fun i => regionOk bs i f.fullImage) &&
  (!(rs.zipIdx.any fun a => rs.zipIdx.any fun b => decide (a.2 < b.2) && overlaps a.1.base a.1.len b.1.base b.1.len)) &&
  (f.fullImage || match tensors with
    | some n => rs.all fun r => r.tensor == 0xFFFFFFFF || decide (r.tensor < n)
    | none => true)

/-! ### The manifest's input section (R182 to R190) -/

/-- A tensor record. -/
def parseTensor (bs : List Byte) (o : Nat) : Tensor :=
  { firstPiece := leAt bs o 4, pieces := leAt bs (o + 4) 4, typ := leAt bs (o + 8) 1, rank := leAt bs (o + 9) 1,
    shape := (List.range 6).map fun d => leAt bs (o + 16 + 4 * d) 4, label := leAt bs (o + 40) 8 }

/-- A piece record. -/
def parsePiece (bs : List Byte) (o : Nat) : Piece :=
  { tensor := leAt bs o 4, region := leAt bs (o + 4) 4, offset := leAt bs (o + 8) 8,
    origin := (List.range 6).map fun d => leAt bs (o + 16 + 4 * d) 4,
    extent := (List.range 6).map fun d => leAt bs (o + 40 + 4 * d) 4 }

/-- The product of a list. -/
def prod (xs : List Nat) : Nat := xs.foldl (· * ·) 1

/-- The bytes of a piece. -/
def pieceBytes (typ rank : Nat) (extent : List Nat) : Nat := prod (extent.take rank) * typeSize typ

/-- Do two boxes share an element? -/
def boxesMeet (rank : Nat) (o1 e1 o2 e2 : List Nat) : Bool :=
  (List.range rank).all fun d => overlaps (o1.getD d 0) (e1.getD d 0) (o2.getD d 0) (e2.getD d 0)

/-- Is a tensor record well formed (R188)? -/
def tensorOk (bs : List Byte) (o : Nat) (t : Tensor) : Bool :=
  isStored t.typ && decide (1 ≤ t.rank) && decide (t.rank ≤ 6) && decide (1 ≤ t.pieces) && decide (t.pieces ≤ 65536) &&
  ((List.range 6).all fun d => (t.shape.getD d 0 != 0) == decide (d < t.rank)) &&
  zeroOutside (slice bs o 64) 64 [(0, 10), (16, 32)]

/-- Are the pieces of the tables well formed (R189, R190)? -/
def piecesOk (rs : List Region) (ts : List Tensor) (ps : List Piece) : Bool :=
  (ps.zipIdx.all fun p =>
    match ts[p.1.tensor]? with
    | none => false
    | some t =>
      decide (t.firstPiece ≤ p.2) && decide (p.2 < t.firstPiece + t.pieces) &&
      (match rs[p.1.region]? with
       | none => false
       | some r => r.tensor == p.1.tensor && p.1.offset % typeSize t.typ == 0 &&
           decide (p.1.offset + pieceBytes t.typ t.rank p.1.extent ≤ r.len)) &&
      ((List.range 6).all fun d =>
        if d < t.rank then decide (1 ≤ p.1.extent.getD d 0) && decide (p.1.origin.getD d 0 + p.1.extent.getD d 0 ≤ t.shape.getD d 0)
        else p.1.extent.getD d 0 == 0 && p.1.origin.getD d 0 == 0)) &&
  (ts.zipIdx.all fun t => decide (t.1.firstPiece + t.1.pieces ≤ ps.length) &&
    ((slice ps t.1.firstPiece t.1.pieces).all fun p => p.tensor == t.2)) &&
  !(ps.zipIdx.any fun a => ps.zipIdx.any fun b =>
    decide (a.2 < b.2) && (
      let t := (ts[a.1.tensor]?).getD ⟨0, 0, 0, 0, [], 0⟩
      let u := (ts[b.1.tensor]?).getD ⟨0, 0, 0, 0, [], 0⟩
      (a.1.tensor == b.1.tensor && boxesMeet t.rank a.1.origin a.1.extent b.1.origin b.1.extent &&
        !(a.1.origin == b.1.origin && a.1.extent == b.1.extent)) ||
      (a.1.region == b.1.region && overlaps a.1.offset (pieceBytes t.typ t.rank a.1.extent) b.1.offset
        (pieceBytes u.typ u.rank b.1.extent))))

/-- The input section's counts: tensors and pieces. -/
def inputCounts (bs : List Byte) : Nat × Nat := (leAt bs 116 4, leAt bs 124 4)

/-- The tensor table of the input section. -/
def inputTensors (bs : List Byte) : List Tensor :=
  (List.range (inputCounts bs).1).map fun i => parseTensor bs (leAt bs 112 4 + 64 * i)

/-- The piece table of the input section. -/
def inputPieces (bs : List Byte) : List Piece :=
  (List.range (inputCounts bs).2).map fun i => parsePiece bs (leAt bs 120 4 + 64 * i)

/-- Is the input section well formed (R184)? -/
def inputOk (f : GenOpenF) (rs : List Region) (bs : List Byte) : Bool :=
  let n := inputCounts bs
  let members := ((rs.map fun r => epOf r.base).eraseDups).length
  let len := manifestLen (sectionCounts members rs.length n.1 n.2 f.fullImage (bitOf (leAt bs 20 1) 0))
  let tableOk := fun (o c : Nat) => c == 0 || (o % 64 == 0 && decide (256 ≤ o) && decide (o + 64 * c ≤ f.manifestMax))
  slice bs 0 8 == ascii "ZHORAX01" && leAt bs 8 2 == 1 && leAt bs 24 8 == f.job && decide (leAt bs 20 1 ≤ 1) &&
  zeroOutside bs 256 [(0, 10), (20, 1), (24, 8), (112, 16)] && decide (len ≤ f.manifestMax) && decide (len ≤ 16777216) &&
  tableOk (leAt bs 112 4) n.1 && tableOk (leAt bs 120 4) n.2 &&
  !overlaps (leAt bs 112 4) (64 * n.1) (leAt bs 120 4) (64 * n.2) && (!f.fullImage || n == (0, 0)) &&
  ((List.range n.1).all fun i => tensorOk bs (leAt bs 112 4 + 64 * i) (parseTensor bs (leAt bs 112 4 + 64 * i))) &&
  piecesOk rs (inputTensors bs) (inputPieces bs)

/-! ### GEN_OPEN (R101, R102, R107) -/

/-- The epoch that the next GEN_OPEN reserves (R101). -/
def State.nextEpoch (s : State) : Nat := s.pen.boot % 2 ^ 24 * 2 ^ 40 + s.epochSeq

/-- Would a limit of R102 be passed? -/
def State.epochsSpent (s : State) : Bool := decide (2 ^ 24 ≤ s.pen.boot) || decide (2 ^ 40 ≤ s.epochSeq)

/-- The index of the first region that a test accepts, as its offset in the list. -/
def regionOffset (rs : List Region) (p : Region → Bool) : Option Nat := (rs.findIdx? p).map fun i => 64 + 32 * i

/-- The refusals of GEN_OPEN that come before the epoch limit: tier 2 with staging absent (R39; log 87), then Table 4-3's in its order
(R467), which holds the check of the job's function (R468). -/
def State.openRefusal (s : State) (a : Acc) (f : GenOpenF) (rs : List Region) : Option Cond :=
  let mine := s.gensOf f.job
  let held := (newest (mine.filter fun g => g.groups.isSome)).bind (·.groups)
  let eps := (rs.map fun r => epOf r.base).eraseDups
  let conflictAt := fun (o : Option Nat) => o.map fun o => (⟨0x40, o⟩ : Cond)
  firstCond
    [ refuse (bitOf f.tiers 1 && !s.setup.hasStaging) 0x41 25,
      refuse (s.openGen f.job).isSome 0x41 16,
      s.jobRefusal a.fn f.job,
      refuse (mine.any fun g => g.fullImage != f.fullImage) 0x40 24,
      conflictAt (regionOffset rs fun r => !s.attachedTo (epOf r.base) a.fn),
      conflictAt (if f.fullImage then regionOffset rs fun r => (eps.drop 4).contains (epOf r.base) ||
        !((FMap.find s.eps (epOf r.base)).map (·.quiesce)).getD false else none),
      refuse (f.fullImage && f.lookahead != 0) 0x40 26,
      refuse (mine.isEmpty && decide (256 ≤ s.jobs.length)) 0x41 16,
      refuse (match held with
        | some gr => decide (gr.slots ≤ (mine.filter fun g => !s.releasable g).length)
        | none => false) 0x41 16 ]

/-- Does the limit of R102, the last row of Table 4-3, decide a GEN_OPEN? -/
def State.epochDecides (s : State) (a : Acc) (f : GenOpenF) (rs : List Region) : Bool :=
  (s.openRefusal a f rs).isNone && s.epochsSpent

/-- The refusals of GEN_OPEN: Table 4-3 with the epoch limit, then those of the header signal (R279). -/
def State.genOpenRefusal (s : State) (a : Acc) (f : GenOpenF) (rs : List Region) : Option Cond :=
  firstCond [s.openRefusal a f rs, refuse s.epochsSpent 0x41 16, s.signalRefusal a.fn a.hdr]

/-- Give a job a counter index, the lowest free (R407), zeroing its counters (R408). Before its first step mark a job stands at Telltale
level 0 and at the cadence row in force when it was bound: log 30, DESIGN CHOICE. -/
def State.bindJob (job fn : Nat) (s : State) : State :=
  if FMap.has s.jobs job then s
  else
    let idx := (List.range 256).find? fun i => !s.jobs.any fun j => j.2.idx == some i
    let s := match idx with
      | some i => s.zeroCtr 0xB i
      | none => s
    { s with jobs := FMap.put s.jobs job { fn := fn, idx := idx, cad := s.cad fn } }

/-- The generation that a GEN_OPEN creates. -/
def newGen (f : GenOpenF) (fn pasid epoch : Nat) (list input : List Byte) : Gen :=
  let rs := parseRegions list f.regions
  { job := f.job, epoch := epoch, fn := fn, pasid := pasid, fullImage := f.fullImage, tiers := f.tiers, lookahead := f.lookahead,
    regions := rs, pauseSig := bitOf (leAt list 12 1) 0, pauseCleat := leAt list 8 2, pauseEp := leAt list 10 2,
    manAddr := f.manifest, manMax := f.manifestMax, digests := bitOf (leAt input 20 1) 0, tensors := inputTensors input,
    pieces := inputPieces input, segs := if f.fullImage then [] else segsOfRegions rs }

/-- Does a region list name a PAUSE Cleat of the block that the job's function does not own (Table 9-1)? -/
def State.pauseForeign (s : State) (f : Nat) (list : List Byte) : Bool :=
  bitOf (leAt list 12 1) 0 && leAt list 10 2 == s.setup.fabEp && s.cleatOwner (leAt list 8 2) != f

/-- GEN_OPEN. -/
def State.runGenOpen (a : Acc) (f : GenOpenF) (list input : HostRead) (s : State) : State :=
  let tensors := match input with
    | .data bs => some (inputCounts bs).1
    | .error => none
  let rs := parseRegions (readBytes list) f.regions
  let bad : Option (Nat × Nat) :=
    if list = .error then some (32, 6)
    else if !regionListOk f (readBytes list) tensors || s.pauseForeign a.fn (readBytes list) then some (32, 5)
    else if misaligned rs then some (32, 4)
    else if input = .error then some (40, 6)
    else if !inputOk f rs (readBytes input) then some (40, 5)
    else none
  match bad with
  | some b => s.malformed a.id b.1 b.2
  | none =>
    match s.genOpenRefusal a f rs with
    | some c =>
      let s := if s.epochDecides a f rs then s.logFn 0x0301 a.fn [f.job] else s
      s.failEntry a.id c.status c.info
    | none =>
      let e := s.nextEpoch
      let s := s.bindJob f.job a.fn
      let s := { s with epochSeq := s.epochSeq + 1, gens := s.gens ++ [newGen f a.fn (s.pasidOf a.fn) e (readBytes list) (readBytes input)] }
      let s := if ((FMap.find s.jobs f.job).map (·.notice)).getD false then s.raiseOpen f.job else s
      ((s.watchAll e).endEntry a.id e)

/-! ### PROTECT and the group list (R148 to R153) -/

/-- A member entry (Table 5-3). -/
def parseMember (bs : List Byte) (i : Nat) : Member :=
  let o := 64 + 32 * i
  { ep := leAt bs o 2, buddy := leAt bs (o + 2) 2, winOffset := leAt bs (o + 8) 8, slotSegs := leAt bs (o + 16) 8, winBase := 0 }

/-- The members of a group list. -/
def parseMembers (bs : List Byte) : List Member := (List.range (leAt bs 10 2)).map (parseMember bs)

/-- Is the group list well formed (R149, R150)? -/
def groupListOk (f : ProtectF) (bs : List Byte) : Bool :=
  let n := leAt bs 10 2
  let t2 := bitOf f.tiers 1
  let ms := parseMembers bs
  leAt bs 0 8 == f.job && decide (2 ≤ leAt bs 8 1) && decide (leAt bs 8 1 ≤ 4) && decide (1 ≤ n) && decide (n ≤ 16) &&
  (!t2 || n % f.k == 0) && leAt bs 16 8 % 65536 == 0 && (t2 || leAt bs 16 8 == 0) &&
  zeroOutside bs 64 [(0, 9), (10, 2), (16, 8)] &&
  ((List.range n).all fun i =>
    let o := 64 + 32 * i
    let m := parseMember bs i
    decide (m.ep < 4096) && decide (m.buddy < 4096) && m.winOffset % 65536 == 0 && decide (1 ≤ m.slotSegs) &&
    decide (m.slotSegs ≤ 2 ^ 24) && zeroOutside (slice bs o 32) 32 [(0, 4), (8, 16)]) &&
  ((ms.map (·.ep)).eraseDups).length == n

/-- The generation that a PROTECT names (R148). -/
def State.protectGen (s : State) (f : ProtectF) : Option Gen :=
  if f.epoch = 0 then newest ((s.gensOf f.job).filter fun g => g.state != .opened)
  else (s.gen f.epoch).filter fun g => g.job == f.job && g.retained

/-- The slot area that a member would hold in a slot: its buddy, offset and bytes (R154). -/
def slotArea (m : Member) (slot : Nat) : Nat × Nat × Nat :=
  (m.buddy, m.winBase + m.winOffset + slot * m.slotSegs * segBytes, m.slotSegs * segBytes)

/-- The parity areas that a generation holds in its slot: absolute offset and bytes (R158). Of a recognised generation whose
slice does not exist, PARITY_BASE counts from 0, since the directory holds no quota base: log 141, DESIGN CHOICE. -/
def State.parityAreas (s : State) (fn slot : Nat) (gr : Groups) : List (Nat × Nat) :=
  if gr.k = 0 then []
  else
    let spans := (List.range (gr.members.length / gr.k)).map fun r =>
      ((slice gr.members (r * gr.k) gr.k).map (·.slotSegs)).foldl max 0
    let base := ((FMap.find s.fns fn).map (·.quotaBase)).getD 0 + gr.parityBase
    spans.zipIdx.map fun p =>
      (base + segBytes * (gr.slots * gr.m * (spans.take p.2).foldl (· + ·) 0 + slot * p.1 * gr.m), p.1 * gr.m * segBytes)

/-- Manifest-store units (R194). -/
def State.storeUnits (s : State) : Nat := if s.setup.hasStaging then 3072 else 128

/-- The lowest run of n free manifest-store units. -/
def State.freeUnits (s : State) (used : List Nat) (n : Nat) : Option Nat :=
  (List.range (s.storeUnits + 1 - n)).find? fun u => (List.range n).all fun i => !used.contains (u + i)

/-- The slot that a supplying PROTECT takes, with the generation that it releases (R152). -/
def State.nextSlot (s : State) (job slots : Nat) : Option (Nat × Option Gen) :=
  let held := (s.gensOf job).filter fun g => g.groups.isSome
  match (List.range slots).find? fun k => !held.any (·.slot == k) with
  | some k => some (k, none)
  | none =>
    (held.filter s.releasable).foldl (fun acc g =>
      match acc with
      | some (_, some b) => if g.epoch < b.epoch then some (g.slot, some g) else acc
      | _ => some (g.slot, some g)) none

/-- The slot, where the manifest store has room too (R194). -/
def State.assignSlot (s : State) (job slots manLen : Nat) : Option (Nat × Option Gen × Nat) :=
  let n := ceilDiv manLen segBytes
  match s.nextSlot job slots with
  | none => none
  | some (k, r) =>
    let used := match r with
      | some g => s.manStore.filter fun u => !(decide (g.manUnit ≤ u) && decide (u < g.manUnit + ceilDiv g.manLen segBytes))
      | none => s.manStore
    (s.freeUnits used n).map fun u => (k, r, u)

/-- The offset in the list of the first member that a test accepts. -/
def memberOffset (ms : List Member) (add : Nat) (p : Member → Bool) : Option Cond :=
  (ms.findIdx? p).map fun i => ⟨0x40, 64 + 32 * i + add⟩

/-- The group list with the buddies' window bases (Table 6-3). -/
def State.groupsOf (s : State) (f : ProtectF) (bs : List Byte) : Groups where
  slots := leAt bs 8 1
  members := (parseMembers bs).map fun m => { m with winBase := ((FMap.find s.eps m.buddy).map (·.winBase)).getD 0 }
  parityBase := leAt bs 16 8
  k := f.k
  m := f.m

/-- TOTAL_LEN of the manifest of a generation with a group list (R183). -/
def Gen.manTotal (g : Gen) (members : Nat) : Nat :=
  manifestLen (sectionCounts members g.regions.length g.tensors.length g.pieces.length g.fullImage g.digests)

/-- The limit of the staging quota for new parity areas: the lesser of the current and a pending value (R345). -/
def State.quotaLimit (s : State) (f : Nat) : Nat :=
  match FMap.find s.fns f with
  | none => 0
  | some x => match x.resize with
    | some r => min x.quotaLen r.staging
    | none => x.quotaLen

/-- The refusals of a supplying PROTECT (R150, R152). -/
def State.supplyRefusal (s : State) (a : Acc) (f : ProtectF) (g : Gen) (gr : Groups) : Option Cond :=
  let ms := gr.members
  let need := fun (m : Member) => ((g.regions.filter fun r => g.regionEp r == m.ep).map Region.segs).foldl (· + ·) 0
  let slot := s.nextSlot g.job gr.slots
  let others := s.gens.filter fun o => o.retained && o.groups.isSome && o.epoch != g.epoch && slot.isSome &&
    (match slot with
     | some (_, some r) => o.epoch != r.epoch
     | _ => true)
  let k := (slot.map (·.1)).getD 0
  let taken := others.flatMap fun o => o.members.map fun m => slotArea m o.slot
  let parity := others.flatMap fun o => match o.groups with
    | some og => s.parityAreas o.fn o.slot og
    | none => []
  firstCond
    [ refuse (f.tiers != g.tiers) 0x40 32,
      memberOffset ms 0 fun m => !g.holders.contains m.ep,
      refuse (g.holders.any fun ep => !ms.any (·.ep == ep)) 0x40 10,
      memberOffset ms 2 fun m => m.buddy == m.ep || !s.attachedTo m.buddy a.fn ||
        ((FMap.find s.eps m.buddy).map (·.winLen)).getD 0 == 0,
      memberOffset ms 0 fun m => s.lost.contains m.ep,
      memberOffset ms 2 fun m => s.lost.contains m.buddy,
      memberOffset ms 8 fun m =>
        decide (((FMap.find s.eps m.buddy).map (·.winLen)).getD 0 < m.winOffset + gr.slots * m.slotSegs * segBytes),
      memberOffset ms 16 fun m => decide (m.slotSegs < need m),
      memberOffset ms 8 fun m => taken.any fun t => t.1 == m.buddy &&
        overlaps t.2.1 t.2.2 (slotArea m k).2.1 (slotArea m k).2.2,
      refuse ((s.parityAreas a.fn k gr).any fun p => parity.any fun q => overlaps p.1 p.2 q.1 q.2) 0x40 16,
      refuse ((s.gensOf g.job).any fun o => match o.groups with
        | some og => og.slots != gr.slots
        | none => false) 0x40 8,
      refuse (decide (0 < gr.k) && decide (s.quotaLimit a.fn < gr.parityArea.1 + gr.parityArea.2)) 0x41 16,
      refuse (s.assignSlot g.job gr.slots (g.manTotal ms.length)).isNone 0x41 8,
      s.signalRefusal a.fn a.hdr ]

/-- The first field in which a repeated PROTECT differs from what the generation holds (R148). -/
def repeatRefusal (f : ProtectF) (g : Gen) (gr bs : Groups) : Option Cond :=
  firstCond
    [ refuse (f.tiers != g.tiers) 0x40 32, refuse (f.k != gr.k) 0x40 33, refuse (f.m != gr.m) 0x40 34,
      refuse (bs.slots != gr.slots) 0x40 8, refuse (bs.members.length != gr.members.length) 0x40 10,
      refuse (bs.parityBase != gr.parityBase) 0x40 16,
      ((gr.members.zip bs.members).zipIdx.findSome? fun p =>
        let o := 64 + 32 * p.2
        let x := p.1.1
        let y := p.1.2
        if x.ep != y.ep then some ⟨0x40, o⟩
        else if x.buddy != y.buddy then some ⟨0x40, o + 2⟩
        else if x.winOffset != y.winOffset then some ⟨0x40, o + 8⟩
        else if x.slotSegs != y.slotSegs then some ⟨0x40, o + 16⟩
        else none) ]

/-- The directory index of a new entry: the lowest that no retained generation holds (R160). -/
def State.freeDir (s : State) : Nat :=
  ((List.range 1024).find? fun i => !s.gens.any fun g => g.retained && g.groups.isSome && g.dirIdx == i).getD 0

/-- A supplying PROTECT that is not refused takes its slot and waits. -/
def State.supply (a : Acc) (g : Gen) (gr : Groups) (slot : Nat × Option Gen × Nat) (s : State) : State :=
  let s := match slot.2.1 with
    | some r => s.release r.epoch
    | none => s
  let len := g.manTotal gr.members.length
  let idx := s.freeDir
  let s := { s with manStore := s.manStore ++ (List.range (ceilDiv len segBytes)).map (slot.2.2 + ·) }
  let s := if s.setup.hasStaging then s.startScrub 0 (s.manOff slot.2.2) (ceilDiv len segBytes * segBytes) .zero else s
  let s := s.modGen g.epoch fun g => { g with groups := some gr, slot := slot.1, dirIdx := idx, manUnit := slot.2.2, manLen := len }
  s.modAcc a.id fun a => { a with phase := .waiting, count := g.epoch }

/-- PROTECT. -/
def State.runProtect (a : Acc) (f : ProtectF) (list : HostRead) (s : State) : State :=
  if list = .error then s.malformed a.id 40 6
  else if !groupListOk f (readBytes list) then s.malformed a.id 40 5
  else
    s.orRefuse a.id (firstCond [s.jobRefusal a.fn f.job, refuse (bitOf f.tiers 1 && !s.setup.hasStaging) 0x41 32,
        refuse (s.protectGen f).isNone 0x40 24]) fun s =>
      match s.protectGen f with
      | none => s
      | some g =>
        let gr := s.groupsOf f (readBytes list)
        match g.groups with
        | none =>
          s.orRefuse a.id (s.supplyRefusal a f g gr) fun s =>
            match s.assignSlot g.job gr.slots (g.manTotal gr.members.length) with
            | some slot => s.supply a g gr slot
            | none => s
        | some held =>
          s.orRefuse a.id (firstCond [repeatRefusal f g held gr, s.signalRefusal a.fn a.hdr]) fun s =>
            if g.safe then (s.meetPoison a.id g.poisonCount).endEntry a.id g.epoch
            else s.modAcc a.id fun a => { a with phase := .waiting, count := g.epoch }

/-! ### STAMP (R141, R142) -/

/-- Does a STAMP find its generation and endpoint? One that comes while the tier-1 record is being written counts as accepted
after it: log 107, DESIGN CHOICE. -/
def State.stampRefusal (s : State) (f : StampF) : Option Cond :=
  match (s.gen f.epoch).filter fun g => g.job == f.job && (g.state == .opened || (g.state == .cut && g.writing.isNone)) with
  | none => some ⟨0x40, 56⟩
  | some g => refuse (!g.allHolders.contains f.ep) 0x40 46

/-- Record a stamp whose blob has been read. -/
def State.putStamp (a : Acc) (f : StampF) (blob : List Byte) (s : State) : State :=
  match s.stampRefusal f with
  | some c => s.failEntry a.id c.status c.info
  | none =>
    let t : Stamp := ⟨f.ep, f.draws, f.samples, f.perSample, blob⟩
    let s := s.modGen f.epoch fun g => { g with stamps := g.stamps.filter (·.ep != f.ep) ++ [t] }
    ((s.endEntry a.id f.epoch).advance f.epoch)

/-- STAMP: the blob is read from host memory first. -/
def State.runStamp (a : Acc) (f : StampF) (s : State) : State :=
  s.orRefuse a.id (firstCond [s.jobRefusal a.fn f.job, s.stampRefusal f, s.signalRefusal a.fn a.hdr]) fun s =>
    if f.blobLen = 0 then s.putStamp a f []
    else
      (s.modAcc a.id fun a => { a with phase := .running }).queueXfer a.fn (.stamp a.id)
        [Part.at (.host (s.pasidOf a.fn) f.blob) f.blobLen] []

/-! ### CUT (R108, R109) -/

/-- Is a cut of the job due at a mark (R136, R138)? -/
def Job.cutDue (j : Job) (step : Nat) : Bool := j.interval || j.notice || !j.noticeLate.isEmpty || j.stepDue step

/-- The life clock, in AO ticks, at the acceptance of an entry. -/
def State.lifeAt (s : State) (a : Acc) : Nat := s.lifeTicks - (s.now - a.tick)

/-- The job as a CUT entry finds it: its first sets the baselines to its STEP and the life clock at its acceptance (R136), and the
Telltale level takes effect (R137). -/
def State.jobAtMark (s : State) (a : Acc) (job step : Nat) : Job :=
  let j := (FMap.find s.jobs job).getD { fn := a.fn, idx := none }
  s.markLevel { j with base := j.base.orElse fun _ => some (step, s.lifeAt a) }

/-- CUT (R108, R109): a mark, a deferred cut, or the cut. A refusal changes nothing but that the trigger stays due. -/
def State.runCut (a : Acc) (job step : Nat) (s : State) : State :=
  let j0 := FMap.find s.jobs job
  let last := j0.bind (·.lastStep)
  let order : Option Cond := match last with
    | some l => refuse (decide (step ≤ l)) 0x64 l
    | none => none
  s.orRefuse a.id (firstCond [s.jobRefusal a.fn job, order, refuse (s.openGen job).isNone 0x40 16]) fun s =>
    match s.openGen job with
    | none => s
    | some g =>
      let j := s.jobAtMark a job step
      let due := j.cutDue step
      let busy := g.cutting.isSome || (s.gensOf job).any (·.state == .cut)
      if due && !busy && g.groups.isNone then
        (s.modJob job fun _ => { j with interval := true }).failEntry a.id 0x40 16
      else
        s.orRefuse a.id (s.signalRefusal a.fn a.hdr) fun s =>
          let s := s.modJob job fun _ => { j with lastStep := some step }
          if !due then ((s.stepMark g.epoch).endEntry a.id 0)
          else if busy then
            let s := s.modJob job fun j => { j with interval := true }
            let s := match j.idx with
              | some i => s.bump (ctrId 0xB i 2)
              | none => s
            ((s.stepMark g.epoch).endEntry a.id 0)
          else s.startCut a.id step g

end Sys2Proof.Machine
end

