-- ==== Sys2Proof/Machine/Ratline.lean ====
section
/-! DEFINITION. Ratline parity: RS(K, M) over GF(2^8) with the polynomial 0x11D, its encoder and the rebuild
(R156, R157, R159). -/

namespace Sys2Proof.Machine

/-- The reduction polynomial of Ratline, low byte (R157). -/
def ratPoly : Byte := 0x1D

/-- The coefficient c(q, i): the inverse of q XOR (i + 4) (R157). -/
def ratCoef (q i : Nat) : Byte := gfInv ratPoly (BitVec.ofNat 8 (q ^^^ (i + 4)))

/-- Row of the generator [I; C] for index x of a group: a member below k, a parity segment from k on. -/
def ratRow (k x : Nat) : List Byte :=
  (List.range k).map fun i => if x < k then (if x = i then 1 else 0) else ratCoef (x - k) i

/-- A linear combination of byte strings of one length. -/
def ratCombine (len : Nat) (coefs : List Byte) (segs : List (List Byte)) : List Byte :=
  (coefs.zip segs).foldl (fun acc cs => List.zipWith (fun a d => a ^^^ gfMul ratPoly cs.1 d) acc cs.2)
    (List.replicate len 0)

/-- Parity segment q of a stripe (R157). -/
def ratParity (k q : Nat) (segs : List (List Byte)) : List Byte := ratCombine segBytes (ratRow k (k + q)) segs

/-- Scale a row. -/
def rowScale (c : Byte) (r : List Byte) : List Byte := r.map (gfMul ratPoly c)

/-- Subtract a multiple of a row. -/
def rowSub (r : List Byte) (c : Byte) (p : List Byte) : List Byte := List.zipWith (fun a b => a ^^^ gfMul ratPoly c b) r p

/-- One column of Gauss-Jordan elimination on an augmented matrix: the rows done, the rows left. -/
def gaussStep (col : Nat) (done rest : List (List Byte)) : Option (List (List Byte) × List (List Byte)) :=
  match rest.findIdx? fun r => r.getD col 0 != 0 with
  | none => none
  | some i =>
    let p := rowScale (gfInv ratPoly ((rest.getD i []).getD col 0)) (rest.getD i [])
    let clear := fun (r : List Byte) => rowSub r (r.getD col 0) p
    some (done.map clear ++ [p], (rest.eraseIdx i).map clear)

/-- The inverse of a square matrix over GF(2^8), if it has one. -/
def gaussInverse (n : Nat) (m : List (List Byte)) : Option (List (List Byte)) :=
  let aug := m.zipIdx.map fun ri => ri.1 ++ (List.range n).map fun j => if j = ri.2 then (1 : Byte) else 0
  let r := (List.range n).foldl (fun (st : Option (List (List Byte) × List (List Byte))) col =>
    st.bind fun p => gaussStep col p.1 p.2) (some ([], aug))
  r.map fun p => p.1.map (·.drop n)

/-- Rebuild the segment of group index x (a member below k) from k available segments with their indices (R159):
the rows of [I; C] of the available ones are inverted and the row of x applied. -/
def ratRebuild (k x : Nat) (have_ : List Nat) (segs : List (List Byte)) : List Byte :=
  match gaussInverse k (have_.map (ratRow k)) with
  | none => List.replicate segBytes 0
  | some inv => ratCombine segBytes (inv.getD x []) segs

end Sys2Proof.Machine
end

