-- ==== Sys2Proof/Machine/Reef.lean ====
section
/-! DEFINITION. Reef coding: the block's header, the length table, the encoder and the decoder (R220 to R226). -/

namespace Sys2Proof.Machine

/-- The parameters of a mode (Table 7-2): element bytes, whether elements are rotated left by one bit, coded plane. -/
def reefMode (m : Nat) : Option (Nat × Bool × Nat) :=
  if m = 0 then some (1, false, 0)
  else if m = 1 then some (4, true, 3)
  else if m = 2 then some (2, true, 1)
  else if m = 3 then some (2, false, 1)
  else none

/-- The mode that a drain uses for a stored element type (Table 7-2). -/
def reefModeOf (typ : Nat) : Nat := if typ = 0 then 1 else if typ = 1 then 2 else if typ = 2 then 3 else 0

/-- Rotate an element of w bytes left by one bit. -/
def rotl1 (w v : Nat) : Nat := (2 * v) % 2 ^ (8 * w) + v / 2 ^ (8 * w - 1)

/-- Rotate an element of w bytes right by one bit. -/
def rotr1 (w v : Nat) : Nat := v / 2 + (v % 2) * 2 ^ (8 * w - 1)

/-- The byte planes of a segment (R221). -/
def reefPlanes (w : Nat) (rot : Bool) (seg : List Byte) : List (List Byte) :=
  let els := (chunks w seg).map fun e => if rot then toLe w (rotl1 w (le e)) else e
  (List.range w).map fun p => els.map fun e => e.getD p 0

/-- The first n elements that planes spell, one byte from each. -/
def interleave : Nat → List (List Byte) → List (List Byte)
  | 0, _ => []
  | n + 1, ps => ps.map (·.headD 0) :: interleave n (ps.map (·.drop 1))

/-- A segment rebuilt from its planes. -/
def reefUnplane (w : Nat) (rot : Bool) (planes : List (List Byte)) : List Byte :=
  ((interleave (segBytes / w) planes).map fun e => if rot then toLe w (rotr1 w (le e)) else e).flatten

/-- Is a length table valid (R223)? -/
def reefTableOk (ls : List Nat) : Bool :=
  let nz := ls.filter (0 < ·)
  nz == [1] || (nz.foldl (fun acc l => acc + 2 ^ (15 - l)) 0 == 2 ^ 15 && nz.all (· ≤ 15))

/-- The coded symbols in ascending order of length and value. -/
def reefOrder (ls : List Nat) : List (Nat × Nat) :=
  (List.range 15).flatMap fun l => (ls.zipIdx.filter fun p => p.1 == l + 1)

/-- The canonical codes: length, code and symbol (R223). -/
def reefCodes (ls : List Nat) : List (Nat × Nat × Nat) :=
  ((reefOrder ls).foldl (fun (acc : List (Nat × Nat × Nat) × Option (Nat × Nat)) p =>
    let c := match acc.2 with
      | none => 0
      | some (l, c) => (c + 1) * 2 ^ (p.1 - l)
    ((p.1, c, p.2) :: acc.1, some (p.1, c))) ([], none)).1.reverse

/-- The bits of a code, most significant first. -/
def codeBits (l c : Nat) : List Bool := (List.range l).map fun i => bitOf c (l - 1 - i)

/-- Bits packed from bit 7 down, the last byte zero-padded. -/
def packBits (bs : List Bool) : List Byte :=
  (chunks 8 bs).map fun b => BitVec.ofNat 8 ((b.zipIdx.filter (·.1)).foldl (fun acc p => acc + 2 ^ (7 - p.2)) 0)

/-- The bits of bytes, bit 7 first. -/
def unpackBits (bs : List Byte) : List Bool := bs.flatMap fun b => (List.range 8).map fun i => b.getLsbD (7 - i)

/-- The number of occurrences of each byte value. -/
def byteCounts (bs : List Byte) : List Nat :=
  bs.foldl (fun acc b => acc.modify b.toNat (· + 1)) (List.replicate 256 0)

/-- Merge two lists that rise in weight. Fuel is the sum of their lengths. -/
def mergeW : Nat → List (Nat × List Nat) → List (Nat × List Nat) → List (Nat × List Nat)
  | 0, _, _ => []
  | _ + 1, [], ys => ys
  | _ + 1, xs, [] => xs
  | f + 1, x :: xs, y :: ys => if x.1 ≤ y.1 then x :: mergeW f xs (y :: ys) else y :: mergeW f (x :: xs) ys

/-- Pair up neighbours. -/
def pairUp : List (Nat × List Nat) → List (Nat × List Nat)
  | x :: y :: r => (x.1 + y.1, x.2 ++ y.2) :: pairUp r
  | _ => []

/-- Code lengths of least total within 15 bits, by package merging, for the counts of the byte values. -/
def bestLengths (counts : List Nat) : List Nat :=
  let leaves := ((counts.zipIdx.filter (0 < ·.1)).map fun p => (p.1, [p.2])).mergeSort (fun a b => a.1 ≤ b.1)
  let n := leaves.length
  if n = 1 then counts.map fun c => if 0 < c then 1 else 0
  else
    let top := (List.range 14).foldl (fun ps _ => mergeW (4 * n + 4) leaves (pairUp ps)) leaves
    let use := (top.take (2 * n - 2)).flatMap (·.2)
    (List.range 256).map fun s => (use.filter (· == s)).length

/-- The length of the coded stream in bits under a table. -/
def codedBits (counts ls : List Nat) : Nat := (List.zipWith (· * ·) counts ls).foldl (· + ·) 0

/-- Does a table give a code to every byte value present? -/
def covers (counts ls : List Nat) : Bool := (counts.zip ls).all fun p => p.1 == 0 || 0 < p.2

/-- The encoder's table (R224): the free choice among the shortest tables. Log 20. -/
def reefTable (counts : List Nat) : List Nat :=
  let best := bestLengths counts
  let free := fit 256 0 (Config.reefLengths counts)
  if reefTableOk free && covers counts free && codedBits counts free == codedBits counts best then free else best

/-- The header of a Reef block (Table 7-1). -/
def reefHeader (raw : Bool) (mode len : Nat) : List Byte :=
  ([0x52, 0x45, 0x45, 0x46, 1, BitVec.ofNat 8 (16 * b2n raw + mode), 0, 0] : List Byte) ++ toLe 4 len
    ++ List.replicate 20 0

/-- A raw Reef block of a segment. -/
def reefRaw (seg : List Byte) : List Byte := reefHeader true 0 segBytes ++ seg

/-- The coded payload of a segment under a mode (R222). -/
def reefPayload (mode : Nat) (seg : List Byte) : List Byte :=
  match reefMode mode with
  | none => seg
  | some (w, rot, c) =>
    let planes := reefPlanes w rot seg
    let plane := planes.getD c []
    let ls := reefTable (byteCounts plane)
    let codes := reefCodes ls
    let table := (chunks 2 ls).map fun p => BitVec.ofNat 8 (p.headD 0 + 16 * p.getD 1 0)
    let bitsOf := (List.range 256).map fun s =>
      match codes.find? fun k => k.2.2 == s with
      | some k => codeBits k.1 k.2.1
      | none => []
    table ++ packBits (plane.flatMap fun b => bitsOf.getD b.toNat []) ++ (planes.eraseIdx c).flatten

/-- Encode one segment of 65,536 bytes (R224): raw where coding is forbidden or does not shorten it enough. -/
def reefEncode (mode : Nat) (forbid : Bool) (seg : List Byte) : List Byte :=
  if forbid then reefRaw seg
  else
    let p := reefPayload mode seg
    if 65504 ≤ p.length then reefRaw seg else reefHeader false mode p.length ++ p

/-- The header fields of a block, when it keeps to Table 7-1: raw, mode, payload length. -/
def reefReadHeader (h : List Byte) : Option (Bool × Nat × Nat) :=
  let raw := bitOf (leAt h 5 1) 4
  let mode := leAt h 5 1 % 16
  let len := leAt h 8 4
  if h.take 5 == [0x52, 0x45, 0x45, 0x46, 1] && leAt h 5 1 < 32 && allZero (slice h 6 2) && allZero (slice h 12 20)
      && 32 ≤ h.length && (if raw then mode == 0 && len == 65536
        else (reefMode mode).isSome && decide (128 ≤ len) && decide (len ≤ 65503)) then
    some (raw, mode, len)
  else none

/-- The outcome of a decode (R225, Table 7-3). Causes: 1 payload, 2 header, 3 table, 4 code. -/
inductive ReefOut where
  | ok (seg : List Byte)
  | underrun (cause count : Nat)
  | overrun (excess : Nat)
  deriving DecidableEq, Repr

/-- Read one code: the bits left after it and its symbol, or the cause. -/
def reefSymbol (codes : List (Nat × Nat × Nat)) : Nat → Nat → Nat → List Bool → Except Nat (Nat × Nat × List Bool)
  | 0, _, _, _ => .error 4
  | _ + 1, _, _, [] => .error 1
  | f + 1, l, c, b :: bs =>
    let l' := l + 1
    let c' := 2 * c + b2n b
    match codes.find? fun k => k.1 == l' && k.2.1 == c' with
    | some k => .ok (k.2.2, l', bs)
    | none => if codes.any fun k => decide (l' < k.1) && k.2.1 / 2 ^ (k.1 - l') == c' then reefSymbol codes f l' c' bs
              else .error 4

/-- Read n codes: the symbols, and the number of bits read; or the cause and the number of symbols read. -/
def reefStream (codes : List (Nat × Nat × Nat)) : Nat → Nat → Nat → List Bool → List Byte → Except (Nat × Nat) (Nat × List Byte)
  | 0, _, used, _, out => .ok (used, out.reverse)
  | n + 1, i, used, bs, out =>
    match reefSymbol codes 15 0 0 bs with
    | .error cause => .error (cause, i)
    | .ok (s, l, rest) => reefStream codes n (i + 1) (used + l) rest (BitVec.ofNat 8 s :: out)

/-- Decode a block (R225): its first 32 bytes and the payload that was read. -/
def reefDecode (block : List Byte) : ReefOut :=
  match reefReadHeader (block.take 32) with
  | none => .underrun 2 0
  | some (raw, mode, len) =>
    let payload := (block.drop 32).take len
    if raw then .ok payload
    else
      match reefMode mode with
      | none => .underrun 2 0
      | some (w, rot, c) =>
        let n := segBytes / w
        let ls := (payload.take 128).flatMap fun b => [b.toNat % 16, b.toNat / 16]
        if !reefTableOk ls then .underrun 3 0
        else
          match reefStream (reefCodes ls) n 0 0 (unpackBits (payload.drop 128)) [] with
          | .error (cause, i) => .underrun cause i
          | .ok (used, plane) =>
            let pos := 128 + ceilDiv used 8
            let fitting := min (w - 1) ((len - pos) / n)
            if fitting < w - 1 then .underrun 1 (n + fitting * n)
            else if pos + (w - 1) * n < len then .overrun (len - pos - (w - 1) * n)
            else
              let rest := (List.range (w - 1)).map fun q => slice payload (pos + q * n) n
              .ok (reefUnplane w rot (rest.take c ++ [plane] ++ rest.drop c))

end Sys2Proof.Machine
end

