-- ==== Sys2Proof/Machine/Seals.lean ====
section
/-! DEFINITION. Sealed objects (R292 to R299): the seal header, sealing under a bulk key instance, opening; and a stored
segment's way back to plain bytes (R203, R219, R226, R227). -/

namespace Sys2Proof.Machine

/-- The fields of a seal header that say which object it is (Table 10-1). -/
structure SealId where
  kind : Nat
  reef : Bool
  poison : Bool
  ident : Nat
  gen : Nat
  off : Nat
  deriving DecidableEq, Repr

/-- A seal header's 64 bytes (Table 10-1). -/
def sealHeader (i : SealId) (keyId salt counter ctLen : Nat) : List Byte :=
  fit 64 0 (toLe 4 0x4745535A ++ toLe 1 1 ++ toLe 1 i.kind ++ toLe 2 (2 * b2n i.reef + b2n i.poison) ++ toLe 4 keyId ++
    toLe 4 salt ++ toLe 8 counter ++ toLe 8 ctLen ++ toLe 8 i.ident ++ toLe 8 i.gen ++ toLe 8 i.off)

/-- The IV of a key instance's counter value (R296). -/
def sealIv (salt counter : Nat) : List Byte := toBe 4 salt ++ toBe 8 counter

/-- A sealed object: header, ciphertext, tag (R295). -/
def sealObject (k : KeySlot) (i : SealId) (text : List Byte) : List Byte :=
  let h := sealHeader i k.keyId k.salt k.counter text.length
  let ct := gcmCrypt k.key (sealIv k.salt k.counter) text
  h ++ ct ++ gcmTag k.key (sealIv k.salt k.counter) h ct

/-! ### A seal that a pipe may suspend (R293) -/

/-- Take up an object: its header is absorbed. -/
def GcmCtx.start (k : KeySlot) (i : SealId) (len : Nat) : GcmCtx :=
  let h := sealHeader i k.keyId k.salt k.counter len
  { key := k.key, head := h, iv := sealIv k.salt k.counter, ghash := ghashOn (gcmHashKey k.key) 0 h, block := 0, done := 0,
    out := [] }

/-- Seal the next bytes of the plaintext: whole blocks, but for the object's last ones. -/
def GcmCtx.absorb (c : GcmCtx) (text : List Byte) : GcmCtx :=
  let n := ceilDiv text.length 16
  let ct := xorBytes text (gcmStreamOn c.key c.iv c.block n)
  { c with ghash := ghashOn (gcmHashKey c.key) c.ghash (padBlock ct), block := c.block + n, done := c.done + text.length,
           out := c.out ++ ct }

/-- The sealed object, once all its plaintext has been absorbed. -/
def GcmCtx.finish (c : GcmCtx) : List Byte :=
  let y := ghashOn (gcmHashKey c.key) c.ghash (toBe 8 (8 * c.head.length) ++ toBe 8 (8 * c.done))
  c.head ++ c.out ++ xorBytes (toBe 16 y.toNat) (aesEnc c.key (c.iv ++ [0, 0, 0, 1]))

/-- The bytes between the boundaries at which a pipe may suspend a manifest. -/
def pipePiece : Nat := 4096

/-- Seal an object piece by piece, suspended and resumed at each boundary. Fuel is the number of pieces. -/
def GcmCtx.run (c : GcmCtx) (text : List Byte) : Nat → GcmCtx
  | 0 => c
  | n + 1 => GcmCtx.run (c.absorb (slice text c.done pipePiece)) text n

/-- The bulk key in a slot. -/
def State.bulkKey (s : State) (slot : Nat) : Option KeySlot := (FMap.find s.keys.store slot).filter (·.typ == 0)

/-- The counter of a slot's key instance after one more seal. -/
def State.sealed (slot : Nat) (s : State) : State :=
  { s with keys := { s.keys with store := FMap.modify s.keys.store slot fun k => { k with counter := k.counter + 1 } } }

/-- Open a sealed record (R298): the causes are those of AUTH_FAIL, in the order of R298's list. -/
def openSealed (key : Option KeySlot) (i : SealId) (bs : List Byte) : Except Nat (List Byte × Bool) :=
  let h := fit 64 0 (bs.take 64)
  let poison := bitOf (leAt h 6 1) 0
  let ctLen := leAt h 24 4
  let expect := fun (d : SealId) =>
    sealHeader { d with poison := d.kind == 1 && poison } (leAt h 8 4) (leAt h 12 4) (leAt h 16 8) ctLen
  match key with
  | none => .error 3
  | some k =>
    if h != expect { i with ident := leAt h 32 8, gen := leAt h 40 8, off := leAt h 48 8 } then .error 2
    else if leAt h 8 4 != k.keyId then .error 3
    else if h != expect i || ctLen = 0 || decide (65568 < ctLen) || decide (bs.length < 80 + ctLen) then .error 2
    else
      let iv := sealIv (leAt h 12 4) (leAt h 16 8)
      let ct := slice bs 64 ctLen
      if slice bs (64 + ctLen) 16 == gcmTag k.key iv h ct then .ok (gcmCrypt k.key iv ct, poison)
      else .error 1

/-- A stored segment brought back: its 65,536 bytes, and the status that it met with its INFO (R226, R298). -/
structure Brought where
  data : List PByte
  cond : Option Cond := none
  poisoned : Bool := false      -- delivered poison-marked
  decoded : Bool := false       -- a Reef block was decoded (R241)
  deriving DecidableEq, Repr

/-- 65,536 zero bytes, poison-marked. -/
def badSegment : List PByte := List.replicate segBytes PByte.bad

/-- INFO of a decoder status or an AUTH_FAIL: low part and record index. -/
def recordInfo (low index : Nat) : Nat := low + index * 2 ^ 32

/-- Decode a Reef block whose bytes have verified (R226, R227). -/
def bringReef (bs : List PByte) (index : Nat) : Brought :=
  let used := bs.take (32 + leAt (values (bs.take 32)) 8 4 % 131072)
  if anyPoison used then { data := badSegment, poisoned := true }
  else
    match reefDecode (values used) with
    | .ok seg => { data := plain seg, decoded := true }
    | .underrun cause count =>
      { data := badSegment, cond := some ⟨0x24, recordInfo (count + cause * 2 ^ 20) index⟩, poisoned := true, decoded := true }
    | .overrun excess => { data := badSegment, cond := some ⟨0x25, recordInfo excess index⟩, poisoned := true, decoded := true }

/-- Bring back a stored record through the stages of Table 1-8: open, then decode. The record index of AUTH_FAIL and the
index of the decoder's INFO are given apart. -/
def bringRecord (gcm : Option (Option KeySlot × SealId)) (reef : Bool) (authIndex reefIndex : Nat) (bs : List PByte) :
    Brought :=
  match gcm with
  | none => if reef then bringReef bs reefIndex else { data := fit segBytes PByte.zero (bs.take segBytes), poisoned := anyPoison bs }
  | some (key, i) =>
    match openSealed key i (values bs) with
    | .error cause => { data := badSegment, cond := some ⟨0x26, recordInfo cause authIndex⟩, poisoned := true }
    | .ok (text, poison) =>
      let marked := poison || anyPoison (bs.take (80 + text.length))
      let text := if marked then text.map fun b => ⟨b, true⟩ else plain text
      if reef then bringReef text reefIndex
      else { data := fit segBytes PByte.zero (text.take segBytes), poisoned := marked }

/-- Rebuild the segment of an index of a stripe from K segments (R159): marked whole where an input is marked. -/
def rebuildSegment (k x : Nat) (have_ : List Nat) (segs : List (List PByte)) : List PByte :=
  let out := ratRebuild k x have_ (segs.map fun v => fit segBytes 0 (values v))
  if segs.any anyPoison then out.map fun b => ⟨b, true⟩ else plain out

/-- The parity segment q of a stripe (R157): marked in the granules where any input is marked. -/
def paritySegment (k q : Nat) (segs : List (List PByte)) : List PByte :=
  let out := ratParity k q (segs.map fun v => fit segBytes 0 (values v))
  widen 64 (out.zipIdx.map fun b => ⟨b.1, segs.any fun v => ((v[b.2]?).map (·.poison)).getD false⟩)

end Sys2Proof.Machine
end

