-- ==== Sys2Proof/Machine/Unfurl.lean ====
section
/-! DEFINITION. Element-type conversion (R211 to R213, R240): runs of elements in, runs of elements and MX scales out, with
their poison marks. -/

namespace Sys2Proof.Machine

/-- An element: its FP32-range value and whether a byte of it was poison-marked. -/
structure Elem where
  code : Nat
  poison : Bool
  deriving DecidableEq, Repr

/-- The elements of a run of bytes of a type. -/
def elemsOf (size : Nat) (bs : List PByte) : List Elem :=
  (chunks size bs).map fun c => ⟨le (values c), anyPoison c⟩

/-- One element without scales, a poison-marked one as zero (R240). -/
def putElem (size : Nat) (e : Elem) (code : Nat) : List PByte :=
  if e.poison then List.replicate size PByte.bad else plain (toLe size code)

/-- An MX block of FP32 values: its packed bytes and its scale byte (R213, R240). -/
def putMx (out : Nat) (vs : List (Fp × Bool)) : List PByte × PByte :=
  if vs.any (·.2) then (List.replicate (mxBytes out) PByte.bad, PByte.bad)
  else
    let b := mxBlock out (vs.map (·.1))
    (plain (mxPack out b.2), ⟨BitVec.ofNat 8 b.1, false⟩)

/-- FP32 values put out in a type: element bytes, and the scale bytes of an MX type (R212, R213, R240). -/
def putValues (out : Nat) (vs : List (Fp × Bool)) : List PByte × List PByte :=
  if isMx out then
    let bs := (chunks 32 vs).map (putMx out)
    ((bs.map (·.1)).flatten, bs.map (·.2))
  else ((vs.map fun v => putElem (typeSize out) ⟨0, v.2⟩ (fpConvert out v.1)).flatten, [])

/-- Convert a run of elements from a stored type (R211). The same type passes by. -/
def convertRun (stored out : Nat) (bs : List PByte) : List PByte × List PByte :=
  if stored = out then (bs, [])
  else putValues out ((elemsOf (typeSize stored) bs).map fun e => (fpOfType stored e.code, e.poison))

/-- The bytes of a number of elements in a type without its scales. -/
def outBytes (out n : Nat) : Nat := if isMx out then n / 32 * mxBytes out else n * typeSize out

/-- The scale bytes of a number of elements. -/
def scaleBytes (out n : Nat) : Nat := if isMx out then n / 32 else 0

end Sys2Proof.Machine
end

