-- ==== Sys2Proof/Machine/Packed.lean ====
section
/-! DEFINITION. What a Sheet reads (R229 to R236, R248 to R252): dimension blocks, packed-tensor headers, the walk, work units
and the bytes that they produce. All of it is plain computation on a Sheet's arming and the lines it has read. -/

namespace Sys2Proof.Machine

/-! ### Packed-tensor headers (R229 to R232) -/

/-- A packed-tensor header (Table 7-5). -/
def parsePack (bs : List Byte) : PackHdr :=
  let fl := leAt bs 10 1
  { factored := bitOf fl 0, reef := bitOf fl 1, gcm := bitOf fl 2, typ := leAt bs 11 1, rank := leAt bs 12 1,
    rows := leAt bs 16 4, cols := leAt bs 20 4, keyId := leAt bs 28 4, dataOff := leAt bs 32 8, dataSegs := leAt bs 40 8,
    scaleOff := leAt bs 48 8, scaleSegs := leAt bs 56 8, label := leAt bs 64 8 }

/-- The rows of tiles (R232). -/
def PackHdr.tr (p : PackHdr) : Nat := ceilDiv p.rows 128

/-- The columns of tiles. -/
def PackHdr.tc (p : PackHdr) : Nat := ceilDiv p.cols 128

/-- TILE_BYTES (R232). -/
def PackHdr.tileBytes (p : PackHdr) : Nat := 256 * p.rank * typeSize p.typ

/-- The record stride (Table 7-6). -/
def PackHdr.stride (p : PackHdr) : Nat := if p.gcm then 66560 else if p.reef then 65600 else 65536

/-- The segment counts that R231 gives: data and scale area. -/
def PackHdr.segCounts (p : PackHdr) : Nat × Nat :=
  if p.factored then (ceilDiv (p.tr * p.tc * p.tileBytes) segBytes, ceilDiv (4 * p.tr * p.tc) segBytes)
  else (ceilDiv (p.rows * p.cols * typeSize p.typ) segBytes, 0)

/-- Is a packed-tensor header well formed (R230)? -/
def packOk (bs : List Byte) : Bool :=
  let p := parsePack bs
  let fl := leAt bs 10 1
  let data := p.dataSegs * p.stride
  let scale := p.scaleSegs * p.stride
  slice bs 0 8 == ascii "ZHXPACK1" && leAt bs 8 2 == 1 && decide (fl < 8) &&
  (if p.factored then p.typ == 1 || p.typ == 3 else isStored p.typ) &&
  (if p.factored then p.rank == 4 || p.rank == 8 || p.rank == 16 || p.rank == 32 else p.rank == 0) &&
  decide (1 ≤ p.rows) && decide (1 ≤ p.cols) &&
  leAt bs 24 4 == (crc32c (overlay (fit 128 0 bs) 24 [0, 0, 0, 0])).toNat &&
  (p.gcm || p.keyId == 0) && p.dataOff % 64 == 0 && decide (128 ≤ p.dataOff) &&
  (if p.factored then p.scaleOff % 64 == 0 && decide (128 ≤ p.scaleOff) else p.scaleOff == 0) &&
  (p.dataSegs, p.scaleSegs) == p.segCounts && zeroOutside bs 128 [(0, 13), (16, 56)] &&
  (!p.factored || decide (p.tr * p.tc < 2 ^ 32)) && !overlaps p.dataOff data p.scaleOff scale

/-! ### Dimension blocks (R248 to R252) -/

/-- A dimension block (Table 8-2). -/
def parseDim (dims : Nat) (bs : List Byte) : DimBlk :=
  { space := spaceOf (leAt bs 0 1), packed := leAt bs 1 1 == 1, inType := leAt bs 2 1, outstanding := leAt bs 3 1,
    fillCleat := leAt bs 4 2, fillEp := leAt bs 6 2, releaseCleat := leAt bs 8 2, affinity := leAt bs 10 2,
    srcGen := leAt bs 12 4, keySlot := leAt bs 16 4, rate := leAt bs 20 4, burst := leAt bs 24 4, adapter := leAt bs 32 8,
    scaleRing := leAt bs 40 8, start := leAt bs 48 8,
    counts := (List.range dims).map fun d => leAt bs (64 + 4 * d) 4,
    strides := (List.range dims).map fun d => leAt bs (88 + 8 * d) 8 }

/-- Does a dimension block keep Table 8-2, leaving aside what depends on the headers? -/
def dimOk (dims outType ring : Nat) (merge : Bool) (bs : List Byte) : Bool :=
  let d := parseDim dims bs
  decide (leAt bs 0 1 ≤ 2) && decide (leAt bs 1 1 ≤ 1) && (if d.packed then d.inType == 0 else isStored d.inType) &&
  decide (1 ≤ d.outstanding) && decide (d.outstanding ≤ 64) && decide (d.fillEp < 4096) &&
  (if d.rate = 0 then d.burst == 0 else decide (65536 ≤ d.burst)) &&
  d.adapter % 64 == 0 && (merge || d.adapter == 0) && d.scaleRing % 64 == 0 && (isMx outType || d.scaleRing == 0) &&
  (!isMx outType || epOf d.scaleRing == epOf ring) && (d.packed || !merge) &&
  ((List.range 6).all fun i => (leAt bs (64 + 4 * i) 4 != 0) == decide (i < dims)) &&
  ((List.range 6).all fun i => decide (i < dims) || leAt bs (88 + 8 * i) 8 == 0) &&
  zeroOutside bs 192 [(0, 28), (32, 24), (64, 72)]

/-- The elements of a walk. -/
def DimBlk.total (d : DimBlk) : Nat := prod d.counts

/-- The elements of an innermost run. -/
def DimBlk.run (d : DimBlk) : Nat := d.counts.getLast?.getD 1

/-- The source element at a walk position (R251). -/
def DimBlk.walkAt (d : DimBlk) (n : Nat) : Nat :=
  d.start + ((d.counts.zip d.strides).reverse.foldl (fun (acc : Nat × Nat) c =>
    (acc.1 + acc.2 % c.1 * c.2, acc.2 / c.1)) (0, n)).1

/-- The innermost runs of a walk. -/
def DimBlk.runs (d : DimBlk) : Nat := d.total / d.run

/-- The greatest element that a walk emits. -/
def DimBlk.top (d : DimBlk) : Nat := d.start + ((d.counts.zip d.strides).map fun c => (c.1 - 1) * c.2).foldl (· + ·) 0

/-- Does the walk keep R252? -/
def walkOk (d : DimBlk) (h : Option PackHdr) (merge : Bool) (outType : Nat) : Bool :=
  (!isMx outType || d.run % 32 == 0) &&
  match h with
  | none => true
  | some p =>
    decide (d.top < p.rows * p.cols) &&
    (!(p.factored || merge) || (d.strides.getLast? == some 1 &&
      (List.range d.runs).all fun r => decide (d.walkAt (r * d.run) % p.cols + d.run ≤ p.cols))) &&
    (!isMx outType || (List.range d.runs).all fun r => d.walkAt (r * d.run) % p.cols % 32 == 0)

/-- The element size that ELEM must state (R251). -/
def elemSize (d : DimBlk) (h : Option PackHdr) : Nat :=
  match h with
  | none => typeSize d.inType
  | some p => if p.factored then 4 else typeSize p.typ

/-- Is the output type allowed for a tensor (R234)? The answer is the header's field that forbids it. -/
def outRefusal (p : PackHdr) (asFactored : Bool) (out : Nat) : Option Nat :=
  if asFactored then
    if !(decide (out ≤ 4) || isMx out) then some 11
    else if isMx out && p.cols % 32 != 0 then some 20
    else none
  else if convertible p.typ out then none
  else some 11

/-- The buffers that a work unit holds (Table 8-3). A raw packed source in its own type with GCM 0 and REEF 1, for which the table shows
no figure, holds 3: log 35, DESIGN CHOICE. -/
def chainBuffers (d : DimBlk) (h ad : Option PackHdr) (out : Nat) : Nat :=
  match h with
  | none => if d.inType = out then 1 else 2
  | some p =>
    match ad with
    | some q => if p.reef || q.reef then 5 else 4
    | none =>
      if p.factored then if p.reef then 4 else 3
      else if p.reef then 3
      else if p.typ = out && !p.gcm then 1
      else 2

/-! ### Output geometry (R252, R254, R258) -/

/-- B: the output bytes of an arming (R252). -/
def Sheet.outTotal (h : Sheet) : Nat := outBytes h.outType h.cur.dim.total

/-- Does the arming take tiles (R258)? -/
def Sheet.tiled (h : Sheet) : Bool := h.merge || (h.cur.hdr.map (·.factored)).getD false

/-- The tensor whose tiles the units are. -/
def Sheet.tileHdr (h : Sheet) : Option PackHdr := if h.merge then h.cur.ad else h.cur.hdr

/-- The runs of a tile: first walk position and elements. -/
def Sheet.tileRuns (h : Sheet) (t : Nat) : List (Nat × Nat) :=
  match h.tileHdr with
  | none => []
  | some p =>
    let d := h.cur.dim
    let c := d.run
    (List.range d.runs).filterMap fun r =>
      let e := d.walkAt (r * c)
      let col := e % p.cols
      let lo := max col (128 * (t % p.tc))
      let hi := min (col + c) (128 * (t % p.tc) + 128)
      if e / p.cols / 128 = t / p.tc && decide (lo < hi) then some (r * c + (lo - col), hi - lo) else none

/-- The tiles that the walk touches, in the order of R258. -/
def Sheet.tiles (h : Sheet) : List Nat :=
  match h.tileHdr with
  | none => []
  | some p => (List.range (p.tr * p.tc)).filter fun t => !(h.tileRuns t).isEmpty

/-- The number of work units of an arming. -/
def Sheet.units (h : Sheet) : Nat := if h.tiled then h.tiles.length else ceilDiv h.outTotal segBytes

/-- The runs of a work unit: first walk position and elements. MX output takes whole blocks. -/
def Sheet.unitRuns (h : Sheet) (u : Nat) : List (Nat × Nat) :=
  if h.tiled then h.tileRuns (h.tiles.getD u 0)
  else
    let lo := u * segBytes
    let hi := min h.outTotal (lo + segBytes)
    if isMx h.outType then
      let m := mxBytes h.outType
      [(32 * (lo / m), 32 * (ceilDiv hi m - lo / m))]
    else
      let z := typeSize h.outType
      [(lo / z, (hi - lo) / z)]

/-- The output bytes that a unit writes: offset in the arming and bytes. -/
def Sheet.unitSpans (h : Sheet) (u : Nat) : List (Nat × Nat) :=
  if h.tiled then (h.unitRuns u).map fun r => (outBytes h.outType r.1, outBytes h.outType r.2)
  else [(u * segBytes, min h.outTotal ((u + 1) * segBytes) - u * segBytes)]

/-- The bytes that a unit writes to the ring (R265). -/
def Sheet.unitBytes (h : Sheet) (u : Nat) : Nat := ((h.unitSpans u).map (·.2)).foldl (· + ·) 0

/-- The slots of an arming. -/
def Sheet.armSlots (h : Sheet) : Nat := ceilDiv h.outTotal h.slotSize

/-- Does a unit write a slot of the arming, by its index in the arming? -/
def Sheet.unitInSlot (h : Sheet) (u q : Nat) : Bool :=
  (h.unitSpans u).any fun p => overlaps p.1 p.2 (q * h.slotSize) h.slotSize

/-- The greatest slot that a unit writes, as an absolute slot number (R259). -/
def Sheet.unitTop (h : Sheet) (u : Nat) : Nat :=
  h.w0 + ((h.unitSpans u).map fun p => (p.1 + p.2 - 1) / h.slotSize).foldl max 0

/-- The fabric address of an output byte (R254). -/
def Sheet.outAddr (h : Sheet) (b : Nat) : Nat :=
  h.ring + (h.w0 + b / h.slotSize) % h.slots * h.slotSize + b % h.slotSize

/-- The fabric address of a block's scale byte (R254). -/
def Sheet.scaleAddr (h : Sheet) (blk : Nat) : Nat :=
  let m := mxBytes h.outType
  let q := blk * m / h.slotSize
  h.cur.dim.scaleRing + (h.w0 + q) % h.slots * (h.slotSize / 16) + (blk - ceilDiv (q * h.slotSize) m)

/-! ### Source lines (R227, R231, R267) -/

/-- What has been read: line addresses with their 4,096 bytes. -/
abbrev Lines := List (Nat × List PByte)

/-- The addresses of the lines that a range touches. -/
def linesOf (a len : Nat) : List Nat :=
  if len = 0 then [] else (List.range ((a + len - 1) / 4096 - a / 4096 + 1)).map fun i => (a / 4096 + i) * 4096

/-- Is a range in hand? -/
def Lines.hasAll (ls : Lines) (a len : Nat) : Bool := (linesOf a len).all fun l => ls.any (·.1 == l)

/-- The bytes of a range; what is not in hand is zero and poison-marked. -/
def Lines.read (ls : Lines) (a len : Nat) : List PByte :=
  let all := (linesOf a len).flatMap fun l => (((ls.find? (·.1 == l)).map (·.2))).getD (List.replicate 4096 PByte.bad)
  slice all (a % 4096) len

/-- An area of a packed tensor: the tensor, its header's address, and whether it is the scale area. -/
structure Area where
  hdr : PackHdr
  at_ : Nat
  scale : Bool
  deriving DecidableEq, Repr

/-- The address of a record (R231). -/
def Area.recordAt (a : Area) (k : Nat) : Nat :=
  a.at_ + (if a.scale then a.hdr.scaleOff else a.hdr.dataOff) + k * a.hdr.stride

/-- Round up to 64 within a record. -/
def roundUp64 (n : Nat) : Nat := ceilDiv n 64 * 64

/-- The ranges to read for a range of an area's decoded content: the record's first 64 B first, then as far as its header
says (R227). -/
def Area.needs (a : Area) (ls : Lines) (off len : Nat) : List (Nat × Nat) :=
  if len = 0 then []
  else
    (List.range ((off + len - 1) / segBytes - off / segBytes + 1)).flatMap fun i =>
      let k := off / segBytes + i
      let r := a.recordAt k
      if !a.hdr.gcm && !a.hdr.reef then
        let lo := max off (k * segBytes)
        let hi := min (off + len) ((k + 1) * segBytes)
        [(r + (lo - k * segBytes), hi - lo)]
      else if !ls.hasAll r 64 then [(r, 64)]
      else
        let h := values (ls.read r 64)
        if a.hdr.gcm then
          if decide (leAt h 24 4 ≤ 65568) then [(r, 80 + leAt h 24 4)] else [(r, 64)]
        else
          match reefReadHeader (h.take 32) with
          | some (_, _, n) => [(r, roundUp64 (32 + n))]
          | none => [(r, 64)]

/-- Record k of an area, brought back with the key that its pipe took (R268, R304). -/
def Area.record (a : Area) (keys : FMap KeySlot) (ls : Lines) (k : Nat) : Brought :=
  let r := a.recordAt k
  if a.hdr.gcm then
    bringRecord (some (FMap.find keys r, ⟨if a.scale then 4 else 3, a.hdr.reef, false, a.hdr.label, 0, k⟩)) a.hdr.reef k k
      (ls.read r (80 + min 65568 (leAt (values (ls.read r 64)) 24 4)))
  else
    match reefReadHeader ((values (ls.read r 64)).take 32) with
    | some (_, _, n) => bringRecord none true k k (ls.read r (32 + n))
    | none => bringRecord none true k k (ls.read r 64)

/-- The sealed records that ranges of an area open: address, and ciphertext bytes (R293). -/
def Area.sealedIn (a : Area) (ls : Lines) (rs : List (Nat × Nat)) : List (Nat × Nat) :=
  if !a.hdr.gcm then []
  else
    let ks := (rs.filter fun r => decide (0 < r.2)).flatMap fun r =>
      (List.range ((r.1 + r.2 - 1) / segBytes - r.1 / segBytes + 1)).map (r.1 / segBytes + ·)
    ks.eraseDups.map fun k => (a.recordAt k, min 65568 (leAt (values (ls.read (a.recordAt k) 64)) 24 4))

/-- A condition that a record of a unit's source met: its area (0 raw data, 1 factors, 2 scales), the record, and the first
output byte of the arming that the record's bytes reach in the unit (R268). -/
structure RecCond where
  area : Nat
  rec_ : Nat
  byte : Nat
  cond : Cond
  deriving DecidableEq, Repr

/-- Each record's condition once. -/
def oncePerRecord (cs : List RecCond) : List RecCond :=
  cs.foldl (fun acc c => if acc.any fun x => x.area == c.area && x.rec_ == c.rec_ then acc else acc ++ [c]) []

/-- A range of an area's decoded content, with the conditions that its records met: record, condition, and where in the range the
record's bytes begin. -/
def Area.read (a : Area) (keys : FMap KeySlot) (ls : Lines) (off len : Nat) : List PByte × List (Nat × Cond × Nat) :=
  if len = 0 then ([], [])
  else
    let parts := (List.range ((off + len - 1) / segBytes - off / segBytes + 1)).map fun i =>
      let k := off / segBytes + i
      let lo := max off (k * segBytes)
      let hi := min (off + len) ((k + 1) * segBytes)
      if !a.hdr.gcm && !a.hdr.reef then
        (ls.read (a.recordAt k + (lo - k * segBytes)) (hi - lo), (none : Option (Nat × Cond × Nat)))
      else
        let b := a.record keys ls k
        (slice b.data (lo - k * segBytes) (hi - lo), b.cond.map fun c => (k, c, lo - off))
    (parts.flatMap (·.1), parts.filterMap (·.2))

/-! ### A work unit's source and output (R233, R235, R240) -/

/-- The data area of the arming's base or only tensor. -/
def Sheet.dataArea (h : Sheet) : Option Area := h.cur.hdr.map fun p => ⟨p, h.cur.base, false⟩

/-- The data and scale areas of the tiles. -/
def Sheet.tileAreas (h : Sheet) : Option (Area × Area) :=
  h.tileHdr.map fun p =>
    let a := if h.merge then h.cur.dim.adapter else h.cur.base
    (⟨p, a, false⟩, ⟨p, a, true⟩)

/-- The consecutive source elements of a run of walk positions, as element and count. -/
def DimBlk.elemRuns (d : DimBlk) (n len : Nat) : List (Nat × Nat) :=
  if d.strides.getLast? = some 1 then
    let c := d.run
    (List.range ((n + len - 1) / c - n / c + 1)).map fun i =>
      let lo := max n ((n / c + i) * c)
      let hi := min (n + len) ((n / c + i + 1) * c)
      (d.walkAt lo, hi - lo)
  else (List.range len).map fun i => (d.walkAt (n + i), 1)

/-- The source ranges of a unit's elements of z bytes, from the start of the raw source. -/
def Sheet.rawRanges (h : Sheet) (z u : Nat) : List (Nat × Nat) :=
  (h.unitRuns u).flatMap fun r => (h.cur.dim.elemRuns r.1 r.2).map fun e => (e.1 * z, e.2 * z)

/-- The source ranges that a unit needs, given what has been read. -/
def Sheet.needs (h : Sheet) (ls : Lines) (u : Nat) : List (Nat × Nat) :=
  match h.dataArea with
  | none => (h.rawRanges (typeSize h.cur.dim.inType) u).map fun r => (h.cur.base + r.1, r.2)
  | some a =>
    (if h.merge || !a.hdr.factored then (h.rawRanges (typeSize a.hdr.typ) u).flatMap fun r => a.needs ls r.1 r.2 else []) ++
    match h.tiled, h.tileAreas with
    | true, some t =>
      let x := h.tiles.getD u 0
      t.1.needs ls (x * t.1.hdr.tileBytes) t.1.hdr.tileBytes ++ t.2.needs ls (4 * x) 4
    | _, _ => []

/-- The Reef blocks among the records of ranges of an area that are decoded, each once (R241). -/
def Area.decoded (a : Area) (keys : FMap KeySlot) (ls : Lines) (rs : List (Nat × Nat)) : Nat :=
  if !a.hdr.reef then 0
  else
    let ks := (rs.filter fun r => decide (0 < r.2)).flatMap fun r =>
      (List.range ((r.1 + r.2 - 1) / segBytes - r.1 / segBytes + 1)).map (r.1 / segBytes + ·)
    (ks.eraseDups.filter fun k => (a.record keys ls k).decoded).length

/-- The Reef blocks that a unit decodes (R241). -/
def Sheet.decoded (h : Sheet) (keys : FMap KeySlot) (ls : Lines) (u : Nat) : Nat :=
  (match h.dataArea with
    | none => 0
    | some a => if h.merge || !a.hdr.factored then a.decoded keys ls (h.rawRanges (typeSize a.hdr.typ) u) else 0) +
  match h.tiled, h.tileAreas with
    | true, some t =>
      let x := h.tiles.getD u 0
      t.1.decoded keys ls [(x * t.1.hdr.tileBytes, t.1.hdr.tileBytes)] + t.2.decoded keys ls [(4 * x, 4)]
    | _, _ => 0

/-- The range of an arming's raw source content that a line of 4,096 B brings: with coded records, that of the records it touches
(R231). -/
def Sheet.contentOf (h : Sheet) (line : Nat) : Nat × Nat :=
  let start := match h.cur.hdr with
    | none => h.cur.base
    | some p => h.cur.base + p.dataOff
  match h.cur.hdr.filter fun p => p.gcm || p.reef with
  | none => (line - start, line + 4096 - start)
  | some p => ((line - start) / p.stride * segBytes, ((line + 4095 - start) / p.stride + 1) * segBytes)

/-- The first output byte of the arming, among a unit's, that a source line's bytes reach (R268); the unit's first byte where the line
is of a tile's factors or scales. -/
def Sheet.lineByte (h : Sheet) (u line : Nat) : Nat :=
  let z := typeSize ((h.cur.hdr.map (·.typ)).getD h.cur.dim.inType)
  let c := h.contentOf line
  let runs := (h.unitRuns u).flatMap fun r =>
    ((h.cur.dim.elemRuns r.1 r.2).foldl (fun (acc : List (Nat × Nat × Nat) × Nat) e =>
      (acc.1 ++ [(acc.2, e.1, e.2)], acc.2 + e.2)) ([], r.1)).1
  let first := ((h.unitSpans u).headD (0, 0)).1
  match runs.find? fun r => overlaps (r.2.1 * z) (r.2.2 * z) c.1 (c.2 - c.1) with
  | some r => max first (outBytes h.outType (r.1 + (max (r.2.1 * z) c.1 / z - r.2.1)))
  | none => first

/-- The sealed records that a unit opens: address, and ciphertext bytes (R293). -/
def Sheet.pipeObjs (h : Sheet) (ls : Lines) (u : Nat) : List (Nat × Nat) :=
  (match h.dataArea with
    | none => []
    | some a => if h.merge || !a.hdr.factored then a.sealedIn ls (h.rawRanges (typeSize a.hdr.typ) u) else []) ++
  match h.tiled, h.tileAreas with
    | true, some t =>
      let x := h.tiles.getD u 0
      t.1.sealedIn ls [(x * t.1.hdr.tileBytes, t.1.hdr.tileBytes)] ++ t.2.sealedIn ls [(4 * x, 4)]
    | _, _ => []

/-- The lane cycles that a unit takes in the Unfurl unit: none where it needs no expansion and no conversion (R237, R238). -/
def Sheet.unitCycles (h : Sheet) (u : Nat) : Nat :=
  match h.tiled, h.tileHdr with
  | true, some p =>
    let t := h.tiles.getD u 0
    ceilDiv (min 128 (p.rows - 128 * (t / p.tc)) * min 128 (p.cols - 128 * (t % p.tc))) 16
  | _, _ =>
    if (((h.cur.hdr.map (·.typ))).getD h.cur.dim.inType) = h.outType then 0
    else ceilDiv (((h.unitRuns u).map (·.2)).foldl (· + ·) 0) 32

/-- The expanded value of an element of a tile (R233), before conversion. -/
def expand (p : PackHdr) (tile : List Byte) (scale : Fp) (i j : Nat) : Fp :=
  let e := typeSize p.typ
  let acc := (List.range p.rank).foldl (fun acc k =>
    let u := fpOfType p.typ (leAt tile ((i * p.rank + k) * e) e)
    let v := fpOfType p.typ (leAt tile ((128 * p.rank + k * 128 + j) * e) e)
    fp32 (fpAdd acc (fp32 (fpMul u v)))) (Fp.fin false 0 0)
  fp32 (fpMul scale acc)

/-- What a unit produces: output pieces by offset in the arming, scale bytes by block, and the conditions met. -/
structure Produced where
  pieces : List (Nat × List PByte)
  scales : List (Nat × PByte)
  conds : List RecCond
  deriving DecidableEq, Repr

/-- The elements of a run of the arming's raw source, with the conditions met. -/
def Sheet.rawRun (h : Sheet) (keys : FMap KeySlot) (ls : Lines) (r : Nat × Nat) : List PByte × List RecCond :=
  let d := h.cur.dim
  let ps := (d.elemRuns r.1 r.2).foldl (fun (acc : List PByte × List RecCond × Nat) e =>
    match h.dataArea with
    | none => (acc.1 ++ ls.read (h.cur.base + e.1 * typeSize d.inType) (e.2 * typeSize d.inType), acc.2.1, acc.2.2 + e.2)
    | some a =>
      let z := typeSize a.hdr.typ
      let got := a.read keys ls (e.1 * z) (e.2 * z)
      let cs := got.2.map fun c => (⟨0, c.1, outBytes h.outType (acc.2.2 + c.2.2 / z), c.2.1⟩ : RecCond)
      (acc.1 ++ got.1, acc.2.1 ++ cs, acc.2.2 + e.2)) ([], [], r.1)
  (ps.1, ps.2.1)

/-- The stored type of the arming's raw source. -/
def Sheet.rawType (h : Sheet) : Nat := ((h.cur.hdr.map (·.typ))).getD h.cur.dim.inType

/-- The output of a unit without expansion. -/
def Sheet.produceRaw (h : Sheet) (keys : FMap KeySlot) (ls : Lines) (u : Nat) : Produced :=
  let r := (h.unitRuns u).headD (0, 0)
  let src := h.rawRun keys ls r
  let out := convertRun h.rawType h.outType src.1
  let lo := u * segBytes
  let n := min h.outTotal (lo + segBytes) - lo
  let m := mxBytes h.outType
  { pieces := [(lo, slice out.1 (lo - outBytes h.outType r.1) n)]
    scales := (out.2.zipIdx.map fun b => (r.1 / 32 + b.2, b.1)).filter fun b =>
      decide (lo ≤ b.1 * m) && decide (b.1 * m < lo + n)
    conds := oncePerRecord (src.2.map fun c => { c with byte := max c.byte lo }) }

/-- The output of a tile (R233, R240). -/
def Sheet.produceTile (h : Sheet) (keys : FMap KeySlot) (ls : Lines) (u : Nat) : Produced :=
  match h.tileAreas with
  | none => ⟨[], [], []⟩
  | some t =>
    let p := t.1.hdr
    let x := h.tiles.getD u 0
    let tile := t.1.read keys ls (x * p.tileBytes) p.tileBytes
    let scale := t.2.read keys ls (4 * x) 4
    let bad := anyPoison tile.1 || anyPoison scale.1
    let sc := fpOf32 (le (values scale.1))
    let bytes := values tile.1
    let ofTile := fun (area : Nat) (c : Nat × Cond × Nat) =>
      (⟨area, c.1, outBytes h.outType ((h.unitRuns u).headD (0, 0)).1, c.2.1⟩ : RecCond)
    let runs := (h.unitRuns u).map fun r =>
      let base := if h.merge then h.rawRun keys ls r else ([], [])
      let els := elemsOf (typeSize h.rawType) base.1
      let vs := (List.range r.2).map fun n =>
        let e := h.cur.dim.walkAt (r.1 + n)
        let w := expand p bytes sc (e / p.cols % 128) (e % p.cols % 128)
        if h.merge then
          let b := els.getD n ⟨0, true⟩
          (fp32 (fpAdd (fpOfType h.rawType b.code) w), bad || b.poison)
        else (w, bad)
      let out := putValues h.outType vs
      ((outBytes h.outType r.1, out.1), out.2.zipIdx.map fun b => (r.1 / 32 + b.2, b.1), base.2)
    { pieces := runs.map (·.1)
      scales := runs.flatMap (·.2.1)
      conds := oncePerRecord (tile.2.map (ofTile 1) ++ scale.2.map (ofTile 2) ++ runs.flatMap (·.2.2)) }

/-- The output of a work unit. -/
def Sheet.produce (h : Sheet) (keys : FMap KeySlot) (ls : Lines) (u : Nat) : Produced :=
  if h.tiled then h.produceTile keys ls u else h.produceRaw keys ls u

/-- Pieces cut at slot boundaries (fuel is the pieces of 64 KiB in the arming). -/
def cutSlots (size : Nat) (off : Nat) (bs : List PByte) : List (Nat × List PByte) :=
  let first := min bs.length (size - off % size)
  (off, bs.take first) :: (spans (bs.length - first) size).map fun p => (off + first + p.1, slice bs (first + p.1) p.2)

end Sys2Proof.Machine
end

