-- ==== Sys2Proof/Machine/Sheets.lean ====
section
/-! DEFINITION. Sheets (R244 to R276): arming, re-arming and stopping, the Tackle cache (R267, R328), the start of work units
(R259, R262 to R265), slot writes and fill signals (R255), slot-write failures (R275) and the end of an arming (R272). -/

namespace Sys2Proof.Machine

/-! ### Looking up -/

/-- Change a Sheet. -/
def State.modSheet (n : Nat) (f : Sheet → Sheet) (s : State) : State := { s with sheets := FMap.modify s.sheets n f }

/-- Is the work a unit of the Sheet? -/
def Work.ofUnit (n : Nat) : Work → Bool
  | .sheet x _ => x == n
  | _ => false

/-- Is the work the Sheet's: a unit, or the last WR of a slot? -/
def Work.ofSheet (n : Nat) : Work → Bool
  | .sheet x _ => x == n
  | .tail x _ => x == n
  | _ => false

/-- The units of a Sheet in flight. -/
def State.inFlight (s : State) (n : Nat) : Nat := (s.xfers.filter fun x => x.2.work.ofUnit n).length

/-- The place of a source address of a Sheet (R250). -/
def State.sheetLoc (s : State) (h : Sheet) (a : Nat) : Loc := s.locOf h.fn h.cur.dim.space (match h.cur.dim.space with
  | .staging => a % 2 ^ 52
  | _ => a)

/-- The key of a Sheet's GCM records. -/
def State.sheetKey (s : State) (h : Sheet) : Option KeySlot := s.bulkKey h.cur.dim.keySlot

/-! ### SHEET_ARM and SHEET_REARM (R230, R236, R247 to R250) -/

/-- The structures that an arming names, as they were read. -/
structure ArmReads where
  dim : HostRead
  hdr : HostRead
  ad : HostRead
  deriving DecidableEq, Repr

/-- The bytes of a packed-tensor header (Table 7-5). -/
def headerBytes : Nat := 128

/-- A header that an arming names: its space, its address, and what reading it gave. -/
structure HdrRead where
  space : Space
  addr : Nat
  read : HostRead
  deriving DecidableEq, Repr

/-- The headers that an arming names. -/
def hdrReads (base : Nat) (d : DimBlk) (merge : Bool) (r : ArmReads) : List HdrRead :=
  (if d.packed then [⟨d.space, base, r.hdr⟩] else []) ++ (if merge then [⟨d.space, d.adapter, r.ad⟩] else [])

/-- The staging granules of a header of a function. -/
def State.hdrPlaces (s : State) (fn : Nat) (h : HdrRead) : List (Nat × Nat) :=
  (granules (((FMap.find s.fns fn).map (·.quotaBase)).getD 0 + h.addr % 2 ^ 52) headerBytes).map fun g => s.setup.stagingPlace g.2

/-- Does a header lie outside the staging that the function may read, where it would lie in staging (R39, R250)? -/
def State.hdrOutside (s : State) (fn : Nat) (h : HdrRead) : Bool :=
  decide (h.space = .staging) && (!s.setup.hasStaging || epOf h.addr != s.setup.fabEp ||
    decide (((FMap.find s.fns fn).map (·.quotaLen)).getD 0 < h.addr % 2 ^ 52 + headerBytes))

/-- May a header be read now: a port toward its endpoint is usable, or the wait for one is over and nothing came, and its staging port
has room (R57, R465)? -/
def State.hdrOpen (s : State) (fn : Nat) (h : HdrRead) : Bool :=
  match h.space with
  | .host => true
  | .fabric => h.read == .error || !(s.portsTo (epOf h.addr)).isEmpty
  | .staging => s.hdrOutside fn h || (s.hdrPlaces fn h).all fun g => s.stgRoom g

/-- The packet that answers a read of a header has come: its flits count, and the session's counter advances (R52, R53). -/
def State.hdrAnswered (port : Nat) (s : State) : State :=
  let flits := 1 + ceilDiv headerBytes 64
  if port < 32 then (s.count (ctrId 4 port 1) flits).modLink port fun l => { l with rx := l.rx + 1 }
  else s.countBytes (ctrId 6 (port - 32) 1) (64 * flits)

/-- Read a header in the space that SRC_SPACE gives; what came is the operand of a command (R250). Log 148. -/
def State.readHeader (fn : Nat) (h : HdrRead) (s : State) : State :=
  match h.space with
  | .host => s.readStruct fn h.addr h.read
  | .fabric =>
    match (s.portsTo (epOf h.addr)).head? with
    | none => s
    | some port =>
      ({ s with nextId := s.nextId + 1 }.sendAt port
        { s.pkt 1 1 (epOf h.addr) with len := headerBytes, addr := h.addr, tag := s.nextId % 2 ^ 32, slice := fn } []).hdrAnswered port
  | .staging =>
    if s.hdrOutside fn h then s
    else
      (s.hdrPlaces fn h).foldl (fun s g =>
        (s.emit (.staging g.1 (s.stgTag g.1) g.2 false [] [])).countBytes (ctrId 5 g.1 0) 64) s

/-- How a header's read ended that brought nothing: FABRIC_LOST, or an uncorrectable staging read (R49, R327, R465). One of host
memory is a malformation of the entry (R92). Log 148. -/
def State.hdrLost (s : State) (fn : Nat) (h : HdrRead) : Option Cond :=
  if h.read != .error then none
  else
    match h.space with
    | .host => none
    | .fabric => some ⟨0x23, match (s.portsTo (epOf h.addr)).head? with
        | some port => lostInfo port 3
        | none => lostInfo 0xFF 2⟩
    | .staging => (s.hdrPlaces fn h).head?.map fun g => ⟨0x82, eccInfo 3 2 g.1 g.2⟩

/-- End an entry whose header did not come. -/
def State.failHeader (a : Acc) (c : Cond) (s : State) : State :=
  (if c.status = 0x82 then s.uncEvent (some a) 3 2 (bits c.info 15 8) (c.info / 2 ^ 32) 1 else s).failEntry a.id c.status c.info

/-- CONFLICT where a header lies outside the slice's staging (R250), before it is read. -/
def State.hdrRefusal (s : State) (fn : Nat) (hs : List HdrRead) : Option Cond :=
  refuse (s.setup.hasStaging && hs.any (s.hdrOutside fn)) 0x40 24

/-- The headers that a SHEET_ARM names, once its dimension block is well formed. -/
def armHdrs (f : ArmF) (r : ArmReads) : List HdrRead := hdrReads f.base (parseDim f.dims (readBytes r.dim)) f.merge r

/-- The headers that a SHEET_REARM names. -/
def Sheet.rearmHdrs (h : Sheet) (base dimBlock : Nat) (r : ArmReads) : List HdrRead :=
  hdrReads base (if dimBlock = 0 then h.cur.dim else parseDim h.cur.dim.counts.length (readBytes r.dim)) h.merge r

/-- May a SHEET_ARM read what it names? -/
def State.armOpen (s : State) (a : Acc) (f : ArmF) (r : ArmReads) : Bool :=
  s.readRoom && (r.dim == .error || (armHdrs f r).all (s.hdrOpen a.fn))

/-- The reads of a SHEET_ARM. -/
def State.readArm (a : Acc) (f : ArmF) (r : ArmReads) (s : State) : State :=
  let s := s.readStruct a.fn f.dimBlock r.dim
  if r.dim = .error then s else (armHdrs f r).foldl (fun s h => s.readHeader a.fn h) s

/-- May a SHEET_REARM read what it names? -/
def State.rearmOpen (s : State) (a : Acc) (n base dimBlock : Nat) (r : ArmReads) : Bool :=
  s.readRoom && ((FMap.find s.sheets n).map fun h => (h.rearmHdrs base dimBlock r).all (s.hdrOpen a.fn)).getD true

/-- The reads of a SHEET_REARM: with DIM_BLOCK zero, only those of the headers (R273). -/
def State.readRearm (a : Acc) (n base dimBlock : Nat) (r : ArmReads) (s : State) : State :=
  match FMap.find s.sheets n with
  | none => s
  | some h =>
    let s := if dimBlock = 0 then s else s.readStruct a.fn dimBlock r.dim
    (h.rearmHdrs base dimBlock r).foldl (fun s h => s.readHeader a.fn h) s

/-- The malformation of an arming's structures: offset of the pointing field and reason (R92, R93, R249, R467). -/
def armBreach (f : ArmF) (dimOff : Nat) (r : ArmReads) : Option (Nat × Nat) :=
  let db := readBytes r.dim
  let d := parseDim f.dims db
  let hb := readBytes r.hdr
  let ab := readBytes r.ad
  let lost := fun (x : HostRead) => x == .error && d.space == .host
  let h := if d.packed then some (parsePack hb) else none
  if r.dim = .error then some (dimOff, 6)
  else if d.packed && lost r.hdr then some (24, 6)
  else if d.packed && !packOk hb then some (24, 5)
  else if !dimOk f.dims f.outType f.base f.merge db then some (dimOff, 5)
  else if f.merge && lost r.ad then some (dimOff, 6)
  else if f.merge && !packOk ab then some (dimOff, 5)
  else if 2 ^ f.elem != elemSize d h || !walkOk d h f.merge f.outType ||
      (d.keySlot != 0 && !((h.map (·.gcm)).getD false || (f.merge && (parsePack ab).gcm))) then some (dimOff, 5)
  else none

/-- What an arming reads, once its structures are well formed. -/
def armSrc (f : ArmF) (base : Nat) (r : ArmReads) : ArmSrc :=
  let d := parseDim f.dims (readBytes r.dim)
  { base := base, dim := d, hdr := if d.packed then some (parsePack (readBytes r.hdr)) else none,
    ad := if f.merge then some (parsePack (readBytes r.ad)) else none }

/-- A CONFLICT at a field of a packed-tensor header (R230). -/
def hdrCond (field : Option Nat) : Option Cond := field.map fun o => ⟨0x40, 64 + o⟩

/-- Does a slot hold the key of a header whose records are sealed? -/
def State.keyHeld (s : State) (fn slot : Nat) (p : PackHdr) : Bool :=
  !p.gcm || (((s.bulkKey slot).map (·.keyId)) == some p.keyId && s.keyOwner slot false == fn)

/-- The refusals of an arming's headers (R230, R234, R236). -/
def State.headerRefusal (s : State) (fn : Nat) (f : ArmF) (x : ArmSrc) : Option Cond :=
  let key := fun (p : PackHdr) => if s.keyHeld fn x.dim.keySlot p then none else some 28
  match x.hdr with
  | none => refuse (!convertible x.dim.inType f.outType) 0x40 21
  | some p =>
    match x.ad with
    | none => firstCond [hdrCond (outRefusal p p.factored f.outType), hdrCond (key p)]
    | some q =>
      firstCond
        [ hdrCond (key p), hdrCond (key q), hdrCond (if p.factored then some 10 else none),
          hdrCond (if 4 < p.typ then some 11 else none), hdrCond (if q.factored then none else some 10),
          hdrCond (if p.rows != q.rows then some 16 else none), hdrCond (if p.cols != q.cols then some 20 else none),
          hdrCond (outRefusal q true f.outType) ]

/-- Does an arming read staging outside the slice's quota (R250)? -/
def State.quotaBreach (s : State) (fn : Nat) (x : ArmSrc) : Bool :=
  let len := ((FMap.find s.fns fn).map (·.quotaLen)).getD 0
  let out := fun (a n : Nat) => epOf a != s.setup.fabEp || decide (len < a % 2 ^ 52 + n)
  let area := fun (p : PackHdr) (a : Nat) =>
    out a 128 || out (a + p.dataOff) (p.dataSegs * p.stride) || (p.factored && out (a + p.scaleOff) (p.scaleSegs * p.stride))
  decide (x.dim.space = .staging) &&
  match x.hdr with
  | none => out x.base ((x.dim.top + 1) * typeSize x.dim.inType)
  | some p => area p x.base || ((x.ad.map fun q => area q x.dim.adapter).getD false)

/-- The Sheets of a function that are out of IDLE. -/
def State.armed (s : State) (fn : Nat) : Nat := (s.sheets.filter fun h => h.2.fn == fn).length

/-- The limit of new Sheets: the lesser of the current and a pending value (R345). -/
def State.sheetLimit (s : State) (fn : Nat) : Nat :=
  match (FMap.find s.fns fn).bind (·.resize) with
  | some r => min (s.sheetsOf fn) r.sheets
  | none => s.sheetsOf fn

/-- CONFLICT of a header's own signal: at INFO 8 for a Cleat of the block, and at INFO 12 for an endpoint that is no other's (R279,
Table 9-1). -/
def State.signalConflict (s : State) (a : Acc) (info : Nat) : Option Cond :=
  (s.signalRefusal a.fn a.hdr).filter fun c => c.info == info

/-- The refusals that an arming and a re-arm share, after the headers' (R247, R250, then R279 in the order of Table 9-1 and the text
under it). -/
def State.armRefusal (s : State) (a : Acc) (n : Nat) (f : ArmF) (x : ArmSrc) (new : Bool) : Option Cond :=
  let fn := a.fn
  firstCond
    [ refuse (new && !s.attachedTo (epOf f.base) fn) 0x40 32,
      refuse (x.dim.fillEp != epOf f.base && x.dim.fillEp != s.setup.fabEp) 0x40 262,
      refuse (s.sheets.any fun h => h.1 != n && h.2.cur.dim.releaseCleat == x.dim.releaseCleat) 0x40 264,
      refuse (new && decide (s.sheetLimit fn ≤ s.armed fn)) 0x41 16,
      refuse (decide (s.rigs.cur.sheetFloor < chainBuffers x.dim x.hdr x.ad f.outType)) 0x41 257,
      refuse (s.quotaBreach fn x) 0x40 24,
      s.signalConflict a 8,
      refuse (x.dim.fillEp == s.setup.fabEp && s.cleatOwner x.dim.fillCleat != fn) 0x40 260,
      s.signalConflict a 12 ]

/-- The home Yard of a new Sheet (R260). -/
def State.homeYard (s : State) (fn affinity : Nat) : Nat :=
  let homed := fun (y : Nat) => (s.sheets.filter fun h => h.2.yard == y).length
  let near := fun (y : Nat) => affinity != 0 && s.sheets.any fun h =>
    h.2.fn == fn && h.2.cur.dim.affinity == affinity && h.2.yard / 8 == y / 8
  let cand := (List.range 64).filter fun y => decide (homed y < s.rigs.cur.perYard)
  let pool := if cand.any near then cand.filter near else cand
  (pool.foldl (fun acc y =>
    match acc with
    | none => some y
    | some b => if homed y < homed b then some y else some b) (none : Option Nat)).getD 0

/-- QUOTA where a source lies in staging and staging is absent (R39): INFO is 256 plus the offset of SRC_SPACE (R247). -/
def State.noStaging (s : State) (x : ArmSrc) : Option Cond :=
  refuse (decide (x.dim.space = .staging) && !s.setup.hasStaging) 0x41 256

/-- SHEET_ARM. The ring base of an arming stands in `ArmF.base` while its headers are checked; the source base is given
apart. -/
def State.runSheetArm (a : Acc) (f : ArmF) (r : ArmReads) (s : State) : State :=
  let ringF := { f with base := f.ring }
  let hs := armHdrs f r
  let x := armSrc f f.base r
  let dimOff := if r.dim = .error || !dimOk f.dims f.outType f.ring f.merge (readBytes r.dim) then armBreach ringF 48 r else none
  match dimOff, firstCond [s.noStaging x, s.hdrRefusal a.fn hs], hs.findSome? (s.hdrLost a.fn), armBreach ringF 48 r with
  | some b, _, _, _ => s.malformed a.id b.1 b.2
  | _, some c, _, _ => s.failEntry a.id c.status c.info
  | _, _, some c, _ => s.failHeader a c
  | _, _, _, some b => s.malformed a.id b.1 b.2
  | none, none, none, none =>
    s.orRefuse a.id (firstCond
      [ s.headerRefusal a.fn f x, refuse (FMap.has s.sheets f.sheet) 0x40 16, s.armRefusal a f.sheet ringF x true ]) fun s =>
      let s := s.bindCleat x.dim.releaseCleat
      let h : Sheet :=
        { fn := a.fn, entry := a.id, elem := f.elem, slots := f.slots, outType := f.outType, persistent := f.persistent,
          merge := f.merge, ring := f.ring, slotSize := f.slotSize, period := f.period, frameBytes := f.frameBytes, cur := x,
          yard := s.homeYard a.fn x.dim.affinity, bucket := x.dim.burst, tS := s.laneCycle }
      ({ s with sheets := FMap.put s.sheets f.sheet h }.zeroCtr 0xA f.sheet).modAcc a.id fun a => { a with phase := .running }

/-- Has every transfer of the arming's units completed, and every slot been signalled (R272)? -/
def Sheet.armEnded (h : Sheet) : Bool := decide (h.units ≤ h.written.length) && h.w == h.w0 + h.armSlots

/-- Has the last transfer of a Sheet's arming completed, the last WR of each slot among them (R272, R273)? -/
def State.lastDone (s : State) (n : Nat) (h : Sheet) : Bool := h.armEnded && !(s.hasWork (Work.ofSheet n))

/-- Begin an arming at slot W (R254, R272). A RELEASE_CLEAT other than the one before is bound, and the one before it released, at this
moment: log 15, DESIGN CHOICE. -/
def State.beginArming (n : Nat) (x : ArmSrc) (s : State) : State :=
  let s := match FMap.find s.sheets n with
    | some h => if h.cur.dim.releaseCleat = x.dim.releaseCleat then s else s.bindCleat x.dim.releaseCleat
    | none => s
  s.modSheet n fun h => { h with
    cur := x, pend := none, w0 := h.w, next := 0, sent := [], written := [], fresh := true
    bucket := if h.cur.dim.rate = 0 then x.dim.burst else min h.bucket x.dim.burst }

/-- Is the function ORPHANED? -/
def State.orphaned (s : State) (f : Nat) : Bool := ((FMap.find s.fns f).map fun x => x.state == .orphaned).getD false

/-- The malformation of a re-arm that keeps its dimension block (R93, R249, R251, R252; Table 8-2): its new headers must fit the
kept block, and so must ELEM and KEY_SLOT. With DIM_BLOCK zero no field of the entry points at the adapter's header: the breach is named
at BASE, offset 24, as the other's is: log 77, DESIGN CHOICE. -/
def keepBreach (h : Sheet) (r : ArmReads) : Option (Nat × Nat) :=
  let d := h.cur.dim
  let lost := fun (x : HostRead) => x == .error && d.space == .host
  let hdr := if d.packed then some (parsePack (readBytes r.hdr)) else none
  if d.packed && lost r.hdr then some (24, 6)
  else if d.packed && !packOk (readBytes r.hdr) then some (24, 5)
  else if h.merge && lost r.ad then some (24, 6)
  else if h.merge && !packOk (readBytes r.ad) then some (24, 5)
  else if 2 ^ h.elem != elemSize d hdr || !walkOk d hdr h.merge h.outType ||
      (d.keySlot != 0 && !((hdr.map (·.gcm)).getD false || (h.merge && (parsePack (readBytes r.ad)).gcm))) then some (24, 5)
  else none

/-- SHEET_REARM (R273). With DIM_BLOCK zero the current block is kept; the headers are read again. One that an ORPHANED function's
queue still runs is discarded like a pending one (R349). -/
def State.runSheetRearm (a : Acc) (n base dimBlock : Nat) (r : ArmReads) (s : State) : State :=
  match FMap.find s.sheets n with
  | none => s.failEntry a.id 0x40 16
  | some h =>
    if h.fn != a.fn || h.stopping || !h.persistent then s.failEntry a.id 0x40 16
    else if h.pend.isSome then s.failEntry a.id 0x42 16
    else
      let f : ArmF := ⟨n, h.elem, h.cur.dim.counts.length, h.slots, h.outType, h.persistent, h.merge, h.ring, h.ring,
        h.slotSize, h.period, dimBlock, h.frameBytes⟩
      let keep : Bool := dimBlock = 0
      let d := h.cur.dim
      let breach := if keep then keepBreach h r else armBreach f 32 r
      let dimOff := if keep || (r.dim != .error && dimOk f.dims f.outType f.base f.merge (readBytes r.dim)) then none else breach
      let hs := h.rearmHdrs base dimBlock r
      let x : ArmSrc :=
        if keep then
          { base := base, dim := d, hdr := if d.packed then some (parsePack (readBytes r.hdr)) else none,
            ad := if h.merge then some (parsePack (readBytes r.ad)) else none }
        else armSrc f base r
      match dimOff, firstCond [s.noStaging x, s.hdrRefusal a.fn hs], hs.findSome? (s.hdrLost a.fn), breach with
      | some b, _, _, _ => s.malformed a.id b.1 b.2
      | _, some c, _, _ => s.failEntry a.id c.status c.info
      | _, _, some c, _ => s.failHeader a c
      | _, _, _, some b => s.malformed a.id b.1 b.2
      | none, none, none, none =>
        s.orRefuse a.id (firstCond [s.headerRefusal a.fn f x, s.armRefusal a n f x false]) fun s =>
          if s.orphaned h.fn then s.endEntry a.id 1
          else if s.lastDone n h || h.fresh then (s.beginArming n x).endEntry a.id 0
          else (s.modSheet n fun h => { h with pend := some x }).endEntry a.id 1

/-! ### Stopping (R245, R274) -/

/-- The units of an arming that write a slot. -/
def Sheet.slotUnits (h : Sheet) (q : Nat) : List Nat := (List.range h.units).filter fun u => h.unitInSlot u (q - h.w0)

/-- The first slot from W on whose bytes have not all been sent: the first that a stop at once does not signal (R274). -/
def Sheet.firstOpen (h : Sheet) : Nat :=
  (((List.range h.armSlots).map (h.w0 + ·)).find? fun q =>
    decide (h.w ≤ q) && !(h.slotUnits q).all h.sent.contains).getD (h.w0 + h.armSlots)

/-- Move a RUNNING Sheet to STOPPING (R274). -/
def State.stopSheet (n : Nat) (atOnce : Bool) (s : State) : State :=
  s.modSheet n fun h =>
    if h.stopping then h
    else { h with stopping := true, atOnce := atOnce, pend := none, stopAfter := if atOnce then none else some h.w,
                  sigStop := some (if atOnce then h.firstOpen else h.w + 1) }

/-- SHEET_STOP: it completes once the Sheet is IDLE. -/
def State.runSheetStop (a : Acc) (n : Nat) (atOnce : Bool) (s : State) : State :=
  match FMap.find s.sheets n with
  | none => s.failEntry a.id 0x40 16
  | some h =>
    s.orRefuse a.id (firstCond [refuse (h.fn != a.fn || h.stopping) 0x40 16, s.signalRefusal a.fn a.hdr]) fun s =>
      ((s.stopSheet n atOnce).modSheet n fun h => { h with stopEntry := some a.id }).modAcc a.id fun a => { a with phase := .waiting }

/-- The slot after the last one that a STOPPING Sheet signals. -/
def Sheet.lastSlot (h : Sheet) : Nat := min (h.w0 + h.armSlots) (h.sigStop.getD (h.w0 + h.armSlots))

/-- Is a STOPPING Sheet done: nothing in flight, and every slot that it had to signal signalled? -/
def State.sheetIdle (s : State) (n : Nat) (h : Sheet) : Bool :=
  h.stopping && !(s.hasWork (Work.ofSheet n)) && decide (h.lastSlot ≤ h.w)

/-- STOPPING Sheets with nothing left become IDLE: the SHEET_ARM completes, then the SHEET_STOP (R246, R274). -/
def State.settleSheets (s : State) : State :=
  s.sheets.foldl (fun s p =>
    if s.sheetIdle p.1 p.2 then
      let s := { s with sheets := FMap.del s.sheets p.1 }
      let s := s.endEntry p.2.entry 0
      let s := match p.2.stopEntry with
        | some e => (s.modAcc e fun a => { a with after := some p.2.entry }).endEntry e (p.2.w - p.2.w0)
        | none => s
      s.report p.2.fn fun o => { o with sheetsStopped := sat16 (o.sheetsStopped + 1) }
    else s) s

/-! ### The Tackle cache (R267, R328, R335) -/

/-- The line of a Mast's cache for a place under a source generation. -/
def State.line? (s : State) (mast gen : Nat) (l : Loc) : Option Line :=
  s.tackle.find? fun t => t.mast == mast && decide (t.space = l.key.1) && t.pasid == l.key.2.1 && t.addr == l.key.2.2 && t.gen == gen

/-- A read of a line: its bytes on a hit. A flipped word is corrected at every read, for it stays as stored (R325, R333), or its line
is dropped and read again (R328). -/
def State.tackleRead (mast gen : Nat) (l : Loc) (s : State) : Option (List Byte) × State :=
  match s.line? mast gen l with
  | none => (none, s)
  | some t =>
    let touch := fun (s : State) => { s with
      nextId := s.nextId + 1
      tackle := s.tackle.map fun x => if x = t then { x with used := s.nextId } else x }
    match t.flip with
    | none => (some t.data, (touch s).countBytes (ctrId 1 mast 0) 4096)
    | some m =>
      match flipResult m with
      | .clean _ => (some t.data, (touch s).countBytes (ctrId 1 mast 0) 4096)
      | .corrected _ _ =>
        (some (values (deliverFlip (plain t.data) (0, m))), ((touch s).countBytes (ctrId 1 mast 0) 4096).bump (ctrId 1 mast 1))
      | _ => (none, { s with tackle := s.tackle.filter (· != t) }.bump (ctrId 1 mast 2))

/-- Enter a line: 16 ways per set, the least recently used leaves. Log 40 gives the set index. -/
def State.tackleEnter (mast gen : Nat) (l : Loc) (bs : List Byte) (s : State) : State :=
  if (s.line? mast gen l).isSome then s
  else
    let (flip, s) := s.takeFlip 1 mast
    let set := fun (a : Nat) => a / 4096 % 128
    let t : Line := { mast := mast, space := l.key.1, pasid := l.key.2.1, addr := l.key.2.2, gen := gen, used := s.nextId,
                      data := bs, flip := flip.map (·.2) }
    let mates := s.tackle.filter fun x => x.mast == mast && set x.addr == set t.addr
    let old := mates.foldl (fun acc x =>
      match acc with
      | none => some x
      | some b => if x.used < b.used then some x else some b) (none : Option Line)
    let kept := if mates.length < 16 then s.tackle else s.tackle.filter fun x => some x != old
    { s with nextId := s.nextId + 1, tackle := kept ++ [t] }

/-! ### Buffers (R261, R262) -/

/-- The Yard buffers that a transfer other than a Sheet's unit holds: never more than five (R261). Log 41. The last WR of a slot
holds none, for its unit has ended and returned its own (R262). Log 147. -/
def Xfer.buffers (x : Xfer) : Nat :=
  match x.work with
  | .tail _ _ => 0
  | .stripe _ _ _ _ => min 5 (1 + x.dsts.length)
  | .drainSeg _ _ _ _ _ => 2
  | .rest _ _ _ => 3
  | _ => 1

/-- The buffers of a Sheet's work unit. -/
def Sheet.buffers (h : Sheet) : Nat := chainBuffers h.cur.dim h.cur.hdr h.cur.ad h.outType

/-- Does a Yard have the buffers for its work and one more transfer (R262)? -/
def State.buffersFit (s : State) (y : Nat) (sheet : Option Nat) (more : Nat) : Bool :=
  let busy := s.xfers.filter fun x => x.2.yard == y && x.2.phase != .queued
  let isSheet := fun (x : Xfer) => match x.work with
    | .sheet _ _ => true
    | _ => false
  let others := ((busy.filter fun x => !isSheet x.2).map fun x => x.2.buffers).foldl (· + ·) 0 + (if sheet.isNone then more else 0)
  let homed := s.sheets.filter fun h => h.2.yard == y
  let past := (homed.map fun h =>
    let n := (busy.filter fun x => x.2.work.ofUnit h.1).length * h.2.buffers + (if sheet == some h.1 then more else 0)
    n - s.rigs.cur.sheetFloor).foldl (· + ·) 0
  let shared := 16 - s.rigs.cur.ckptFloor - s.rigs.cur.sheetFloor * homed.length
  decide (past + (others - s.rigs.cur.ckptFloor) ≤ shared)

/-! ### Starting work units (R259, R263 to R265) -/

/-- The bucket of a function holds tokens, or is not regulated. -/
def State.fnTokens (s : State) (f : Nat) : Bool :=
  (s.part f).fnRate == 0 || decide (0 < ((FMap.find s.fns f).map (·.bucket)).getD 0)

/-- The unit that the Sheet starts next: in the order of R258, and one that writes the slot to be finished where a SHEET_STOP has
named one (R274). -/
def Sheet.nextUnit (h : Sheet) : Option Nat :=
  if h.stopping then
    match h.stopAfter with
    | some q => if h.failed || h.atOnce || decide (q < h.w0) then none else (h.slotUnits q).find? fun u => decide (h.next ≤ u)
    | none => none
  else if h.next < h.units then some h.next else none

/-- May the Sheet start its next unit (R259, R263, R265, R274)? -/
def State.eligible (s : State) (n : Nat) (h : Sheet) : Bool :=
  ((h.nextUnit.map fun u => decide (h.unitTop u < h.l + h.slots)).getD false) &&
  decide (s.inFlight n < h.cur.dim.outstanding) && (h.cur.dim.rate == 0 || decide (0 < h.bucket)) && s.fnTokens h.fn &&
  s.buffersFit h.yard (some n) h.buffers

/-- The dry time of a Sheet (R264). -/
def Sheet.dryTime (h : Sheet) : Nat := h.tS + (h.w - h.l) * h.slotSize * h.period / h.frameBytes

/-- The eligible Sheet of a Yard with the least dry time (R264). -/
def State.nextSheet (s : State) (y : Nat) : Option (Nat × Sheet) :=
  (s.sheets.filter fun p => p.2.yard == y && s.eligible p.1 p.2).foldl (fun acc p =>
    match acc with
    | none => some p
    | some b => if p.2.dryTime < b.2.dryTime then some p else some b) none

/-- What a transfer of a Sheet has in hand. -/
def State.linesIn (_s : State) (x : Xfer) : Lines :=
  x.srcs.filterMap fun p => if p.chunks.isEmpty && !p.failed then none else some (p.loc.key.2.2, p.bytes)

/-- The lines of a Sheet's unit in its source's own addresses: a staging address keeps the block's endpoint (R250). -/
def State.unitLines (s : State) (h : Sheet) (x : Xfer) : Lines :=
  let shift := (s.sheetLoc h 0).key.2.2
  let base := if h.cur.dim.space = .staging then fabAddr s.setup.fabEp 0 else 0
  (s.linesIn x).map fun l => (base + (l.1 - shift), l.2)

/-- The line of a source part of a unit, in the source's own addresses. -/
def State.unitLine (s : State) (h : Sheet) (x : Xfer) (i : Nat) : Option Nat :=
  (x.srcs[i]?).map fun p =>
    (if h.cur.dim.space = .staging then fabAddr s.setup.fabEp 0 else 0) + (p.loc.key.2.2 - (s.sheetLoc h 0).key.2.2)

/-- The port that a slot must take, where one was chosen: its own, or, where output segments cross slots, that of the slots under way,
so that no segment leaves by two ports (R46, R255). -/
def Sheet.keptPort (h : Sheet) (q : Nat) : Option Nat :=
  (FMap.find h.ports q).orElse fun _ => if h.slotSize % segBytes = 0 then none else h.ports.head?.map (·.2)

/-- The port of a slot: chosen once (R255). None while it is not usable. -/
def State.slotPort (s : State) (h : Sheet) (q : Nat) : Option Nat :=
  let ep := epOf h.ring
  match h.keptPort q with
  | some p => if (s.portsTo ep).contains p then some p else none
  | none => (s.portsTo ep).head?

/-- The segment of a drained source that a line belongs to: the stored record, or the 64 KiB of the source's content, that its first
byte lies in (R24, R231). -/
def Sheet.lineSegment (h : Sheet) (line : Nat) : Nat := (h.contentOf line).1 / segBytes

/-- What the port of a unit's read at a fabric address is kept under: its endpoint, and in a drain endpoint its segment, for a unit's
reads are spread over the drain ports at segment boundaries (R46, R450). Log 27. -/
def State.readKey (s : State) (t : Xfer) (a : Nat) : Nat :=
  if s.setup.isDrainEp (epOf a) then
    match t.work with
    | .sheet n _ => 4096 + ((FMap.find s.sheets n).map fun h => h.lineSegment a).getD 0
    | _ => epOf a
  else epOf a

/-- The port that a unit's read at a fabric address takes: that of the first read of its segment (R46, R450). None while it is not
usable. -/
def State.readPort (s : State) (t : Xfer) (a : Nat) : Option Nat :=
  let ps := s.portsTo (epOf a)
  let k := s.readKey t a
  match FMap.find t.ports k with
  | some q => if ps.contains q then some q else none
  | none => ps[if k < 4096 then 0 else (k - 4096) % ps.length]?

/-- Ask a port for the source part of a unit, where a port is usable and has room; the part waits otherwise (R57, R59,
R465). -/
def State.issueLine (x i : Nat) (s : State) : State :=
  match FMap.find s.xfers x with
  | none => s
  | some t =>
    match t.srcs[i]? with
    | none => s
    | some p =>
      match p.loc with
      | .fabric a =>
        match s.readPort t a with
        | some q => (s.modXfer x fun t => { t with ports := FMap.put t.ports (s.readKey t a) q }).readPart t i q p
        | none => s
      | _ => if s.portsAllow [p] false 0 then s.readPart t i 0 p else s

/-- The source parts of a unit that no port has been asked for yet. -/
def State.unasked (s : State) (t : Xfer) : List Nat :=
  (t.srcs.zipIdx.filter fun p => p.1.chunks.isEmpty && !p.1.failed &&
    !(s.freqs.any fun r => r.xfer == t.id && r.part == p.2 && !r.write) &&
    !(s.sreqs.any fun r => r.xfer == t.id && r.part == p.2 && !r.write) &&
    !(s.hreqs.any fun r => match r.use with
      | .data y i _ _ w => y == t.id && i == p.2 && !w
      | _ => false)).map (·.2)

/-- Read the lines that a unit still needs, from the cache or from their port (R267). True when a port is asked. -/
def State.fetchLines (n x : Nat) (s : State) : Bool × State :=
  match FMap.find s.sheets n, FMap.find s.xfers x with
  | some h, some t =>
    match t.work with
    | .sheet _ u =>
      let ls := s.unitLines h t
      let want := ((h.needs ls u).flatMap fun r => linesOf r.1 r.2).eraseDups.filter fun l => !ls.any (·.1 == l)
      want.foldl (fun acc l =>
        let s := acc.2
        let loc := s.sheetLoc h l
        let i := ((FMap.find s.xfers x).map (·.srcs.length)).getD 0
        match s.tackleRead (h.yard / 8) h.cur.dim.srcGen loc with
        | (some bs, s) =>
          (acc.1, ((s.modXfer x fun t => { t with srcs := t.srcs ++ [Part.at loc 4096], hits := t.hits ++ [i] }).putBytes x i 0
            (plain bs) false).countBytes (ctrId 0xA n 4) 4096)
        | (none, s) =>
          let p := Part.at loc 4096
          let s := (s.modXfer x fun t => { t with srcs := t.srcs ++ [p] }).countBytes (ctrId 0xA n 5) 4096
          (true, s.issueLine x i)) (false, s)
    | _ => (false, s)
  | _, _ => (false, s)

/-- The conditions of a unit go to the SHEET_ARM, and each is logged with the slot at which its bytes land (R268). -/
def State.sheetCond (n slot status info : Nat) (s : State) : State :=
  match FMap.find s.sheets n with
  | none => s
  | some h =>
    (if status = 0x20 then s.meetNew h.entry status info else s.meet h.entry status info).logFn 0x0401 h.fn [n, slot, status]

/-- Lines read from a port without poison are entered in the cache (R267), but for those that a write met meanwhile (R21). -/
def State.enterLines (n x : Nat) (s : State) : State :=
  match FMap.find s.sheets n, FMap.find s.xfers x with
  | some h, some t =>
    t.srcs.zipIdx.foldl (fun s p =>
      if t.hits.contains p.2 || t.stale.contains p.2 || p.1.failed || anyPoison p.1.stored then s
      else s.tackleEnter (h.yard / 8) h.cur.dim.srcGen p.1.loc (values p.1.stored)) s
  | _, _ => s

/-- The source parts of a unit that came poison-marked from a port and have not been read again (R268). Bytes that did not come are
marked, and are not read again for that. -/
def Xfer.toReread (x : Xfer) : List Nat :=
  (x.srcs.zipIdx.filter fun p => !x.hits.contains p.2 && !x.rereads.contains p.2 && p.1.dirty).map (·.2)

/-- Read again from the port what came poison-marked, each line once; each re-read counts, and so do its bytes (R268, R271). -/
def State.rereadLines (n x : Nat) (s : State) : State :=
  match FMap.find s.xfers x with
  | none => s
  | some t =>
    let bad := t.toReread
    let s := s.modXfer x fun t => { t with
      again := true, rereads := t.rereads ++ bad
      srcs := t.srcs.zipIdx.map fun p => if bad.contains p.2 then { p.1 with chunks := [], failed := false, dirty := false, flips := [] } else p.1 }
    let s := (s.count (ctrId 0xA n 12) bad.length).countBytes (ctrId 0xA n 5) (4096 * bad.length)
    bad.foldl (fun s i => s.issueLine x i) s

/-- The slot, as an absolute number, at which an output byte of the arming lies. -/
def Sheet.slotOf (h : Sheet) (b : Nat) : Nat := h.w0 + b / h.slotSize

/-! ### Whose transfer, and uncorrectable data (R268, R327) -/

/-- The entry that a transfer works for, but for a Sheet's. -/
def Work.entry? : Work → Option Nat
  | .copy e => some e
  | .fill e => some e
  | .stamp e => some e
  | .digest e => some e
  | .resultOut e => some e
  | .drainSeg e _ _ _ _ => some e
  | .drainMan e => some e
  | .drainRec e => some e
  | .t3Check e => some e
  | .rest e _ _ => some e
  | _ => none

/-- Is a Sheet's work, whose lost bytes are marked and go on (R268)? -/
def Work.isSheet : Work → Bool
  | .sheet _ _ => true
  | .tail _ _ => true
  | _ => false

/-- The PROTECT that waits for a generation to become protected (R148): tier-1 and tier-2 work is its work while it does (R327). -/
def State.protector (s : State) (e : Nat) : Option Acc :=
  s.accepted.find? fun a => a.fin.isNone && a.phase = .waiting && a.count == e && match a.op with
    | .protect _ => true
    | _ => false

/-- The DRAIN that has a generation's tier-3 record written (R161). -/
def State.drainer (s : State) (e : Nat) : Option Acc := ((s.gens.find? (·.epoch == e)).bind (·.drainBy)).bind s.acc

/-- The pending entry that owns a transfer (R327, log 39). -/
def State.ownerOf (s : State) (x : Xfer) : Option Acc :=
  (match x.work with
   | .sheet n _ => (FMap.find s.sheets n).bind fun h => s.acc h.entry
   | .tail n _ => (FMap.find s.sheets n).bind fun h => s.acc h.entry
   | .tier1 _ e _ => s.protector e
   | .stripe _ e _ _ => s.protector e
   | .dirMan _ e 2 => s.drainer e
   | .dirWrite _ e 2 => s.drainer e
   | w => w.entry?.bind s.acc).filter (·.fin.isNone)

/-- The slot at which the bytes of a source part of a unit land (R268). -/
def State.landing (s : State) (x : Xfer) (n u i : Nat) : Nat :=
  match FMap.find s.sheets n with
  | some h => h.slotOf (h.lineByte u (((s.unitLine h x i)).getD 0))
  | none => 0

/-- The slot of a Sheet's transfer at which the bytes of a source part land. -/
def State.landingOf (s : State) (x : Xfer) (i : Nat) : Nat :=
  match x.work with
  | .sheet n u => s.landing x n u i
  | .tail _ q => q
  | _ => 0

/-- The owner of a transfer meets a condition; a Sheet's is logged with its slot (R268, R461). -/
def State.meetAt (x : Xfer) (q status info : Nat) (s : State) : State :=
  match x.work with
  | .sheet n _ => s.sheetCond n q status (if status = 0x23 then info + q % 2 ^ 32 * 2 ^ 32 else info)
  | .tail n _ => s.sheetCond n q status info
  | w => match w.entry? with
    | some e => s.meet e status info
    | none => s

/-- An uncorrectable event of a transfer, whose owner meets it, a Sheet's at a slot (R327). -/
def State.uncorrectable (x : Xfer) (q mem cause unit word n : Nat) (s : State) : State :=
  let owner := s.ownerOf x
  let s := s.uncEvent owner mem cause unit word n
  match owner with
  | some a => if x.work.isSheet then s.meetAt x q 0x82 (eccInfo mem cause unit word) else s.meet a.id 0x82 (eccInfo mem cause unit word)
  | none => s

/-- A word of a Yard's SRAM whose check byte is flipped is read to be moved on: counted, and reported where it is uncorrectable; the
last is true of one. Log 42 leaves the word index free. -/
def State.readFlip (x : Xfer) (q : Nat) (m : Byte) (s : State) : Bool × State :=
  let word := Config.eccWord s.free % 131072
  let s := { s with free := s.free + 1 }
  match flipResult m with
  | .clean _ => (false, s)
  | .corrected _ syn =>
    let s := s.bump (ctrId 2 x.yard 1)
    (false, { s with ctr := (s.ctr.last (ctrId 2 x.yard 6) word).last (ctrId 2 x.yard 7) syn })
  | _ => (true, s.uncorrectable x q 1 1 x.yard word 1)

/-- The flipped words of parts, each with the part's index. -/
def flipsOf (ps : List Part) : List (Nat × Byte) := ps.zipIdx.flatMap fun p => p.1.flips.map fun f => (p.2, f.2)

/-- What a transfer writes is taken from its Yard's SRAM (R321, R325, R327, R335). -/
def State.readDsts (x : Xfer) (s : State) : State :=
  (flipsOf x.dsts).foldl (fun s f => (s.readFlip x (x.slots.getD f.1 (s.landingOf x f.1)) f.2).2) s

/-! ### What a unit's records and stages meet -/

/-- The slot at whose place a scale byte of a block lies (R254). -/
def Sheet.scaleSlot (h : Sheet) (blk : Nat) : Nat := h.slotOf (blk * mxBytes h.outType)

/-- A condition of a unit's record goes to the SHEET_ARM, to the log and to its counter (R241, R268, R271). -/
def State.recordCond (n : Nat) (h : Sheet) (c : RecCond) (s : State) : State :=
  let s := s.sheetCond n (h.slotOf c.byte) c.cond.status c.cond.info
  if c.cond.status = 0x26 then s.bump (ctrId 0xA n 13)
  else if c.cond.status = 0x24 then s.bump (ctrId 7 h.fn (7 + bits c.cond.info 23 20))
  else if c.cond.status = 0x25 then s.bump (ctrId 7 h.fn 12) else s

/-- The poison-marked output bytes of a unit count for the SHEET_ARM, and each slot that they land in is logged (R268, R269). -/
def State.sheetPoison (n : Nat) (h : Sheet) (pieces : List (Nat × List PByte)) (s : State) : State :=
  let bad := pieces.filter fun p => anyPoison p.2
  let s := s.meetPoison h.entry ((bad.map fun p => poisonCount p.2).foldl (· + ·) 0)
  ((bad.map fun p => h.slotOf p.1).eraseDups).foldl (fun s q => s.logFn 0x0401 h.fn [n, q, 0x22]) s

/-- The last WR of a piece that ends its slot, at most 512 B, and what comes before it (R255). -/
def Sheet.splitTail (h : Sheet) (p : Nat × List PByte) : (Nat × List PByte) × Option (Nat × Part) :=
  if ((p.1 + p.2.length) % h.slotSize == 0 || p.1 + p.2.length == h.outTotal) && !p.2.isEmpty then
    let n := (p.2.length - 1) % 512 + 1
    ((p.1, p.2.take (p.2.length - n)), some (h.slotOf p.1, Part.load (.fabric (h.outAddr (p.1 + p.2.length - n)))
      (p.2.drop (p.2.length - n))))
  else (p, none)

/-- The stages of a unit (Table 1-8): its output becomes what is to be written, each slot's last WR apart where it carries the fill
signal (R255). -/
def State.produceUnit (n x u : Nat) (s : State) : State :=
  match FMap.find s.sheets n, FMap.find s.xfers x with
  | some h, some t =>
    let ls := s.unitLines h t
    let out := h.produce t.keys ls u
    let pieces := out.pieces.flatMap fun p => cutSlots h.slotSize p.1 p.2
    let s := (out.conds.foldl (fun s c => s.recordCond n h c) s).sheetPoison n h pieces
    let s := if h.tiled then s.bump (ctrId 7 h.fn 6) else s
    let s := s.count (ctrId 7 h.fn 5) (h.decoded t.keys ls u)
    let cut := pieces.map fun p => if h.cur.dim.fillEp = s.setup.fabEp then (p, (none : Option (Nat × Part))) else h.splitTail p
    let body := (cut.filter fun p => !p.1.2.isEmpty).map fun p => (h.slotOf p.1.1, Part.load (.fabric (h.outAddr p.1.1)) p.1.2)
    let all := (out.scales.map fun b => (h.scaleSlot b.1, Part.load (.fabric (h.scaleAddr b.1)) [b.2])) ++ body
    let tails := cut.filterMap (·.2)
    let r := s.takeFlip 0 t.yard
    let tails := if all.isEmpty then (tails.map (·.1)).zip (strike r.1 (tails.map (·.2))) else tails
    (r.2.modSheet n fun h => { h with tails := h.tails ++ tails }).modXfer x fun t =>
      { t with phase := .loaded, stage := .idle, dsts := strike r.1 (all.map (·.2)), slots := all.map (·.1) }
  | _, _ => s


/-- A slot write failed: no further slot is signalled, and the Sheet stops as at once (R275). -/
def State.slotFailed (n info : Nat) (s : State) : State :=
  match FMap.find s.sheets n with
  | none => s
  | some h =>
    if h.failed then s
    else
      let s := s.meet h.entry 0x23 (info + h.w % 2 ^ 32 * 2 ^ 32)
      let s := (s.xfers.filter fun x => x.2.work == .tail n h.w && x.2.phase == .loaded).foldl (fun s x => s.dropXfer x.1) s
      s.modSheet n fun h => { h with failed := true, stopping := true, atOnce := true, pend := none, stopAfter := none,
                                     sigStop := some h.w, tails := [] }

/-- Has the endpoint that holds the slot ring been detached: slot writes fail (R344)? -/
def State.ringGone (s : State) (h : Sheet) : Bool := !s.attachedTo (epOf h.ring) h.fn

/-- The slots that a unit writes. -/
def Sheet.slotsOf (h : Sheet) (u : Nat) : List Nat :=
  ((h.unitSpans u).flatMap fun p =>
    (List.range ((p.1 + p.2 - 1) / h.slotSize - p.1 / h.slotSize + 1)).map fun i => h.w0 + p.1 / h.slotSize + i).eraseDups

/-- Issue the writes of a unit, each part through its slot's port. -/
def State.writeSlots (t : Xfer) (s : State) : State :=
  t.dsts.zipIdx.foldl (fun s p =>
    s.writePart t p.2 (((t.slots[p.2]?).bind fun q => FMap.find t.ports q).getD 0) false p.1) s

/-- Write what a unit produced, but for the slots' last WRs: each part through its slot's port (R255). -/
def State.writeUnit (n x : Nat) (s : State) : State :=
  match FMap.find s.sheets n, FMap.find s.xfers x with
  | some h, some t =>
    match t.work with
    | .sheet _ u =>
      if s.ringGone h then (s.slotFailed n (lostInfo 0xFF 2)).dropXfer x
      else
        let ports := (h.slotsOf u).map fun q => (q, s.slotPort h q)
        if ports.any fun p => p.2.isNone then s
        else
          let put := fun (m : FMap Nat) => ports.foldl (fun m p => FMap.put m p.1 (p.2.getD 0)) m
          let t := { t with phase := .writing, ports := put [] }
          let h := { h with sent := h.sent ++ [u], ports := put h.ports }
          ((((s.readDsts t).modXfer x fun _ => t).modSheet n fun _ => h).writeSlots t).countBytes (ctrId 0xA n 2) (h.unitBytes u)
    | _ => s
  | _, _ => s

/-- Start the next unit of a Sheet (R265). -/
def State.startUnit (n : Nat) (h : Sheet) (lane : Nat) (s : State) : State :=
  let u := h.nextUnit.getD h.next
  let b := h.unitBytes u
  let id := s.nextId
  let x : Xfer := { id := id, fn := h.fn, work := .sheet n u, srcs := [], dsts := [], phase := .reading, yard := h.yard, lane := lane }
  let s := { s with nextId := id + 1, xfers := FMap.put s.xfers id x }
  let s := s.modSheet n fun h => { h with next := u + 1, fresh := false, bucket := if h.cur.dim.rate = 0 then h.bucket else h.bucket - b }
  let s := if (s.part h.fn).fnRate = 0 then s else s.modFn h.fn fun f => { f with bucket := f.bucket - b }
  let s := (s.ungate h.yard).bump (ctrId 0xA n 3)
  (s.fetchLines n id).2

/-! ### Fill signals (R255, R256) -/

/-- The slot W has been signalled. -/
def State.slotSignalled (n : Nat) (s : State) : State :=
  ((s.modSheet n fun h => { h with w := h.w + 1, ports := FMap.del h.ports h.w, tails := h.tails.filter (·.1 != h.w) }).count
    (ctrId 0xA n 0) 1).takeUnits n

/-- Is every WR of a slot that a unit sent acknowledged? -/
def State.slotAcked (s : State) (n : Nat) (h : Sheet) (q u : Nat) : Bool :=
  h.written.contains u || s.xfers.any fun x => x.2.work == .sheet n u && x.2.phase == .writing &&
    !s.freqs.any fun r => r.xfer == x.1 && r.write && x.2.slots[r.part]? == some q

/-- The last WR of slot W waits for the slot's port (R465). -/
def State.holdTail (n : Nat) (h : Sheet) (p : Part) (s : State) : State :=
  if s.hasWork (· == .tail n h.w) then s
  else
    let id := s.nextId
    let x : Xfer := { id := id, fn := h.fn, work := .tail n h.w, srcs := [], dsts := [p], phase := .loaded, yard := h.yard,
                      sigLast := some (h.cur.dim.fillCleat, 1) }
    { s with nextId := id + 1, xfers := FMap.put s.xfers id x }

/-- The last WR of slot W, with its fill signal, goes through the slot's port. -/
def State.sendTail (n : Nat) (h : Sheet) (port : Nat) (p : Part) (s : State) : State :=
  let s := s.holdTail n h p
  match (s.xfers.find? fun x => x.2.work == .tail n h.w) with
  | some x =>
    let t := { x.2 with phase := .writing, port := port }
    ((s.readDsts t).modXfer x.1 fun _ => t).startWrites t port
  | none => s

/-- Signal slot W where it is due (R255). True when it was signalled. A signal that would overflow its own Cleat is not applied,
and the SHEET_ARM meets OVERFLOW (R285). -/
def State.signalSlot (n : Nat) (s : State) : Bool × State :=
  match FMap.find s.sheets n with
  | none => (false, s)
  | some h =>
    if h.lastSlot ≤ h.w then (false, s)
    else
      let us := h.slotUnits h.w
      if h.cur.dim.fillEp = s.setup.fabEp then
        if us.all (s.slotAcked n h h.w) then
          match s.applySignal h.cur.dim.fillCleat 1 with
          | (false, s) => (true, s.slotSignalled n)
          | (true, s) =>
            let sq := ((s.acc h.entry).map (·.sq)).getD 0
            (true, (s.meet h.entry 0x62 (cleatInfo h.cur.dim.fillCleat sq (s.cleat h.cur.dim.fillCleat))).slotSignalled n)
        else (false, s)
      else if us.all h.sent.contains then
        if s.ringGone h then (false, s.slotFailed n (lostInfo 0xFF 2))
        else
          match h.tails.find? (·.1 == h.w), s.slotPort h h.w with
          | some t, some port => (true, (s.sendTail n h port t.2).slotSignalled n)
          | some t, none => (false, s.holdTail n h t.2)
          | none, _ => (false, s)
      else (false, s)

/-- Signal every slot that is due. Fuel is the number of slots. -/
def State.signalSlots (n : Nat) : Nat → State → State
  | 0, s => s
  | f + 1, s =>
    match s.signalSlot n with
    | (true, s) => signalSlots n f s
    | (false, s) => s

/-- A unit whose writes are all acknowledged ends, and returns its buffers (R262). -/
def State.unitDone (x : Xfer) (n u : Nat) (s : State) : State :=
  (s.dropXfer x.id).modSheet n fun h => { h with written := h.written ++ [u] }

/-! ### The end of an arming (R272) -/

/-- ARMING_END. -/
def State.armingEnd (n : Nat) (s : State) : State :=
  match FMap.find s.sheets n with
  | none => s
  | some h =>
    if h.stopping || !s.lastDone n h then s
    else
      match h.pend.filter fun _ => !s.orphaned h.fn with
      | some x => s.beginArming n x
      | none =>
        if h.persistent && !s.orphaned h.fn then s.beginArming n h.cur
        else s.modSheet n fun h => { h with stopping := true, atOnce := true, pend := none }

end Sys2Proof.Machine
end

