-- ==== Sys2Proof/Machine/Clock.lean ====
section
/-! DEFINITION. The passing of time: AO ticks on the always-on clocks (R35, R397), lane cycles and what counts or gains by
them (R84, R265, R270). A tick is what the block does when no command waits; an expiry command brings the AO clock to the
moment that it expires at. -/

namespace Sys2Proof.Machine

/-- The always-on clocks after n AO ticks with the supply up (R397). -/
def Pen.advance (n : Nat) (p : Pen) : Pen :=
  if p.powered then
    let t := p.lifeTick + n
    { p with timer := p.timer + n, lifeTick := t % 32768, lifeS := min (p.lifeS + t / 32768) 0xFFFFFFFF }
  else p

/-- Tokens gained as the cycle count goes from one value to another (R265). -/
def gained (rate c n : Nat) : Nat := rate * ((c + n) / 1024 - c / 1024)

/-- The first output byte of a slot, among a unit's. -/
def Sheet.firstIn (h : Sheet) (q u : Nat) : Nat :=
  ((h.unitSpans u).filterMap fun p =>
    let lo := (q - h.w0) * h.slotSize
    if overlaps p.1 p.2 lo h.slotSize then some (max p.1 lo) else none).foldl min h.outTotal

/-- The unit that produces the first unwritten byte of slot W (R270). -/
def Sheet.stalledUnit (h : Sheet) : Option Nat :=
  ((h.slotUnits h.w).filter fun u => !h.written.contains u).foldl (fun acc u =>
    match acc with
    | none => some u
    | some b => if h.firstIn h.w u < h.firstIn h.w b then some u else some b) none

/-- Does a unit, or a slot's last WR, wait on a link: a fabric line that no port may be asked for, or writes whose port is not
usable? -/
def State.linkWaits (s : State) (h : Sheet) (x : Xfer) : Bool :=
  match x.phase with
  | .reading => (s.unasked x).any fun i => match (x.srcs[i]?).map (fun (p : Part) => p.loc) with
    | some (Loc.fabric a) => (s.readPort x a).isNone
    | _ => false
  | .loaded => x.stage == .idle && x.slots.any fun q => (s.slotPort h q).isNone
  | _ => false

/-- Does a transfer wait for its Yard's Unfurl unit while that serves other work: a restore's conversion or another Sheet's stage
(R239)? -/
def State.unitTaken (s : State) (x : Xfer) : Bool :=
  s.xfers.any fun z => z.2.yard == x.yard && (match z.2.stage with
    | .unit _ => true
    | _ => false) && match x.work with
    | .sheet n _ => !z.2.work.ofUnit n
    | .rest _ _ _ => z.2.work.isSheet
    | _ => false

/-- The restores that wait for an Unfurl unit that serves Sheets: the shortfall of R214, in lane cycles. -/
def State.countShort (n : Nat) (s : State) : State :=
  { s with restores := s.restores.map fun r =>
      if s.xfers.any fun z => (match z.2.work with
        | .rest e _ _ => e == r.entry
        | _ => false) && z.2.stage == .unitWait && s.unitTaken z.2 then { r with shortfall := r.shortfall + n } else r }

/-- The stall counter of a unit that has started (Table 8-4): FABRIC, POISON, AUTH_HOLD, UNFURL, and NOT_FETCHED in any other case
and while it is replayed (R276). -/
def State.unitStall (s : State) (h : Sheet) (x : Xfer) : Nat :=
  if x.replayed then 11
  else if s.linkWaits h x then 7
  else if x.phase = .reading && x.again then 8
  else match x.stage with
    | .pipeWait _ => 9
    | .pipe _ _ => 9
    | .unitWait => if s.unitTaken x then 10 else 11
    | _ => 11

/-- The stall counter of a dry Sheet (Table 8-4): its number in Table 14-10. While THROTTLED (R430), and while Mainstay is taken over
(R276), the count goes to NOT_FETCHED. -/
def State.stallOf (s : State) (n : Nat) (h : Sheet) : Nat :=
  if s.glob.throttled || s.restarting .mainstay then 11
  else match h.stalledUnit with
  | none => if (s.slotPort h h.w).isNone && h.tails.any fun t => t.1 == h.w then 7 else 11
  | some u =>
    match s.xfers.find? fun x => x.2.work == .sheet n u with
    | some x => s.unitStall h x.2
    | none => if (h.cur.dim.rate != 0 && decide (h.bucket ≤ 0)) || !s.fnTokens h.fn then 6 else 11

/-- Is the Sheet dry (R270)? -/
def Sheet.dry (h : Sheet) : Bool := !h.stopping && h.w == h.l

/-- The lanes of a Yard that move a transfer. -/
def State.lanesMoving (s : State) (y : Nat) : List Nat :=
  ((s.xfers.filter fun z => z.2.yard == y && (z.2.phase == .reading || z.2.phase == .writing) && s.owes z.1).map
    fun z => z.2.lane).eraseDups

/-- The physical lane that serves a logical one (R18, R423), and a lane under test by its own number (R426). -/
def State.laneAt (s : State) (y lane : Nat) : Nat :=
  let v := s.yard y
  let sp := s.spareMap y
  if 32 ≤ lane then lane - 32
  else if v.standA = some lane then sp.1 else if v.standB = some lane then sp.2 else physicalOf sp lane

/-- The Yards and lanes that move transfers, as the busy-cycle counters of Table 14-10 (0x2 field 0, 0x3 field 1). -/
def State.busy (s : State) : List Nat :=
  (List.range 64).flatMap fun y =>
    match s.lanesMoving y with
    | [] => []
    | ks => ctrId 2 y 0 :: ks.map fun k => ctrId 3 (34 * y + s.laneAt y k) 1

/-- n lane cycles pass in RUN: buckets gain; busy Yards and lanes, dry Sheets and full rings count. -/
def State.laneCycles (n : Nat) (s : State) : State :=
  let c := s.laneCycle
  let s := s.count (ctrId 0 0 0) n
  let s := s.busy.foldl (fun s i => s.count i n) s
  let s := (s.sheets.filter fun p => p.2.dry).foldl (fun s p => s.count (ctrId 0xA p.1 (s.stallOf p.1 p.2)) n) s
  let s := ((s.cqs.filter fun p => p.2.full).foldl (fun s p => s.count (ctrId 9 p.1 0) n) s).countShort n
  { s with
    laneCycle := c + n
    sheets := FMap.mapV s.sheets fun _ h =>
      if h.cur.dim.rate = 0 then h else { h with bucket := min (h.bucket + gained h.cur.dim.rate c n) h.cur.dim.burst }
    fns := FMap.mapV s.fns fun f x =>
      let p := s.part f
      if p.fnRate = 0 then x else { x with bucket := min (x.bucket + gained p.fnRate c n) p.fnBurst } }

/-- The firmware memories as counter instances (Tables 13-1, 14-10): the code image of each Mast, and of the other four
processors. -/
def firmwareMemories : List Nat := (List.range 8) ++ [0x10, 0x20, 0x30, 0x40]

/-- A fabric port while cycles pass: with flits offered, FLIT_READY is low in some of them, and takes some of the flits (R41,
log 68). -/
def State.flitsTaken (d n p : Nat) (s : State) : State :=
  if (s.link p).offered = 0 then s
  else (s.count (ctrId 4 p 2) (min n (Config.backPressure d p))).modLink p fun l => { l with offered := l.offered - Config.flitsTaken d p }

/-- What the lane cycles in passing time count that no rule gives a number for: the back-pressure of each fabric port that offers a flit
(R41), at most one for each FAB_CLK cycle, of which there are 5 to 4 lane cycles, and words corrected in firmware memories. -/
def State.openCounts (n : Nat) (s : State) : State :=
  let d := s.free
  let s := (List.range 32).foldl (fun s p => s.flitsTaken d (n * 5 / 4 + 1) p) s
  firmwareMemories.foldl (fun s i => s.count (ctrId 0xD i 0) (Config.firmwareWords d i)) s

/-- n AO ticks pass. The lane cycles in them are a free value. -/
def State.ticks (n : Nat) (s : State) : State :=
  let s := { s with pen := s.pen.advance n }
  if s.glob.power = .run then
    let k := Config.laneCycles s.free
    let s := (s.openCounts k).laneCycles k
    { s with free := s.free + 1 }
  else s

/-- An expiry at an AO tick: the clock comes to it, where it is not there yet. -/
def State.expire (t : Nat) (s : State) : State := if s.now < t then s.ticks (t - s.now) else s

end Sys2Proof.Machine
end

