-- ==== Sys2Proof/Machine/Digests.lean ====
section
/-! DEFINITION. The digest engine (R311 to R314): its contexts and the DIGEST entry. -/

namespace Sys2Proof.Machine

/-- A digest context. -/
def State.ctx (s : State) (c : Nat) : Option DigestCtx := FMap.find s.keys.ctxs c

/-- Set a digest context. -/
def State.putCtx (c : Nat) (x : DigestCtx) (s : State) : State :=
  { s with keys := { s.keys with ctxs := FMap.put s.keys.ctxs c x } }

/-- Every digest context of a function becomes FREE (Table 10-4). -/
def State.freeCtxs (f : Nat) (s : State) : State :=
  { s with keys := { s.keys with ctxs := FMap.keep s.keys.ctxs fun _ x => x.fn != f } }

/-- The initial state of an INIT: the SHA initial value, or the HMAC slot's inner state (R313). -/
def State.ctxInit (s : State) (fn : Nat) (f : DigestF) : DigestCtx :=
  let slot := FMap.find s.keys.hmac f.hmacSlot
  let st := if f.hmac then ((slot.map (·.inner)).getD []) else shaInit f.alg
  { fn := fn, finished := false, alg := f.alg, hmac := f.hmac, hmacSlot := f.hmacSlot, initState := st,
    outer := if f.hmac then ((slot.map (·.outer)).getD []) else [], chain := st, half := [], count := 0 }

/-- Back to the initial state of its INIT values (R314). -/
def DigestCtx.restart (x : DigestCtx) : DigestCtx :=
  if x.finished then { x with finished := false, chain := x.initState, half := [], count := 0 } else x

/-- Take input: whole blocks into the chaining state, the rest held (R312). -/
def DigestCtx.absorb (x : DigestCtx) (bs : List Byte) : DigestCtx :=
  let all := x.half ++ bs
  let n := all.length / shaBlockLen x.alg * shaBlockLen x.alg
  { x with chain := shaBlocks x.alg x.chain (all.take n), half := all.drop n, count := x.count + bs.length }

/-- The digest that FINISH writes (R313). -/
def DigestCtx.digest (x : DigestCtx) : List Byte :=
  if x.hmac then hmacFinish x.alg x.outer (shaOut x.alg x.chain) else shaOut x.alg x.chain

/-- The refusals of DIGEST (R311). -/
def State.digestRefusal (s : State) (fn : Nat) (f : DigestF) : Option Cond :=
  let x := s.ctx f.ctx
  let mine := (x.map fun x => x.fn == fn).getD false
  let slot := FMap.find s.keys.hmac f.hmacSlot
  if f.op = 0 then
    firstCond
      [ refuse ((x.map fun x => x.fn != fn && !x.finished).getD false) 0x40 16,
        refuse (f.hmac && (s.keyOwner f.hmacSlot true != fn || (slot.map (·.hmacAlg)) != some f.alg)) 0x40 19 ]
  else
    firstCond
      [ refuse (!mine) 0x40 16,
        refuse ((x.map fun x => x.alg != f.alg || x.hmac != f.hmac || (f.hmac && x.hmacSlot != f.hmacSlot)).getD true) 0x40 17 ]

/-- Does an earlier DIGEST of the same context and function still run (R312)? -/
def State.digestBehind (s : State) (a : Acc) (f : DigestF) : Bool :=
  s.accepted.any fun b => decide (b.id < a.id) && b.fn == a.fn && b.fin.isNone && match b.op with
    | .digest g => g.ctx == f.ctx
    | _ => false

/-- All the data of a DIGEST has come: the context takes it, and FINISH writes the digest. -/
def State.digestTaken (a : Acc) (f : DigestF) (data : List Byte) (s : State) : State :=
  if f.op = 0 then (s.putCtx f.ctx (s.ctxInit a.fn f)).endEntry a.id 0
  else
    match s.ctx f.ctx with
    | none => s.failEntry a.id 0x40 16
    | some x =>
      let y := x.absorb data
      let s := s.modAcc a.id fun a => { a with count := data.length, note := [] }
      if f.op = 1 then (s.putCtx f.ctx y).endEntry a.id data.length
      else
        (s.putCtx f.ctx { y with finished := true }).queueXfer a.fn (.resultOut a.id) []
          [Part.load (.host (s.pasidOf a.fn) f.out) (plain y.digest)]

/-- An UPDATE or FINISH on a FINISHED context restarts it before any of its data comes (R314). -/
def State.restartCtx (f : DigestF) (s : State) : State :=
  match s.ctx f.ctx with
  | some x => if f.op = 0 then s else s.putCtx f.ctx x.restart
  | none => s

/-- DIGEST: refused for its header's signal at its acceptance (R279), and for its context or started once the earlier entries of its
context have ended. -/
def State.runDigest (a : Acc) (f : DigestF) (s : State) : State :=
  s.orRefuse a.id (s.signalRefusal a.fn a.hdr) fun s =>
  if s.digestBehind a f then s
  else
    s.orRefuse a.id (s.digestRefusal a.fn f) fun s =>
      let s := (s.restartCtx f).modAcc a.id fun a => { a with phase := .running }
      if f.len = 0 then s.digestTaken a f []
      else
        (piecesOf f.len).foldl (fun s c =>
          s.queueXfer a.fn (.digest a.id) [Part.at (.host (s.pasidOf a.fn) (f.src + c.1)) c.2] []) s

end Sys2Proof.Machine
end

