-- ==== Sys2Proof/Machine/Drain.lean ====
section
/-! DEFINITION. Draining (R163 to R168, R292): the refusals of DRAIN, the drained copy, the transfers that write it, and the
sources of a segment, which restores share (R159, R168). -/

namespace Sys2Proof.Machine

/-! ### Sources of a segment (R154, R158, R159, R165, R168) -/

/-- Is a member's stay copy available (R168)? -/
def State.stayOk (s : State) (g : Gen) (i : Nat) : Bool :=
  match g.members[i]? with
  | none => false
  | some m => !g.stayLost.contains i && !s.lost.contains m.buddy

/-- The members of a Ratline group. -/
def Gen.groupMembers (g : Gen) (r : Nat) : List Nat := (List.range g.k).map fun x => r * g.k + x

/-- The unavailable stay copies of a group. -/
def State.missing (s : State) (g : Gen) (r : Nat) : Nat := ((g.groupMembers r).filter fun i => !s.stayOk g i).length

/-- Can a group's unavailable segments be rebuilt from tier 2 (R159, R164, R173)? -/
def State.tier2Ok (s : State) (g : Gen) (r : Nat) : Bool :=
  g.recorded 1 && !g.t2Lost.contains r && decide (s.missing g r ≤ g.m)

/-- The total of the members' captured segments: N of R165. -/
def Gen.recordCount (g : Gen) : Nat := ((List.range g.members.length).map g.captured).foldl (· + ·) 0

/-- The record index of a member's shard segment (R165). -/
def Gen.recordIndex (g : Gen) (i n : Nat) : Nat := ((List.range i).map g.captured).foldl (· + ·) 0 + n

/-- MAN_AREA for a manifest of a length (R165, R295). -/
def manArea (manLen : Nat) : Nat := ceilDiv (manLen + 80) segBytes * segBytes

/-- The stride of sealed records (R165, Table 7-6). -/
def sealStride : Nat := 66560

/-- The fabric address of a segment record (Table 5-5). -/
def recordAddr (target manLen n : Nat) : Nat := target + 4096 + manArea manLen + n * sealStride

/-- The bytes that a drained copy takes at TARGET (Table 5-5). -/
def drainExtent (manLen records : Nat) : Nat := 4096 + manArea manLen + records * sealStride

/-- Is the shard segment listed as poisoned (R193)? -/
def Gen.listed (g : Gen) (i n : Nat) : Bool := g.poisonList.contains (i, n) || g.poisonOvf.contains i

/-- The K sources of a rebuild: their indices and parts (R159). -/
def State.rebuildFrom (s : State) (g : Gen) (i n : Nat) : List (Nat × Part) :=
  let r := g.groupOf i
  let avail := (List.range g.k).filter fun x => s.stayOk g (r * g.k + x)
  ((avail ++ (List.range g.m).map (g.k + ·)).take g.k).map fun x =>
    (x, if x < g.k then
          let m := r * g.k + x
          Part.at (.fabric (g.stayAddr m n)) (g.shardLen m n)
        else Part.at (.staging (s.parityOff g r n (x - g.k))) segBytes)

/-- Bytes off to off + len of a member's shard segment from a tier: what to read, and how the bytes come back. -/
def State.source (s : State) (g : Gen) (tier i n off len : Nat) : List Part × RestHow :=
  let base : RestHow := { tier := tier, off := off, len := len, shardSeg := n, poison := g.listed i n,
                          recIdx := g.recordIndex i n, m := g.m, target := i - g.groupOf i * g.k }
  if tier = 1 then ([Part.at (.fabric (g.stayAddr i n + off)) len], base)
  else if tier = 2 then
    let ps := s.rebuildFrom g i n
    (ps.map (·.2), { base with have_ := ps.map (·.1) })
  else
    let t := g.t3.getD ⟨0, 0, 0, 0, 0, 0⟩
    ([Part.at (.fabric (recordAddr t.target t.manLen base.recIdx)) 65664], base)

/-- The number of parts that a source reads. -/
def RestHow.parts (h : RestHow) : Nat := if h.tier = 2 then h.have_.length else 1

/-- The wanted bytes, brought back from what the parts delivered. -/
def bringSource (g : Gen) (key : Option KeySlot) (h : RestHow) (ins : List (List PByte)) : Brought :=
  let b : Brought :=
    if h.tier = 1 then { data := ins.getD 0 [] }
    else if h.tier = 2 then { data := slice (rebuildSegment g.k h.target h.have_ ins) h.off h.len }
    else
      let r := bringRecord (some (key, ⟨1, true, false, g.job, g.epoch, h.recIdx⟩)) true h.recIdx h.shardSeg (ins.getD 0 [])
      { r with data := slice r.data h.off h.len }
  if h.poison then { b with data := b.data.map fun x => { x with poison := true }, poisoned := true }
  else { b with poisoned := anyPoison b.data }

/-- Mark a member's stay copy as unavailable in a generation, and record it (R161, R168). -/
def State.loseStay (e i : Nat) (s : State) : State :=
  match s.gen e with
  | none => s
  | some g =>
    if g.stayLost.contains i then s
    else (s.modGen e fun g => { g with stayLost := g.stayLost ++ [i] }).noteChange e

/-- Mark tier 2 of a group as unusable in a generation, and record it (R161, R168). -/
def State.loseTier2 (e r : Nat) (s : State) : State :=
  match s.gen e with
  | none => s
  | some g =>
    if g.t2Lost.contains r then s
    else (s.modGen e fun g => { g with t2Lost := g.t2Lost ++ [r] }).noteChange e

/-- The stay copies that an endpoint holds are unavailable in every retained generation (R168, R344). -/
def State.loseBuddy (ep : Nat) (s : State) : State :=
  (s.gens.filter Gen.retained).foldl (fun s g =>
    (g.members.zipIdx.filter fun m => m.1.buddy == ep).foldl (fun s m => s.loseStay g.epoch m.2) s) s

/-! ### DRAIN -/

/-- The generation that a DRAIN names (R163). -/
def State.drainGen (s : State) (f : DrainF) : Option Gen :=
  if f.epoch = 0 then newest ((s.gensOf f.job).filter (·.recorded 0))
  else (s.gen f.epoch).filter fun g => g.job == f.job && g.retained

/-- The extents of the drained copies in force: recorded ones of retained generations, and running drains. -/
def State.drainedExtents (s : State) : List (Nat × Nat) :=
  s.gens.filterMap fun g =>
    if g.retained then (g.t3.orElse fun _ => g.t3Draft).map fun t => (t.target, drainExtent t.manLen t.records) else none

/-- The bytes that a generation's drained copy will take: before its cut and its group list, by the declared sizes of its
regions and the endpoints that hold them. Log 142, DESIGN CHOICE. -/
def Gen.drainBytes (g : Gen) : Nat :=
  drainExtent (if g.groups.isSome then g.manLen else g.manTotal g.holders.length) ((g.regions.map Region.segs).foldl (· + ·) 0)

/-- The extents of the drains that wait for their generation; they count as running (R163): log 143, DESIGN CHOICE. -/
def State.waitingExtents (s : State) : List (Nat × Nat) :=
  s.accepted.filterMap fun a =>
    match a.op with
    | .drain f =>
      if a.fin.isNone && a.phase = .waiting then
        (s.gen a.count).map fun g => (f.target, g.drainBytes)
      else none
    | _ => none

/-- The refusals of DRAIN (R163, R300, R450). -/
def State.drainRefusal (s : State) (a : Acc) (f : DrainF) : Option Cond :=
  let g := s.drainGen f
  let has := fun (p : Gen → Bool) => (g.map p).getD false
  firstCond
    [ s.jobRefusal a.fn f.job,
      refuse (has fun g => !g.tier 3) 0x40 24,
      refuse (has fun g => g.recorded 2 || g.drainBy.isSome || g.writing == some 2) 0x40 24,
      refuse g.isNone 0x40 24,
      refuse (has fun g => (s.drainedExtents ++ s.waitingExtents).any fun x =>
        overlaps x.1 x.2 f.target g.drainBytes) 0x40 32,
      s.signalRefusal a.fn a.hdr,
      refuse ((s.bulkKey f.keySlot).isNone || s.keyOwner f.keySlot false != a.fn) 0x40 44,
      refuse (!s.setup.isDrainEp (epOf f.target)) 0x40 32 ]

/-- DRAIN: accepted, it waits until its generation is STAYED. -/
def State.runDrain (a : Acc) (f : DrainF) (s : State) : State :=
  s.orRefuse a.id (s.drainRefusal a f) fun s =>
    match s.drainGen f with
    | none => s
    | some g =>
      let s := s.modGen g.epoch fun g => { g with drainBy := some a.id, prio := f.priority }
      s.modAcc a.id fun a => { a with phase := .waiting, count := g.epoch }

/-- A drain's priority (R167). -/
def Gen.drainPriority (g : Gen) : Nat := if g.raised then 3 else g.prio

/-- End a DRAIN: its generation keeps its state and holds no tier-3 record (R164, R167). -/
def State.endDrain (a status info : Nat) (s : State) : State :=
  match s.gens.find? fun g => g.drainBy == some a with
  | none => s
  | some g =>
    let s := s.dropWork (Work.ofDrain a)
    let s := s.modGen g.epoch fun g => { g with drainBy := none, t3Draft := none, t3 := if g.recorded 2 then g.t3 else none }
    s.failEntry a status info

/-- The DRAIN fields of an entry. -/
def Acc.drain? (a : Acc) : Option DrainF :=
  match a.op with
  | .drain f => some f
  | _ => none

/-- A seal of a drain: with a spent counter the DRAIN ends with QUOTA (R296), and with an empty slot with CONFLICT. -/
def State.sealFor (a : Nat) (slot : Nat) (i : SealId) (text : List Byte) (use : List Byte → State → State) (s : State) : State :=
  match s.bulkKey slot with
  | none => s.endDrain a 0x40 44
  | some k =>
    if 2 ^ 63 ≤ k.counter then s.endDrain a 0x41 44
    else use (sealObject k i text) (s.sealed slot)

/-- Queue the read of one segment of a drain from its source, or end the DRAIN with SOURCE_LOST (R164). -/
def State.queueDrainSeg (a : Nat) (g : Gen) (i n : Nat) (s : State) : State :=
  let tier := if s.stayOk g i then 1 else 2
  if tier = 2 && !s.tier2Ok g (g.groupOf i) then
    s.endDrain a 0x67 (((g.members[i]?).map (·.ep)).getD 0)
  else
    let src := s.source g tier i n 0 (g.shardLen i n)
    s.queueXfer g.fn (.drainSeg a (g.recordIndex i n) i n src.2) src.1 []

/-- Start the data of a drain whose generation is STAYED: the manifest is to be sealed and written, and every segment is read. -/
def State.startDrain (e : Nat) (s : State) : State :=
  match s.gen e with
  | none => s
  | some g =>
    match g.drainBy with
    | none => s
    | some d =>
      match (s.acc d).bind Acc.drain? with
      | none => s
      | some f =>
        match s.bulkKey f.keySlot with
        | none => s.endDrain d 0x40 44
        | some k =>
          let t : Tier3 := ⟨f.target, f.keySlot, k.keyId, k.wrapKeyId, g.manLen, g.recordCount⟩
          let s := s.modGen e fun g => { g with t3Draft := some t }
          let s := s.modAcc d fun a => { a with phase := .running }
          let g := (s.gen e).getD g
          let s := s.queueXfer g.fn (.drainMan d) [] [Part.load (.fabric (f.target + 4096)) (plain g.manifest)]
          (List.range g.members.length).foldl (fun s i =>
            (List.range (g.captured i)).foldl (fun s n =>
              if ((s.gen e).map (·.drainBy)) == some (some d) then s.queueDrainSeg d g i n else s) s) s

/-- The Reef mode of a shard segment (R224) and whether R219 forbids coding. -/
def Gen.reefOf (g : Gen) (raw : Bool) (i n : Nat) : Nat × Bool :=
  match (g.regionsOf i).find? fun p => decide (g.shardSeg p.1 ≤ n) && decide (n < g.shardSeg p.1 + p.2.segs) with
  | none => (0, true)
  | some p => (match g.tensors[p.2.tensor]? with
      | some t => if g.fullImage then 0 else reefModeOf t.typ
      | none => 0, raw || p.2.sealed)

/-- The Reef block of a segment, raw where poison or R219 forbids coding (R219, R224). -/
def drainBlock (mode : Nat × Bool) (bs : List PByte) : List Byte :=
  reefEncode mode.1 (mode.2 || anyPoison bs) (fit segBytes 0 (values bs))

/-- A segment of a drain has come: it is coded, and its block waits to be sealed and written (R164, R165). Its poison-marked bytes count
for the DRAIN (R460, R461). -/
def State.drainLoaded (x : Xfer) (a n i seg : Nat) (how : RestHow) (s : State) : State :=
  match s.gens.find? fun g => g.drainBy == some a, (s.acc a).bind Acc.drain? with
  | some g, some f =>
    let b := bringSource g none how x.input
    let block := drainBlock (g.reefOf f.raw i seg) b.data
    let s := s.meetPoison a (poisonCount b.data)
    let s := s.countBytes (ctrId 7 g.fn 3) segBytes
    let s := s.countBytes (ctrId 7 g.fn 4) block.length
    let s := if bitOf (leAt block 5 1) 4 then s.bump (ctrId 7 g.fn 7) else s
    s.modXfer x.id fun t => { t with work := .drainSeg a n i seg { how with bad := b.poisoned }
                                     dsts := [Part.load (.fabric (recordAddr f.target g.manLen n)) (plain block)] }
  | _, _ => s

/-- A source read of a drain failed: the stay copy, or the group's parity, is unavailable from now on (R164, R168). -/
def State.drainReadFailed (x : Xfer) (a i seg : Nat) (how : RestHow) (part : Nat) (s : State) : State :=
  match s.gens.find? fun g => g.drainBy == some a with
  | none => s
  | some g =>
    let src := how.have_.getD part 0
    let s :=
      if how.tier = 1 then s.loseStay g.epoch i
      else if src < g.k then s.loseStay g.epoch (g.groupOf i * g.k + src)
      else s.loseTier2 g.epoch (g.groupOf i)
    let s := s.dropXfer x.id
    match s.gen g.epoch with
    | some g => s.queueDrainSeg a g i seg
    | none => s

/-- The tier-3 commit record (R166). -/
def Gen.drainRecord (g : Gen) (t : Tier3) (k : KeySlot) : List Byte :=
  let head := fit 64 0 (ascii "ZHXDRAIN" ++ toLe 8 g.job ++ toLe 8 g.epoch ++ toLe 8 g.step ++ toLe 8 t.records ++
    toLe 4 (t.manLen + 80) ++ toLe 4 t.keyId)
  let iv := sealIv k.salt k.counter
  fit 4096 0 (head ++ gcmTag k.key iv head [] ++ iv)

/-- Can a segment of a drain still be read as it was planned (R164, R168)? -/
def State.planHolds (s : State) (g : Gen) (i : Nat) (how : RestHow) : Bool :=
  if how.tier = 1 then s.stayOk g i
  else how.have_.all fun x =>
    if x < g.k then s.stayOk g (g.groupOf i * g.k + x) else !g.t2Lost.contains (g.groupOf i)

/-- A segment that waits to be read is planned anew where its source has become unavailable (R164, R168). -/
def State.replanSeg (g : Gen) (x : Xfer) (s : State) : State :=
  match x.work with
  | .drainSeg a _ i n how =>
    if g.drainBy != some a || x.phase != .queued || s.planHolds g i how || !FMap.has s.xfers x.id then s
    else (s.dropXfer x.id).queueDrainSeg a g i n
  | _ => s

/-- Plan anew what a drain has not read yet. -/
def State.replanDrain (e : Nat) (s : State) : State :=
  s.xfers.foldl (fun s x =>
    match s.gen e with
    | some g => s.replanSeg g x.2
    | none => s) s

/-- The data of a drain is written: its commit record follows, after the tier-2 record where tier 2 is requested (R146), and
then the directory's (R166). -/
def State.drainStep (e : Nat) (s : State) : State :=
  match s.gen e with
  | none => s
  | some g =>
    match g.drainBy, g.t3Draft with
    | some d, some t =>
      if s.hasWork (Work.ofDrain d) || g.writing.isSome || g.t3.isSome || !g.safe then s
      else
        s.queueXfer g.fn (.drainRec d) [] [Part.at (.fabric t.target) 4096]
    | _, _ => s

/-- The commit record of a drained copy is acknowledged: the tier-3 record is written to the directory (R166). -/
def State.drainRecorded (a : Nat) (s : State) : State :=
  match s.gens.find? fun g => g.drainBy == some a with
  | none => s
  | some g => (s.modGen g.epoch fun g => { g with t3 := g.t3Draft }).startRecord g.epoch 2

/-- The DRAIN completes when its generation is DRAINED (R163, R350). -/
def State.drainDone (e : Nat) (s : State) : State :=
  match s.gen e with
  | none => s
  | some g =>
    match g.drainBy with
    | some d =>
      if g.recorded 2 then
        let s := s.modGen e fun g => { g with drainBy := none, t3Draft := none }
        (s.endEntry d e).report g.fn fun o => { o with gensDrained := sat16 (o.gensDrained + 1) }
      else s
    | none => s

/-- May the drain's data start: its generation has its tier-1 record? -/
def Gen.drainDue (g : Gen) : Bool := g.retained && g.drainBy.isSome && g.t3Draft.isNone && g.recorded 0 && !g.recorded 2

/-- Move every drain on that can move. -/
def State.settleDrains (s : State) : State :=
  s.gens.foldl (fun s g =>
    match s.gen g.epoch with
    | none => s
    | some g =>
      if g.drainBy.isNone then s
      else if g.recorded 2 then s.drainDone g.epoch
      else if g.drainDue then s.startDrain g.epoch
      else (s.replanDrain g.epoch).drainStep g.epoch) s

/-! ### Ratline parity (R144, R156, R157) -/

/-- Queue the parity of every stripe of a generation whose tier-1 record is written (R156). -/
def State.startParity (e : Nat) (s : State) : State :=
  match s.gen e with
  | none => s
  | some g =>
    (List.range g.groupCount).foldl (fun s r =>
      (List.range (g.stripes r)).foldl (fun s j =>
        s.queueXfer g.fn (.stripe g.job e r j)
          ((g.groupMembers r).map fun i => Part.at (.fabric (g.stayAddr i j)) (g.shardLen i j))
          ((List.range g.m).map fun q => Part.at (.staging (s.parityOff g r j q)) segBytes)) s) s

/-- The sources of a stripe have come: its parity segments are ready to be written (R157). -/
def State.stripeLoaded (x : Xfer) (e : Nat) (s : State) : State :=
  match s.gen e with
  | none => s
  | some g =>
    s.modXfer x.id fun t => { t with dsts := t.dsts.zipIdx.map fun p =>
      { p.1 with chunks := [(0, paritySegment g.k p.2 x.input)] } }

/-- A stripe's parity is acknowledged. -/
def State.stripeDone (e r j : Nat) (s : State) : State :=
  (s.modGen e fun g => { g with parityDone := g.parityDone ++ [(r, j)] }).advance e

/-- Is parity due: tier 2 requested, the tier-1 record written, nothing done and nothing under way? -/
def State.parityDue (s : State) (g : Gen) : Bool :=
  g.state == .stayed && g.tier 2 && g.recorded 0 && !g.recorded 1 && g.parityDone.isEmpty && !g.tier2Done &&
  !s.hasWork fun w => match w with
    | .stripe _ x _ _ => x == g.epoch
    | _ => false

/-- Start the parity of every generation that is due. -/
def State.settleParity (s : State) : State :=
  s.gens.foldl (fun s g => if s.parityDue g then s.startParity g.epoch else s) s

end Sys2Proof.Machine
end

