-- ==== Sys2Proof/Machine/Restore.lean ====
section
/-! DEFINITION. RESTORE and RESTORE_SPARE (R168 to R177, R197 to R217): the choice of generation and sources, target maps and
the re-rig plan, the transfers, failed reads and writes, and the end of a restore. -/

namespace Sys2Proof.Machine

/-! ### The choice (R173, R197) -/

/-- The protected generations of a job, newest first (R145). -/
def State.safeGens (s : State) (job : Nat) : List Gen := ((s.gensOf job).filter Gen.safe).reverse

/-- The restore of an entry. -/
def State.restoring (s : State) (e : Nat) : Option Restoring := s.restores.find? (·.entry == e)

/-- Change a restore. -/
def State.modRest (e : Nat) (f : Restoring → Restoring) (s : State) : State :=
  { s with restores := s.restores.map fun r => if r.entry = e then f r else r }

/-- The slot whose key opens a restore's drained copy: the RESTORE's, or the generation's own. -/
def Restoring.slotFor (r : Restoring) (g : Gen) : Option Nat := r.keySlot.orElse fun _ => g.t3.map (·.keySlot)

/-- Can a generation's drained copy be used (R173, R176)? -/
def State.tier3Ok (s : State) (r : Restoring) (g : Gen) : Bool :=
  g.recorded 2 && !r.t3Bad.contains g.epoch &&
  (((r.slotFor g).bind s.bulkKey).map (·.keyId)) == g.t3.map (·.keyId)

/-- The source tier of each member in a generation, or none (R173, R197). -/
def State.sources (s : State) (r : Restoring) (g : Gen) : List (Option Nat) :=
  (List.range g.members.length).map fun i =>
    if r.tier = 3 then if s.tier3Ok r g then some 3 else none
    else if s.stayOk g i then some 1
    else if r.tier != 1 && g.tier 2 && s.tier2Ok g (g.groupOf i) then some 2
    else if r.tier = 0 && s.tier3Ok r g then some 3
    else none

/-- The generations that a restore's choice considers. -/
def State.candidates (s : State) (r : Restoring) : List Gen :=
  (s.safeGens r.job).filter fun g => r.only == 0 || g.epoch == r.only

/-- The choice (R173). -/
def State.choose (s : State) (r : Restoring) : Option (Gen × List Nat) :=
  (s.candidates r).findSome? fun g =>
    let src := s.sources r g
    if src.all (·.isSome) then some (g, src.map (·.getD 0)) else none

/-- The endpoint of the first member without a source, in the newest generation considered (R175, R198). -/
def State.unsourced (s : State) (r : Restoring) : Nat :=
  match (s.candidates r).head? with
  | none => 0
  | some g => (((g.members.zip (s.sources r g)).find? fun p => p.2.isNone).map fun p => p.1.ep).getD 0

/-! ### Target maps (R205 to R207) -/

/-- A target piece (Table 6-12). -/
def parseTPiece (bs : List Byte) (i : Nat) : TPiece :=
  let o := 64 + 96 * i
  { tensor := leAt bs o 4, outType := leAt bs (o + 4) 1, dst := leAt bs (o + 8) 8, scaleDst := leAt bs (o + 16) 8,
    origin := (List.range 6).map fun d => leAt bs (o + 24 + 4 * d) 4,
    extent := (List.range 6).map fun d => leAt bs (o + 48 + 4 * d) 4 }

/-- A target map (Tables 6-11 to 6-13). -/
def parseMap (bs : List Byte) : TMap :=
  let n := leAt bs 24 4
  { job := leAt bs 8 8, epoch := leAt bs 16 8, pieces := (List.range n).map (parseTPiece bs),
    copies := (List.range (leAt bs 28 4)).map fun i =>
      ⟨leAt bs (64 + 96 * n + 16 * i) 4, leAt bs (64 + 96 * n + 16 * i + 8) 8⟩ }

/-- Is a target map well formed (R205 to R207)? -/
def mapOk (len : Nat) (bs : List Byte) : Bool :=
  let n := leAt bs 24 4
  let c := leAt bs 28 4
  slice bs 0 8 == ascii "ZHXRIG01" && decide (n ≤ 131072) && decide (c ≤ 65536) && len == 64 + 96 * n + 16 * c &&
  decide (64 ≤ len) && decide (len ≤ 16777216) && zeroOutside (bs.take 64) 64 [(0, 32)] &&
  ((List.range n).all fun i =>
    let t := parseTPiece bs i
    isType t.outType && t.dst % 64 == 0 && t.scaleDst % 64 == 0 && (t.scaleDst != 0) == isMx t.outType &&
    zeroOutside (slice bs (64 + 96 * i) 96) 96 [(0, 5), (8, 64)]) &&
  ((List.range c).all fun i =>
    let o := 64 + 96 * n + 16 * i
    leAt bs (o + 8) 8 % 64 == 0 && zeroOutside (slice bs o 16) 16 [(0, 4), (8, 8)])

/-! ### The plan (R208 to R210) -/

/-- A box: origin and extent. -/
abbrev Box := List Nat × List Nat

/-- rowmajor(v, e) over a rank (R189). -/
def rowmajor (rank : Nat) (v e : List Nat) : Nat :=
  (List.range rank).foldl (fun n d => n * e.getD d 1 + v.getD d 0) 0

/-- The intersection of two boxes, none when it is empty. -/
def meetBox (rank : Nat) (a b : Box) : Option Box :=
  let lo := (List.range rank).map fun d => max (a.1.getD d 0) (b.1.getD d 0)
  let hi := (List.range rank).map fun d => min (a.1.getD d 0 + a.2.getD d 0) (b.1.getD d 0 + b.2.getD d 0)
  if (lo.zip hi).all fun p => decide (p.1 < p.2) then some (lo, (lo.zip hi).map fun p => p.2 - p.1) else none

/-- The elements of a box. -/
def volume (rank : Nat) (b : Box) : Nat := prod (b.2.take rank)

/-- The product of the extents after a dimension. -/
def tailProd (rank d : Nat) (e : List Nat) : Nat := prod ((e.take rank).drop (d + 1))

/-- A tensor's pieces with their indices. -/
def Gen.piecesOf (g : Gen) (t : Nat) : List (Nat × Piece) :=
  match g.tensors[t]? with
  | none => []
  | some x => ((slice g.pieces x.firstPiece x.pieces).zipIdx).map fun p => (x.firstPiece + p.2, p.1)

/-- The distinct boxes of a tensor's pieces, in order of first piece. -/
def Gen.boxes (g : Gen) (t : Nat) : List Box := ((g.piecesOf t).map fun p => (p.2.origin, p.2.extent)).eraseDups

/-- The piece that holds a box from the lowest source tier (R208). -/
def Gen.pieceFor (g : Gen) (src : List Nat) (t : Nat) (b : Box) : Option Piece :=
  let tierOf := fun (p : Piece) => ((g.regions[p.region]?).map fun r => src.getD (g.memberOf r) 9).getD 9
  (((g.piecesOf t).filter fun p => (p.2.origin, p.2.extent) == b).foldl (fun acc p =>
    match acc with
    | none => some p.2
    | some q => if tierOf p.2 < tierOf q then some p.2 else some q) (none : Option Piece))

/-- Take one more dimension outward: merged into the one inside it where both strides allow (R209). A dimension is its
count, source stride and destination stride; the list is outermost first. -/
def mergeDim (acc : List (Nat × Nat × Nat)) (b : Nat × Nat × Nat) : List (Nat × Nat × Nat) :=
  match acc with
  | [] => [b]
  | a :: rest =>
    if b.2.1 = a.1 * a.2.1 && b.2.2 = a.1 * a.2.2 then (a.1 * b.1, a.2.1, a.2.2) :: rest else b :: acc

/-- fold(g) (R209): outermost first in and out. -/
def foldDims (ds : List (Nat × Nat × Nat)) : List (Nat × Nat × Nat) :=
  ((ds.zipIdx.filter fun p => p.1.1 != 1 || p.2 + 1 == ds.length).map (·.1)).reverse.foldl mergeDim []

/-- The gather of one intersection (R208, R213 item 7). -/
def Gen.gather (g : Gen) (t : TPiece) (x : Tensor) (b : Box) (p : Piece) (i : Box) : Gather :=
  let rank := x.rank
  let mx := isMx t.outType
  let inSz := typeSize x.typ
  let unit := if mx then 32 else 1
  let outSz := if mx then mxBytes t.outType else typeSize t.outType
  let last := rank - 1
  let inBlocks := fun (v : List Nat) => v.zipIdx.map fun e => if e.2 = last then e.1 / unit else e.1
  let ext := inBlocks (t.extent.take rank)
  let at_ := rowmajor rank (inBlocks ((List.range rank).map fun d => i.1.getD d 0 - t.origin.getD d 0)) ext
  let from_ := rowmajor rank ((List.range rank).map fun d => i.1.getD d 0 - b.1.getD d 0) b.2
  let ds := foldDims ((List.range rank).map fun d =>
    (if d = last then i.2.getD d 0 / unit else i.2.getD d 0,
     if d = last then unit * inSz else tailProd rank d b.2 * inSz,
     if d = last then outSz else tailProd rank d ext * outSz))
  { member := ((g.regions[p.region]?).map g.memberOf).getD 0
    srcOff := g.shardSeg p.region * segBytes + p.offset + from_ * inSz
    dst := t.dst + at_ * outSz
    scaleDst := if mx then t.scaleDst + at_ else 0
    counts := ds.map (·.1), srcStrides := ds.map (·.2.1), dstStrides := ds.map (·.2.2)
    inType := x.typ, outType := t.outType }

/-- The intersections of a target piece with its tensor's boxes. -/
def Gen.meets (g : Gen) (t : TPiece) : List (Box × Box) :=
  match g.tensors[t.tensor]? with
  | none => []
  | some x => (g.boxes t.tensor).filterMap fun b => (meetBox x.rank (t.origin, t.extent) b).map fun i => (b, i)

/-- The gathers of a target piece. -/
def Gen.gathers (g : Gen) (src : List Nat) (t : TPiece) : List Gather :=
  match g.tensors[t.tensor]? with
  | none => []
  | some x => (g.meets t).filterMap fun m => (g.pieceFor src t.tensor m.1).map fun p => g.gather t x m.1 p m.2

/-- The plan of a map (R208). -/
def Gen.compile (g : Gen) (m : TMap) (src : List Nat) : List Gather × List CopyEnt := (m.pieces.flatMap (g.gathers src), m.copies)

/-- The most gathers of a plan (R210). -/
def planLimit : Nat := 1048576

/-- The offset of the target piece at which a plan passes its limit. -/
def planExcess : List Nat → Nat → Nat → Option Nat
  | [], _, _ => none
  | n :: ns, total, i => if planLimit < total + n then some (64 + 96 * i) else planExcess ns (total + n) (i + 1)

/-- The destination extents of a map: address, bytes, and the offset of the field (R207). -/
def Gen.extents (g : Gen) (m : TMap) : List (Nat × Nat × Nat) :=
  (m.pieces.zipIdx.flatMap fun p =>
    let rank := ((g.tensors[p.1.tensor]?).map (·.rank)).getD 0
    let n := volume rank (p.1.origin, p.1.extent)
    let o := 64 + 96 * p.2
    (p.1.dst, outBytes p.1.outType n, o + 8) ::
      (if isMx p.1.outType then [(p.1.scaleDst, scaleBytes p.1.outType n, o + 16)] else [])) ++
  m.copies.zipIdx.map fun c =>
    (c.1.dst, ((g.regions[c.1.region]?).map (·.len)).getD 0, 64 + 96 * m.pieces.length + 16 * c.2 + 8)

/-- The slot areas and fork pools of retained generations, as fabric addresses and bytes (R207). -/
def State.keptAreas (s : State) : List (Nat × Nat) :=
  (s.gens.filter Gen.retained).flatMap fun g =>
    (g.members.map fun m => let a := slotArea m g.slot; (fabAddr a.1 a.2.1, a.2.2)) ++
    g.allHolders.filterMap fun ep => (FMap.find s.eps ep).map fun x => (fabAddr ep x.forkBase, x.forkSegs * segBytes)

/-- The first target piece that a test accepts, as a CONFLICT at a field of it. -/
def pieceCond (ps : List TPiece) (field : Nat) (p : TPiece → Bool) : Option Cond :=
  (ps.findIdx? p).map fun i => ⟨0x40, 64 + 64 + 96 * i + field⟩

/-- The first destination extent that a test accepts. -/
def extentCond (es : List (Nat × Nat × Nat)) (p : Nat × (Nat × Nat × Nat) → Bool) : Option Cond :=
  ((es.zipIdx.map fun e => (e.2, e.1)).find? p).map fun e => ⟨0x40, 64 + e.2.2.2⟩

/-- The refusals of a well-formed target map (R207), in the rule's order. -/
def State.mapRefusal (s : State) (f : Nat) (r : RestoreF) (g : Gen) (m : TMap) : Option Cond :=
  let rank := fun (t : TPiece) => ((g.tensors[t.tensor]?).map (·.rank)).getD 0
  let shape := fun (t : TPiece) => ((g.tensors[t.tensor]?).map (·.shape)).getD []
  let bad := fun (t : TPiece) (d : Nat) => if d < rank t
    then t.extent.getD d 0 == 0 || decide ((shape t).getD d 0 < t.origin.getD d 0 + t.extent.getD d 0)
    else t.extent.getD d 0 != 0 || t.origin.getD d 0 != 0
  let es := g.extents m
  let n := m.pieces.length
  firstCond
    [ refuse (m.job != r.job) 0x40 (64 + 8), refuse (m.epoch != r.epoch) 0x40 (64 + 16),
      pieceCond m.pieces 0 fun t => decide (g.tensors.length ≤ t.tensor),
      (m.copies.findIdx? fun c => decide (g.regions.length ≤ c.region)).map fun i => ⟨0x40, 64 + 64 + 96 * n + 16 * i⟩,
      pieceCond m.pieces 24 fun t => (List.range 6).any fun d =>
        if d < rank t then decide ((shape t).getD d 0 ≤ t.origin.getD d 0) else t.origin.getD d 0 != 0,
      pieceCond m.pieces 48 fun t => (List.range 6).any (bad t),
      pieceCond m.pieces 0 fun t => ((g.meets t).map fun i => volume (rank t) i.2).foldl (· + ·) 0 !=
        volume (rank t) (t.origin, t.extent),
      pieceCond m.pieces 4 fun t => !convertible (((g.tensors[t.tensor]?).map (·.typ)).getD 0xFF) t.outType,
      pieceCond m.pieces 48 fun t => isMx t.outType && (
        let d := rank t - 1
        t.extent.getD d 0 % 32 != 0 || (g.meets t).any fun i =>
          (i.2.1.getD d 0 - t.origin.getD d 0) % 32 != 0 || i.2.2.getD d 0 % 32 != 0),
      extentCond es fun e => !s.attachedTo (epOf e.2.1) f || s.lost.contains (epOf e.2.1),
      extentCond es fun e => (es.take e.1).any fun x => overlaps x.1 x.2.1 e.2.1 e.2.2.1,
      extentCond es fun e => s.keptAreas.any fun x => overlaps x.1 x.2 e.2.1 e.2.2.1 ]

/-! ### Transfers (R200, R203, R208) -/

/-- A source run cut into pieces: MX runs by 512 blocks, others at shard-segment boundaries. -/
def cutRun (mx : Bool) (a len : Nat) : List (Nat × Nat) :=
  if mx then spans len segBytes
  else
    let first := min len (segBytes - a % segBytes)
    (0, first) :: (spans (len - first) segBytes).map fun p => (first + p.1, p.2)

/-- The endpoint that a part lies in. -/
def Part.ep? (p : Part) : Option Nat :=
  match p.loc with
  | .fabric a => some (epOf a)
  | _ => none

/-- What a restore's transfer writes, but for endpoints that are written no more (R176 item 4): data first, then an MX output's scales. -/
def restParts (stops : List Nat) (ps : List Part) : List Part :=
  let stopped := fun (p : Part) => (p.ep?.map stops.contains).getD false
  ps.take 1 |>.map (fun p => if stopped p then { p with len := 0, chunks := [] } else p) |>.append ((ps.drop 1).filter fun p => !stopped p)

/-- Queue one transfer of a restore: bytes a to a + len of a member's shard, converted and written to dst. -/
def State.queueRest (e : Nat) (g : Gen) (member tier a len inType outType dst scaleDst : Nat) (s : State) : State :=
  let segs := (List.range ((a + len - 1) / segBytes - a / segBytes + 1)).map (a / segBytes + ·)
  let srcs := segs.map fun n =>
    let lo := max a (n * segBytes)
    let hi := min (a + len) ((n + 1) * segBytes)
    s.source g tier member n (lo - n * segBytes) (hi - lo)
  let hows := srcs.map fun p => { p.2 with inType := inType, outType := outType }
  let n := len / typeSize inType
  let stops := ((s.restoring e).map (·.stops)).getD []
  let dsts := restParts stops (Part.at (.fabric dst) (outBytes outType n) ::
    (if isMx outType then [Part.at (.fabric scaleDst) (scaleBytes outType n)] else []))
  if dsts.all (·.len == 0) then s else s.queueXfer g.fn (.rest e member hows) (srcs.flatMap (·.1)) dsts

/-- The index vectors of counts, row-major, as source and destination offsets. -/
def walkDims : List (Nat × Nat × Nat) → List (Nat × Nat)
  | [] => [(0, 0)]
  | (n, a, b) :: ds => (List.range n).flatMap fun i => (walkDims ds).map fun p => (i * a + p.1, i * b + p.2)

/-- Queue the transfers of a gather. -/
def State.queueGather (e : Nat) (g : Gen) (tier : Nat) (x : Gather) (s : State) : State :=
  let dims := (x.counts.zip (x.srcStrides.zip x.dstStrides))
  let outer := dims.dropLast
  let last := dims.getLast?.getD (1, 1, 1)
  let mx := isMx x.outType
  (walkDims outer).foldl (fun s o =>
    (cutRun mx (x.srcOff + o.1) (last.1 * last.2.1)).foldl (fun s c =>
      let d := o.2 + c.1 / last.2.1 * last.2.2
      s.queueRest e g x.member tier (x.srcOff + o.1 + c.1) c.2 x.inType x.outType (x.dst + d)
        (x.scaleDst + d / mxBytes x.outType)) s) s

/-- Queue the copy of a region's true bytes to a destination. -/
def State.queueRegion (e : Nat) (g : Gen) (tier ri dst : Nat) (s : State) : State :=
  match g.regions[ri]? with
  | none => s
  | some r =>
    (piecesOf r.len).foldl (fun s c =>
      s.queueRest e g (g.memberOf r) tier (g.shardSeg ri * segBytes + c.1) c.2 0x18 0x18 (dst + c.1) 0) s

/-- The endpoint that a member is restored into (R172, R200). -/
def Restoring.dest (r : Restoring) (ep : Nat) : Nat := if r.lost != 0 && ep == r.lost then r.spare else ep

/-- The destination endpoint of a member of a plain restore. -/
def Restoring.destOf (r : Restoring) (g : Gen) (i : Nat) : Nat := r.dest (((g.members[i]?).map (·.ep)).getD 0)

/-- Queue the transfers of the members in a list (R200, R208). -/
def State.queueMembers (e : Nat) (ms : List Nat) (s : State) : State :=
  match s.restoring e with
  | none => s
  | some r =>
    match s.gen r.epoch with
    | none => s
    | some g =>
      let tier := fun (i : Nat) => r.src.getD i 1
      let go := fun (i : Nat) => ms.contains i && (tier i != 3 || r.t3Checked)
      match r.plan with
      | none =>
        ((List.range g.members.length).filter fun i => go i && !r.doneMembers.contains i).foldl (fun s i =>
          (g.regionsOf i).foldl (fun s p =>
            s.queueRegion e g (tier i) p.1 (fabAddr (r.destOf g i) (p.2.base % 2 ^ 52))) s) s
      | some plan =>
        let s := plan.1.foldl (fun s x =>
          if go x.member then s.queueGather e g (tier x.member) x else s) s
        plan.2.foldl (fun s c =>
          match g.regions[c.region]? with
          | some rg =>
            let i := g.memberOf rg
            if go i then s.queueRegion e g (tier i) c.region c.dst else s
          | none => s) s

/-- Is a transfer one of an entry's restore? -/
def Work.ofRest (e : Nat) : Work → Bool
  | .rest x _ _ => x == e
  | .t3Check x => x == e
  | _ => false

/-- Is a transfer one of a restore of a member in a list? -/
def Work.ofMembers (e : Nat) (ms : List Nat) : Work → Bool
  | .rest x i _ => x == e && ms.contains i
  | _ => false

/-- The destination endpoints of a restore, those of an MX output's scales included. -/
def State.restDests (s : State) (r : Restoring) : List Nat :=
  match s.gen r.epoch, r.plan with
  | some g, none => ((List.range g.members.length).filter fun i => !r.doneMembers.contains i).map (r.destOf g)
  | _, some plan => ((plan.1.flatMap fun x => epOf x.dst :: if isMx x.outType then [epOf x.scaleDst] else []) ++
      plan.2.map fun c => epOf c.dst).eraseDups
  | none, none => []

/-- Queue the check of a drained copy's commit record, where a member is read from tier 3 (R292). -/
def State.queueCheck (e : Nat) (s : State) : State :=
  match s.restoring e with
  | none => s
  | some r =>
    match s.gen r.epoch with
    | none => s
    | some g =>
      if r.src.contains 3 && !r.t3Checked && !s.hasWork (fun w => w == .t3Check e) then
        s.queueXfer g.fn (.t3Check e) [Part.at (.fabric ((g.t3.map (·.target)).getD 0)) 4096] []
      else s

/-- The warning that the choice gives (Table 5-8). -/
def choiceCond (r : Restoring) : Option Cond :=
  if r.src.contains 3 || r.epoch < r.ref then some ⟨0x13, r.epoch⟩
  else if r.src.contains 2 then some ⟨0x12, r.epoch⟩
  else none

/-- Put the choice of a restore in force: the warning of Table 5-8 is that of the latest choice. -/
def State.putChoice (e : Nat) (g : Gen) (src : List Nat) (s : State) : State :=
  let s := s.modRest e fun r => { r with t3Checked := r.t3Checked && r.epoch == g.epoch, epoch := g.epoch, src := src }
  let s := s.modAcc e fun a => { a with conds := a.conds.filter fun c => c.status != 0x12 && c.status != 0x13 }
  match (s.restoring e).bind choiceCond with
  | some c => s.meet e c.status c.info
  | none => s

/-- Ask the destinations of a full-image restore that have not been asked to quiesce (R201). -/
def State.quiesceDests (e : Nat) (s : State) : State :=
  match s.restoring e with
  | none => s
  | some r =>
    match s.gen r.epoch with
    | none => s
    | some g =>
      if !g.fullImage then s
      else
        let eps := (s.restDests r).filter fun ep => !r.quiesced.contains ep && !r.quiesceAwait.contains ep
        let s := if eps.isEmpty then s
          else s.modRest e fun r => { r with quiesceAwait := r.quiesceAwait ++ eps, since := s.now }
        eps.foldl (fun s ep => s.sendProto { s.pkt 0x3 0x01 ep with argA := g.epoch, slice := g.fn } []) s

/-! ### The start (R170, R172, R198, R202) -/

/-- The restores of a job that wait. -/
def State.waitingRests (s : State) (job : Nat) : List Acc :=
  s.accepted.filter fun a => a.phase = .queued && a.fin.isNone && a.op.job? == some job

/-- Is a restore of the job running? -/
def State.restRuns (s : State) (job : Nat) : Bool := s.restores.any (·.job == job)

/-- The endpoints that waiting RESTORE_SPARE entries of a job name as lost (R176 item 4). -/
def State.queuedLost (s : State) (job : Nat) : List Nat :=
  (s.waitingRests job).filterMap fun a => match a.op with
    | .restoreSpare _ lost _ => some lost
    | _ => none

/-- Start a restore whose choice is made. -/
def State.startRest (r : Restoring) (g : Gen) (src : List Nat) (s : State) : State :=
  let lost := s.queuedLost r.job
  let done := (g.members.zipIdx.filter fun m => lost.contains (r.dest m.1.ep)).map (·.2)
  let s := { s with restores := s.restores ++ [{ r with doneMembers := done, stops := lost }] }
  let s := s.modAcc r.entry fun a => { a with phase := .running }
  let s := s.modJob r.job fun j => { j with restored := if j.restored.contains r.entry then j.restored else j.restored ++ [r.entry] }
  let s := s.putChoice r.entry g src
  let s := (s.quiesceDests r.entry).queueCheck r.entry
  s.queueMembers r.entry (List.range g.members.length)

/-- Halt the function with GROUP_LOST (R175). -/
def State.groupLost (e f ep : Nat) (s : State) : State :=
  let qid := ((s.acc e).map (·.sq)).getD 0
  let idx := ((s.acc e).map (·.idx)).getD 0
  (s.haltFn f 3 idx qid).failEntry e 0x83 ep

/-- The bare restore of an entry. -/
def bareRest (e job : Nat) : Restoring :=
  { entry := e, job := job, epoch := 0, src := [], tier := 0, only := 0, keySlot := none, plan := none, lost := 0, spare := 0, ref := 0 }

/-- The RESTORE's refusals that need no map (R198). -/
def State.restoreRefusal (s : State) (f : RestoreF) : Option Cond :=
  let g := (s.gen f.epoch).filter fun g => g.job == f.job && g.safe
  firstCond
    [ refuse (s.safeGens f.job).isEmpty 0x40 16,
      refuse (f.epoch != 0 && g.isNone) 0x40 24,
      refuse (f.rerig && f.epoch == 0) 0x40 24,
      refuse (f.rerig && (g.map (·.fullImage)).getD false) 0x40 33 ]

/-- Start a RESTORE (Table 6-10). One that starts at its acceptance passes the checks of R279 and R468 here, in R467's order; one
that waited passed them when it was queued. -/
def State.beginRestore (a : Acc) (f : RestoreF) (map : HostRead) (waited : Bool) (s : State) : State :=
  let bs := readBytes map
  let s := if f.rerig then s.readStruct a.fn f.targetMap map else s
  if f.rerig && map = .error then s.malformed a.id 40 6
  else if f.rerig && !mapOk f.mapLen bs then s.malformed a.id 40 5
  else
    s.orRefuse a.id (firstCond [if waited then none else s.jobRefusal a.fn f.job, s.restoreRefusal f]) fun s =>
      let r := { bareRest a.id f.job with
        tier := f.tier, only := f.epoch, keySlot := some f.keySlot,
        ref := if f.epoch != 0 then f.epoch else ((s.safeGens f.job).head?.map (·.epoch)).getD 0 }
      let tm := parseMap bs
      let choice := s.choose r
      let named := (s.gen f.epoch).getD ((s.safeGens f.job).head?.getD
        { job := 0, epoch := 0, fn := 0, fullImage := false, tiers := 0, lookahead := 0, regions := [], pauseSig := false,
          pauseCleat := 0, pauseEp := 0, manAddr := 0, manMax := 0, digests := false, tensors := [], pieces := [], segs := [] })
      let lostMember := match choice with
        | some (g, _) => !f.rerig && g.members.any fun m => s.lost.contains m.ep
        | none => false
      s.orRefuse a.id (firstCond
        [ refuse lostMember 0x40 24,
          if f.rerig then s.mapRefusal a.fn f named tm else none,
          if f.rerig then
            (planExcess (tm.pieces.map fun t => (named.meets t).length) 0 0).map fun o => ⟨0x41, 64 + o⟩
          else none,
          if waited then none else s.signalRefusal a.fn a.hdr ]) fun s =>
        match choice with
        | none => s.failEntry a.id 0x67 (s.unsourced r)
        | some (g, src) =>
          let s := s.abandonLoose f.job 6 0
          s.startRest { r with plan := if f.rerig then some (g.compile tm src) else none } g src

/-- Start a RESTORE_SPARE (Table 5-7). -/
def State.beginSpare (a : Acc) (job lost spare : Nat) (s : State) : State :=
  let s := s.abandonLoose job 1 lost
  let r := { bareRest a.id job with lost := lost, spare := spare, ref := ((s.safeGens job).head?.map (·.epoch)).getD 0 }
  match s.choose r with
  | none => s.groupLost a.id a.fn (s.unsourced r)
  | some (g, src) => s.startRest r g src

/-- Queue a restore behind those of its job (R170). -/
def State.queueRestore (a : Acc) (job : Nat) (s : State) : State :=
  (s.modAcc a.id fun a => { a with phase := .queued }).modJob job fun j => { j with restored := j.restored ++ [a.id] }

/-- Does a restore of the job run or wait? -/
def State.restBusy (s : State) (job : Nat) : Bool := s.restRuns job || !(s.waitingRests job).isEmpty

/-- RESTORE: it waits behind those of its job, and reads its target map when it starts (R170, Table 6-10). -/
def State.runRestore (a : Acc) (f : RestoreF) (map : HostRead) (s : State) : State :=
  if s.restBusy f.job then
    s.orRefuse a.id (firstCond [s.jobRefusal a.fn f.job, refuse (decide (4 ≤ (s.waitingRests f.job).length)) 0x41 16,
      s.signalRefusal a.fn a.hdr]) fun s => s.queueRestore a f.job
  else s.beginRestore a f map false

/-! ### Failures (R168, R176, R203) -/

/-- The members that a loss touches: those whose source changes, and those rebuilt in a group that the loss concerns. -/
def touchedMembers (g : Gen) (old new groups : List Nat) : List Nat :=
  (List.range g.members.length).filter fun i =>
    old.getD i 0 != new.getD i 0 || (old.getD i 0 == 2 && groups.contains (g.groupOf i))

/-- End a restore's hold on its job, endpoints and transfers: an endpoint that has quiesced, for this choice or an earlier one,
and was not sent RESUME is sent one without RELOAD (R201). -/
def State.dropRest (e : Nat) (s : State) : State :=
  match s.restoring e with
  | none => s
  | some r =>
    let s := s.dropWork (Work.ofRest e)
    let eps := ((r.quiesced ++ r.before).eraseDups).filter fun ep => !r.resumed.contains ep
    let s := eps.foldl (fun s ep => s.resume ep (((FMap.find s.eps ep).bind (·.quiesced)).getD r.epoch) 0) s
    let s := { s with restores := s.restores.filter (·.entry != e) }
    (s.modJob r.job fun j => { j with restored := j.restored.filter (· != e) }).cleanJob r.job

/-- Make the choice again (R176), after a loss in groups of the restored generation. -/
def State.rechoose (e : Nat) (groups : List Nat) (s : State) : State :=
  match (s.restoring e).filter (!·.ending) with
  | none => s
  | some r =>
    match s.choose r with
    | none =>
      let f := ((s.acc e).map (·.fn)).getD 0
      let ep := s.unsourced r
      let s := s.dropRest e
      if r.wrote || r.lost != 0 then s.groupLost e f ep else s.failEntry e 0x67 ep
    | some (g, src) =>
      let same := g.epoch == r.epoch
      let ms := if same then touchedMembers g r.src src groups else List.range g.members.length
      let s := s.dropWork (Work.ofMembers e ms)
      let again := ms.map (r.destOf g)
      let s := s.modRest e fun r =>
        if same then
          { r with poisonSegs := r.poisonSegs.filter fun p => !ms.contains p.1,
                   quiesced := r.quiesced.filter fun ep => !(r.resumed.contains ep && again.contains ep)
                   resumed := r.resumed.filter fun ep => !again.contains ep }
        else
          { r with poisonSegs := [], resumed := [], quiesced := [], quiesceAwait := []
                   before := (r.before ++ r.quiesced.filter fun ep => !r.resumed.contains ep).eraseDups
                   doneMembers := (List.range g.members.length).filter fun i => r.stops.contains (r.destOf g i) }
      let s := (s.putChoice e g src).quiesceDests e
      (s.queueCheck e).queueMembers e ms

/-- The source of a failed part: how it was had, and which of its parts. -/
def howOfPart : List RestHow → Nat → Option (RestHow × Nat)
  | [], _ => none
  | h :: hs, i => if i < h.parts then some (h, i) else howOfPart hs (i - h.parts)

/-- A source read of a restore failed (R168, R176, R203). -/
def State.restReadFailed (x : Xfer) (e member : Nat) (hows : List RestHow) (part : Nat) (s : State) : State :=
  match s.restoring e, howOfPart hows part with
  | some r, some (h, i) =>
    match s.gen r.epoch with
    | none => s
    | some g =>
      let grp := g.groupOf member
      let src := h.have_.getD i 0
      let s := s.dropXfer x.id
      let s :=
        if h.tier = 1 then s.loseStay g.epoch member
        else if h.tier = 2 then
          if src < g.k then s.loseStay g.epoch (grp * g.k + src) else s.loseTier2 g.epoch grp
        else s.modRest e fun r => { r with t3Bad := r.t3Bad ++ [g.epoch] }
      s.rechoose e [grp]
  | _, _ => s

/-- The endpoints that a transfer writes to. -/
def Xfer.destEps (x : Xfer) : List Nat := ((x.dsts.filter (·.len != 0)).filterMap Part.ep?).eraseDups

/-- Stop a transfer's writes to an endpoint; what it writes elsewhere goes on (R176 item 4). -/
def State.stopWrites (ep : Nat) (x : Xfer) (s : State) : State :=
  if !x.destEps.contains ep then s
  else if x.destEps == [ep] then s.dropXfer x.id
  else
    { s with freqs := s.freqs.filter fun r => !(r.xfer == x.id && r.write && r.ep == ep) }.modXfer x.id fun t =>
      { t with dsts := restParts [ep] t.dsts }

/-- Stop writing to an endpoint, and count what goes there as done (R176 item 4). -/
def State.stopDest (e ep : Nat) (s : State) : State :=
  match s.restoring e with
  | none => s
  | some r =>
    let s := (s.xfers.filter fun x => x.2.work.ofRest e).foldl (fun s x => s.stopWrites ep x.2) s
    let done := match s.gen r.epoch with
      | some g => if r.plan.isNone then (List.range g.members.length).filter fun i => r.destOf g i == ep else []
      | none => []
    s.modRest e fun r => { r with stops := r.stops ++ [ep], doneMembers := r.doneMembers ++ done,
                                  quiesceAwait := r.quiesceAwait.filter (· != ep) }

/-- A write of a restore failed (R176): the endpoint is written no more, and the entry ends with FABRIC_LOST once the rest
is done. -/
def State.restWriteFailed (e ep info : Nat) (s : State) : State :=
  match s.restoring e with
  | none => s
  | some r =>
    if r.stops.contains ep || r.ending then s
    else (s.meetOnce e 0x23 info).stopDest e ep

/-- A destination is detached: its writes fail (Table 6-15). -/
def State.restDetached (ep : Nat) (s : State) : State :=
  s.restores.foldl (fun s r =>
    if (s.restDests r).contains ep then s.restWriteFailed r.entry ep (lostInfo 0xFF 2) else s) s

/-! ### RESTORE_SPARE (R170) -/

/-- The refusals of RESTORE_SPARE (R170). -/
def State.spareRefusal (s : State) (f job lost spare : Nat) : Option Cond :=
  let g := s.newestSafe job
  let used := (s.gens.filter Gen.retained).any fun g => g.members.any fun m => m.ep == spare || m.buddy == spare
  firstCond
    [ s.jobRefusal f job,
      refuse g.isNone 0x40 16,
      refuse (!((g.map fun g => g.members.any (·.ep == lost)).getD false)) 0x40 24,
      refuse (!s.attachedTo spare f || s.lost.contains spare || used) 0x40 26,
      refuse ((g.map (·.fullImage)).getD false && !((FMap.find s.eps spare).map (·.quiesce)).getD false) 0x40 26,
      refuse (decide (4 ≤ (s.waitingRests job).length)) 0x41 16 ]

/-- RESTORE_SPARE: LOST_EP is held as lost from here on, and a restore of the job that runs chooses again (R168, R176). -/
def State.runRestoreSpare (a : Acc) (job lost spare : Nat) (s : State) : State :=
  s.orRefuse a.id (firstCond [s.spareRefusal a.fn job lost spare, s.signalRefusal a.fn a.hdr]) fun s =>
    let s := if FMap.has s.eps lost && !s.lost.contains lost then { s with lost := s.lost ++ [lost] } else s
    let s := s.loseBuddy lost
    let s := s.abandonLoose job 1 lost
    if !s.restBusy job then s.beginSpare a job lost spare
    else
      let s := s.queueRestore a job
      (s.restores.filter (·.job == job)).foldl (fun s r =>
        let s := s.stopDest r.entry lost
        match s.gen r.epoch with
        | some g => s.rechoose r.entry ((g.members.zipIdx.filter fun m => m.1.buddy == lost).map fun m => g.groupOf m.2)
        | none => s) s

/-- QUEUED_ENTRY_START: the front restore of a job starts once none of the job runs (R170, R177). -/
def State.startQueued (e : Nat) (map : HostRead) (s : State) : State :=
  match (s.acc e).filter fun _ => s.readRoom with
  | none => s
  | some a =>
    if a.phase != .queued || a.fin.isSome then s
    else
      let front := fun (job : Nat) => !s.restRuns job && ((s.waitingRests job).head?.map (·.id)) == some e
      let drop := fun (job : Nat) (s : State) =>
        if (s.restoring e).isSome then s else (s.modJob job fun j => { j with restored := j.restored.filter (· != e) }).cleanJob job
      match a.op with
      | .restore f => if front f.job then drop f.job ((s.modAcc e fun a => { a with phase := .running }).beginRestore a f map true) else s
      | .restoreSpare job lost spare =>
        if front job then drop job ((s.modAcc e fun a => { a with phase := .running }).beginSpare a job lost spare) else s
      | _ => s

/-! ### Data (R203, R211, R292) -/

/-- The data of a restore's transfer has come: opened, decoded, converted, and ready to be written. -/
def State.restLoaded (x : Xfer) (e member : Nat) (hows : List RestHow) (s : State) : State :=
  match s.restoring e with
  | none => s
  | some r =>
    match s.gen r.epoch with
    | none => s
    | some g =>
      let outs := (hows.foldl (fun (acc : List Brought × List (List PByte)) h =>
        (acc.1 ++ [bringSource g (FMap.find x.keys (x.input.length - acc.2.length)) h (acc.2.take h.parts)], acc.2.drop h.parts))
        ([], x.input)).1
      let auth := (outs.zipIdx.find? fun o => (o.1.cond.map (·.status)) == some 0x26)
      let s := (outs.filterMap (·.cond)).foldl (fun s c =>
        let s := s.meet e c.status c.info
        if c.status = 0x24 then s.bump (ctrId 7 g.fn (7 + bits c.info 23 20))
        else if c.status = 0x25 then s.bump (ctrId 7 g.fn 12) else s) s
      let s := if outs.any (·.poisoned) then s.meet e 0x22 0 else s
      let s := s.count (ctrId 7 g.fn 5) (outs.filter (·.decoded)).length
      match auth with
      | some o => s.restReadFailed x e member hows ((hows.take o.2).map RestHow.parts |>.foldl (· + ·) 0)
      | none =>
        let h := hows.headD { tier := 1, off := 0, len := 0 }
        let c := convertRun h.inType h.outType (outs.flatMap (·.data))
        s.modXfer x.id fun t => { t with
          work := .rest e member ((hows.zip outs).map fun p => { p.1 with bad := p.2.poisoned })
          dsts := t.dsts.zipIdx.map fun p => { p.1 with chunks := [(0, if p.2 = 0 then c.1 else c.2)] } }

/-- The check of a drained copy's commit record (R292). -/
def Gen.recordOk (g : Gen) (key : Option KeySlot) (bs : List PByte) : Bool :=
  let v := values bs
  match key with
  | none => false
  | some k =>
    !anyPoison bs && slice v 64 16 == gcmTag k.key (slice v 80 12) (v.take 64) [] && leAt v 8 8 == g.job && leAt v 16 8 == g.epoch

/-- The commit record of a drained copy has come. -/
def State.checkLoaded (x : Xfer) (e : Nat) (failed : Bool) (s : State) : State :=
  match s.restoring e with
  | none => s.dropXfer x.id
  | some r =>
    match s.gen r.epoch with
    | none => s.dropXfer x.id
    | some g =>
      let s := s.dropXfer x.id
      if !failed && g.recordOk (FMap.find x.keys 0) (x.input.getD 0 []) then
        let s := s.modRest e fun r => { r with t3Checked := true }
        s.queueMembers e ((List.range g.members.length).filter fun i => r.src.getD i 0 == 3)
      else (s.modRest e fun r => { r with t3Bad := r.t3Bad ++ [g.epoch] }).rechoose e []

/-- May a restore's transfer write: the destinations of a full-image restore have quiesced (R201)? -/
def State.restMayWrite (s : State) (e : Nat) : Bool := ((s.restoring e).map fun r => r.quiesceAwait.isEmpty).getD true

/-- A restore's transfer is written: the segments whose bytes were poison-marked are counted (R204). -/
def State.restDone (e member : Nat) (hows : List RestHow) (s : State) : State :=
  let bad := (hows.filter (·.bad)).map fun h => (member, h.shardSeg)
  s.modRest e fun r => { r with poisonSegs := (r.poisonSegs ++ bad).eraseDups }

/-- Has the last WR_ACK of a quiesced destination come: something was restored there, and nothing is left to be (R201)? -/
def State.restored (s : State) (r : Restoring) (g : Gen) (ep : Nat) : Bool :=
  !r.resumed.contains ep && !r.stops.contains ep &&
  (List.range g.members.length).any (fun i => r.destOf g i == ep && g.captured i != 0) &&
  !s.hasWork (fun w => w == .t3Check r.entry) && !s.xfers.any fun y => y.2.work.ofRest r.entry && y.2.destEps.contains ep

/-- Send RESUME with RELOAD to every destination whose last WR_ACK has come (R201). -/
def State.reloadDone (r : Restoring) (s : State) : State :=
  match s.gen r.epoch with
  | none => s
  | some g =>
    if !r.quiesceAwait.isEmpty then s
    else (r.quiesced.filter fun ep => s.restored r g ep).foldl (fun s ep =>
      (s.resume ep r.epoch 1).modRest r.entry fun r => { r with resumed := r.resumed ++ [ep] }) s

/-- QUIESCE_DONE of a restore's destination (R201). -/
def State.restQuiesced (ep epoch : Nat) (s : State) : State :=
  match s.restores.find? fun r => r.epoch == epoch && r.quiesceAwait.contains ep with
  | none => s
  | some r =>
    let s := { s with eps := FMap.modify s.eps ep fun x => { x with quiesced := some epoch } }
    s.modRest r.entry fun r => { r with quiesceAwait := r.quiesceAwait.filter (· != ep), quiesced := r.quiesced ++ [ep] }

/-- A destination has not quiesced within the slice's CUT_TIMEOUT (R201). Of several, INFO names the one with the lowest identifier:
log 104, DESIGN CHOICE. -/
def State.restTimeout (e : Nat) (s : State) : State :=
  match s.restoring e with
  | none => s
  | some r =>
    match r.quiesceAwait with
    | [] => s
    | eps => (s.dropRest e).failEntry e 0x65 (eps.foldl min 0xFFF + 0x1000)

/-! ### The end (R172, R204, R215) -/

/-- A stamp's cursor skew, two's complement (R215). -/
def Stamp.skew (t : Stamp) : Nat := (t.draws + 2 ^ 64 - t.perSample * t.samples % 2 ^ 64) % 2 ^ 64

/-- Record a substitution in a generation (R172). -/
def Gen.substitute (g : Gen) (lost spare : Nat) : Gen :=
  { g with
    subs := (g.subs.map fun p => if p.2 = lost then (p.1, spare) else p) ++
      (if g.subs.any fun p => p.2 == lost then [] else [(lost, spare)])
    groups := g.groups.map fun gr => { gr with members := gr.members.map fun m =>
      { m with ep := if m.ep = lost then spare else m.ep, buddy := if m.buddy = lost then spare else m.buddy } }
    stamps := g.stamps.map fun t => if t.ep = lost then { t with ep := spare } else t }

/-- The POISONED of a restore stands where a restored byte is poison-marked, with the segments written (R86, R204). Log 144. -/
def State.countRestored (e n : Nat) (s : State) : State :=
  if n = 0 then s.modAcc e fun a => { a with conds := a.conds.filter (· != ⟨0x22, 0⟩) } else s.meetPoison e n

/-- Finish a restore all of whose transfers are done; a RESTORE_SPARE then waits for the directory (R172). -/
def State.finishRest (r : Restoring) (s : State) : State :=
  match s.gen r.epoch, s.acc r.entry with
  | some g, some a =>
    let skews := g.members.filterMap fun m => (g.stamps.find? (·.ep == m.ep)).map fun t => (m.ep, t.skew)
    let bad := skews.filter fun p => p.2 != 0
    let s := bad.foldl (fun s p => s.logFn 0x0304 g.fn [p.1, p.2, g.epoch]) s
    let s := (g.members.zip r.src).foldl (fun s p => s.logFn 0x0305 g.fn [g.job, g.epoch, p.1.ep, p.2]) s
    let s := bad.foldl (fun s p => s.meet a.id 0x10 p.2) s
    let s := s.countRestored a.id r.poisonSegs.length
    let s := if r.lost = 0 then s
      else ((s.gensOf r.job).filter fun g => g.members.any fun m => m.ep == r.lost || m.buddy == r.lost).foldl (fun s g =>
        (s.modGen g.epoch fun g => g.substitute r.lost r.spare).noteChange g.epoch) s
    s.modRest r.entry fun r => { r with ending := true }
  | _, _ => s

/-- Does a change of the directory for a generation of the job wait or go (R161, R172)? -/
def State.recording (s : State) (job : Nat) : Bool :=
  s.dirQ.any fun c => c.code == recOther && (s.gensOf job).any (·.epoch == c.epoch)

/-- Complete a restore whose substitutions are recorded: the job's steps and baselines go on from its generation (R108, R136). -/
def State.endRest (r : Restoring) (s : State) : State :=
  if r.lost != 0 && s.recording r.job then s
  else
    let s := match s.gen r.epoch with
      | some g => s.modJob r.job fun j => { j with lastStep := some g.step, base := some (g.step, s.lifeTicks) }
      | none => s
    (s.dropRest r.entry).endEntry r.entry r.epoch

/-- Move on the restores that have nothing left to write. -/
def State.settleRests (s : State) : State :=
  s.restores.foldl (fun s r =>
    let s := s.reloadDone r
    match s.restoring r.entry with
    | some r =>
      if r.ending then s.endRest r
      else if s.hasWork (Work.ofRest r.entry) || !r.quiesceAwait.isEmpty then s
      else s.finishRest r
    | none => s) s

end Sys2Proof.Machine
end

