-- ==== Sys2Proof/Machine/Stages.lean ====
section
/-! DEFINITION. The shared engines of a Yard (R237 to R239, R293, R438 to R440): which stages a transfer needs, who is served next
at the two GCM pipes and the Unfurl unit, how long an object or a tile takes, and the seals of a drain. Log 145. -/

namespace Sys2Proof.Machine

/-! ### What a transfer needs -/

/-- The ciphertext bytes that a sealed record's header states, as far as a record may hold. -/
def sealedBytes (p : Part) : Nat := min 65568 (leAt (values (p.bytes.take 64)) 24 4)

/-- The sealed records among a restore's source parts, from the part with a number: which part, and its bytes. -/
def restObjs : Nat → List RestHow → List Part → List (Nat × Nat)
  | _, [], _ => []
  | i, h :: hs, ps =>
    (if h.tier = 3 then (ps.take h.parts).zipIdx.map fun p => (i + p.2, sealedBytes p.1) else []) ++
      restObjs (i + h.parts) hs (ps.drop h.parts)

/-- The lane cycles that a restore's transfer takes in the Unfurl unit: none without a conversion (R211, R238). -/
def restCycles (hows : List RestHow) : Nat :=
  match hows.head? with
  | some h => if h.inType = h.outType then 0 else ceilDiv ((hows.map (·.len)).foldl (· + ·) 0 / typeSize h.inType) 32
  | none => 0

/-- The sealed objects that a loaded transfer's GCM stage opens or seals: which, and its bytes. -/
def State.pipeNeeds (s : State) (x : Xfer) : List (Nat × Nat) :=
  match x.work with
  | .sheet n u => ((FMap.find s.sheets n).map fun h => h.pipeObjs (s.unitLines h x) u).getD []
  | .rest _ _ hows => restObjs 0 hows x.srcs
  | .t3Check _ => [(0, 64)]
  | .drainSeg _ _ _ _ _ => x.dsts.map fun p => (0, p.len)
  | .drainMan _ => x.dsts.map fun p => (0, p.len)
  | .drainRec _ => [(0, 64)]
  | _ => []

/-- The lane cycles that a transfer takes in the Unfurl unit. -/
def State.unitNeeds (s : State) (x : Xfer) : Nat :=
  match x.work with
  | .sheet n u => ((FMap.find s.sheets n).map fun h => h.unitCycles u).getD 0
  | .rest _ _ hows => restCycles hows
  | _ => 0

/-- The stage that follows the GCM stage. -/
def State.afterPipe (s : State) (x : Xfer) : Stage := if s.unitNeeds x = 0 then .over else .unitWait

/-- The first stage of a transfer whose data lies in its Yard. -/
def State.firstStage (s : State) (x : Xfer) : Stage :=
  match s.pipeNeeds x with
  | [] => s.afterPipe x
  | objs => .pipeWait objs

/-- A transfer's data lies in its Yard: its stages begin. -/
def State.enterStages (id : Nat) (s : State) : State :=
  match FMap.find s.xfers id with
  | some x => s.modXfer id fun t => { t with phase := .loaded, stage := s.firstStage x }
  | none => s

/-! ### Claimants (R438 to R440) -/

/-- The claimant of the GCM pipes that a transfer belongs to (Table 15-9): Sheet opens, restore opens, drain seals. -/
def Work.gcmClaim : Work → Nat
  | .sheet _ _ => 1
  | .rest _ _ _ => 2
  | .t3Check _ => 2
  | _ => 3

/-- The claimant of the Unfurl unit: 0x41 a Sheet's stage, 0x42 a restore's conversion. -/
def Work.unitClaim : Work → Nat
  | .sheet _ _ => 0x41
  | _ => 0x42

/-- Is the stage a wait for a GCM pipe? -/
def Stage.atPipe : Stage → Bool
  | .pipeWait _ => true
  | _ => false

/-- Does the stage hold a GCM pipe? -/
def Stage.onPipe : Stage → Bool
  | .pipe _ _ => true
  | _ => false

/-- Does the stage hold the Unfurl unit? -/
def Stage.onUnit : Stage → Bool
  | .unit _ => true
  | _ => false

/-- The transfers of a Yard at a stage. -/
def State.atStage (s : State) (y : Nat) (p : Stage → Bool) : List Xfer :=
  (s.xfers.filter fun x => x.2.yard == y && p x.2.stage).map (·.2)

/-- The arbitration of a Yard. -/
def State.arb (s : State) (y : Nat) : Arb := FMap.getD s.arbs y {}

/-- Change the arbitration of a Yard. -/
def State.modArb (y : Nat) (f : Arb → Arb) (s : State) : State := { s with arbs := FMap.put s.arbs y (f (s.arb y)) }

/-- The next of a claimant's transfers: a Sheet's by R264, others in the order in which they came. -/
def State.firstOf (s : State) (ws : List Xfer) : Option Xfer :=
  let due := fun (x : Xfer) => match x.work with
    | .sheet n _ => ((FMap.find s.sheets n).map Sheet.dryTime).getD 0
    | _ => 0
  ws.foldl (fun acc x =>
    match acc with
    | none => some x
    | some b => if due x < due b || (due x == due b && decide (x.id < b.id)) then some x else some b) none

/-- The claimant that an order of precedence serves next: one that has waited behind 16 dispatches of higher precedence, else the
first that waits (R440). -/
def Arb.pick (a : Arb) (order waiting : List Nat) : Option Nat :=
  let ws := order.filter waiting.contains
  ((ws.find? fun c => decide (16 ≤ FMap.getD a.behind c 0)).orElse fun _ => ws.head?)

/-- The counts of what has waited behind a dispatch of a claimant: they count consecutive dispatches of higher precedence. -/
def Arb.dispatched (a : Arb) (order waiting : List Nat) (c : Nat) : Arb :=
  { a with behind := order.foldl (fun m k =>
      if k != c && waiting.contains k && decide (order.findIdx (· == c) < order.findIdx (· == k)) then
        FMap.put m k (FMap.getD m k 0 + 1)
      else FMap.del m k) a.behind }

/-- The order of the Unfurl unit's claimants under UNFURL_MODE; in shared mode the Sheets' dispatches open each window of 16
(Table 15-9). -/
def Precedence.unitOrder (p : Precedence) (a : Arb) : List Nat :=
  if p.unfurl = 0 then [0x42, 0x41]
  else if p.unfurl = 1 then [0x41, 0x42]
  else if a.unitSheets < p.sheetShare then [0x41, 0x42]
  else [0x42, 0x41]

/-- Who is served next at a Yard's Unfurl unit. In shared mode nobody waits behind a precedence. -/
def State.unitPick (s : State) (y : Nat) (waiting : List Nat) : Option Nat :=
  let a := s.arb y
  let order := s.rigs.cur.prec.unitOrder a
  if s.rigs.cur.prec.unfurl = 2 then order.find? waiting.contains else a.pick order waiting

/-- The window and the counts after a dispatch of the Unfurl unit. -/
def State.unitDispatched (y : Nat) (waiting : List Nat) (c : Nat) (s : State) : State :=
  s.modArb y fun a =>
    if s.rigs.cur.prec.unfurl ≠ 2 then a.dispatched (s.rigs.cur.prec.unitOrder a) waiting c
    else if waiting.length < 2 then a
    else if 16 ≤ a.unitAll + 1 then { a with unitAll := 0, unitSheets := 0 }
    else { a with unitAll := a.unitAll + 1, unitSheets := a.unitSheets + (if c = 0x41 then 1 else 0) }

/-! ### Seals of a drain (R164 to R166, R293, R295, R296) -/

/-- The lane cycles that a pipe takes for an object's bytes (R293). -/
def pipeCycles (n : Nat) : Nat := max 1 (ceilDiv n 64)

/-- A drain's generation and its DRAIN entry. -/
def State.drainOf (s : State) (e : Nat) : Option (Gen × DrainF) :=
  match s.gens.find? fun g => g.drainBy == some e, (s.acc e).bind Acc.drain? with
  | some g, some f => some (g, f)
  | _, _ => none

/-- The bytes that a transfer writes, as they stand in its Yard. -/
def Xfer.text (x : Xfer) : List Byte := values (x.dsts.flatMap Part.bytes)

/-- Put sealed bytes in place of what they were made from. -/
def State.putSealed (id : Nat) (bs : List Byte) (s : State) : State :=
  (s.modXfer id fun t => { t with dsts := t.dsts.map fun p => Part.load p.loc (plain bs) }).storeOut id

/-- A pipe takes up an object of a drain: the slot's key and the next counter value seal it (R296, R304). A manifest's context is
opened, once. -/
def State.takeSeal (x : Xfer) (s : State) : State :=
  match x.work with
  | .drainSeg e n _ _ how =>
    match s.drainOf e with
    | some (g, f) => s.sealFor e f.keySlot ⟨1, true, how.bad, g.job, g.epoch, n⟩ x.text fun bs s => s.putSealed x.id bs
    | none => s
  | .drainMan e =>
    match s.drainOf e with
    | some (g, f) =>
      if FMap.has s.pipeCtx x.id then s
      else
        match s.bulkKey f.keySlot with
        | none => s.endDrain e 0x40 44
        | some k =>
          if 2 ^ 63 ≤ k.counter then s.endDrain e 0x41 44
          else
            let c := GcmCtx.start k ⟨2, false, false, g.job, g.epoch, 0⟩ x.text.length
            { s.sealed f.keySlot with pipeCtx := FMap.put s.pipeCtx x.id c }
    | none => s
  | .drainRec e =>
    match s.drainOf e with
    | some (g, _) =>
      match g.t3Draft with
      | some t =>
        match s.bulkKey t.keySlot with
        | none => s.endDrain e 0x40 44
        | some k =>
          if 2 ^ 63 ≤ k.counter then s.endDrain e 0x41 44
          else (s.sealed t.keySlot).putSealed x.id (g.drainRecord t k)
      | none => s
    | none => s
  | _ => s

/-- The key slot whose content opens a transfer's records. -/
def State.openKey (s : State) (x : Xfer) : Option KeySlot :=
  match x.work with
  | .sheet n _ => (FMap.find s.sheets n).bind s.sheetKey
  | .rest e _ _ => (s.restoring e).bind fun r => (s.gen r.epoch).bind fun g => (r.slotFor g).bind s.bulkKey
  | .t3Check e => (s.restoring e).bind fun r => (s.gen r.epoch).bind fun g => (r.slotFor g).bind s.bulkKey
  | _ => none

/-- How many bytes of an object a pipe works on before it may turn to another: all of them, but a manifest's next piece. -/
def Work.pipeRun (w : Work) (n : Nat) : Nat :=
  match w with
  | .drainMan _ => min n pipePiece
  | _ => n

/-- A pipe takes up the first object of a transfer: it is opened with what the key slot holds now (R304). -/
def State.takePipe (x : Xfer) (objs : List (Nat × Nat)) (s : State) : State :=
  let o := objs.headD (0, 0)
  let keys := match s.openKey x with
    | some k => FMap.put x.keys o.1 k
    | none => FMap.del x.keys o.1
  (s.takeSeal x).modXfer x.id fun t => { t with keys := keys, stage := .pipe (s.laneCycle + pipeCycles (x.work.pipeRun o.2)) objs }

/-- Grant a Yard's GCM pipes. Fuel is their number. -/
def State.grantPipes (y : Nat) : Nat → State → State
  | 0, s => s
  | n + 1, s =>
    if 2 ≤ (s.atStage y Stage.onPipe).length then s
    else
      let ws := s.atStage y Stage.atPipe
      let classes := ws.map fun x => x.work.gcmClaim
      let order := s.rigs.cur.prec.gcm
      match ((s.arb y).pick order classes).bind fun c => s.firstOf (ws.filter fun x => x.work.gcmClaim == c) with
      | some x =>
        match x.stage with
        | .pipeWait objs =>
          grantPipes y n ((s.modArb y fun a => a.dispatched order classes x.work.gcmClaim).takePipe x objs)
        | _ => s
      | none => s

/-- Grant a Yard's Unfurl unit. -/
def State.grantUnit (y : Nat) (s : State) : State :=
  if !(s.atStage y Stage.onUnit).isEmpty then s
  else
    let ws := s.atStage y (· == .unitWait)
    let classes := (ws.map fun x => x.work.unitClaim).eraseDups
    match (s.unitPick y classes).bind fun c => s.firstOf (ws.filter fun x => x.work.unitClaim == c) with
    | some x =>
      (s.unitDispatched y classes x.work.unitClaim).modXfer x.id fun t => { t with stage := .unit (s.laneCycle + s.unitNeeds x) }
    | none => s

/-! ### The passing of cycles -/

/-- Does another claimant of the Yard's pipes come before the drain seals, so that a manifest is suspended (R293, R440)? -/
def State.suspends (s : State) (y : Nat) : Bool :=
  let ws := (s.atStage y Stage.atPipe).map fun x => x.work.gcmClaim
  match (s.arb y).pick s.rigs.cur.prec.gcm (3 :: ws) with
  | some c => c != 3
  | none => false

/-- The next piece of a manifest has passed: it goes on, is suspended at the boundary with its context saved, or is done (R293).
Fuel is the number of its pieces. -/
def State.manifestOn (id : Nat) : Nat → State → State
  | 0, s => s
  | n + 1, s =>
    match FMap.find s.xfers id, FMap.find s.pipeCtx id with
    | some x, some c =>
      match x.stage with
      | .pipe done _ =>
        if s.laneCycle < done then s
        else
          let text := x.text
          let c := c.absorb (slice text c.done pipePiece)
          let left := text.length - c.done
          if left = 0 then
            ({ s with pipeCtx := FMap.del s.pipeCtx id }.putSealed id c.finish).modXfer id fun t => { t with stage := .over }
          else
            let s := { s with pipeCtx := FMap.put s.pipeCtx id c }
            if s.suspends x.yard then s.modXfer id fun t => { t with stage := .pipeWait [(0, left)] }
            else manifestOn id n (s.modXfer id fun t => { t with stage := .pipe (done + pipeCycles (min left pipePiece)) [(0, left)] })
      | _ => s
    | _, _ => s

/-- A transfer's engine has done what it works on. -/
def State.stageEnds (id : Nat) (s : State) : State :=
  match FMap.find s.xfers id with
  | none => s
  | some x =>
    match x.stage, x.work with
    | .pipe _ _, .drainMan _ => s.manifestOn id (ceilDiv x.text.length pipePiece + 1)
    | .pipe done objs, _ =>
      if s.laneCycle < done then s
      else s.modXfer id fun t => { t with stage := if objs.length ≤ 1 then s.afterPipe x else .pipeWait (objs.drop 1) }
    | .unit done, _ => if s.laneCycle < done then s else s.modXfer id fun t => { t with stage := .over }
    | _, _ => s

/-- The Yards whose engines somebody waits for or holds. -/
def State.stagedYards (s : State) : List Nat := ((s.xfers.filter fun x => x.2.stage != .idle).map (·.2.yard)).eraseDups

/-- The engines of every Yard go on: what is done ends, and the next claimants are served. -/
def State.settleStages (s : State) : State :=
  let s := { s with pipeCtx := FMap.keep s.pipeCtx fun id _ => FMap.has s.xfers id }
  let s := s.xfers.foldl (fun s x => s.stageEnds x.1) s
  s.stagedYards.foldl (fun s y => (s.grantPipes y 2).grantUnit y) s

end Sys2Proof.Machine
end

