-- ==== Sys2Proof/Machine/Engine.lean ====
section
/-! DEFINITION. The engine: what the fabric, staging and host ports answer (R45, R48, R49, R57 to R59, R97, R324, R327, R329),
how transfers fail, and how they move from read through their stages to write and done (R19, R82, R123). -/

namespace Sys2Proof.Machine

/-! ### Whose transfer -/

/-- The owner of a transfer meets a condition at a source part. -/
def State.xferMeet (x : Xfer) (i status info : Nat) (s : State) : State := s.meetAt x (s.landingOf x i) status info

/-- Is a COPY's piece? -/
def Work.isCopy : Work → Bool
  | .copy _ => true
  | _ => false

/-- Is the work one whose entry reports poison (R86, R204, R269)? -/
def Work.reportsPoison : Work → Bool
  | .copy _ => true
  | .rest _ _ _ => true
  | .sheet _ _ => true
  | _ => false

/-- The first poison-marked bytes of a transfer have come: its entry meets POISONED then (R86). -/
def State.poisonFound (x : Xfer) (poisoned : Bool) (s : State) : State :=
  if !poisoned || !x.work.reportsPoison then s
  else match s.ownerOf x with
    | some a => s.meet a.id 0x22 0
    | none => s

/-- Is any transfer of an entry left? -/
def State.entryBusy (s : State) (e : Nat) : Bool := s.hasWork fun w => w.entry? == some e

/-- An entry whose transfers are all done ends. -/
def State.entryDone (e : Nat) (s : State) : State :=
  if s.entryBusy e then s else s.endEntry e (((s.acc e).map (·.count)).getD 0)

/-! ### Uncorrectable data (R327, R329) -/

/-- A segment of a member is recorded as poisoned (R193, R327). -/
def Gen.poisonAt (g : Gen) (i n : Nat) : Gen :=
  match g.segs.findIdx? fun x => g.place x == (i, n) with
  | some k => (g.modSeg k fun x => { x with poisoned := true }).listPoison k
  | none => g

/-- Does a source part of a restore come from the drained copy? Its record's tag decides then (R336). -/
def tagged (hows : List RestHow) (i : Nat) : Bool := ((howOfPart hows i).map fun h => h.1.tier == 3).getD false

/-- An uncorrectable read counts as failed where stored copies are read, and marks the segment of parity work that no pending entry owns
(R168, R327). A sealed record goes on to its tag check, which fails (R336). -/
def State.eccReadFailed (x : Xfer) (i : Nat) (s : State) : State :=
  match x.work with
  | .drainSeg _ _ _ _ _ => s.failPart x.id i false
  | .rest _ _ hows => if tagged hows i then s else s.failPart x.id i false
  | .t3Check _ => s.failPart x.id i false
  | .stripe _ e r j =>
    let s := s.failPart x.id i false
    if (s.ownerOf x).isSome then s else s.modGen e fun g => g.poisonAt (r * g.k + i) j
  | _ => s

/-- What a transfer has read is taken from its Yard's SRAM: flipped words show, and stay as stored (R321, R325, R327, R335). -/
def State.readSrcs (x : Xfer) (s : State) : State :=
  (flipsOf x.srcs).foldl (fun s f =>
    match s.readFlip x (s.landingOf x f.1) f.2 with
    | (true, s) => s.eccReadFailed x f.1
    | (false, s) => s) s

/-! ### Failures of requests (R49, R97, R465) -/

/-- A read of a transfer's part is lost: COPY and Sheets meet it; stored copies are had elsewhere (R49, R168, R268). -/
def State.readLost (x : Xfer) (i info : Nat) (s : State) : State :=
  let s := s.failPart x.id i false
  if x.work.isCopy || x.work.isSheet then s.xferMeet x i 0x23 info else s

/-- A write of a transfer's part is not known to be written. -/
def State.writeLost (x : Xfer) (i ep info : Nat) (s : State) : State :=
  match x.work with
  | .copy e => (s.meet e 0x23 info).failPart x.id i true
  | .fill e => (s.meet e 0x23 info).failPart x.id i true
  | .tier1 _ e _ => (s.abandon e (if s.lost.contains ep then 1 else 2) ep).dropXfer x.id
  | .drainSeg e _ _ _ _ => s.endDrain e 0x23 info
  | .drainMan e => s.endDrain e 0x23 info
  | .drainRec e => s.endDrain e 0x23 info
  | .rest e _ _ => s.restWriteFailed e ep info
  | .sheet n _ => s.slotFailed n info
  | .tail n _ => (s.slotFailed n info).dropXfer x.id
  | _ => s

/-- The source's data was longer than asked for (R97). -/
def State.readLong (x : Xfer) (i n : Nat) (s : State) : State :=
  match x.work with
  | .sheet k u =>
    match FMap.find s.sheets k with
    | some h => (s.meetNew h.entry 0x21 n).logFn 0x0401 h.fn [k, s.landing x k u i, 0x21]
    | none => s
  | w => match w.entry? with
    | some e => s.meetLong e n
    | none => s

/-- A fabric request ends without its answer: cause 1 timeout, 2 link stopped, 3 ERR (R49, R461). -/
def State.lose (r : FabReq) (cause : Nat) (s : State) : State :=
  let s := { s with freqs := s.freqs.filter fun q => !(q.port == r.port && q.tag == r.tag && q.write == r.write) }
  match FMap.find s.xfers r.xfer with
  | none => s
  | some x =>
    let info := lostInfo r.port cause
    if r.write then s.writeLost x r.part r.ep info
    else if cause = 1 && decide (r.len < r.got) then s.readLong x r.part (r.got - r.len)
    else s.readLost x r.part info

/-- Every request that a test accepts ends without its answer. -/
def State.loseAll (p : FabReq → Bool) (cause : Nat) (s : State) : State :=
  (s.freqs.filter p).foldl (fun s r =>
    if s.freqs.any fun q => q.port == r.port && q.tag == r.tag && q.write == r.write then s.lose r cause else s) s

/-- A fabric link stops, or goes down: the responses that it owes are lost (R49, R54). -/
def State.dropPort (port : Nat) (s : State) : State := s.loseAll (·.port == port) 2

/-- Move a link to STOPPED and ask for retraining (Table 2-5). -/
def State.stopLink (port : Nat) (s : State) : State :=
  (s.modLink port fun l => { l with state := .stopped, retrain := true, newHalf := none, rollSent := false }).dropPort port

/-! ### Responses of the fabric (R45, R49, R97) -/

/-- Count a packet that is discarded as malformed. -/
def State.badPacket (port : Nat) (s : State) : State :=
  if port < 32 then s.bump (ctrId 4 port 3) else s.bump (ctrId 6 (port - 32) 2)

/-- The request that a response answers. -/
def State.reqFor (s : State) (port tag : Nat) (write : Bool) : Option FabReq :=
  s.freqs.find? fun r => r.port == port && r.tag == tag && r.write == write

/-- The last packet of a response has come: compare with what was asked for (R97). -/
def State.readAnswered (r : FabReq) (x : Xfer) (s : State) : State :=
  let s := { s with freqs := s.freqs.filter fun q => !(q.port == r.port && q.tag == r.tag && !q.write) }
  if r.got < r.len then
    let plen := ((x.srcs[r.part]?).map (·.len)).getD 0
    (s.putBad x.id r.part (r.off + r.got) (min r.len (plen - r.off) - r.got)).xferMeet x r.part 0x20 (if x.work.isSheet then r.got else 0)
  else if r.len < r.got then s.readLong x r.part (r.got - r.len)
  else s

/-- Data of a response is stored, and counts as received (R86, R97). -/
def State.readData (r : FabReq) (x : Xfer) (rel : Nat) (data : List PByte) (s : State) : State :=
  let plen := ((x.srcs[r.part]?).map (·.len)).getD 0
  let room := min r.len (plen - r.off)
  let keep := data.take (room - rel)
  let s := if keep.isEmpty then s else s.putChunk x.id r.part (r.off + rel) keep
  let more := fun (q : FabReq) => if q.port == r.port && q.tag == r.tag && !q.write then { q with got := q.got + data.length } else q
  let s := { s with freqs := s.freqs.map more }
  let s := match s.ownerOf x with
    | some a => s.modAcc a.id fun a => { a with recv := a.recv + keep.length }
    | none => s
  s.poisonFound x (anyPoison keep)

/-- The fabric address at which the data of a read request starts. -/
def Xfer.readBase (x : Xfer) (r : FabReq) : Nat :=
  (match (x.srcs[r.part]?).map (fun (p : Part) => p.loc) with
    | some (Loc.fabric a) => a
    | _ => 0) + r.off

/-- RD_RSP (R45, R48, R49, R97). One from an endpoint that the request did not go to, or whose ADDR lies in another endpoint
or below the request, matches no request: log 52, DESIGN CHOICE. -/
def State.rdRsp (port : Nat) (p : Pkt) (data : List PByte) (s : State) : State :=
  match s.reqFor port p.tag false with
  | none => s.badPacket port
  | some r =>
    match FMap.find s.xfers r.xfer with
    | none => { s with freqs := s.freqs.filter fun q => !(q.port == r.port && q.tag == r.tag && !q.write) }
    | some x =>
      if p.src ≠ r.ep || epOf p.addr ≠ r.ep || p.addr < x.readBase r then s.badPacket port
      else if p.err then s.lose r 3
      else
        let s := s.readData r x (p.addr - x.readBase r) data
        if p.last then s.readAnswered { r with got := r.got + data.length } x else s

/-- WR_ACK (R45, Table 2-4): the WR with this tag and every earlier one of the pair on this port are written; with ERR, the
WR with this tag is not. One from an endpoint that the write did not go to matches none: log 52. -/
def State.wrAck (port : Nat) (p : Pkt) (s : State) : State :=
  match s.reqFor port p.tag true with
  | none => s.badPacket port
  | some r =>
    if p.src ≠ r.ep then s.badPacket port
    else
      let before := (s.freqs.takeWhile fun q => q != r)
      let acked := before.filter fun q => q.write && q.port == port && q.ep == r.ep
      let s := { s with freqs := s.freqs.filter fun q => !acked.contains q }
      if p.err then s.lose r 3 else { s with freqs := s.freqs.filter (· != r) }

/-! ### Staging responses (R58, R321 to R325, R327, R329) -/

/-- The granules of a port that hold no known content (R329). -/
def State.unknownAt (s : State) (port : Nat) : List Nat := FMap.getD s.unknown port []

/-- The bytes of one granule that belong to a source part. -/
def State.deliver (x : Xfer) (r : StgReq) (bs : List PByte) (s : State) : State :=
  match x.srcs[r.part]? with
  | none => s
  | some p =>
    let skip := match p.loc with
      | .staging o => o % 64
      | _ => 0
    let off := r.off - skip
    let bs := if r.off = 0 then bs.drop skip else bs
    s.putChunk x.id r.part off (bs.take (p.len - off))

/-- The write half of a read-modify-write (R324): poisoned where the read was bad. -/
def State.mergeWrite (x : Xfer) (r : StgReq) (old : List PByte) (s : State) : State :=
  match x.dsts[r.part]? with
  | none => s
  | some p =>
    match p.loc with
    | .staging o =>
      let abs := o / 64 * 64 + r.off
      let new := List.zipWith (fun (n : Option PByte) b => n.getD b) (granuleOf o p.bytes (r.off, abs)) (fit 64 PByte.zero old)
      let new := if anyPoison old then new.map fun b => { b with poison := true } else new
      s.stgWrite x.id r.part r.off abs new
    | _ => s

/-- A staging write was not confirmed: its granule is unknown; a failure on a port whose list is full halts the block (R329). -/
def State.holdUnknown (port unitAddr : Nat) (s : State) : State :=
  let ls := s.unknownAt port
  if 1024 ≤ ls.length then s.haltBlock 14
  else if ls.contains unitAddr then s
  else { s with unknown := FMap.put s.unknown port (ls ++ [unitAddr]) }

/-- A granule was written whole and confirmed: it is known again (R329). -/
def State.dropUnknown (port unitAddr : Nat) (s : State) : State :=
  { s with unknown := FMap.put s.unknown port ((s.unknownAt port).filter (· != unitAddr)) }

/-- Does the transfer write the generation directory or the manifests behind it (R161)? -/
def Work.writesDir : Work → Bool
  | .dirWrite _ _ _ => true
  | .dirMan _ _ _ => true
  | _ => false

/-- A staging write of a transfer was not confirmed (R327, R329). -/
def State.stgWriteFailed (x : Xfer) (r : StgReq) (cause : Nat) (s : State) : State :=
  let s := s.holdUnknown r.port r.unitAddr
  let s := s.uncorrectable x (s.landingOf x r.part) 3 (if x.work.writesDir then 4 else cause) r.port r.unitAddr 1
  match x.work with
  | .stripe _ e _ _ => s.abandon e 3 0
  | _ => s.failPart x.id r.part true

/-- The entry that waits for the run of block writes that a granule belongs to. -/
def State.scrubOwner (s : State) (off : Nat) : Option Acc :=
  ((s.scrubs.find? fun k => within off 64 k.base k.len).bind fun k => s.acc k.entry).filter (·.fin.isNone)

/-- A write of the block's own was not confirmed: its granule is unknown, the event is counted and logged, an entry that waits for the
run owns it, and a directory copy that it belongs to does not stand (R161, R327, R329). -/
def State.ownWriteFailed (r : StgReq) (cause : Nat) (s : State) : State :=
  let off := s.setup.stagingOff r.port r.unitAddr
  let owner := s.scrubOwner off
  let s := (s.holdUnknown r.port r.unitAddr).uncEvent owner 3 cause r.port r.unitAddr 1
  let s := match owner with
    | some a => s.meet a.id 0x82 (eccInfo 3 cause r.port r.unitAddr)
    | none => s
  let rel := off - s.setup.reservedBase
  if s.setup.reservedBase ≤ off && decide (rel < 2097152) then
    let d := s.dirEnt (rel / 2048)
    { s with dir := FMap.put s.dir (rel / 2048) (if rel / 1024 % 2 = 0 then { d with a := none } else { d with b := none }) }
  else s

/-- The answer to a write of the block's own: a run of R180, R331 or R334, or an entry of the persistent log (R58). -/
def State.ownAnswer (r : StgReq) (answer : Option Bool) (s : State) : State :=
  match answer with
  | some false => (s.staleLines (.staging (s.setup.stagingOff r.port r.unitAddr)) 64).dropUnknown r.port r.unitAddr
  | some true => s.ownWriteFailed r 4
  | none => s.ownWriteFailed r 3

/-- A staging read comes back as bad: reported, and delivered or merged as poisoned zeros (R327). -/
def State.stgReadBad (x : Xfer) (r : StgReq) (cause n : Nat) (s : State) : State :=
  let s := s.uncorrectable x (s.landingOf x r.part) 3 cause r.port r.unitAddr n
  if r.rmw then s.mergeWrite x r badGranule else (s.eccReadFailed x r.part).deliver x r badGranule

/-- What a granule read shows is counted: corrected words, and a poisoned granule (R333). -/
def State.countGranule (port unitAddr : Nat) (g : GranuleRead) (s : State) : State :=
  let s := s.count (ctrId 5 port 2) g.corrected.length
  let s := g.corrected.foldl (fun s c =>
    { s with ctr := (s.ctr.last (ctrId 5 port 8) ((unitAddr * 8 + c.1) % 2 ^ 32)).last (ctrId 5 port 9) c.2 }) s
  if g.poisoned then s.bump (ctrId 5 port 7) else s

/-- How a staging read came back: bad with its cause and the words or reads that count, or with its granule. -/
inductive StgRead where
  | bad (cause n : Nat)
  | good (g : GranuleRead)
  deriving DecidableEq, Repr

/-- Classify the answer to a staging read; none is an answer that has not come within 10 µs, and a granule without known content
reads as bad (R58, R321, R323, R329). -/
def State.stgClassify (port unitAddr : Nat) (answer : Option (Bool × List Byte × List Byte)) (s : State) : StgRead × State :=
  if (s.unknownAt port).contains unitAddr then (.bad 4 1, s)
  else
    match answer with
    | none => (.bad 3 1, s)
    | some (err, data, check) =>
      if err then (.bad 2 1, s)
      else
        let g := readGranule port unitAddr data check
        (if 0 < g.bad then .bad 1 g.bad else .good g, s.countGranule port unitAddr g)

/-- A staging read that its transfer waits for comes back. -/
def State.stgReadBack (x : Xfer) (r : StgReq) (answer : Option (Bool × List Byte × List Byte)) (s : State) : State :=
  match s.stgClassify r.port r.unitAddr answer with
  | (.bad cause n, s) => s.stgReadBad x r cause n
  | (.good g, s) =>
    let s := s.poisonFound x (g.poisoned && !r.rmw)
    if r.rmw then s.mergeWrite x r g.data else s.deliver x r g.data

/-- A staging read that no transfer waits for any more comes back: reported, and not delivered (R327, R329). -/
def State.oldReadBack (x : Option Xfer) (r : StgReq) (answer : Option (Bool × List Byte × List Byte)) (s : State) : State :=
  match s.stgClassify r.port r.unitAddr answer, x with
  | (.bad cause n, s), some x => s.uncorrectable x (s.landingOf x r.part) 3 cause r.port r.unitAddr n
  | (.bad cause n, s), none => s.uncEvent none 3 cause r.port r.unitAddr n
  | (.good _, s), _ => s

/-- A staging write that no transfer waits for any more is answered (R329). -/
def State.oldWriteBack (x : Option Xfer) (r : StgReq) (answer : Option Bool) (s : State) : State :=
  let cause := if answer.isNone then 3 else 4
  match answer, x with
  | some false, _ => (s.staleLines (.staging (s.setup.stagingOff r.port r.unitAddr)) 64).dropUnknown r.port r.unitAddr
  | _, some x => (s.holdUnknown r.port r.unitAddr).uncorrectable x (s.landingOf x r.part) 3 cause r.port r.unitAddr 1
  | _, none => (s.holdUnknown r.port r.unitAddr).uncEvent none 3 cause r.port r.unitAddr 1

/-- A staging port's answer; none is an answer that has not come within 10 µs (R58, R329). -/
def State.stgAnswer (port tag : Nat) (answer : Option (Bool × List Byte × List Byte)) (s : State) : State :=
  match s.sreqs.find? fun r => r.port == port && r.tag == tag with
  | none => s
  | some r =>
    let s := { s with sreqs := s.sreqs.erase r }
    let x := FMap.find s.xfers r.xfer
    if r.xfer = 0 then s.ownAnswer r (answer.map (·.1))
    else if r.old then if r.write then s.oldWriteBack x r (answer.map (·.1)) else s.oldReadBack x r answer
    else
      match x with
      | none => s
      | some x =>
        if r.write then
          match answer with
          | some (false, _, _) => s.dropUnknown port r.unitAddr
          | some (true, _, _) => s.stgWriteFailed x r 4
          | none => s.stgWriteFailed x r 3
        else s.stgReadBack x r answer

/-! ### Host responses (R59, R96) -/

/-- A host read or write of a transfer was answered with an error (R59). -/
def State.hostFailed (x : Xfer) (i off len : Nat) (write : Bool) (s : State) : State :=
  let s := if write then s else s.putBad x.id i off len
  match x.work with
  | .sheet n u =>
    match FMap.find s.sheets n with
    | some h => (s.meetHost h.entry len).logFn 0x0401 h.fn [n, s.landing x n u i, 0x22]
    | none => s
  | w => match w.entry? with
    | some e => s.meetHost e len
    | none => s

/-- HOST_RESPONSE. -/
def State.hostAnswer (req : Nat) (answer : HostRead) (s : State) : State :=
  match s.hreqs.find? (·.id == req) with
  | none => s
  | some r =>
    let s := { s with hreqs := s.hreqs.filter (·.id != req) }
    match r.use, answer with
    | .completion ring index, .error => s.cqWriteError ring index
    | .completion _ _, .data _ => s
    | .interrupt _, _ => s
    | .data x i off len write, a =>
      match FMap.find s.xfers x with
      | none => s
      | some t =>
        match a with
        | .error => s.hostFailed t i off len write
        | .data bs => if write then s else s.putChunk x i off (plain (bs.take len))

/-! ### What a transfer moves next -/

/-- The parts that a transfer moves next, and whether it writes them. -/
def Xfer.nextParts (x : Xfer) : Option (List Part × Bool) :=
  match x.phase with
  | .queued => some (if x.srcs.isEmpty then (x.dsts, true) else (x.srcs, false))
  | .loaded => if x.stage = .idle then some (x.dsts, true) else none
  | _ => none

/-! ### From read to write to done -/

/-- A captured segment's tier-1 read has reached Yard SRAM (R123, R129, R193). -/
def State.readComplete (id : Nat) (s : State) : State :=
  match FMap.find s.xfers id with
  | none => s
  | some x0 =>
    match x0.work with
    | .tier1 _ e i =>
      if x0.phase != .reading || s.owes id then s
      else
        let s := s.readSrcs x0
        let x := (FMap.find s.xfers id).getD x0
        let data := (x.input).getD 0 []
        let opened := ((s.gen e).map (·.state)) == some .opened
        let digests := ((s.gen e).map (·.digests)).getD false
        let keep := if digests then data else []
        let s := s.modSeg e i fun g => { g with hasRead := true, poisoned := anyPoison data, taken := keep }
        let s := s.modXfer id fun t => { t with phase := .loaded, dsts := t.dsts.map fun p => { p with chunks := [(0, data)] } }
        if opened then (if anyPoison data then s.modGen e fun g => { g with provPoison := g.provPoison.filter (· != i) ++ [i] } else s)
        else (s.modGen e fun g => g.listPoison i).segRead e i
    | _ => s

/-- Has every transfer of an entry come in? -/
def State.allLoaded (s : State) (e : Nat) : Bool :=
  (s.xfers.filter fun z => z.2.work == .digest e).all fun z => z.2.phase == .loaded

/-- The data of a DIGEST's last piece has come. -/
def State.digestLoaded (x : Xfer) (e : Nat) (s : State) : State :=
  let s := s.modXfer x.id fun t => { t with phase := .loaded }
  if !s.allLoaded e then s
  else
    let data := (s.xfers.filter fun z => z.2.work == .digest e).flatMap fun z => values (z.2.input.flatten)
    match s.acc e with
    | some a =>
      match a.op with
      | .digest f => (s.dropWork fun w => w == .digest e).digestTaken a f data
      | _ => s
    | none => s.dropWork fun w => w == .digest e

/-- A COPY's piece has come: delivered, but for one that was lost (R49, R97, R461). -/
def State.copyLoaded (x : Xfer) (e : Nat) (s : State) : State :=
  if x.srcs.any (·.failed) then (s.dropXfer x.id).entryDone e
  else
    let data := x.input.flatten
    let host := x.srcs.any fun p => match p.loc with
      | .host _ _ => true
      | _ => false
    let s := if host then s else s.meetPoison e (poisonCount data)
    s.modXfer x.id fun t => { t with phase := .loaded, dsts := t.dsts.map fun p => { p with chunks := [(0, data)] } }

/-- The blob of a STAMP has come (R142). -/
def State.stampLoaded (x : Xfer) (e : Nat) (s : State) : State :=
  let s := s.dropXfer x.id
  match s.acc e with
  | none => s
  | some a =>
    match a.op with
    | .stamp f => if a.conds.isEmpty then s.putStamp a f (values x.input.flatten) else s.endEntry e 0
    | _ => s

/-- The failed source parts of a transfer. -/
def Xfer.failedParts (x : Xfer) : List Nat := (x.srcs.zipIdx.filter (·.1.failed)).map (·.2)

/-- A transfer's reads are all answered: its stages run, and its writes are ready. A stripe whose stay-copy read failed is computed from
what was delivered, with poison-marked zeros in the place of what was not, and counts as done; the copy is lost: log 130,
DESIGN CHOICE. -/
def State.loaded (x : Xfer) (s : State) : State :=
  let ready := fun (s : State) => s.modXfer x.id fun t => { t with phase := .loaded }
  match x.work with
  | .copy e => s.copyLoaded x e
  | .stamp e => s.stampLoaded x e
  | .digest e => s.digestLoaded x e
  | .stripe _ e r _ =>
    let k := ((s.gen e).map Gen.k).getD 0
    let s := (s.stripeLoaded x e)
    (ready (x.failedParts.foldl (fun s p => s.loseStay e (r * k + p)) s)).storeOut x.id
  | .drainSeg a n i seg how =>
    match x.failedParts with
    | p :: _ => s.drainReadFailed x a i seg how p
    | [] => (ready (s.drainLoaded x a n i seg how)).storeOut x.id
  | .t3Check e => s.checkLoaded x e (!x.failedParts.isEmpty)
  | .rest e m hows =>
    match x.failedParts with
    | p :: _ => s.restReadFailed x e m hows p
    | [] => (ready (s.restLoaded x e m hows)).storeOut x.id
  | _ => ready s

/-- A transfer's stages are over: what they were for goes on. -/
def State.stagesOver (x : Xfer) (s : State) : State :=
  let s := s.modXfer x.id fun t => { t with stage := .idle }
  match x.work with
  | .sheet n u => (s.produceUnit n x.id u).writeUnit n x.id
  | .rest _ _ _ => s.loaded x
  | .t3Check _ => s.loaded x
  | _ => s

/-- A transfer enters its stages; without any it goes on at once. -/
def State.startStages (id : Nat) (s : State) : State :=
  let s := s.enterStages id
  match FMap.find s.xfers id with
  | some x => if x.stage = .over then s.stagesOver x else s
  | none => s

/-- A Sheet's reads are all answered: read again, read on, or run the unit's stages (R267, R268). -/
def State.sheetLoaded (n x : Nat) (s : State) : State :=
  match FMap.find s.xfers x with
  | none => s
  | some t =>
    let wait := s.unasked t
    if !wait.isEmpty then wait.foldl (fun s i => s.issueLine x i) s
    else if !t.toReread.isEmpty then s.rereadLines n x
    else
      let (asked, s) := (s.enterLines n x).fetchLines n x
      let s := s.modXfer x fun t => { t with again := false }
      if asked then s
      else
        match FMap.find s.xfers x with
        | some t => (s.readSrcs t).startStages x
        | none => s

/-- A transfer's reads are all answered: a drain's segment is coded, what is sealed goes to a pipe, and the rest is ready. -/
def State.arrived (x : Xfer) (s : State) : State :=
  if x.srcs.any (·.failed) then s.loaded x
  else
    match x.work with
    | .drainSeg _ _ _ _ _ => (s.loaded x).startStages x.id
    | .rest _ _ _ => s.startStages x.id
    | .t3Check _ => s.startStages x.id
    | _ => s.loaded x

/-- A COPY's or FILL's piece is written: its bytes count, unless they are not known to be written. -/
def State.pieceDone (x : Xfer) (e : Nat) (s : State) : State :=
  let n := if x.dsts.any (·.failed) then 0 else (x.dsts.map (·.len)).foldl (· + ·) 0
  ((s.dropXfer x.id).modAcc e fun a => { a with count := a.count + n }).entryDone e

/-- INFO of the write of a directory copy that was not confirmed (R161, R327): the last failed granule is not recorded; the
log holds each. -/
def State.dirFailInfo (s : State) (x : Xfer) : Option Nat :=
  match (x.dsts.find? (·.failed)).map (fun (p : Part) => p.loc) with
  | some (Loc.staging o) =>
    let pl := s.setup.stagingPlace o
    some (eccInfo 3 4 pl.1 ((s.unknownAt pl.1).getLast?.getD pl.2))
  | some _ => some (eccInfo 3 4 0 0)
  | none => none

/-- A transfer's writes are all acknowledged. -/
def State.written (x : Xfer) (s : State) : State :=
  let s := x.dsts.foldl (fun s p => s.staleLines p.loc p.len) s
  match x.work with
  | .copy e => s.pieceDone x e
  | .fill e => s.pieceDone x e
  | .resultOut e => (s.dropXfer x.id).entryDone e
  | .tier1 _ e i => ((s.dropXfer x.id).modSeg e i fun g => { g with wrote := true }).advance e
  | .stripe _ e r j => (s.dropXfer x.id).stripeDone e r j
  | .dirMan i e code => (s.dropXfer x.id).manPieceDone i e code (s.dirFailInfo x)
  | .dirWrite i e code => (s.dropXfer x.id).copyDone i e code (s.dirFailInfo x)
  | .drainRec a => (s.dropXfer x.id).drainRecorded a
  | .rest e m hows => (s.dropXfer x.id).restDone e m hows
  | .sheet n u => s.unitDone x n u
  | _ => s.dropXfer x.id

/-- Move a transfer on that no port owes an answer. -/
def State.moveOn (id : Nat) (s : State) : State :=
  match FMap.find s.xfers id with
  | none => s
  | some x =>
    if s.owes id then s
    else
      match x.phase, x.work with
      | .reading, .tier1 _ _ _ => s
      | .reading, .sheet n _ => if x.parked then s else s.sheetLoaded n id
      | .reading, _ =>
        let s := s.readSrcs x
        match FMap.find s.xfers id with
        | some x => s.arrived x
        | none => s
      | .loaded, w =>
        if x.parked then s
        else if x.stage = .over then s.stagesOver x
        else match w with
          | .sheet n _ => if x.stage = .idle then s.writeUnit n id else s
          | _ => s
      | .queued, _ => if x.srcs.isEmpty && x.dsts.isEmpty then s.written x else s
      | .writing, _ => s.written x

/-- Move every transfer on that can move. -/
def State.settleXfers (s : State) : State := s.xfers.foldl (fun s p => s.moveOn p.1) s

/-! ### No usable port (R465) -/

/-- The port that a part of a Sheet's transfer at a fabric address must take, where an earlier part of its unit, segment or slot chose
one (R46, R255, R450). -/
def State.pinned (s : State) (x : Xfer) (i a : Nat) (write : Bool) : Option Nat :=
  match x.work with
  | .sheet n _ =>
    if !write then FMap.find x.ports (s.readKey x a)
    else if x.parked then (x.slots[i]?).bind fun q => FMap.find x.ports q
    else (FMap.find s.sheets n).bind fun h => (x.slots[i]?).bind fun q => h.keptPort q
  | .tail n q => if x.parked then some x.port else (FMap.find s.sheets n).bind fun h => h.keptPort q
  | _ => none

/-- The fabric parts of a list that no usable port reaches. -/
def State.cutOff (s : State) (x : Xfer) (ps : List Part) (write : Bool) : List (Nat × Nat) :=
  (ps.zipIdx.filterMap fun p => match p.1.loc with
    | .fabric a =>
      let ep := epOf a
      let lost := match s.pinned x p.2 a write with
        | some q => !(s.portsTo ep).contains q
        | none => (s.portsTo ep).isEmpty
      if lost then some (p.2, ep) else none
    | _ => none)

/-- A transfer has waited for a usable port for the response timeout: it ends with FABRIC_LOST, port 0xFF. -/
def State.portTimeout (id : Nat) (s : State) : State :=
  match FMap.find s.xfers id with
  | none => s
  | some x =>
    let info := lostInfo 0xFF 2
    match x.phase, x.nextParts with
    | .reading, _ =>
      if x.work.isSheet then
        ((s.unasked x).filter fun i => (s.cutOff x x.srcs false).any (·.1 == i)).foldl (fun s i => s.readLost x i info) s
      else s
    | _, some (ps, write) =>
      match s.cutOff x ps write with
      | [] => s
      | cut =>
        let s := s.modXfer id fun t => { t with phase := if write then .writing else .reading }
        cut.foldl (fun s p => if write then s.writeLost x p.1 p.2 info else s.readLost x p.1 info) s
    | _, none => s

/-- An entry's CLEAT SIGNAL packet has waited for a usable port for the response timeout: it is not sent, and the entry meets
FABRIC_LOST. -/
def State.signalTimeout (e : Nat) (s : State) : State :=
  match s.acc e with
  | none => s
  | some a =>
    if !a.sigWait then s
    else
      let s := { s with waitPkts := s.waitPkts.filter (·.1 != e) }
      s.modAcc e fun a => { a with sigWait := false, sigSent := if a.fin.isSome then true else a.sigSent,
                                   conds := a.conds ++ [⟨0x23, lostInfo 0xFF 2⟩], fin := a.fin.orElse fun _ => some 0 }

end Sys2Proof.Machine
end

