-- ==== Sys2Proof/Machine/Lanes.lean ====
section
/-! DEFINITION. Lane time (R114, R124, R167, R266, R340, R376, R377): the classes of Table 13-6, the order within a class, and the
dispatch of transfers and of Sheets' work units to the lanes of a Yard. -/

namespace Sys2Proof.Machine

/-! ### Ports -/

/-- A port through which all parts may go now. -/
def State.portFor (s : State) (ps : List Part) (write : Bool) : Option Nat :=
  let eps := ps.filterMap fun p => match p.loc with
    | .fabric a => some (epOf a)
    | _ => none
  let cand := match eps with
    | [] => [0]
    | ep :: _ => s.portsTo ep
  cand.find? fun q => s.portsAllow ps write q

/-! ### Header signals on the last WR (R47, R82) -/

/-- The endpoint that all of a transfer's writes go to over the fabric. -/
def Xfer.writesTo (x : Xfer) : Option Nat :=
  match (x.dsts.getLast?.map fun (p : Part) => p.loc) with
  | some (Loc.fabric a) => some (epOf a)
  | _ => none

/-- Would the transfer's last WR carry its entry's header signal: the last transfer of the entry, toward the endpoint that
holds the Cleat (R47, R82)? -/
def State.carries (s : State) (x : Xfer) : Option Acc :=
  match x.work.entry?.bind s.acc with
  | none => none
  | some a =>
    let others := s.xfers.any fun z => z.1 != x.id && z.2.work.entry? == some a.id && z.2.phase != .writing
    if a.owesSignal && !others && a.hdr.sigEp != s.setup.fabEp && x.writesTo == some a.hdr.sigEp then some a else none

/-- Must the transfer wait for the acknowledgements of its entry's other writes, because it carries the signal (R47)? -/
def State.signalWaits (s : State) (x : Xfer) : Bool :=
  (s.carries x).isSome && s.xfers.any fun z => z.1 != x.id && z.2.work.entry? == x.work.entry?

/-- May a Sheet's unit that waits to be replayed go on: reads wait for their ports one by one, and writes take the ports that they took
before (R54, R255, R421)? -/
def State.unparks (s : State) (x : Xfer) : Bool :=
  x.phase == .reading || (s.cutOff x x.dsts true).isEmpty

/-- Does a transfer write over what another is still to write? -/
def Xfer.over (x z : Xfer) : Bool := x.dsts.any fun p => z.dsts.any fun q => p.loc.meets p.len q.loc q.len

/-- Must a piece of a manifest wait for one of an earlier record that is still queued (R147, R181)? -/
def State.manifestWaits (s : State) (x : Xfer) : Bool :=
  s.xfers.any fun z => decide (z.1 < x.id) && z.2.phase == .queued && z.2.work == x.work && x.over z.2

/-- May a transfer that is not a Sheet's write now (R147, R201)? -/
def State.mayWrite (s : State) (x : Xfer) : Bool :=
  !s.signalWaits x && match x.work with
    | .rest e _ _ => s.restMayWrite e
    | .manBuf _ _ => !s.manifestWaits x
    | _ => true

/-! ### Classes (Table 13-6) -/

/-- The precedence of a segment's copy within its job (R124); a provisional copy comes last (R377). -/
def State.tier1Rank (s : State) (e i : Nat) : Nat :=
  match s.gen e with
  | none => 4 * 2 ^ 40 + i
  | some g =>
    if g.state = .opened then 4 * 2 ^ 40 + i
    else
      match g.rushQ.findIdx? (· == i) with
      | some k => k
      | none =>
        match g.segs[i]? with
        | none => 3 * 2 ^ 40 + i
        | some x =>
          if s.belayOf (g.segEp x) = 0 then 2 ^ 40 + i
          else if x.state = .forked then 2 * 2 ^ 40 + i
          else 3 * 2 ^ 40 + i

/-- The lanes of the block that move a function's transfers. -/
def State.lanesUsed (s : State) (f : Nat) : Nat :=
  (((s.xfers.filter fun x => x.2.fn == f && (x.2.phase == .reading || x.2.phase == .writing) && s.owes x.1).map
    fun x => (x.2.yard, x.2.lane)).eraseDups).length

/-- The class of a function's ordinary work: within its guaranteed share, or beyond it (R340, R377). -/
def State.shareClass (s : State) (f : Nat) : Nat := if s.lanesUsed f < s.lanesOf f then 2 else 3

/-- Is the work a drain's (R167)? -/
def Work.drains : Work → Bool
  | .drainSeg _ _ _ _ _ => true
  | .drainMan _ => true
  | .drainRec _ => true
  | _ => false

/-- The lane-time class of a transfer (Table 13-6). -/
def State.laneClass (s : State) (x : Xfer) : Nat :=
  match x.work with
  | .tier1 _ e i =>
    let r := s.tier1Rank e i
    if r < 2 ^ 40 then 1 else if 4 * 2 ^ 40 ≤ r then 4 else s.shareClass x.fn
  | w => if w.drains then 3 else s.shareClass x.fn

/-- The key of the queue whose weight a transfer's work carries: its entry's queue, a Sheet's SHEET_ARM's queue, and one of the
function's own for work that no entry of a queue holds. Log 146. -/
def State.queueOf (s : State) (x : Xfer) : Nat := ((s.ownerOf x).map (·.sq)).getD (65536 + x.fn)

/-- The weights of a Yard's round: those that were current when it began (R384). -/
def State.laneWeights (s : State) (y : Nat) : FMap Nat :=
  if (s.arb y).rounds.isEmpty then s.rigs.cur.weights else (s.arb y).weights

/-- The weight of a queue's key (R376); 16 for work of no queue. Log 146. -/
def weightOf (weights : FMap Nat) (k : Nat) : Nat := if k < 65536 then FMap.getD weights k 16 else 16

/-- The priority of a drain's transfer, and its DRAIN's number (R167). -/
def State.drainKey (s : State) (x : Xfer) : Nat × Nat :=
  let e := x.work.entry?.getD 0
  (((s.gens.find? fun g => g.drainBy == some e).map Gen.drainPriority).getD 0, e)

/-- A claim on a Yard's lane time: a class, the queue whose weight it carries, and the transfer where it is not a Sheet's next unit. -/
structure Claim where
  cls : Nat
  key : Nat
  xfer : Option Xfer
  deriving DecidableEq, Repr

/-- The claim of a transfer. -/
def State.claimOf (s : State) (x : Xfer) : Claim := ⟨s.laneClass x, s.queueOf x, some x⟩

/-- The claim of a Sheet's next unit (R266). -/
def State.sheetClaim (s : State) (h : Sheet) : Claim :=
  ⟨s.shareClass h.fn, ((s.acc h.entry).map (·.sq)).getD (65536 + h.fn), none⟩

/-- Has a queue's round of a Yard's lane time room (R376, R377)? -/
def State.roundRoom (s : State) (y k : Nat) : Bool := decide (FMap.getD (s.arb y).rounds k 0 < weightOf (s.laneWeights y) k)

/-- Does a claim come before another of its class in a Yard? A job's segments go in the order of R124 and drains in that of R167;
otherwise a queue whose round is used up waits for one that has room. -/
def State.aheadOf (s : State) (y : Nat) (z x : Claim) : Bool :=
  let weighed := z.key != x.key && s.roundRoom y z.key && !s.roundRoom y x.key
  match z.xfer, x.xfer with
  | some a, some b =>
    match a.work, b.work with
    | .tier1 jz ez iz, .tier1 jx ex ix => if jz = jx then decide (s.tier1Rank ez iz < s.tier1Rank ex ix) else weighed
    | wa, wb =>
      if wa.drains && wb.drains then
        let ka := s.drainKey a
        let kb := s.drainKey b
        decide (kb.1 < ka.1) || (ka.1 == kb.1 && decide (ka.2 < kb.2))
      else weighed
  | _, _ => weighed

/-- Does a claim come before another in a Yard (Table 13-6)? -/
def State.before (s : State) (y : Nat) (z x : Claim) : Bool :=
  decide (z.cls < x.cls) || (z.cls == x.cls && s.aheadOf y z x)

/-! ### What waits for a Yard's lanes -/

/-- Does a transfer seal before it writes, with nothing to read: it goes to a Yard first (R293)? -/
def Work.sealsFirst : Work → Bool
  | .drainMan _ => true
  | .drainRec _ => true
  | _ => false

/-- Could a transfer be dispatched to the Yard now: ports, buffers and its own rules allow it? -/
def State.ready (s : State) (y : Nat) (z : Xfer) : Bool :=
  if z.parked then z.yard == y && s.unparks z
  else !z.work.isSheet && match z.nextParts with
  | some (ps, w) =>
    (if z.phase == .queued then s.buffersFit y none z.buffers else z.yard == y) &&
    (if z.phase == .queued && z.work.sealsFirst then true else (s.portFor ps w).isSome && (!w || s.mayWrite z))
  | none => false

/-- The claims that are ready in a Yard, but for one transfer's. -/
def State.rivals (s : State) (y : Nat) (but_ : Option Nat) (sheets : Bool) : List Claim :=
  (s.xfers.filterMap fun z => if but_ != some z.1 && s.ready y z.2 then some (s.claimOf z.2) else none) ++
  (if sheets then
    match s.nextSheet y with
    | some p => [s.sheetClaim p.2]
    | none => []
   else [])

/-- Is a claim the next that a Yard's lane time goes to? -/
def State.goesNext (s : State) (y : Nat) (c : Claim) (rivals : List Claim) : Bool := !rivals.any fun z => s.before y z c

/-- Count a dispatch in its queue's round; where the round is used up and nobody had room, a new round begins (R376). -/
def State.countRound (y : Nat) (c : Claim) (s : State) : State :=
  s.modArb y fun a =>
    if s.roundRoom y c.key then
      { a with rounds := FMap.put a.rounds c.key (FMap.getD a.rounds c.key 0 + 1), weights := s.laneWeights y }
    else { a with rounds := [(c.key, 1)], weights := s.rigs.cur.weights }

/-- Is a lane of a Yard free for one more lane transfer: served, with a dispatcher, not under test, moving nothing, and its Yard ungated or Trim there
to ungate it (R22)? While THROTTLED a
Yard moves on at most 16 lanes (R430). -/
def State.laneFree (s : State) (y lane : Nat) : Bool :=
  decide (y < 64) && decide (lane < 32) && !s.procs.orphanMasts.contains (y / 8) &&
  !((s.yard y).gated && s.restarting .trim) &&
  (s.yard y).serves (s.spareMap y) lane && !s.withheld y lane && !(s.lanesMoving y).contains lane &&
  (!s.glob.throttled || decide ((s.lanesMoving y).length < 16))

/-! ### Order across Yards (R124, R167) -/

/-- Can a transfer be dispatched in a Yard now: ready there, with a lane free? -/
def State.canGo (s : State) (y : Nat) (z : Xfer) : Bool := (List.range 32).any (s.laneFree y) && s.ready y z

/-- The Yards in which work that can go comes before a claim on lane time of a Yard: those of its Mast for a rush copy, which goes ahead
of all other queued work there; every Yard for the segments of the same job, in their order, and for the writes that drains have for
the drain ports. -/
def State.firstIn (s : State) (y : Nat) (z : Xfer) (c : Claim) : List Nat :=
  let mast := (List.range 8).map (y / 8 * 8 + ·)
  match z.work, c.xfer with
  | .tier1 jz ez iz, some x =>
    if z.phase != .queued then []
    else
      match x.work with
      | .tier1 jx ex ix =>
        if jz = jx then (if s.tier1Rank ez iz < s.tier1Rank ex ix && x.phase == .queued then List.range 64 else [])
        else if s.laneClass z == 1 && c.cls != 1 then mast else []
      | _ => if s.laneClass z == 1 then mast else []
  | .tier1 _ _ _, none => if z.phase == .queued && s.laneClass z == 1 then mast else []
  | w, some x =>
    if w.drains && x.work.drains && z.phase == .loaded && x.phase == .loaded && s.aheadOf y (s.claimOf z) c then List.range 64 else []
  | _, none => []

/-- Does a claim on a Yard's lane time give way to work that can go in another Yard (R124, R167)? -/
def State.givesWay (s : State) (y : Nat) (c : Claim) : Bool :=
  s.xfers.any fun z => (s.firstIn y z.2 c).any fun q => s.canGo q z.2

/-! ### Dispatch -/

/-- Count what a lane moves. -/
def State.countLane (y lane : Nat) (ps : List Part) (s : State) : State :=
  s.countBytes (ctrId 3 (34 * y + s.laneAt y lane) 0) ((ps.map (·.len)).foldl (· + ·) 0)

/-- Start a transfer's writes: a restore has written from here on (R203). What the block writes of its own making goes into a Yard
buffer first (R19, R335). -/
def State.beginWrites (x : Xfer) (y lane port : Nat) (s : State) : State :=
  let sig := s.carries x
  let s := match sig with
    | some a => s.modAcc a.id fun a => { a with sigSent := true }
    | none => s
  let s := match x.work with
    | .rest e _ _ => s.modRest e fun r => { r with wrote := true }
    | _ => s
  let x := { x with phase := .writing, yard := y, lane := lane, port := port,
                    sigLast := sig.map fun (a : Acc) => (a.hdr.cleatId, a.hdr.sigCount) }
  let fresh := x.srcs.isEmpty && !x.work.sealsFirst
  let s := { s with xfers := FMap.put s.xfers x.id x }
  let s := if fresh then s.storeOut x.id else s
  match FMap.find s.xfers x.id with
  | some x => ((((s.readDsts x).ungate y).countLane y lane x.dsts).startWrites x port)
  | none => s

/-- Start a transfer's reads: a guarded segment is being copied from here on (Table 4-7). -/
def State.beginReads (x : Xfer) (y lane port : Nat) (s : State) : State :=
  let s := match x.work with
    | .tier1 _ e i => s.modSeg e i fun (g : Seg) => if g.state == SegState.guarded then { g with state := SegState.copying } else g
    | _ => s
  let x := { x with phase := .reading, yard := y, lane := lane, port := port }
  ((({ s with xfers := FMap.put s.xfers x.id x }.ungate y).countLane y lane x.srcs).startReads x port)

/-- A transfer that seals first takes its place in a Yard, where its stages begin. -/
def State.beginSeal (x : Xfer) (y lane : Nat) (s : State) : State :=
  ((({ s with xfers := FMap.put s.xfers x.id { x with yard := y, lane := lane } }).ungate y).storeOut x.id).startStages x.id

/-- A Sheet's unit is replayed on a lane: it reads its lines again, or sends its bytes again (R421). -/
def State.unpark (x : Xfer) (lane : Nat) (s : State) : State :=
  let y := { x with parked := false, lane := lane, phase := if x.phase = .reading then .reading else .writing }
  let s : State := { s with xfers := FMap.put s.xfers x.id y }
  match y.phase, y.work with
  | .reading, .sheet n _ => (s.fetchLines n x.id).2
  | .writing, .sheet _ _ => (s.readDsts y).writeSlots y
  | .writing, .tail _ _ => (s.readDsts y).startWrites y y.port
  | _, _ => s

/-- The port on which a transfer's half is replayed: the one it took, where that still allows it (R46, R54). -/
def State.replayPort (s : State) (x : Xfer) (ps : List Part) (write : Bool) : Option Nat :=
  if s.portsAllow ps write x.port then some x.port else s.portFor ps write

/-- TRANSFER_DISPATCH: the lane moves the transfer's next half, where ports, buffers, lane and precedence allow it. -/
def State.dispatch (id y lane port : Nat) (s : State) : State :=
  match FMap.find s.xfers id with
  | none => s
  | some x =>
    let c := s.claimOf x
    if s.glob.power ≠ .run || !s.laneFree y lane || !s.ready y x || !s.goesNext y c (s.rivals y (some id) true) || s.givesWay y c then s
    else
      if x.parked then (s.countRound y c).unpark x lane
      else match x.nextParts with
      | some (ps, w) =>
        if x.phase == .queued && x.work.sealsFirst then s.beginSeal x y lane
        else if !s.portsAllow ps w port then s
        else if w then (s.countRound y c).beginWrites x y lane port
        else (s.countRound y c).beginReads x y lane port
      | none => s

/-- SHEET_WORK_UNIT_START: the Yard starts the unit that R264 chooses, unless other work comes first (R124, R266). -/
def State.sheetStart (y lane : Nat) (s : State) : State :=
  match s.nextSheet y with
  | none => s
  | some (n, h) =>
    let c := s.sheetClaim h
    if s.glob.power ≠ .run || !s.laneFree y lane || !s.goesNext y c (s.rivals y none false) || s.givesWay y c then s
    else (s.countRound y c).startUnit n h lane

end Sys2Proof.Machine
end

