-- ==== Sys2Proof/Machine/Links.lean ====
section
/-! DEFINITION. The fabric links and the packets that come in (R43 to R56, R279, R465): link states, sessions and rekeying, and
the dispatch of received packets to their chapters. -/

namespace Sys2Proof.Machine

/-! ### Link states (Table 2-5, Table 2-6) -/

/-- May Shroud draw session halves: it runs, and the CTR_DRBG does (R54, R56, R309)? -/
def State.shroudDraws (s : State) : Bool := !s.restarting .shroud && !s.keys.drbgStopped

/-- A session half. -/
def State.drawHalf (s : State) : Word64 × State :=
  let (bs, s) := s.draw 8
  (BitVec.ofNat 64 (le bs), s)

/-- A link-local packet: DST_EP 0x000 (R44). -/
def State.localPkt (s : State) (op : Nat) (half : Word64) : Pkt := { s.pkt 3 op 0 with argA := half.toNat }

/-- A session starts: its halves, the keys and salts of both directions, and zero counters (R51, R52). -/
def Link.startSession (l : Link) (root : List Byte) (port : Nat) (mine peer : Word64) : Link :=
  let k := sessionKeys root port mine peer
  { l with state := .up, blockHalf := mine, peerHalf := peer, txKey := k.1, rxKey := k.2, tx := 0, rx := 0 }

/-- Once LINK_HELLO has been both sent and received, the session runs (R54). -/
def Link.meetUp (l : Link) (root : List Byte) (port : Nat) : Link :=
  if l.helloSent && l.helloGot then l.startSession root port l.blockHalf l.peerHalf else l

/-- Send what a link in HELLO or ROLL owes, in RUN, once Shroud can draw its half (R40, R54). LINK_HELLO goes in the clear. -/
def State.settleLink (port : Nat) (s : State) : State :=
  let l := s.link port
  if !s.shroudDraws || s.glob.power ≠ .run then s
  else if l.state = .hello && !l.helloSent then
    let (h, s) := s.drawHalf
    let s := s.sendAt port (s.localPkt 0x20 h) []
    (s.modLink port fun l => ({ l with blockHalf := h, helloSent := true }).meetUp s.pen.linkRoot port).flushPkts
  else if l.state = .roll && !l.rollSent then
    let (h, s) := s.drawHalf
    (s.sendAt port (s.localPkt 0x21 h) []).modLink port fun l => { l with newHalf := some h, rollSent := true }
  else s

/-- May fabric links train: the endpoint is locked, LINK_ROOT is not blank, and the block runs (R44, R50, R367)? -/
def State.mayTrain (s : State) : Bool :=
  s.setup.fabLock && !blank s.pen.linkRoot && s.glob.power == .run && !s.glob.recovery

/-- A fabric link in DOWN whose LINK_UP is high goes to HELLO (Table 2-5). -/
def Link.train (l : Link) : Link :=
  if l.linkUp && l.state = .down then { l with state := .hello, helloSent := false, helloGot := false } else l

/-- Train the links that may, and send what every link owes. -/
def State.settleLinks (s : State) : State :=
  let s : State := if s.mayTrain then { s with links := FMap.mapV s.links fun _ l => l.train } else s
  s.links.foldl (fun s p => s.settleLink p.1) s

/-- LINK_UP of a port rises; a fabric port trains where training is allowed (R44, R50). One that was stopped with LINK_UP low has
been retrained by the rise (log 159). -/
def State.linkRises (port : Nat) (s : State) : State :=
  if 36 ≤ port then s
  else if 32 ≤ port then
    if s.drainUp.contains (port - 32) then s else ({ s with drainUp := s.drainUp ++ [port - 32] }).flushPkts
  else s.modLink port fun l => { l with linkUp := true, state := if l.state = .stopped && !l.linkUp then .down else l.state }

/-- LINK_UP of a port falls: the link goes to DOWN and the owed responses are lost (R49, R56). -/
def State.linkFalls (port : Nat) (s : State) : State :=
  if 36 ≤ port then s
  else if 32 ≤ port then ({ s with drainUp := s.drainUp.filter (· != port - 32) }).dropPort port
  else (s.modLink port fun _ => {}).dropPort port

/-- LINK_HELLO is accepted (R54). -/
def State.takeHello (port : Nat) (half : Word64) (s : State) : State :=
  (s.modLink port fun l => ({ l with peerHalf := half, helloGot := true }).meetUp s.pen.linkRoot port).flushPkts

/-- The counter at which a rekey starts (R55). -/
def rekeyAt : Nat := 2 ^ 48

/-- The counter at which a link stops (R56). -/
def stopAt : Nat := 2 ^ 48 + 2 ^ 20

/-- Entry to ROLL (Table 2-6 step 1). -/
def State.startRekey (port : Nat) (s : State) : State :=
  let l := s.link port
  if l.state = .up && (decide (rekeyAt ≤ l.tx) || decide (rekeyAt ≤ l.rx)) then
    ((s.modLink port fun l => { l with state := .roll, newHalf := none, rollSent := false }).bump (ctrId 4 port 5)).logEvent 0x0102 [port, 0]
  else s

/-- KEY_ROLL_ACK: KEY_ROLL_FIN leaves as the last packet of the old session, and the new one starts (Table 2-6 step 4). One
that no KEY_ROLL of a link in ROLL calls for is counted as malformed: log 53, DESIGN CHOICE. -/
def State.finishRekey (port : Nat) (half : Word64) (s : State) : State :=
  let l := s.link port
  match l.newHalf with
  | some mine =>
    if l.state = .roll && l.rollSent then
      let s := s.sendAt port (s.localPkt 0x23 0) []
      (s.modLink port fun l => ({ l with newHalf := none, rollSent := false }).startSession s.pen.linkRoot port mine half).logEvent 0x0102 [port, 1]
    else s.badPacket port
  | none => s.badPacket port

/-- A link counter is at its stop limit (R56). -/
def State.stopLimit (port : Nat) (s : State) : State :=
  let l := s.link port
  if l.state = .roll && (decide (stopAt ≤ l.tx) || decide (stopAt ≤ l.rx)) then s.stopLink port else s

/-! ### What packets addressed to the block do (R45, R47) -/

/-- A MSG or BELAY packet from an accelerator: discarded unless it is attached (R45). -/
def State.fromEp (port ep : Nat) (k : State → State) (s : State) : State :=
  if FMap.has s.eps ep then k s else s.badPacket port

/-- An RD_REQ addressed to the block: one RD_RSP with ERR, which echoes TAG and SLICE (R47, Table 2-3). -/
def State.answerRead (port : Nat) (p : Pkt) (s : State) : State :=
  s.sendAt port { s.pkt 1 2 p.src with
    addr := fabAddr s.setup.fabEp (p.addr % 2 ^ 52), tag := p.tag, slice := p.slice, err := true, last := true } []

/-- A signal that rides on a WR to the block, or comes as a CLEAT SIGNAL packet (R45, R279, R280). -/
def State.signalIn (port : Nat) (p : Pkt) (s : State) : State :=
  if p.sigCount = 0 then s.badPacket port else s.fabricSignal p.src p.cleat p.sigCount

/-- A preemption notice for a slice that is absent or FROZEN is discarded and counted (R138, R362). -/
def State.noticeIn (port : Nat) (p : Pkt) (s : State) : State :=
  match FMap.find s.fns (p.arg32 % 256) with
  | some x => if x.state = .frozen then s.badPacket port else s.notice (p.arg32 % 256) p.argA
  | none => s.badPacket port

/-- QUIESCE_DONE: of a cut, or of a full-image restore (R132, R201). -/
def State.takeQuiesced (ep e : Nat) (s : State) : State := (s.cutQuiesced ep e).restQuiesced ep e

/-- RESUME_DONE (R134). -/
def State.takeResumed (ep : Nat) (s : State) : State :=
  { s with eps := FMap.modify s.eps ep fun x => { x with owesResume := none } }

/-- RESUME_DONE has not come in time (R134). -/
def State.resumeLate (ep : Nat) (s : State) : State :=
  match (FMap.find s.eps ep).bind (·.owesResume), FMap.find s.eps ep with
  | some e, some x => (s.takeResumed ep).logFn 0x0302 x.fn [ep, e]
  | _, _ => s

/-- A BELAY_HIT: an ARMED, a watch hit, a hold request or a fork request, by its ARG32 (Table 4-4). ARMED with WATCHED is an
ARMED: log 137. -/
def State.belayIn (port : Nat) (p : Pkt) (s : State) : State :=
  if bitOf p.arg32 1 then s.takeArmed p.src p.argA
  else if bitOf p.arg32 2 then s.takeWatchHit port p.src p.argA p.argB
  else s.takeHit p.src p.argA p.argB (bitOf p.arg32 0)

/-- What a packet that is addressed to the block does, by its class and opcode; one in the wrong direction is discarded and
counted (R45, Table 2-4). -/
def State.actOn (port : Nat) (p : Pkt) (data : List PByte) (s : State) : State :=
  match p.cls, p.op with
  | 1, 0x01 => s.answerRead port p
  | 1, 0x02 => s.rdRsp port p data
  | 2, 0x01 => if p.sig then s.signalIn port p else s
  | 2, 0x02 => s.wrAck port p
  | 3, 0x02 => s.fromEp port p.src (State.takeQuiesced p.src p.argA)
  | 3, 0x04 => s.fromEp port p.src (State.takeMap p.src p.arg32 data p.last)
  | 3, 0x06 => s.fromEp port p.src (State.takeResumed p.src)
  | 3, 0x10 => s.noticeIn port p
  | 3, 0x22 => s.finishRekey port (BitVec.ofNat 64 p.argA)
  | 4, 0x02 => s.fromEp port p.src (State.belayIn port p)
  | 5, 0x01 => s.signalIn port p
  | _, _ => s.badPacket port

/-! ### The receive channel (R43, R44, R48, R53, R54) -/

/-- Count flits that came poisoned at a fabric port. -/
def State.countPoison (port n : Nat) (s : State) : State := if port < 32 then s.count (ctrId 4 port 4) n else s

/-- A packet whose ICV holds, or that carries none: discarded and counted where it breaks Table 2-3 or names an endpoint that it
may not (R43, R44), else it acts. One that is not link-local and whose DST_EP is not the block's is discarded and counted as well: log
137, DESIGN CHOICE. -/
def State.admitPacket (port : Nat) (h : List Byte) (dataFlits : Nat) (data : List PByte) (s : State) : State :=
  let p := parsePkt h
  if !headerOk h dataFlits || !p.endpointsOk || (!p.isLocal && p.dst != s.setup.fabEp) then s.badPacket port
  else s.actOn port p (data.take p.len)

/-- Open a packet that came at a port with a running session, or at a drain port (R48, R53). -/
def State.openPacket (port : Nat) (k : Sealing) (h : Flit) (data : List Flit) (s : State) : State :=
  let poisoned := (data.filter (·.poison)).length
  if h.poison then (s.countPoison port (1 + poisoned)).badPacket port
  else if k.verifies h data then
    (s.countPoison port poisoned).admitPacket port h.bytes data.length (k.payload false data)
  else if 0 < poisoned then
    (s.countPoison port data.length).admitPacket port h.bytes data.length (k.payload true data)
  else (s.logEvent 0x0101 [port]).stopLink port

/-- A packet in the clear at a link in HELLO: only LINK_HELLO is accepted (R54). One that breaks Table 2-3 or has a poisoned
header is counted; any other is dropped (log 53). -/
def State.helloPacket (port : Nat) (h : Flit) (data : List Flit) (s : State) : State :=
  let p := parsePkt h.bytes
  if h.poison then (s.countPoison port 1).badPacket port
  else if !headerOk h.bytes data.length || !p.endpointsOk then s.badPacket port
  else if p.cls = 3 && p.op = 0x20 then s.takeHello port (BitVec.ofNat 64 p.argA)
  else s

/-- A packet arrives at a port, in RUN (R40). At a port with a running session its counter advances (R52), and it is opened under the
session whatever it spells (R53): a LINK_HELLO in the clear fails its ICV. A link in DOWN or STOPPED takes nothing (R54). -/
def State.arrive (port : Nat) (fs : List Flit) (s : State) : State :=
  match fs with
  | [] => s
  | h :: data =>
    if s.glob.power ≠ .run then s
    else if 32 ≤ port then
      if s.drainPorts.contains port then
        (s.countBytes (ctrId 6 (port - 32) 1) (64 * fs.length)).openPacket port none h data
      else s
    else if (s.link port).state = .hello then (s.count (ctrId 4 port 1) fs.length).helloPacket port h data
    else if (s.link port).running then
      let s := s.count (ctrId 4 port 1) fs.length
      let k := s.rxSeal port
      (s.modLink port fun l => { l with rx := l.rx + 1 }).openPacket port k h data
    else s

end Sys2Proof.Machine
end

