-- ==== Sys2Proof/Machine/Keyring.lean ====
section
/-! DEFINITION. Key blobs, the Key Unit, key alarms and erasure (R296, R300 to R309). -/

namespace Sys2Proof.Machine

/-! ### Key blobs (R301, Table 10-2) -/

/-- The clear fields of a key blob. -/
structure Blob where
  typ : Nat
  wrap : Nat
  migExport : Bool
  ku : Bool
  keyId : Nat
  wrapSlot : Nat
  keyLen : Nat
  hmacAlg : Nat
  deriving DecidableEq, Repr

/-- Read a blob's clear bytes. -/
def parseBlob (bs : List Byte) : Blob where
  typ := leAt bs 5 1
  wrap := leAt bs 6 1
  migExport := bitOf (leAt bs 7 1) 1
  ku := bitOf (leAt bs 7 1) 0
  keyId := leAt bs 8 4
  wrapSlot := leAt bs 12 2
  keyLen := leAt bs 14 1
  hmacAlg := leAt bs 15 1

/-- The clear bytes of a blob. -/
def Blob.clear (b : Blob) : List Byte :=
  ascii "ZKB1" ++ toLe 1 1 ++ toLe 1 b.typ ++ toLe 1 b.wrap ++ toLe 1 (2 * b2n b.migExport + b2n b.ku) ++ toLe 4 b.keyId ++
    toLe 2 b.wrapSlot ++ toLe 1 b.keyLen ++ toLe 1 b.hmacAlg

/-- Is a KEY_LEN allowed for its KEY_TYPE and HMAC_ALG? -/
def Blob.lenOk (b : Blob) : Bool :=
  if b.typ = 1 then decide (1 ≤ b.keyLen) && decide (b.keyLen ≤ if b.hmacAlg = 0 then 64 else 128) else b.keyLen == 32

/-- Does a blob keep Table 10-2? -/
def blobOk (bs : List Byte) : Bool :=
  let b := parseBlob bs
  bs.take 16 == b.clear && decide (b.typ ≤ 3) && decide (b.wrap ≤ 2) && (!b.ku || b.typ == 3) && b.keyId != 0 &&
  (b.wrap == 1 || b.wrapSlot == 0) && b.lenOk && (if b.typ = 1 then decide (b.hmacAlg ≤ 2) else b.hmacAlg == 0)

/-- The length of the plaintext P: the fewest zero bytes make it 8 mod 16 (R301). -/
def Blob.plainLen (b : Blob) : Nat := (16 + b.keyLen + 7) / 16 * 16 + 8

/-- The length of the whole blob. -/
def Blob.len (b : Blob) : Nat := 16 + b.plainLen + 8

/-- A blob that wraps a key (R301, R305). -/
def Blob.make (b : Blob) (key wrapper : List Byte) : List Byte := b.clear ++ kwWrap wrapper (fit b.plainLen 0 (b.clear ++ key))

/-- Unwrap a blob: the key, or none where a check of R302 step 2 fails. -/
def unwrapBlob (bs wrapper : List Byte) : Option (List Byte) :=
  let b := parseBlob bs
  match kwUnwrap wrapper (slice bs 16 (b.plainLen + 8)) with
  | none => none
  | some p =>
    if p.length == b.plainLen && p.take 16 == bs.take 16 && allZero (p.drop (16 + b.keyLen)) then some (slice p 16 b.keyLen)
    else none

/-! ### Slots (R296, R300, R302) -/

/-- The salts that the other loaded instances of a KEY_ID hold, beside the one that a slot's load replaces. -/
def State.saltsOf (s : State) (slot keyId : Nat) : List Nat :=
  (s.keys.store.filter fun p => p.1 != slot && p.2.typ == 0 && p.2.keyId == keyId).map (·.2.salt)

/-- The draws after which a salt is no longer redrawn: log 9. -/
def saltTries : Nat := 1024

/-- Draw a 32-bit salt until it is not among those in use (R296). Fuel is the number of draws; past it, the lowest free value. -/
def State.redraw (used : List Nat) : Nat → State → Nat × State
  | 0, s => (((List.range (used.length + 1)).find? fun v => !used.contains v).getD 0, s)
  | n + 1, s =>
    let (bs, s) := s.draw 4
    if used.contains (be bs) then redraw used n s else (be bs, s)

/-- A fresh instance salt for a slot (R296). -/
def State.drawSalt (slot keyId : Nat) (s : State) : Nat × State := s.redraw (s.saltsOf slot keyId) saltTries

/-- Write a slot with an unwrapped key. -/
def State.loadSlot (slot : Nat) (b : Blob) (key : List Byte) (wrapKeyId : Nat) (s : State) : State :=
  if b.typ = 1 then
    let k : KeySlot :=
      { key := key, typ := 1, keyId := b.keyId, ku := b.ku, migExport := b.migExport, hmacAlg := b.hmacAlg,
        wrapKeyId := wrapKeyId, inner := hmacInner b.hmacAlg key, outer := hmacOuter b.hmacAlg key }
    { s with keys := { s.keys with hmac := FMap.put s.keys.hmac slot k } }
  else
    let (salt, s) := if b.typ = 0 then s.drawSalt slot b.keyId else (0, s)
    let k : KeySlot :=
      { key := key, typ := b.typ, keyId := b.keyId, ku := b.ku, migExport := b.migExport, hmacAlg := 0,
        wrapKeyId := wrapKeyId, salt := salt }
    { s with keys := { s.keys with store := FMap.put s.keys.store slot k } }

/-- Empty the slots of both stores that a test accepts. -/
def State.emptySlots (bulk hmac : Nat → Bool) (s : State) : State :=
  let b := FMap.keep s.keys.store fun k _ => !bulk k
  let h := FMap.keep s.keys.hmac fun k _ => !hmac k
  { s with keys := { s.keys with store := b, hmac := h } }

/-- The slots of a drain that is sealing. -/
def State.sealingSlots (s : State) : List Nat :=
  s.gens.filterMap fun g => if g.drainBy.isSome then g.t3Draft.map (·.keySlot) else none

/-! ### KEY_LOAD and KU_BLOCK (R302, R303, R306, R307) -/

/-- Would a load replace a bulk key that a running DRAIN is sealing with (R303)? -/
def State.sealsWith (s : State) (slot : Nat) (hm : Bool) : Bool := !hm && (s.bulkKey slot).isSome && s.sealingSlots.contains slot

/-- The conflicts of KEY_LOAD (R303). The request in service counts among the 64 that wait: log 32, DESIGN CHOICE. -/
def State.keyLoadRefusal (s : State) (slot typ len : Nat) (b : Blob) : Option Cond :=
  let hm := typ == 1
  let w := FMap.find s.keys.store b.wrapSlot
  firstCond
    [ refuse (decide ((if hm then 64 else 1024) ≤ slot)) 0x40 16,
      refuse (b.typ != typ) 0x40 69,
      refuse (len != b.len) 0x40 32,
      refuse (b.wrap == 1 && ((w.map (·.typ)) != some 3 || s.keyOwner b.wrapSlot false != s.keyOwner slot hm)) 0x40 76,
      refuse (b.wrap == 2) 0x40 70,
      refuse (s.sealsWith slot hm) 0x40 16,
      refuse (decide (64 ≤ s.keys.queue.length)) 0x41 16 ]

/-- Queue a request at the Key Unit (R306). -/
def State.queueKu (a : Acc) (wrapper : List Byte) (s : State) : State :=
  let r : KuReq := ⟨a.id, a.fn, wrapper⟩
  { s with keys := { s.keys with queue := s.keys.queue ++ [r] } }.modAcc a.id fun a => { a with phase := .waiting }

/-- The masks of so many blocks of the Key Unit, 32 B each (R306). -/
def State.drawMasks (n : Nat) (s : State) : State := (List.range n).foldl (fun s _ => (s.draw 32).2) s

/-- The blocks that wrapping or unwrapping a blob takes: six for each half block of its plaintext (R301). -/
def Blob.blocks (b : Blob) : Nat := 6 * (b.plainLen / 8)

/-- KEY_FAULT for a stopped CTR_DRBG (R309). -/
def State.drbgRefusal (s : State) : Option Cond := refuse s.keys.drbgStopped 0x44 2

/-- KEY_LOAD. -/
def State.runKeyLoad (a : Acc) (slot typ len : Nat) (blob : HostRead) (s : State) : State :=
  let bs := readBytes blob
  let b := parseBlob bs
  if blob = .error then s.malformed a.id 24 6
  else if !blobOk bs then s.malformed a.id 24 5
  else
    s.orRefuse a.id (firstCond
      [ s.haltedRefusal (s.keyOwner slot (typ == 1)), s.signalRefusal a.fn a.hdr, s.keyLoadRefusal slot typ len b,
        s.drbgRefusal ]) fun s =>
      let wrapper := if b.wrap = 0 then deviceKek s.pen.deviceRoot else ((FMap.find s.keys.store b.wrapSlot).map (·.key)).getD []
      (s.modAcc a.id fun a => { a with note := bs }).queueKu a wrapper

/-- KU_BLOCK. -/
def State.runKuBlock (a : Acc) (slot : Nat) (s : State) : State :=
  let k := FMap.find s.keys.store slot
  s.orRefuse a.id (firstCond
    [ s.signalRefusal a.fn a.hdr,
      refuse (!((k.map fun k => k.typ == 3 && k.ku).getD false) || s.keyOwner slot false != a.fn) 0x40 16,
      s.drbgRefusal ]) fun s => s.queueKu a ((k.map (·.key)).getD [])

/-- The WRAP_KEY_ID of a blob: 0 for the device root KEK (R302). -/
def State.wrapId (s : State) (b : Blob) : Nat :=
  if b.wrap = 0 then 0 else ((FMap.find s.keys.store b.wrapSlot).map (·.keyId)).getD 0

/-- The Key Unit has unwrapped the blob of a KEY_LOAD. A DRAIN that has begun to seal with the slot meanwhile keeps it (R302,
R303). -/
def State.keyUnwrapped (a : Acc) (slot : Nat) (wrapper : List Byte) (s : State) : State :=
  let b := parseBlob a.note
  let s := s.drawMasks b.blocks
  match unwrapBlob a.note wrapper with
  | none => s.failEntry a.id 0x26 1
  | some key =>
    if s.sealsWith slot (b.typ == 1) then s.failEntry a.id 0x40 16
    else (s.loadSlot slot b key (s.wrapId b)).endEntry a.id 0

/-- The Key Unit has run the raw block of a KU_BLOCK (R307). -/
def State.blockRun (a : Acc) (decrypt : Bool) (data : List Byte) (out : Nat) (wrapper : List Byte) (s : State) : State :=
  let res := if decrypt then aesDec wrapper data else aesEnc wrapper data
  (s.drawMasks 1).queueXfer a.fn (.resultOut a.id) [] [Part.load (.host (s.pasidOf a.fn) out) (plain res)]

/-! ### Alarms (R309) -/

/-- Does an alarm end the Key Unit request of an entry: a KEY_LOAD's or a KU_BLOCK's (R309, Table 17-1)? Those of SLICE_SAVE and
SLICE_LOAD, for which no status stands there, stay: log 31, DESIGN CHOICE. -/
def Op.takesKeyFault : Op → Bool
  | .keyLoad _ _ _ _ => true
  | .kuBlock _ _ _ _ => true
  | _ => false

/-- Does a request of the Key Unit end with KEY_FAULT? -/
def State.faults (s : State) (r : KuReq) : Bool := ((s.acc r.entry).map fun a => a.op.takesKeyFault).getD true

/-- End the KEY_LOADs and KU_BLOCKs that wait for the Key Unit with KEY_FAULT. -/
def State.failKu (code : Nat) (s : State) : State :=
  let q := s.keys.queue
  (q.filter s.faults).foldl (fun s r => s.failEntry r.entry 0x44 code)
    { s with keys := { s.keys with queue := q.filter fun r => !s.faults r } }

/-- Has a drain's last seal, that of its commit record, left the pipe? -/
def State.drainSealed (s : State) (d : Nat) : Bool :=
  s.xfers.any fun x => x.2.work == .drainRec d &&
    (x.2.phase == .writing || (x.2.phase == .loaded && !x.2.stage.atPipe && !x.2.stage.onPipe))

/-- End the seals in flight with KEY_FAULT: of every drain that has still to seal (R309). -/
def State.failSeals (code : Nat) (s : State) : State :=
  s.gens.foldl (fun s g =>
    match g.drainBy with
    | some d => if g.t3Draft.isSome && g.t3.isNone && !s.drainSealed d then s.endDrain d 0x44 code else s
    | none => s) s

/-- A key that is gone: no header names its identifier, so that what it opens fails with cause 0x3. -/
def KeySlot.erased (k : KeySlot) : KeySlot := { k with key := [], keyId := 2 ^ 32 }

/-- Erase: both key stores, every digest context, every saved pipe context, the seals and opens in flight, and every fabric link
stops (R309; log 159). -/
def State.eraseKeys (code : Nat) (s : State) : State :=
  let s := (s.failSeals code).failKu code
  let s := { s with
    keys := { s.keys with store := [], hmac := [], ctxs := [] }
    pipeCtx := []
    xfers := FMap.mapV s.xfers fun _ x => { x with keys := FMap.mapV x.keys fun _ k => k.erased } }
  let s := (List.range 32).foldl (fun s p => s.stopLink p) s
  (s.logEvent 0x0502 []).setFault 4

/-- The native response to an alarm (Table 10-3). -/
def State.nativeAlarm (code : Nat) (s : State) : State :=
  match code with
  | 1 =>
    match s.keys.queue with
    | r :: rest => if s.faults r then { s with keys := { s.keys with queue := rest } }.failEntry r.entry 0x44 1 else s
    | [] => s
  | 2 => ({ s with keys := { s.keys with drbgStopped := true } }.failKu 2).setFault 3
  | 5 => s.eraseKeys 5
  | _ => s

/-- A key alarm (R309). -/
def State.keyAlarm (code : Nat) (s : State) : State :=
  let s := s.logEvent 0x0501 [code]
  if s.pen.inForce.keyFault = 1 then (if code = 2 then s.setFault 3 else s).eraseKeys code else s.nativeAlarm code

end Sys2Proof.Machine
end

