-- ==== Sys2Proof/Machine/Timer.lean ====
section
/-! DEFINITION. The Pennant timer (R22, R31, R400, R438): which of its claimants are due, whose turn it is, and the service of one. -/

namespace Sys2Proof.Machine

/-- Does the main domain run its processors: powered, booted and not in RECOVERY (R367, R434)? -/
def State.mainOn (s : State) : Bool := (s.glob.power == .run || s.glob.power == .idle) && !s.glob.recovery

/-- Does Masthead read sensors, sample and serve the calendar now? -/
def State.sensing (s : State) : Bool := s.mainOn && !s.restarting .masthead

/-- The AO tick of the Pennant timer at which the life clock reaches a second. -/
def State.tickOfLife (s : State) (sec : Nat) : Nat :=
  if sec ≤ s.pen.lifeS then s.now else s.now + (sec - s.pen.lifeS) * 32768 - s.pen.lifeTick

/-- The service cores of the block: Mast and core (Table 1-2). -/
def serviceCores : List (Nat × Nat) := (List.range 8).flatMap fun m => [(m, 0), (m, 1)]

/-- The service core that runs a Yard's BIST: core 0 for the lower four Yards of the Mast. Log 17. -/
def yardCore (y : Nat) : Nat × Nat := (y / 8, y % 8 / 4)

/-- Does a service core that a test needs restart? -/
def State.serviceDown (s : State) (cores : List (Nat × Nat)) : Bool := cores.any fun c => s.restarting (.service c.1 c.2)

/-- Can the spare self-test start (R22, R400, R426)? It needs every service core, and the lane clock. -/
def State.selfTestCan (s : State) : Bool :=
  !s.serviceDown serviceCores && !(s.restarting .trim && s.glob.power == .idle)

/-- Can a BIST run of a Yard start (R22, R400, R427)? It needs the Yard's service core, Trim where the Yard is gated, a segment
buffer that no other work holds, and the end of the run before it. -/
def State.bistCan (s : State) (y : Nat) : Bool :=
  !s.serviceDown [yardCore y] && !(s.restarting .trim && (s.glob.power == .idle || (s.yard y).gated)) && s.tests.bist.isNone &&
  s.buffersFit y none 1

/-- The deadlines of the Pennant timer that can be served: the claimant's code in TIMER_ORDER, and the AO tick
(log 37). -/
def State.deadlines (s : State) : List (Nat × Nat) :=
  (if s.tt.sampling && s.sensing then [(2, s.tt.next)] else []) ++
  (if s.sensing then s.pen.dues.map fun d => (3, s.tickOfLife d.2.due) else []) ++
  (if s.mainOn && s.glob.ready && s.selfTestCan then [(3, s.tickOfLife s.pen.spareDue)] else []) ++
  (if s.mainOn && s.glob.ready && s.bistCan s.pen.bistPtr then [(3, s.tickOfLife s.pen.bistDue)] else []) ++
  s.fns.filterMap fun p =>
    if s.hbTicks p.1 != 0 && p.2.state == .active && !p.2.missed then some (4, p.2.beat + s.hbTicks p.1) else none

/-- The place of a claimant in TIMER_ORDER. -/
def State.timerRank (s : State) (code : Nat) : Nat := s.rigs.cur.prec.timer.findIdx (· == code)

/-- The AO tick at which the timer could serve a deadline: one service a tick. -/
def State.serviceTick (s : State) (deadline : Nat) : Nat := max (max deadline s.timerAt) s.now

/-- Is it a claimant's turn (R438): no claimant that precedes it has a deadline by then? -/
def State.timerTurn (s : State) (code deadline : Nat) : Bool :=
  !s.deadlines.any fun d => decide (s.timerRank d.1 < s.timerRank code) && decide (d.2 ≤ s.serviceTick deadline)

/-- The timer serves a deadline: the clock comes to the tick, and the next service is a tick later. An expiry is a trigger (R31). -/
def State.timerServe (deadline : Nat) (s : State) : State :=
  let s := s.expire (max deadline s.timerAt)
  { s with timerAt := s.now + 1 }.wake

end Sys2Proof.Machine
end

