-- ==== Sys2Proof/Machine/Slices.lean ====
section
/-! DEFINITION. Slices (R337 to R362): SLICE_CREATE, SLICE_RESIZE, SLICE_RESET, SLICE_FREEZE, SLICE_SAVE, SLICE_LOAD and
ATTACH_ENDPOINT, staging quotas and their scrub (R334, R342), heartbeats (R348, R375). -/

namespace Sys2Proof.Machine

/-! ### Quotas (R342) -/

/-- The multiple of quotas, 64 KiB. -/
def quotaUnit : Nat := 65536

/-- The staging run that a function holds, with what a pending resize has reserved. -/
def Fn.run (x : Fn) : Nat × Nat :=
  let more := (x.resize.map (·.staging)).getD 0
  if x.quotaLen = 0 then (x.newBase, more) else (x.quotaBase, max x.quotaLen more)

/-- The staging runs of every function but one. -/
def State.otherRuns (s : State) (f : Nat) : List (Nat × Nat) :=
  (s.fns.filter fun p => p.1 != f).map fun p => p.2.run

/-- Is a range of staging below the reserved area, free of the quotas of other functions, and not being scrubbed (R334)? -/
def State.runFree (s : State) (f base len : Nat) : Bool :=
  decide (base + len ≤ s.setup.reservedBase) && !s.scrubbing base len && !(s.otherRuns f).any fun r => overlaps r.1 r.2 base len

/-- The lowest-addressed free run of a length for a function. -/
def State.freeRun (s : State) (f len : Nat) : Option Nat :=
  let starts := 0 :: (s.otherRuns f).map (fun r => r.1 + r.2) ++ s.scrubs.map (fun k => k.base + k.len)
  (starts.filter fun b => s.runFree f b len).foldl (fun acc b =>
    match acc with
    | none => some b
    | some c => some (min b c)) none

/-! ### Allotments (R341, R345) -/

/-- The lanes, and the Sheets, that the slices but one hold or have reserved. -/
def State.heldSum (s : State) (f : Nat) (now : Fn → Nat) (pend : Allot → Nat) : Nat :=
  ((s.slices.filter fun p => p.1 != f).map fun p => max (now p.2) ((p.2.resize.map pend).getD 0)).foldl (· + ·) 0

/-- The refusals of Table 12-2 that concern an allotment. -/
def State.allotRefusal (s : State) (f : Nat) (a : Allot) : Option Cond :=
  let p := s.part f
  firstCond
    [ refuse (decide (p.lanesMax < a.lanes)) 0x40 24, refuse (decide (p.queuesMax < a.queues)) 0x40 26,
      refuse (decide (p.sheetsMax < a.sheets)) 0x40 28, refuse (decide (p.stagingMax < a.staging)) 0x40 32,
      refuse (decide (2048 < s.heldSum f (·.lanes) (·.lanes) + a.lanes)) 0x41 24,
      refuse (decide (64 * s.rigs.cur.perYard < s.heldSum f (·.sheets) (·.sheets) + a.sheets)) 0x41 28 ]

/-- The refusals of SLICE_CREATE (Table 12-2). -/
def State.sliceRefusal (s : State) (f pasid : Nat) (a : Allot) : Option Cond :=
  firstCond
    [ refuse ((s.part f).queuesMax == 0) 0x40 16, refuse (FMap.has s.fns f) 0x40 16,
      refuse (s.fns.any fun p => s.pasidOf p.1 == pasid) 0x40 20, s.allotRefusal f a,
      refuse (a.staging != 0 && (s.freeRun f a.staging).isNone) 0x41 32 ]

/-- A slice comes into being: ACTIVE, with its Cleats clear, its slots empty and its digest contexts FREE (R290, R300, R311, R342). -/
def State.makeSlice (f pasid : Nat) (a : Allot) (s : State) : State :=
  let x : Fn :=
    { state := .active, pasid := pasid, lanes := a.lanes, queues := a.queues, sheets := a.sheets,
      quotaBase := if a.staging = 0 then 0 else (s.freeRun f a.staging).getD 0, quotaLen := a.staging, beat := s.now,
      bucket := (s.part f).fnBurst }
  let s := (({ s with fns := FMap.put s.fns f x }.zeroCtr 7 f).clearCleatsOf f).freeCtxs f
  s.emptySlots (fun k => s.keyOwner k false == f) (fun k => s.keyOwner k true == f)

/-- The recognised generations of a slice number that is created (R179, R358): bound where the PASID is the recorded one,
released otherwise. -/
def State.bindRecognised (f : Nat) (pasid : Option Nat) (s : State) : State :=
  (s.gens.filter fun g => g.fn == f && g.retained).foldl (fun s g =>
    if pasid == some g.pasid then s else s.release g.epoch) s

/-- SLICE_CREATE. -/
def State.runSliceCreate (a : Acc) (f pasid : Nat) (al : Allot) (s : State) : State :=
  s.orRefuse a.id (firstCond [s.haltedRefusal f, s.signalRefusal a.fn a.hdr, s.sliceRefusal f pasid al]) fun s =>
    (((s.bindRecognised f (some pasid)).makeSlice f pasid al).logCut s.shareLoss).endEntry a.id 0

/-! ### Resizing (R345) -/

/-- Would a quota of a length cut off a parity area of a retained generation, or a source of an armed Sheet? -/
def State.cutsOff (s : State) (f len : Nat) : Bool :=
  let base := ((FMap.find s.fns f).map (·.quotaBase)).getD 0
  let t := s.modFn f fun x => { x with quotaLen := len }
  ((s.gens.filter fun g => g.fn == f && g.retained).any fun g =>
    match g.groups with
    | some gr => (s.parityAreas f g.slot gr).any fun r => decide (base + len < r.1 + r.2)
    | none => false) ||
  s.sheets.any fun h => h.2.fn == f && (t.quotaBreach f h.2.cur || ((h.2.pend.map fun x => t.quotaBreach f x).getD false))

/-- The refusals of SLICE_RESIZE (R345, R347). -/
def State.resizeRefusal (s : State) (f : Nat) (a : Allot) : Option Cond :=
  match FMap.find s.fns f with
  | none => firstCond [refuse ((s.part f).queuesMax == 0) 0x40 16, s.allotRefusal f a, some ⟨0x40, 16⟩]
  | some x =>
    let grow := if x.quotaLen = 0 then a.staging != 0 && (s.freeRun f a.staging).isNone
      else decide (x.quotaLen < a.staging) && !s.runFree f (x.quotaBase + x.quotaLen) (a.staging - x.quotaLen)
    firstCond
      [ refuse ((s.part f).queuesMax == 0) 0x40 16, s.allotRefusal f a,
        refuse (x.state == .frozen) 0x40 16,
        refuse (decide (a.lanes < 32 * (s.epsOf f).length)) 0x40 24,
        refuse (decide (a.queues < s.queuesHeld f)) 0x40 26,
        refuse (decide (a.sheets < s.armed f)) 0x40 28,
        refuse (decide (a.staging < x.quotaLen) && s.cutsOff f a.staging) 0x40 32,
        refuse grow 0x41 32 ]

/-- Apply a pending resize (R345 item 4), for the entry that waits for its scrub, if one does. -/
def State.applyResize (entry f : Nat) (s : State) : State :=
  match FMap.find s.fns f with
  | none => s
  | some x =>
    match x.resize with
    | none => s
    | some a =>
      let loss := s.shareLoss
      let base := if a.staging = 0 then 0 else if x.quotaLen = 0 then x.newBase else x.quotaBase
      let s := s.modFn f fun x => { x with
        lanes := a.lanes, queues := a.queues, sheets := a.sheets, quotaBase := base, quotaLen := a.staging
        resize := none, newBase := 0, cutSeen := false }
      let s := if a.staging < x.quotaLen then s.scrubQuota entry f (x.quotaBase + a.staging) (x.quotaLen - a.staging) else s
      (s.logFn 0x0205 f [a.lanes, a.queues, a.sheets, a.staging]).logCut loss

/-- Has the function a generation in OPEN? -/
def State.hasOpen (s : State) (f : Nat) : Bool := s.gens.any fun g => g.fn == f && g.state == .opened

/-- A SLICE_RESIZE that was applied at once completes when the staging that left the quota is scrubbed (R334). -/
def State.settleResized (a : Acc) (s : State) : State :=
  if a.phase = .waiting && a.fin.isNone && !s.scrubsFor a.id then s.endEntry a.id 1 else s

/-- SLICE_RESIZE: reserved at acceptance, applied at once or at the next epoch boundary. -/
def State.runSliceResize (a : Acc) (f : Nat) (al : Allot) (s : State) : State :=
  s.orRefuse a.id (firstCond [s.haltedRefusal f, s.signalRefusal a.fn a.hdr, s.resizeRefusal f al]) fun s =>
    let base := (s.freeRun f al.staging).getD 0
    let s := s.modFn f fun x => { x with resize := some al, newBase := if x.quotaLen = 0 then base else 0, cutSeen := false }
    if s.hasOpen f then s.endEntry a.id 0
    else
      let s := s.applyResize a.id f
      if s.scrubsFor a.id then s.modAcc a.id fun a => { a with phase := .waiting } else s.endEntry a.id 1

/-- Apply the resizes whose epoch boundary has come. -/
def State.settleResize (s : State) : State :=
  (s.fns.filter fun p => p.2.resize.isSome && (p.2.cutSeen || !s.hasOpen p.1)).foldl (fun s p => s.applyResize 0 p.1) s

/-! ### ATTACH_ENDPOINT (R343, R344) -/

/-- The lane limit of new attachments: the lesser of the current and a pending share (R345). -/
def State.laneLimit (s : State) (f : Nat) : Nat :=
  match (FMap.find s.fns f).bind (·.resize) with
  | some r => min (s.lanesOf f) r.lanes
  | none => s.lanesOf f

/-- The refusals of an attach. -/
def State.attachRefusal (s : State) (f : AttachF) : Option Cond :=
  let there := FMap.has s.fns f.slice
  let mine := (s.epsOf f.slice).filter (· != f.ep)
  let all := s.eps.filter fun p => p.1 != f.ep
  firstCond
    [ refuse (there && (decide (s.laneLimit f.slice / 32 < mine.length + 1) || decide (16 < all.length + 1))) 0x41 18,
      refuse (FMap.has s.eps f.ep || f.ep == s.setup.fabEp || s.setup.isDrainEp f.ep) 0x40 16,
      refuse (!there) 0x40 18,
      refuse (((FMap.find s.fns f.slice).map fun x => x.state == .frozen).getD false) 0x40 18 ]

/-- The refusals of a detach: not attached, or holding regions of a cut under way (Table 4-10). -/
def State.detachRefusal (s : State) (ep : Nat) : Option Cond :=
  firstCond
    [ refuse (!FMap.has s.eps ep) 0x40 16,
      refuse (s.gens.any fun g => (g.state == .opened || g.state == .cut) && g.allHolders.contains ep) 0x40 16 ]

/-- Detach an endpoint (R168, R344, R465). -/
def State.detach (ep : Nat) (s : State) : State :=
  let s := { s with
    eps := FMap.del s.eps ep
    lost := s.lost.filter (· != ep)
    forks := s.forks.filter (·.ep != ep)
    waitPkts := s.waitPkts.filter fun w => w.1 != 0 || w.2.1.dst != ep }
  (s.loseBuddy ep).restDetached ep

/-- ATTACH_ENDPOINT. -/
def State.runAttach (a : Acc) (f : AttachF) (s : State) : State :=
  if f.detach then
    let owner := (FMap.find s.eps f.ep).map (·.fn)
    s.orRefuse a.id (firstCond
      [ (owner.map fun o => s.haltedRefusal o).getD none, s.signalRefusal a.fn a.hdr, s.detachRefusal f.ep ]) fun s =>
      (s.detach f.ep).endEntry a.id 0
  else
    s.orRefuse a.id (firstCond [s.haltedRefusal f.slice, s.signalRefusal a.fn a.hdr, s.attachRefusal f]) fun s =>
      let x : Ep :=
        { fn := f.slice, belay := f.belay, quiesce := f.quiesce, winBase := f.winBase, winLen := f.winLen,
          forkBase := f.forkBase, forkSegs := f.forkSegs }
      ({ s with eps := FMap.put s.eps f.ep x }.zeroCtr 0xC f.ep).endEntry a.id 0

/-! ### SLICE_RESET (R352 to R354, R359) -/

/-- Is the entry a CLEAT_WAIT? -/
def Acc.isWait (a : Acc) : Bool :=
  match a.op with
  | .cleatWait _ _ _ => true
  | _ => false

/-- The I/O entries of a function that are accepted. -/
def State.ioEntries (s : State) (f : Nat) : List Acc := s.accepted.filter fun a => a.sq != 0 && a.fn == f

/-- Squash an entry (R353): it signals nothing. -/
def State.squashEntry (e info : Nat) (s : State) : State :=
  let s := { s with waitPkts := s.waitPkts.filter (·.1 != e) }
  s.modAcc e fun a => { a with conds := a.conds ++ [⟨0x68, info⟩], fin := some (a.fin.getD 0), sigWait := false, sigSent := true }

/-- Withdraw a change of the directory: a copy whose write has been issued is not known to stand (R161). -/
def State.withdraw (c : DirChange) (s : State) : State :=
  let issued := s.xfers.any fun x => x.2.work == .dirWrite c.idx c.epoch c.code && x.2.phase == .writing
  let s := { (s.dropWork fun w => w == .dirWrite c.idx c.epoch c.code || w == .dirMan c.idx c.epoch c.code) with dirQ := s.dirQ.erase c }
  if issued then s.dirStore c.idx false false else s

/-- A squashed DRAIN leaves its generation as it is, with no tier-3 record (R167, R353). -/
def State.squashDrain (e : Nat) (s : State) : State :=
  match s.gens.find? fun g => g.drainBy == some e with
  | none => s
  | some g =>
    let s := s.dropWork (Work.ofDrain e)
    let s := (s.dirQ.filter fun c => c.epoch == g.epoch && c.code == 2).foldl (fun s c => s.withdraw c) s
    s.modGen g.epoch fun g => { g with
      drainBy := none, t3Draft := none, t3 := if g.recorded 2 then g.t3 else none
      writing := if g.writing == some 2 then none else g.writing }

/-- End one entry of a function that is reset, with all its work (R354). -/
def State.squash (a : Acc) (info : Nat) (s : State) : State :=
  let s := (s.squashDrain a.id).dropRest a.id
  let s := match a.op.job? with
    | some job => (s.modJob job fun j => { j with restored := j.restored.filter (· != a.id) }).cleanJob job
    | none => s
  let s := (s.dropWork fun w => w.entry? == some a.id).squashEntry a.id info
  { s with keys := { s.keys with queue := s.keys.queue.filter (·.entry != a.id) } }

/-- The accepted I/O entries of a function that have not reached their own end (R353). -/
def State.unended (s : State) (f : Nat) : List Acc := (s.ioEntries f).filter fun a => !a.ready

/-- Is a host request a completion or interrupt write of a function? -/
def State.reportsFor (s : State) (f : Nat) (h : HostReq) : Bool :=
  match h.use with
  | .completion q _ => ((FMap.find s.cqs q).map (·.fn)) == some f && q != 0
  | .interrupt q => ((FMap.find s.cqs q).map (·.fn)) == some f && q != 0
  | .data _ _ _ _ _ => false

/-- Step 1 of Table 12-6. -/
def State.resetStart (f : Nat) (squash : Bool) (s : State) : State :=
  let s := s.modFn f fun x => { x with resetting := true }
  let s : State := { s with sqs := FMap.mapV s.sqs fun k q => if k != 0 && q.fn == f && q.state == SqState.running then q.stop .disabled else q }
  let s := (s.sheets.filter fun h => h.2.fn == f).foldl (fun s h => s.stopSheet h.1 squash) s
  let armed := (s.gens.filter (·.fn == f)).flatMap fun g => g.armedEps.map fun ep => (ep, g.epoch)
  let s := armed.foldl (fun s p => s.disarm p.1 p.2) s
  let s := (s.eps.filter fun p => p.2.fn == f).foldl (fun s p =>
    match p.2.quiesced with
    | some e => s.resume p.1 e 0
    | none => s) s
  (s.gens.filter fun g => g.fn == f && (g.state == .opened || g.state == .cut)).foldl (fun s g => s.abandon g.epoch 4 0) s

/-- Step 3 of Table 12-6: the entries but the waits, the transfers, and the unprotected generations. -/
def State.resetEnd (f info : Nat) (s : State) : State :=
  let s := ((s.unended f).filter fun a => !a.isWait).foldl (fun s a => s.squash a info) s
  let s := { s with sheets := s.sheets.filter fun h => h.2.fn != f }
  let s := (s.xfers.filter fun x => x.2.fn == f && !x.2.work.writesDir).foldl (fun s x => s.dropXfer x.1) s
  let s := { s with hreqs := s.hreqs.filter fun h => !s.reportsFor f h }
  (s.gens.filter fun g => g.fn == f && g.retained && !g.safe).foldl (fun s g => s.abandon g.epoch 4 0) s

/-- Step 4 of Table 12-6: Cleats, waits, digest contexts, queues, rings and the report. -/
def State.resetClear (f info : Nat) (s : State) : State :=
  let s := ((s.unended f).filter Acc.isWait).foldl (fun s a => s.squashEntry a.id info) s
  let s := (s.clearCleatsOf f).freeCtxs f
  let s : State := { s with
    sqs := FMap.mapV s.sqs fun k q => if k != 0 && q.fn == f && q.state == SqState.halted then { q with state := .disabled } else q
    cqs := FMap.mapV s.cqs fun k r => if k != 0 && r.fn == f && r.state == CqState.halted then { r with state := .running } else r }
  let s := (s.cqs.filter fun r => r.2.fn == f).foldl (fun s r => s.flushHeld r.1 r.2.held.length) s
  s.modFn f fun x => { x with orphan := {}, missed := false }

/-- Step 5: the teardown of a FROZEN slice (R359). -/
def State.teardown (entry f : Nat) (s : State) : State :=
  let s := { s with sqs := s.sqs.filter fun q => q.2.fn != f, cqs := s.cqs.filter fun r => r.2.fn != f }
  let s := (s.epsOf f).foldl (fun s ep => s.detach ep) s
  let s := (s.gens.filter fun g => g.fn == f && g.retained).foldl (fun s g => s.release g.epoch) s
  let s := s.emptySlots (fun k => s.keyOwner k false == f) (fun k => s.keyOwner k true == f)
  let run := ((FMap.find s.fns f).map fun x => (x.quotaBase, x.quotaLen)).getD (0, 0)
  let s := s.scrubQuota entry f run.1 run.2
  { s with
    fns := FMap.del s.fns f
    glob := { s.glob with latches := FMap.keep s.glob.latches fun off _ => off / 0x1000 != 0x300 + f } }

/-- Does a completion or interrupt write of the function remain, unissued or unanswered, or an entry that is still to complete (R354)? The held completions of a ring that
is HALTED are written once it runs again, and no transfer. -/
def State.reporting (s : State) (f : Nat) : Bool :=
  !(s.ioEntries f).isEmpty ||
  (s.cqs.any fun r => r.2.fn == f && r.2.state == .running && !r.2.held.isEmpty) || s.hreqs.any (s.reportsFor f)

/-- Steps 5 and 6 of Table 12-6, once no completion write of the function remains; a teardown completes when the directory entries
that it frees and the quota that it scrubs are written (R334, R359). -/
def State.resetLeave (a : Acc) (f : Nat) (s : State) : State :=
  if s.reporting f then s
  else if ((FMap.find s.fns f).map fun x => x.state == .frozen).getD false then
    (s.teardown a.id f).modAcc a.id fun a => { a with step := 3 }
  else
    (s.modFn f fun x => { x with
      state := .active, haltCause := 0, haltIndex := 0, haltQid := 0, resetting := false, freezing := false
      beat := s.now }).endEntry a.id a.count

/-- Steps 3 and 4; INFO counts the entries that they squash. -/
def State.resetFinish (a : Acc) (f : Nat) (squash : Bool) (s : State) : State :=
  let info := f + 256 * b2n squash
  let n := (s.unended f).length
  let s := ((s.resetEnd f info).resetClear f info).settleResize
  (s.modAcc a.id fun a => { a with step := 2, count := n }).resetLeave { a with count := n } f

/-- SLICE_RESET: step 1, and in SQUASH mode the rest. -/
def State.runSliceReset (a : Acc) (f : Nat) (squash : Bool) (s : State) : State :=
  s.orRefuse a.id (firstCond [s.signalRefusal a.fn a.hdr, refuse (!FMap.has s.fns f) 0x40 16]) fun s =>
    let s := (s.resetStart f squash).settleResize
    let s := s.modAcc a.id fun a => { a with phase := .waiting, step := 1 }
    if squash then s.resetFinish a f true else s

/-- The step of a SLICE_RESET at work, with its function and mode. -/
def Acc.reset? (a : Acc) : Option (Nat × Bool) :=
  match a.op with
  | .sliceReset f squash _ => if a.phase = .waiting && a.fin.isNone then some (f, squash) else none
  | _ => none

/-- A SLICE_RESET goes on when nothing is left to wait for (Table 12-6). -/
def State.settleReset (a : Acc) (s : State) : State :=
  match a.reset? with
  | none => s
  | some (f, squash) =>
    if a.step = 1 then
      if (s.ioEntries f).any fun b => !b.isWait then s else s.resetFinish a f squash
    else if a.step = 2 then s.resetLeave a f
    else if s.scrubsFor a.id || s.dirQ.any fun c => c.code == recFree && ((s.gen c.epoch).map (·.fn)) == some f then s
    else s.endEntry a.id a.count

/-- The TIMEOUT of a DRAIN-mode SLICE_RESET has passed (Table 12-6 step 2). -/
def State.resetTimeout (e : Nat) (s : State) : State :=
  match s.acc e with
  | none => s
  | some a =>
    match a.op with
    | .sliceReset f false t =>
      if a.phase = .waiting && a.fin.isNone && a.step = 1 then (s.expire (a.tick + t)).resetFinish a f false else s
    | _ => s

/-! ### SLICE_FREEZE (R347, R355) -/

/-- Does the slice run work that SLICE_FREEZE does not wait for? -/
def State.freezeBusy (s : State) (f : Nat) (x : Fn) : Bool :=
  s.sheets.any (·.2.fn == f) || x.resize.isSome ||
  (s.ioEntries f).any (fun a => match a.op with
    | .cleatWait _ _ _ => true
    | .restore _ => true
    | .restoreSpare _ _ _ => true
    | .drain _ => true
    | _ => false) ||
  s.gens.any fun g => g.fn == f && (g.state == .opened || g.state == .cut || (g.state == .stayed && g.tier 2))

/-- SLICE_FREEZE: no entry is accepted from here on. -/
def State.runSliceFreeze (a : Acc) (f : Nat) (s : State) : State :=
  let x := FMap.find s.fns f
  s.orRefuse a.id (firstCond
    [ s.signalRefusal a.fn a.hdr,
      refuse ((x.map fun x => x.state == .frozen || s.freezeBusy f x).getD true) 0x40 16 ]) fun s =>
    (s.modFn f fun x => { x with freezing := true }).modAcc a.id fun a => { a with phase := .waiting }

/-- Does no transfer of the function remain in the block (R354)? -/
def State.fnQuiet (s : State) (f : Nat) : Bool :=
  !s.xfers.any (fun x => x.2.fn == f && !x.2.work.writesDir) && !s.keys.queue.any (·.fn == f) &&
  !s.reporting f

/-- A SLICE_FREEZE completes: the slice is FROZEN. -/
def State.settleFreeze (a : Acc) (s : State) : State :=
  match a.op with
  | .sliceFreeze f =>
    if a.phase = .waiting && a.fin.isNone && s.fnQuiet f then
      (s.modFn f fun x => { x with state := .frozen, freezing := false, missed := false }).endEntry a.id 0
    else s
  | _ => s

/-! ### SLICE_SAVE and SLICE_LOAD (R305, R356 to R358) -/

/-- The migration key of a slot: KEY_TYPE 0x2, of the physical function (R305). -/
def State.migKey (s : State) (slot : Nat) : Option KeySlot :=
  if s.keyOwner slot false = 0 then (FMap.find s.keys.store slot).filter (·.typ == 2) else none

/-- The blob that carries a key in a slice image (R305). -/
def KeySlot.blob (k : KeySlot) : Blob :=
  { typ := k.typ, wrap := 2, migExport := k.migExport, ku := k.ku, keyId := k.keyId, wrapSlot := 0,
    keyLen := k.key.length, hmacAlg := k.hmacAlg }

/-- A key record of the slice image (Table 12-8). -/
def keyRecord (hmac : Bool) (index : Nat) (k : KeySlot) (wrapper : List Byte) : List Byte :=
  let bs := k.blob.make k.key wrapper
  toLe 2 (index + 32768 * b2n hmac) ++ toLe 2 bs.length ++ toLe 12 0 ++ fit 176 0 bs

/-- The exportable slots of a slice, by ascending store and index (R357). -/
def State.exported (s : State) (f : Nat) : List (Bool × Nat × KeySlot) :=
  let p := s.part f
  let of := fun (hmac : Bool) (base count : Nat) (m : FMap KeySlot) =>
    (m.filter fun k => decide (base ≤ k.1) && decide (k.1 < base + count) && k.2.migExport).map fun k => (hmac, k.1 - base, k.2)
  of false p.keyBase p.keyCount s.keys.store ++ of true p.hmacBase p.hmacCount s.keys.hmac

/-- The key records of a slice. -/
def State.keyRecords (s : State) (f : Nat) (wrapper : List Byte) : List (List Byte) :=
  (s.exported f).map fun k => keyRecord k.1 k.2.1 k.2.2 wrapper

/-- TOTAL_LEN of an image with n records. -/
def imageLen (n : Nat) : Nat := 128 + 192 * n

/-- The slice image (Table 12-7). -/
def State.sliceImage (s : State) (f : Nat) (x : Fn) (k : KeySlot) (iv : List Byte) : List Byte :=
  let p := s.part f
  let recs := s.keyRecords f k.key
  let head := fun (tag : List Byte) =>
    ascii "ZSLICE01" ++ toLe 2 1 ++ toLe 2 0x0201 ++ toLe 4 (imageLen recs.length) ++ toLe 8 f ++ toLe 2 x.lanes ++
    toLe 2 x.queues ++ toLe 4 x.sheets ++ toLe 8 x.quotaLen ++ toLe 2 p.keyCount ++ toLe 2 p.hmacCount ++
    toLe 4 recs.length ++ toLe 4 k.keyId ++ iv ++ tag ++ List.replicate 48 0
  let zero := head (List.replicate 16 0) ++ recs.flatten
  head (gcmTag k.key iv zero []) ++ recs.flatten

/-- The keys of a slice are wrapped: the image is written (R356, R357). -/
def State.imageReady (a : Acc) (f dest : Nat) (x : Fn) (k : KeySlot) (s : State) : State :=
  let total := imageLen (s.keyRecords f []).length
  let s := (s.exported f).foldl (fun s k => s.drawMasks k.2.2.blob.blocks) s
  let (iv, s) := s.draw 12
  let bs := plain (s.sliceImage f x k iv)
  let s := s.modAcc a.id fun a => { a with phase := .running, count := total }
  (piecesOf total).foldl (fun s c =>
    s.queueXfer a.fn (.resultOut a.id) [] [Part.load (.host (s.pasidOf a.fn) (dest + c.1)) (slice bs c.1 c.2)]) s

/-- SLICE_SAVE: the wraps of its keys take their turn at the Key Unit (R306). -/
def State.runSliceSave (a : Acc) (f dest len slot : Nat) (s : State) : State :=
  let x := FMap.find s.fns f
  s.orRefuse a.id (firstCond
    [ s.signalRefusal a.fn a.hdr, refuse (((x.map (·.state)) != some .frozen)) 0x40 16,
      refuse (s.migKey slot).isNone 0x40 36 ]) fun s =>
    match x, s.migKey slot with
    | some x, some k =>
      let total := imageLen (s.keyRecords f []).length
      s.orRefuse a.id (refuse (decide (len < total)) 0x41 total) fun s =>
        if (s.exported f).isEmpty && !s.keys.drbgStopped then s.imageReady a f dest x k else s.queueKu a k.key
    | _, _ => s

/-- The allotments of an image header. -/
def imageAllot (bs : List Byte) : Allot := ⟨leAt bs 24 2, leAt bs 26 2, leAt bs 28 2, leAt bs 32 8⟩

/-- The key records of an image: store, index and blob. -/
def imageRecords (bs : List Byte) : List (Bool × Nat × List Byte) :=
  (List.range (leAt bs 44 2)).map fun i =>
    let r := slice bs (128 + 192 * i) 192
    (decide (32768 ≤ leAt r 0 2), leAt r 0 2 % 32768, slice r 16 (leAt r 2 2))

/-- Does an image keep Tables 12-7 and 12-8? -/
def sliceImageOk (bs : List Byte) : Bool :=
  let a := imageAllot bs
  let n := leAt bs 44 2
  slice bs 0 8 == ascii "ZSLICE01" && leAt bs 8 2 == 1 && decide (n ≤ 1088) && leAt bs 12 4 == imageLen n &&
  zeroOutside bs 128 [(0, 17), (24, 6), (32, 14), (48, 32)] && decide (a.lanes ≤ 2048) && decide (1 ≤ a.queues) &&
  decide (a.queues ≤ 256) && decide (a.sheets ≤ 512) && a.staging % quotaUnit == 0 &&
  (List.range n).all fun i =>
    let r := slice bs (128 + 192 * i) 192
    let len := leAt r 2 2
    let b := slice r 16 len
    zeroOutside r 192 [(0, 4), (16, len)] && decide (48 ≤ len) && decide (len ≤ 176) && blobOk b &&
    (parseBlob b).wrap == 2 && (parseBlob b).len == len && ((parseBlob b).typ == 1) == decide (32768 ≤ leAt r 0 2)

/-- The authentication of an image (R358 step 1): the cause of AUTH_FAIL. The tag comes first, over the TOTAL_LEN bytes of the
image, then MIG_KEY_ID. -/
def imageAuth (k : Option KeySlot) (bs : List Byte) : Option Nat :=
  let image := bs.take (leAt bs 12 4)
  match k with
  | none => some 3
  | some k =>
    if image.length < 128 || slice bs 64 16 != gcmTag k.key (slice bs 52 12) (overlay image 64 (List.replicate 16 0)) [] then some 1
    else if k.keyId != leAt bs 48 4 then some 3
    else none

/-- The refusals of an authentic image (R358 step 3). -/
def State.loadRefusal (s : State) (f pasid : Nat) (bs : List Byte) : Option Cond :=
  let p := s.part f
  firstCond
    [ refuse (decide (0x0201 < leAt bs 10 2)) 0x40 10,
      refuse ((imageRecords bs).any fun r => decide ((if r.1 then p.hmacCount else p.keyCount) ≤ r.2.1)) 0x40 40,
      s.sliceRefusal f pasid (imageAllot bs) ]

/-- Unwrap the blobs of an image: slot, store, clear fields and key; none where one fails. -/
def State.imageKeys (s : State) (f : Nat) (k : KeySlot) (bs : List Byte) : List (Option (Nat × Blob × List Byte)) :=
  let p := s.part f
  (imageRecords bs).map fun r => (unwrapBlob r.2.2 k.key).map fun key =>
    ((if r.1 then p.hmacBase else p.keyBase) + r.2.1, parseBlob r.2.2, key)

/-- The blobs of an image are unwrapped: the slice comes into being, or the entry ends with AUTH_FAIL (R305, R358). -/
def State.loadImage (a : Acc) (f pasid : Nat) (k : KeySlot) (bs : List Byte) (s : State) : State :=
  let s := (imageRecords bs).foldl (fun s r => s.drawMasks (parseBlob r.2.2).blocks) s
  let keys := s.imageKeys f k bs
  if keys.any (·.isNone) then s.failEntry a.id 0x26 1
  else
    let s := (s.bindRecognised f none).makeSlice f pasid (imageAllot bs)
    let s := (keys.filterMap id).foldl (fun s x => s.loadSlot x.1 x.2.1 x.2.2 k.keyId) s
    s.endEntry a.id 0

/-- SLICE_LOAD: a malformation of an authentic image comes before every refusal (R358, R467), and the unwraps take their turn at
the Key Unit (R306). -/
def State.runSliceLoad (a : Acc) (f pasid len slot : Nat) (image : HostRead) (s : State) : State :=
  let bs := fit len 0 (readBytes image)
  let k := s.migKey slot
  if image = .error then s.malformed a.id 24 6
  else if (imageAuth k bs).isNone && len == leAt bs 12 4 && !sliceImageOk bs then s.malformed a.id 24 5
  else
    s.orRefuse a.id (firstCond
      [ s.haltedRefusal f, s.signalRefusal a.fn a.hdr, (imageAuth k bs).map fun c => ⟨0x26, c⟩,
        refuse (len != leAt bs 12 4) 0x40 32, s.loadRefusal f pasid bs ]) fun s =>
      match k with
      | none => s
      | some k =>
        if (imageRecords bs).isEmpty then s.loadImage a f pasid k bs
        else (s.modAcc a.id fun a => { a with note := bs }).queueKu a k.key

/-! ### The Key Unit (R306) -/

/-- The Key Unit has finished the request at its front (R302, R305 to R307). Without the CTR_DRBG, whose alarm ended every KEY_LOAD and
KU_BLOCK, what is left there waits: log 31, DESIGN CHOICE. -/
def State.kuServe (s : State) : State :=
  match s.keys.queue with
  | [] => s
  | r :: rest =>
    if s.restarting .shroud || s.keys.drbgStopped then s
    else
      let s := { s with keys := { s.keys with queue := rest } }
      match s.acc r.entry with
      | none => s
      | some a =>
        match a.op with
        | .keyLoad slot _ _ _ => s.keyUnwrapped a slot r.wrapper
        | .kuBlock _ decrypt data out => s.blockRun a decrypt data out r.wrapper
        | .sliceSave f dest _ slot =>
          match FMap.find s.fns f, s.migKey slot with
          | some x, some k => s.imageReady a f dest x k
          | none, _ => s.failEntry a.id 0x40 16
          | _, none => s.failEntry a.id 0x40 36
        | .sliceLoad f pasid _ _ slot =>
          match s.migKey slot with
          | some k => s.loadImage a f pasid k a.note
          | none => s.failEntry a.id 0x26 3
        | _ => s

/-! ### Heartbeats (R348, R375) -/

/-- Does a running admin entry name the function? -/
def State.namedNow (s : State) (f : Nat) : Bool :=
  s.accepted.any fun a => a.sq == 0 && s.namedBy a.op s.keyOwner == some f

/-- A function misses its heartbeat: orphaned, or once the admin entry that names it has completed. The Pennant timer counts the ticks, and
its expiry is a trigger (R31, R375). -/
def State.heartbeatMiss (f : Nat) (s : State) : State :=
  match FMap.find s.fns f with
  | none => s
  | some x =>
    if s.hbTicks f = 0 || x.state != .active then s
    else
      let due := x.beat + s.hbTicks f
      if !s.timerTurn 4 due then s else
      let s := s.timerServe due
      if s.namedNow f then s.modFn f fun x => { x with missed := true } else s.orphan f

end Sys2Proof.Machine
end

