-- ==== Sys2Proof/Machine/Procs.lean ====
section
/-! DEFINITION. Processors and lanes: crashes and restarts (R371 to R374), lane faults, spares and replay (R420 to R424), the
latent-fault tests (R426, R427), clock, voltage and thermal faults (R428 to R430) and the safety mode (R431). -/

namespace Sys2Proof.Machine

/-- Is the safety mode SAFE_STOP (R431)? -/
def State.safeStop (s : State) : Bool := s.pen.inForce.safety == 1

/-- An event of Table 15-5 halts the block in SAFE_STOP. -/
def State.safetyEvent (s : State) : State := if s.safeStop then s.haltBlock 13 else s

/-! ### Replay (R421) -/

/-- A transfer that is to be replayed, before its lane takes it up again: reads start anew, and a WR that carried a signal goes
without it (R282, R421). -/
def Xfer.rewound (x : Xfer) : Xfer :=
  if x.phase = .reading then
    match x.work with
    | .sheet _ _ => { x with srcs := [], hits := [], again := false, rereads := [], stale := [], ports := [], replayed := true, parked := true }
    | _ => { x with phase := .queued, replayed := true, srcs := x.srcs.map fun (p : Part) => Part.at p.loc p.len }
  else { x with phase := .loaded, sigLast := none, replayed := true, parked := x.work.isSheet }

/-- Replay a transfer on its lane where the lane is served and the ports allow it; otherwise it waits to be dispatched (R54, R57,
R421, Table 15-3 step 5). A Sheet's unit waits with its Yard's buffers (log 47). -/
def State.replayXfer (laneServed : Bool) (x : Xfer) (s : State) : State :=
  let y := x.rewound
  let s : State := { (s.forget x.id) with xfers := FMap.put s.xfers x.id y }
  if !laneServed then s
  else if y.parked then if s.unparks y then s.unpark y y.lane else s
  else
    match y.nextParts with
    | some (ps, w) =>
      match s.replayPort y ps w with
      | some port =>
        let y := { y with port := port, phase := if w then .writing else .reading }
        let s : State := { s with xfers := FMap.put s.xfers x.id y }
        if w then (s.readDsts y).startWrites y port else s.startReads y port
      | none => s
    | none => s

/-- Is the transfer in flight on a lane? -/
def State.moving (s : State) (x : Xfer) : Bool := (x.phase == .reading || x.phase == .writing) && s.owes x.id

/-- The transfers in flight on a logical lane. -/
def State.movingOn (s : State) (y k : Nat) : List Xfer :=
  (s.xfers.filter fun z => z.2.yard == y && z.2.lane == k && s.moving z.2).map (·.2)

/-- Replay what a logical lane moves. -/
def State.replayLane (y k : Nat) (s : State) : State :=
  (s.movingOn y k).foldl (fun s x => s.replayXfer ((s.yard y).serves (s.spareMap y) k) x) s

/-- Replay every transfer in flight (R428). -/
def State.replayAll (s : State) : State :=
  ((s.xfers.map (·.2)).filter s.moving).foldl (fun s x => s.replayXfer true x) s

/-! ### Lanes and spares (R420, R422, R423) -/

/-- The physical block index of a lane (R17). -/
def laneIndex (y p : Nat) : Nat := 34 * y + p

/-- Fence a physical lane: a spare stands in for nothing any more. -/
def State.fence (y p cause : Nat) (s : State) : State :=
  (s.modYard y fun v => { v.stand (s.spareMap y) p none with fenced := v.fenced ++ [p] }).logMast 0x0801 (y / 8) [laneIndex y p, cause]

/-- A spare takes a logical number. -/
def State.standIn (y p k : Nat) (s : State) : State :=
  (s.modYard y fun v => v.stand (s.spareMap y) p (some k)).logMast 0x0803 (y / 8) [laneIndex y p, 32 * y + k]

/-- A lane failed a test: fenced and reported (R420, R426, R431). The context is 0 for the periodic test, 1 for take-over. -/
def State.testFail (y p check context : Nat) (s : State) : State :=
  (((s.fence y p 3).logMast 0x0804 (y / 8) [laneIndex y p, check, context]).setFault 10).safetyEvent

/-- The first failed check that a list gives for a lane. -/
def failedCheck (fails : List (Nat × Nat)) (lane : Nat) : Option Nat := (fails.find? (·.1 == lane)).map (·.2)

/-- Give a logical number to one of the spares, each tested first (Table 15-3). True when one took it. -/
def State.takeOver (y k : Nat) (fails : List (Nat × Nat)) : List Nat → State → Bool × State
  | [], s => (false, s)
  | p :: ps, s =>
    match failedCheck fails (laneIndex y p) with
    | none => (true, s.standIn y p k)
    | some c => takeOver y k fails ps (s.testFail y p c 1)

/-- A logical number stays vacant (R423, R424): a lane fault with no spare (R431), and YARD_LOST where it was the Yard's last lane.
`loss` is the lanes by which shares were reduced before. -/
def State.vacate (y loss : Nat) (s : State) : State :=
  let was := (s.yard y).degraded
  let s := s.modYard y fun v => { v with degraded := true }
  let s := if was && decide (s.shareLoss ≤ loss) then s else s.logDegraded y
  let s := (if s.rigs.cur.spare.degradedFault then s.setFault 8 else s).safetyEvent
  if s.usable y = 0 then s.haltBlock 9 else s

/-- Replace a fenced lane's logical number, and replay its transfer. -/
def State.replaceLane (y k loss : Nat) (fails : List (Nat × Nat)) (s : State) : State :=
  match s.takeOver y k fails (s.sparesFree y) with
  | (true, s) => s.replayLane y k
  | (false, s) => (s.vacate y loss).replayLane y k

/-! ### Lanes under test (R426) -/

/-- The transfers of one number of a Yard take another number. -/
def State.renumber (y k k' : Nat) (s : State) : State :=
  { s with xfers := FMap.mapV s.xfers fun _ x => if x.yard = y && x.lane = k then { x with lane := k' } else x }

/-- Take a lane's test off the list. -/
def State.dropTrial (t : Trial) (s : State) : State := { s with tests := { s.tests with trials := s.tests.trials.filter (· != t) } }

/-- A spare that has passed takes the number of a lane under test, whose transfers in flight go on. -/
def State.startTrial (t : Trial) (s : State) : State :=
  let y := t.lane / 34
  let p := t.lane % 34
  match t.under, (s.yard y).servesAs (s.spareMap y) p, (s.sparesFree y).head? with
  | none, some k, some q =>
    let s := s.modYard y fun v => (v.stand (s.spareMap y) p none).stand (s.spareMap y) q (some k)
    { s.renumber y k (32 + p) with tests := { s.tests with
        trials := s.tests.trials.map fun x => if x = t then { t with under := some (q, k) } else x } }
  | _, _, _ => s

/-- A Yard with the number of its lane under test given back. -/
def State.handBack (s : State) (y : Nat) (v : Yard) : Yard :=
  match (s.trialOf y).bind fun t => t.under.map fun u => (t.lane % 34, u.1, u.2) with
  | some (p, q, k) => (v.stand (s.spareMap y) q none).stand (s.spareMap y) p (some k)
  | none => v

/-- The test of a Yard's lane ends at once: the lane takes its number back, with what the spare was moving, which is replayed. -/
def State.endTrial (y : Nat) (s : State) : State :=
  match s.trialOf y with
  | none => s
  | some t =>
    match t.under with
    | none => s.dropTrial t
    | some (_, k) =>
      let onSpare := s.movingOn y k
      let s := ((s.modYard y (s.handBack y)).renumber y (32 + t.lane % 34) k).dropTrial t
      onSpare.foldl (fun s x => s.replayXfer true x) s

/-- A lane under test holds no transfer any more and fails its test: fenced, and its number served by the spare or vacant. -/
def State.failTrial (t : Trial) (s : State) : State :=
  let y := t.lane / 34
  let p := t.lane % 34
  let loss := s.shareLoss
  let own := (s.yard y).servesAs (s.spareMap y) p
  let s := (s.dropTrial t).testFail y p t.check 0
  match t.under, own with
  | some (q, k), _ => s.logMast 0x0803 (y / 8) [laneIndex y q, 32 * y + k]
  | none, some k => s.replaceLane y k loss []
  | none, none => s

/-- Go on with the test of a lane, which the Mast's dispatch pair fences (log 38). -/
def State.runTrial (t : Trial) (s : State) : State :=
  let y := t.lane / 34
  if (s.trialOf y).map (·.lane) != some t.lane || s.procs.orphanMasts.contains (y / 8) then s
  else if (s.yard y).fenced.contains (t.lane % 34) then s.dropTrial t
  else
    let s := s.startTrial t
    match s.trialOf y with
    | some u => if ((s.numberOf y (t.lane % 34)).map fun k => (s.movingOn y k).isEmpty).getD true then s.failTrial u else s
    | none => s

/-- Fence a lane and replace it. A test in the Yard ends first. -/
def State.loseLane (y p cause : Nat) (fails : List (Nat × Nat)) (s : State) : State :=
  let s := s.endTrial y
  let k := (s.yard y).servesAs (s.spareMap y) p
  let loss := s.shareLoss
  let s := s.fence y p cause
  match k with
  | some k => s.replaceLane y k loss fails
  | none => s

/-! ### Lane faults (R418, R420 to R423) -/

/-- The dispatch pair serves a parity fault of a physical lane (R422). -/
def State.serveParity (lane : Nat) (fails : List (Nat × Nat)) (s : State) : State :=
  let y := lane / 34
  let p := lane % 34
  if (s.yard y).fenced.contains p then s
  else
    let pol := s.rigs.cur.spare
    let now := s.pen.lifeS
    let hits := ((s.yard y).strikes.filter fun x => decide (now ≤ x.2 + pol.window)) ++ [(p, now)]
    let n := (hits.filter (·.1 == p)).length
    let s := s.modYard y fun v => { v with strikes := hits }
    if n < pol.strikes then
      let s := s.logMast 0x0802 (y / 8) [lane, n]
      match s.numberOf y p with
      | some k => s.replayLane y k
      | none => s
    else s.loseLane y p 1 fails

/-- The dispatch pair serves a stall of a lane that holds a dispatched transfer (Table 15-1). -/
def State.serveStall (lane : Nat) (fails : List (Nat × Nat)) (s : State) : State :=
  let y := lane / 34
  let p := lane % 34
  match s.numberOf y p with
  | none => s
  | some k => if (s.movingOn y k).isEmpty then s else s.loseLane y p 2 fails

/-- A lane fault: its Mast's dispatch pair serves it, or it waits for one (R22, R374). Cause 1 is parity, 2 a stall. -/
def State.laneFault (lane cause : Nat) (fails : List (Nat × Nat)) (s : State) : State :=
  if s.procs.orphanMasts.contains (lane / 34 / 8) then
    { s with procs := { s.procs with laneFaults := s.procs.laneFaults ++ [(lane, cause, fails)] } }
  else if cause = 1 then s.serveParity lane fails
  else s.serveStall lane fails

/-- A parity fault of a physical lane (R422). -/
def State.parityFault (lane : Nat) (fails : List (Nat × Nat)) (s : State) : State :=
  if decide (64 ≤ lane / 34) || !s.mainOn || (s.yard (lane / 34)).fenced.contains (lane % 34) then s
  else (s.bump (ctrId 3 lane 2)).laneFault lane 1 fails

/-- A stall of a physical lane (Table 15-1). -/
def State.stallFault (lane : Nat) (fails : List (Nat × Nat)) (s : State) : State :=
  if decide (64 ≤ lane / 34) || !s.mainOn then s
  else
    match s.numberOf (lane / 34) (lane % 34) with
    | none => s
    | some k => if (s.movingOn (lane / 34) k).isEmpty then s else s.laneFault lane 2 fails

/-! ### Latent-fault tests (R400, R426, R427) -/

/-- A calendar test starts: late where its time has passed (R400). -/
def State.testStarts (item due : Nat) (s : State) : State :=
  if s.pen.lifeS ≤ due then s else s.logEvent 0x070A [item, s.pen.lifeS - due]

/-- The next-due time after a service (R400). -/
def nextDue (due period now : Nat) : Nat := if now < due + period then due + period else now + period

/-- Go on with the lanes under test, in order. -/
def State.runTrials (s : State) : State := s.tests.trials.foldl (fun s t => s.runTrial t) s

/-- The failing lanes that a spare self-test finds among those that are not fenced: spares first (R426). -/
def State.trialsOf (s : State) (fails : List (Nat × Nat)) : List Trial :=
  let open_ := fails.filter fun f => decide (f.1 < 2176) && !(s.yard (f.1 / 34)).fenced.contains (f.1 % 34)
  let spare := fun (f : Nat × Nat) => (s.sparesFree (f.1 / 34)).contains (f.1 % 34)
  (open_.filter spare ++ open_.filter fun f => !spare f).map fun f => { lane := f.1, check := f.2 }

/-- The spare self-test starts (R400, R426). -/
def State.startSelfTest (due : Nat) (fails : List (Nat × Nat)) (s : State) : State :=
  let s := s.testStarts 0 due
  { s with
    pen := { s.pen with spareDue := nextDue due 14400 s.pen.lifeS }
    tests := { s.tests with trials := s.tests.trials ++ s.trialsOf fails } }.runTrials

/-- The spare self-test falls due: its expiry is a trigger, and it starts when it can (R31, R400, R426). -/
def State.selfTest (fails : List (Nat × Nat)) (s : State) : State :=
  let due := s.pen.spareDue
  if !s.mainOn || !s.glob.ready || !s.timerTurn 3 (s.tickOfLife due) then s
  else
    let s := s.timerServe (s.tickOfLife due)
    if s.selfTestCan then s.startSelfTest due fails else s

/-- A BIST failure (R427). -/
def State.bistFail (y : Nat) (f : BistFail) (s : State) : State :=
  ((s.logMast 0x0805 (y / 8) [y, f.part, if f.part = 1 then f.buffer else 0]).setFault 10).safetyEvent

/-- Is a Yard free of other work, so that its BIST run can take every buffer and engine? Log 17. -/
def State.yardIdle (s : State) (y : Nat) : Bool := !s.xfers.any fun x => x.2.yard == y && x.2.phase != .queued

/-- A BIST run goes on: it ends when every buffer and engine has been free for it, and is logged as late 1,350 s after it became due
(R427). -/
def State.runBist (s : State) : State :=
  match s.tests.bist with
  | none => s
  | some r =>
    if s.yardIdle r.yard then
      r.fails.foldl (fun s f => s.bistFail r.yard f) { s with tests := { s.tests with bist := none } }
    else if r.late || decide (s.pen.lifeS < r.due + 1350) then s
    else { s with tests := { s.tests with bist := some { r with late := true } } }.logEvent 0x070A [1, s.pen.lifeS - r.due]

/-- A Yard BIST run starts, of the Yard at the calendar's pointer, which Trim ungates (R400, R427). -/
def State.startBist (due : Nat) (fails : List BistFail) (s : State) : State :=
  let y := s.pen.bistPtr
  let s := (s.ungate y).testStarts 1 due
  { s with
    pen := { s.pen with bistDue := nextDue due 1350 s.pen.lifeS, bistPtr := (y + 1) % 64 }
    tests := { s.tests with bist := some { yard := y, due := due, fails := fails } } }.runBist

/-- A Yard BIST run falls due: its expiry is a trigger, and it starts when it can (R31, R400, R427). -/
def State.bist (fails : List BistFail) (s : State) : State :=
  let due := s.pen.bistDue
  if !s.mainOn || !s.glob.ready || !s.timerTurn 3 (s.tickOfLife due) then s
  else
    let s := s.timerServe (s.tickOfLife due)
    if s.bistCan s.pen.bistPtr then s.startBist due fails else s

/-- Is a latent-fault test more than one period late (R431)? -/
def State.testsOverdue (s : State) : Bool :=
  decide (s.pen.spareDue + 14400 < s.pen.lifeS) || decide (s.pen.bistDue + 1350 < s.pen.lifeS)

/-- The latent-fault tests go on, and one that is overdue is a fault in SAFE_STOP (R431). -/
def State.settleTests (s : State) : State :=
  let s := s.runTrials.runBist
  if s.mainOn && s.glob.ready && s.safeStop && s.testsOverdue then s.setFault 12 else s

/-! ### Dispatch adoption (R23, R374) -/

/-- The neighbour that dispatches for a Mast. -/
def neighbour (m : Nat) : Nat := (m + 1) % 8

/-- Who dispatches for each Mast now; a Mast newly without a dispatcher is a second fault, and one that has a dispatcher again serves the
lane faults that waited. -/
def State.refreshDispatch (s : State) : State :=
  let down := (List.range 8).filter fun m => s.restarting (.dispatch m)
  let lone := down.filter fun m => down.contains (neighbour m)
  let new := lone.filter fun m => !s.procs.orphanMasts.contains m
  let s : State := { s with procs := { s.procs with
    adopted := (down.filter fun m => !lone.contains m).map fun m => (m, neighbour m)
    orphanMasts := lone } }
  let s := new.foldl (fun s m => ((s.logEvent 0x0506 [m]).setFault 11).safetyEvent) s
  let held := s.procs.laneFaults
  held.foldl (fun s f => s.laneFault f.1 f.2.1 f.2.2) { s with procs := { s.procs with laneFaults := [] } }

/-! ### Crashes and restarts (R371 to R374, R388, R404) -/

/-- The logging processor of a crash, and its Mast (R466). -/
def procSource : Proc → Nat × Nat
  | .dispatch m => (0, m)
  | .service m _ => (0, m)
  | .mainstay => (1, 0)
  | .shroud => (2, 0)
  | .trim => (3, 0)
  | .masthead => (4, 0)

/-- Is it a processor of the block? -/
def procExists : Proc → Bool
  | .dispatch m => decide (m < 8)
  | .service m c => decide (m < 8) && decide (c < 2)
  | _ => true

/-- Mark a processor as restarting, with what its restart loses (Tables 13-1 and 13-5). -/
def State.startRestart (p : Proc) (s : State) : State :=
  let s : State := { s with procs := { s.procs with restarting := s.procs.restarting ++ [p] } }
  match p with
  | .dispatch _ => s.refreshDispatch
  | .mainstay => { s with
      glob := { s.glob with mainstayUnpaired := true }
      procs := { s.procs with unpairedSince := some s.now }
      sqs := FMap.mapV s.sqs fun _ q => { q with cache := [] } }
  | .shroud => { s with keys := { s.keys with drbg := none } }
  | .masthead => { s with
      mb := { s.mb with notReady := true }
      tt := { s.tt with sampling := false, edges := [] } }
  | _ => s

/-- PROC_CRASH (R371, R466). -/
def State.logCrash (p : Proc) (cause pc : Nat) (s : State) : State :=
  s.logWith 0x0503 2 (procSource p).1 (procSource p).2 none [cause, pc]

/-- A processor crashes: cause 1 lockstep, 2 watchdog, 3 trap. A crash of the unpaired Mainstay halts the block (R373); another
processor that restarts runs nothing that could crash. -/
def State.crash (p : Proc) (cause pc : Nat) (s : State) : State :=
  if !s.mainOn || !procExists p then s
  else if s.restarting p then if p = .mainstay then (s.logCrash p cause pc).haltBlock 1 else s
  else (s.startRestart p).logCrash p cause pc

/-- A watchdog expires. Masthead's is a claimant of the Pennant timer, always first, and its expiry a trigger (R31, R438). -/
def State.watchdog (p : Proc) (pc : Nat) (s : State) : State :=
  let s := if p = .masthead && s.sensing then { s with timerAt := s.now + 1 }.wake else s
  s.crash p 2 pc

/-- A trap, with the uncorrectable word that caused it (R326). -/
def State.trap (p : Proc) (pc : Nat) (ecc : Option (Nat × Nat)) (s : State) : State :=
  let src := procSource p
  match ecc with
  | some (mem, word) =>
    if !s.mainOn || !procExists p || (s.restarting p && p != .mainstay) then s
    else (s.logWith 0x0601 2 src.1 src.2 none [mem, word]).crash p 3 pc
  | none => s.crash p 3 pc

/-- The response that an aborted mailbox request gets (R388): CMD, RESULT, LEN 0 and TAG. -/
def abortedBytes (r : MbReq) : List Byte := toLe 1 r.cmd ++ toLe 1 6 ++ toLe 2 0 ++ toLe 4 r.tag

/-- Write the log entries that were held while Masthead was away; LOG_GAP follows a loss (R404). -/
def State.flushLog (s : State) : State :=
  let persistent := s.setup.hasStaging && s.glob.power != .pennant
  let l := s.log.held.foldl (fun (l : Log) e => l.write persistent e) s.log
  let s := { s with log := { l with held := [], lost := 0 } }
  if l.lost = 0 then s else s.logEvent 0x0707 [l.lost]

/-- Masthead is back (R388, R404): the samples that fell due meanwhile are skipped (R396). -/
def State.mastheadBack (s : State) : State :=
  { s with
    mb := { s.mb with
      notReady := false, done := s.mb.done || s.mb.outstanding.isSome
      resp := (s.mb.outstanding.map abortedBytes).getD s.mb.resp, outstanding := none }
    tt := { s.tt with sampling := s.glob.ready && s.mainOn, next := s.tt.nextAfter s.now } }.flushLog

/-- A clock fault's reaction (R428). -/
def State.clockReact (clock : Nat) (relocked : Bool) (s : State) : State :=
  let s := if relocked then (s.replayAll).logWith 0x0807 2 3 0 none [clock, 0]
    else (s.haltBlock 5).logWith 0x0807 3 3 0 none [clock, 1]
  s.keyAlarm 3

/-- Trim is back: a held trigger is served, and a clock fault is reacted to (Table 13-5). -/
def State.trimBack (s : State) : State :=
  let s := if s.waking.waiting && s.glob.power == .idle then
      { s with glob := { s.glob with power := .run }, waking := { s.waking with waiting := false } } else s
  match s.procs.clockWait with
  | some c => ({ s with procs := { s.procs with clockWait := none } }).clockReact c.1 c.2
  | none => s

/-- A processor's restart is complete. -/
def State.restarted (p : Proc) (s : State) : State :=
  let s : State := { s with procs := { s.procs with restarting := s.procs.restarting.filter (· != p) } }
  match p with
  | .dispatch _ => s.refreshDispatch
  | .mainstay => { s with
      glob := { s.glob with mainstayUnpaired := false }, procs := { s.procs with unpairedSince := none } }
  | .masthead => s.mastheadBack
  | .trim => s.trimBack
  | _ => s

/-- 50 ms in AO ticks, rounded up (Table 15-5). -/
def pairTicks : Nat := 1639

/-- Mainstay has been unpaired for more than 50 ms (R431). -/
def State.unpairedLong (s : State) : State :=
  match s.procs.unpairedSince with
  | some t => (s.expire (t + pairTicks)).safetyEvent
  | none => s

/-! ### Clocks, voltage and temperature (R428 to R430) -/

/-- A clock fault: while Trim restarts, its reaction waits. -/
def State.clockFault (clock : Nat) (relocked : Bool) (s : State) : State :=
  if !s.mainOn then s
  else if s.restarting .trim then { s with procs := { s.procs with clockWait := some (clock, relocked) } }
  else s.clockReact clock relocked

/-- Is a voltage monitor's window armed (R429, R457)? -/
def State.windowOn (s : State) (m : Nat) : Bool :=
  s.setup.sensorLock && ((s.setup.vmon[m]?).map fun v => v.getLsbD 31).getD false

/-- A voltage fault. -/
def State.voltageFault (m mv : Nat) (s : State) : State :=
  if !s.mainOn || !s.windowOn m then s
  else
    let s := (s.haltBlock 6).logEvent 0x0808 [m, mv]
    if m = Config.shroudRail then s.keyAlarm 4 else s

/-- A thermal trip. -/
def State.thermalTrip (d : Nat) (s : State) : State := if s.mainOn && decide (d < 16) then s.haltBlock 7 else s

/-- The debug region is unlocked (R458), through the test access port, in any state but reset, which locks it. -/
def State.unlockDebug (s : State) : State :=
  if s.glob.power = .held || s.glob.power = .pennant then s
  else ({ s with glob := { s.glob with debugUnlocked := true } }).keyAlarm 5

end Sys2Proof.Machine
end

