-- ==== Sys2Proof/Machine/Rigs.lean ====
section
/-! DEFINITION. Rig sets (R378 to R385): the image's layout and checks, RIG_STAGE, RIG_COMMIT and RIG_ROLLBACK, and what
takes effect at a commit (Table 13-12). -/

namespace Sys2Proof.Machine

/-! ### Sensors and counters that a Telltale source may name (R393) -/

/-- Is the sensor index listed in Table 14-2? -/
def sensorListed (i : Nat) : Bool :=
  decide (i ≤ 27) || (decide (32 ≤ i) && decide (i ≤ 76)) || (decide (80 ≤ i) && decide (i ≤ 95))

/-- Does the instance of a counter exist (R407)? -/
def State.ctrExists (s : State) (id : Nat) : Bool :=
  let i := id / 256 % 4096
  match id / 2 ^ 20 with
  | 0x7 => FMap.has s.fns i
  | 0x8 => ((FMap.find s.sqs i).map fun q => q.state != .absent).getD false
  | 0x9 => ((FMap.find s.cqs i).map fun r => r.state != .absent).getD false
  | 0xB => s.jobs.any fun j => j.2.idx == some i
  | 0xC => FMap.has s.eps i
  | sc => ((ctrScope sc).map fun p => decide (i < p.1)).getD false

/-- A counter as it is read: an instance that does not exist reads zero (R407). -/
def State.counter (s : State) (id : Nat) : Nat := if s.ctrExists id then s.ctr.value id else 0

/-- May a source of a KIND select a value (R393)? -/
def selectOk (kind v : Nat) : Bool :=
  match kind with
  | 1 => (ctrClass v).isSome
  | 2 => sensorListed v
  | 3 => sensorListed v
  | 4 => decide (v ≤ 3)
  | 5 => decide (v ≤ 31)
  | _ => false

/-! ### The sections (Tables 13-8 to 13-10, 14-3, 14-4, 15-4, 15-9) -/

/-- The sections' lengths (Table 13-8). -/
def sectionLens : List Nat := [4096, 576, 8192, 16384, 64, 64, 64, 64]

/-- The entries of a section: index and bytes. -/
def rows (bs : List Byte) (size : Nat) : List (Nat × List Byte) := ((chunks size bs).zipIdx).map fun p => (p.2, p.1)

/-- Are the queue weights well formed: byte 0 zero, every other 1 to 255? -/
def weightsOk (bs : List Byte) : Bool := leAt bs 0 1 == 0 && (bs.drop 1).all (· != 0)

/-- A Telltale source (Table 14-4). -/
def parseTtSrc (bs : List Byte) : TtSrc where
  kind := leAt bs 0 1
  staleFull := bitOf (leAt bs 1 1) 0
  weight := leAt bs 2 2
  select := leAt bs 4 4
  limit := leAt bs 8 4
  base := ofTwos 32 (leAt bs 12 4)

/-- Is a Telltale source entry well formed (R393)? -/
def ttSrcOk (bs : List Byte) : Bool :=
  let t := parseTtSrc bs
  if t.kind = 0 then allZero bs
  else
    selectOk t.kind t.select && decide (leAt bs 1 1 < 2) && t.limit != 0 && (t.kind == 2 || t.kind == 3 || t.base == 0)

/-- Do the thresholds keep their rules: no non-zero one after a zero one, and a strict rise? -/
def thresholdsOk (a b c : Nat) : Bool :=
  (a != 0 || b == 0) && (b != 0 || c == 0) && (b == 0 || decide (a < b)) && (c == 0 || decide (b < c))

/-- Is the Telltale section well formed (R393)? -/
def ttOk (bs : List Byte) : Bool :=
  thresholdsOk (leAt bs 2 2) (leAt bs 4 2) (leAt bs 6 2) && zeroOutside bs 64 [(0, 10)] &&
  (rows (bs.drop 64) 16).all fun r => ttSrcOk r.2

/-- The Telltale section. -/
def parseTt (bs : List Byte) : TtSec where
  decay := leAt bs 0 2
  t1 := leAt bs 2 2
  t2 := leAt bs 4 2
  t3 := leAt bs 6 2
  hyst := leAt bs 8 2
  srcs := (rows (bs.drop 64) 16).filterMap fun r => if leAt r.2 0 1 = 0 then none else some (r.1, parseTtSrc r.2)

/-- A cadence row (Table 13-9). -/
def parseCad (bs : List Byte) : CadRow where
  stepN := (List.range 4).map fun l => leAt bs (2 * l) 2
  timeS := (List.range 4).map fun l => leAt bs (8 + 4 * l) 4
  pin := leAt bs 24 1
  cutTimeout := leAt bs 26 2
  wastePct := leAt bs 28 1

/-- Is a cadence row well formed (R135, R380)? -/
def cadOk (bs : List Byte) : Bool :=
  let c := parseCad bs
  c.timeS.all (fun t => decide (t ≤ 86400)) && decide (c.pin < 32) && decide (1 ≤ c.cutTimeout) && decide (c.wastePct ≤ 100) &&
  zeroOutside bs 32 [(0, 25), (26, 3)]

/-- A partition entry (Table 13-10). -/
def parsePart (bs : List Byte) : PartEnt where
  queuesMax := leAt bs 0 2
  lanesMax := leAt bs 2 2
  sheetsMax := leAt bs 4 2
  stagingMax := leAt bs 8 8
  cleatBase := leAt bs 16 4
  cleatCount := leAt bs 20 4
  keyBase := leAt bs 24 2
  keyCount := leAt bs 26 2
  hmacBase := leAt bs 28 2
  hmacCount := leAt bs 30 2
  fnRate := leAt bs 32 4
  fnBurst := leAt bs 36 4

/-- Is a partition entry well formed (R278, R300, R338)? -/
def partOk (f : Nat) (bs : List Byte) : Bool :=
  let p := parsePart bs
  decide (p.queuesMax ≤ 256) && decide (p.lanesMax ≤ 2048) && decide (p.sheetsMax ≤ 512) &&
  p.stagingMax % 65536 == 0 && decide (p.stagingMax ≤ 2 ^ 40 - 65536) &&
  p.cleatBase % 256 == 0 && p.cleatCount % 256 == 0 && decide (p.cleatCount ≤ 65536) &&
  p.keyBase % 16 == 0 && p.keyCount % 16 == 0 && decide (p.keyCount ≤ 1024) &&
  p.hmacBase % 4 == 0 && p.hmacCount % 4 == 0 && decide (p.hmacCount ≤ 64) &&
  (if p.fnRate = 0 then p.fnBurst == 0 else decide (65536 ≤ p.fnBurst)) &&
  zeroOutside bs 64 [(0, 6), (8, 32)] && (f != 0 || allZero (bs.take 32))

/-- Is the floors section well formed (R261)? -/
def floorsOk (bs : List Byte) : Bool :=
  decide (5 ≤ leAt bs 0 1) && decide (leAt bs 0 1 ≤ 16) && decide (1 ≤ leAt bs 1 1) && decide (leAt bs 1 1 ≤ 8) &&
  allZero (bs.drop 2)

/-- Is the sidebands section well formed (Table 2-10)? -/
def sbOk (bs : List Byte) : Bool := (bs.take 4).all (fun b => decide (b.toNat ≤ 3)) && allZero (bs.drop 4)

/-- The spare policy (Table 15-4). -/
def parseSpare (bs : List Byte) : SparePolicy where
  strikes := leAt bs 0 1
  window := leAt bs 4 4
  degradedFault := bitOf (leAt bs 8 1) 0
  idleDelay := leAt bs 9 1

/-- Is the spare policy well formed? -/
def spareOk (bs : List Byte) : Bool :=
  let p := parseSpare bs
  decide (1 ≤ p.strikes) && decide (p.strikes ≤ 15) && decide (1 ≤ p.window) && decide (p.window ≤ 86400) &&
  decide (leAt bs 8 1 < 2) && decide (1 ≤ p.idleDelay) && zeroOutside bs 64 [(0, 1), (4, 6)]

/-- The precedence section (Table 15-9). -/
def parsePrec (bs : List Byte) : Precedence where
  timer := (List.range 4).map fun i => leAt bs i 1
  unfurl := leAt bs 4 1
  sheetShare := leAt bs 5 1
  gcm := (List.range 3).map fun i => leAt bs (8 + i) 1

/-- Is the precedence section well formed (R439)? -/
def precOk (bs : List Byte) : Bool :=
  let p := parsePrec bs
  p.timer.all (fun c => decide (c ≤ 4)) && decide (p.unfurl ≤ 2) && p.gcm.all (fun c => decide (1 ≤ c) && decide (c ≤ 3)) &&
  zeroOutside bs 64 [(0, 6), (8, 3)]

/-- The place of a section: offset and length, from the header's pairs (Table 13-7). -/
def sectionAt (bs : List Byte) (n : Nat) : Nat × Nat := (leAt bs (32 + 8 * n) 4, leAt bs (36 + 8 * n) 4)

/-- A section's bytes. -/
def sectionOf (bs : List Byte) (n : Nat) : List Byte := slice bs (sectionAt bs n).1 (sectionAt bs n).2

/-- Are the sections where R379 allows them, of the lengths of Table 13-8? -/
def sectionsOk (bs : List Byte) : Bool :=
  let ps := (List.range 8).map (sectionAt bs)
  ps.map (·.2) == sectionLens && ps.all (fun p => p.1 % 64 == 0 && decide (128 ≤ p.1) && decide (p.1 + p.2 ≤ bs.length)) &&
  (List.range 8).all fun i => (List.range i).all fun j =>
    !overlaps (sectionAt bs i).1 (sectionAt bs i).2 (sectionAt bs j).1 (sectionAt bs j).2

/-- Are the bytes that lie neither in the header's fields nor in a section zero (R379)? -/
def gapsOk (bs : List Byte) : Bool :=
  let used := [(0, 10), (12, 12), (32, 64)] ++ (List.range 8).map (sectionAt bs)
  bs.zipIdx.all fun p => p.1 == 0 || used.any fun r => decide (r.1 ≤ p.2) && decide (p.2 < r.1 + r.2)

/-- Is a rig-set image well formed (R382)? -/
def rigImageOk (bs : List Byte) (len gen : Nat) : Bool :=
  decide (128 ≤ len) && slice bs 0 8 == ascii "ZRIGSET1" && leAt bs 8 2 == 1 && leAt bs 12 4 == len && leAt bs 16 4 == gen &&
  leAt bs 20 4 == (crc32c (overlay bs 20 [0, 0, 0, 0])).toNat && sectionsOk bs && gapsOk bs &&
  weightsOk (sectionOf bs 0) && ttOk (sectionOf bs 1) && (rows (sectionOf bs 2) 32).all (fun r => cadOk r.2) &&
  (rows (sectionOf bs 3) 64).all (fun r => partOk r.1 r.2) && floorsOk (sectionOf bs 4) && sbOk (sectionOf bs 5) &&
  spareOk (sectionOf bs 6) && precOk (sectionOf bs 7)

/-- The rig set of a well-formed image. -/
def parseRigs (bs : List Byte) : RigSet where
  gen := leAt bs 16 4
  weights := ((sectionOf bs 0).zipIdx.filter fun p => p.2 != 0 && p.1 != 16).map fun p => (p.2, p.1.toNat)
  tt := parseTt (sectionOf bs 1)
  cad := ((rows (sectionOf bs 2) 32).map fun r => (r.1, parseCad r.2)).filter fun r => r.2 != CadRow.reset
  part := ((rows (sectionOf bs 3) 64).map fun r => (r.1, parsePart r.2)).filter fun r => r.2 != {}
  ckptFloor := leAt (sectionOf bs 4) 0 1
  sheetFloor := leAt (sectionOf bs 4) 1 1
  sb := (List.range 4).map fun n => leAt (sectionOf bs 5) n 1
  spare := parseSpare (sectionOf bs 6)
  prec := parsePrec (sectionOf bs 7)

/-! ### Staging (R382) -/

/-- RIG_STAGE. -/
def State.runRigStage (a : Acc) (len gen : Nat) (image : HostRead) (s : State) : State :=
  let bs := fit len 0 (readBytes image)
  if image = .error then s.malformed a.id 24 6
  else if !rigImageOk bs len gen then s.malformed a.id 24 5
  else
    let newer := serialGt (BitVec.ofNat 32 gen) (BitVec.ofNat 32 s.rigs.cur.gen)
    s.orRefuse a.id (firstCond [s.signalRefusal a.fn a.hdr, refuse (!newer) 0x40 36]) fun s =>
      { s with rigs := { s.rigs with staged := some (parseRigs bs) } }.endEntry a.id 0

/-! ### The commit check (R383, Table 13-11) -/

/-- The ranges that the slices' entries give: slice, base and count, without the empty ones. -/
def slotRanges (part : FMap PartEnt) (base count : PartEnt → Nat) : List (Nat × Nat) :=
  ((part.filter fun p => p.1 != 0 && count p.2 != 0).map fun p => (base p.2, count p.2))

/-- The first place concerned where ranges overlap or pass the end of a store: the base of a range that passes it. -/
def rangeBreach (rs : List (Nat × Nat)) (size : Nat) : Option Nat :=
  let ends := (rs.filter fun r => decide (size < r.1 + r.2)).map fun r => min r.1 (size - 1)
  let meets := rs.zipIdx.flatMap fun a => (rs.zipIdx.filter fun b => decide (b.2 < a.2) && overlaps a.1.1 a.1.2 b.1.1 b.1.2).map
    fun b => max a.1.1 b.1.1
  (ends ++ meets).min?

/-- The slot's owner under a partition (R300). -/
def slotOwnerIn (part : FMap PartEnt) (base count : PartEnt → Nat) (k : Nat) : Nat :=
  match part.find? fun p => p.1 != 0 && decide (base p.2 ≤ k) && decide (k < base p.2 + count p.2) with
  | some p => p.1
  | none => 0

/-- Does a commit of a set move the Cleat? -/
def State.movesCleat (s : State) (r : RigSet) (c : Nat) : Bool := cleatOwnerIn r.part c != s.cleatOwner c

/-- Does a commit of a set move the slot? -/
def State.movesSlot (s : State) (r : RigSet) (hmac : Bool) (k : Nat) : Bool :=
  let owner := if hmac then slotOwnerIn r.part (·.hmacBase) (·.hmacCount) k else slotOwnerIn r.part (·.keyBase) (·.keyCount) k
  owner != s.keyOwner k hmac

/-- The Cleats that pend a wait or are bound to a Sheet. -/
def State.cleatsInUse (s : State) : List Nat :=
  s.accepted.filterMap (fun a => a.waitsOn.map (·.1)) ++ s.sheets.map fun h => h.2.cur.dim.releaseCleat

/-- The key slots that an arming reads with. -/
def ArmSrc.slots (x : ArmSrc) : List Nat :=
  if (x.hdr.map (·.gcm)).getD false || (x.ad.map (·.gcm)).getD false then [x.dim.keySlot] else []

/-- The key slots that a running DRAIN, RESTORE, RESTORE_SPARE or Sheet arming names (R300). -/
def State.slotsInUse (s : State) : List Nat :=
  (s.accepted.filter (·.fin.isNone)).filterMap (fun a => match a.op with
    | .drain f => some f.keySlot
    | .restore f => some f.keySlot
    | _ => none) ++
  s.restores.filterMap (fun r => (s.gen r.epoch).bind r.slotFor) ++
  s.sheets.flatMap fun h => h.2.cur.slots ++ ((h.2.pend.map (·.slots)).getD [])

/-- The SB line that a PIN_PREEMPT bit names though its use is not 0x1 (code 0x01). -/
def RigSet.strayLine (r : RigSet) : Option Nat :=
  (List.range 4).find? fun n => r.sb.getD n 0 != 1 && r.cad.any fun c => bitOf c.2.pin (n + 1)

/-- Is the timer order bad (R440)? -/
def Precedence.timerBad (p : Precedence) : Bool :=
  p.timer.head? != some 1 || !(([1, 2, 3, 4] : List Nat).all fun c => p.timer.contains c)

/-- Is the GCM order bad (R440)? -/
def Precedence.gcmBad (p : Precedence) : Bool := !(([1, 2, 3] : List Nat).all fun c => p.gcm.contains c)

/-- What a set's floors do not fit, in the order of R262: 0xFFFF for the budgets' total, or the lowest Yard. -/
def State.floorBreach (s : State) (r : RigSet) : Option Nat :=
  let crowded := fun (y : Nat) =>
    decide (r.perYard < (s.sheets.filter fun h => h.2.yard == y).length) ||
    s.sheets.any fun h => h.2.yard == y && decide (r.sheetFloor < h.2.buffers)
  if 64 * r.perYard < s.heldSum 0 (·.sheets) (·.sheets) then some 0xFFFF else (List.range 64).find? crowded

/-- Does a slice hold, or have pending, more than an entry allows (R339)? -/
def Fn.overPart (x : Fn) (p : PartEnt) : Bool :=
  let most := fun (now : Nat) (pend : Allot → Nat) => max now ((x.resize.map pend).getD 0)
  p.queuesMax == 0 || decide (p.queuesMax < most x.queues (·.queues)) || decide (p.lanesMax < most x.lanes (·.lanes)) ||
  decide (p.sheetsMax < most x.sheets (·.sheets)) || decide (p.stagingMax < most x.quotaLen (·.staging))

/-- The first Cleat concerned (code 0x06). -/
def State.cleatBreach (s : State) (r : RigSet) : Option Nat :=
  match rangeBreach (slotRanges r.part (·.cleatBase) (·.cleatCount)) 65536 with
  | some c => some c
  | none => (s.cleatsInUse.filter (s.movesCleat r)).min?

/-- The first key slot concerned (code 0x07). -/
def State.slotBreach (s : State) (r : RigSet) : Option Nat :=
  let keys := rangeBreach (slotRanges r.part (·.keyBase) (·.keyCount)) 1024
  let hmacs := rangeBreach (slotRanges r.part (·.hmacBase) (·.hmacCount)) 64
  let moved := if keys.isSome then [] else s.slotsInUse.filter (s.movesSlot r false)
  (keys.toList ++ hmacs.toList ++ moved).min?

/-- The commit check: the resource code and the index. -/
def State.commitBreach (s : State) (r : RigSet) : Option (Nat × Nat) :=
  ([ r.strayLine.map fun n => (1, n),
     if r.prec.timerBad then some (2, 0) else none,
     (s.floorBreach r).map fun y => (3, y),
     if r.prec.unfurl = 2 && !(decide (1 ≤ r.prec.sheetShare) && decide (r.prec.sheetShare ≤ 15)) then some (4, 0) else none,
     if r.prec.gcmBad then some (5, 0) else none,
     (s.cleatBreach r).map fun c => (6, c),
     (s.slotBreach r).map fun k => (7, k),
     (s.slices.find? fun p => p.2.overPart (FMap.getD r.part p.1 {})).map fun p => (8, p.1) ] : List (Option (Nat × Nat))).findSome? id

/-- INFO of a commit refusal (R383). -/
def breachInfo (b : Nat × Nat) : Nat := 2 ^ 63 + b.2 % 2 ^ 16 * 2 ^ 16 + b.1

/-! ### Taking effect (R384, Table 13-12) -/

/-- The counter sources' values, as a base of their rates (Table 14-5). -/
def State.takeBases (s : State) : FMap Nat :=
  (s.rigs.cur.tt.srcs.filter fun p => p.2.kind == 1).map fun p => (p.1, s.counter p.2.select)

/-- Take new Telltale bases: nothing has been zeroed since. -/
def State.rebase (s : State) : State :=
  { s with tt := { s.tt with bases := s.takeBases }, ctr := { s.ctr with zeroed := [] } }

/-- The bucket of a function under a new regulator: full where it starts, clipped otherwise. -/
def newBucket (old new : PartEnt) (bucket : Int) : Int := if old.fnRate = 0 then new.fnBurst else min bucket new.fnBurst

/-- Make a set current: moved Cleats are cleared and moved slots emptied, buckets clipped, a changed Telltale section and
changed SB uses start afresh. -/
def State.applyRigs (r : RigSet) (s : State) : State :=
  let old := s.rigs.cur
  let s := { s with cleats := FMap.keep s.cleats fun c _ => !s.movesCleat r c }
  let s := s.emptySlots (s.movesSlot r false) (s.movesSlot r true)
  let s := { s with
    fns := FMap.mapV s.fns fun f x => { x with bucket := newBucket (FMap.getD old.part f {}) (FMap.getD r.part f {}) x.bucket }
    tt := { s.tt with edges := FMap.keep s.tt.edges fun n _ => old.sb.getD n 0 == r.sb.getD n 0 }
    rigs := { s.rigs with cur := r } }
  if old.tt = r.tt then s else { s with tt := { s.tt with held := 0, lastRatio := [] } }.rebase

/-- RIG_COMMIT. -/
def State.runRigCommit (a : Acc) (gen : Nat) (s : State) : State :=
  s.orRefuse a.id (firstCond
    [ s.signalRefusal a.fn a.hdr, refuse ((s.rigs.staged.map (·.gen)) != some gen) 0x40 16,
      (s.rigs.staged.bind s.commitBreach).map fun b => ⟨0x40, breachInfo b⟩ ]) fun s =>
    match s.rigs.staged with
    | none => s
    | some r =>
      let old := s.rigs.cur
      let s := s.applyRigs r
      { s with rigs := { s.rigs with prev := some old, staged := none } }.endEntry a.id gen

/-- RIG_ROLLBACK. -/
def State.runRigRollback (a : Acc) (gen : Nat) (s : State) : State :=
  s.orRefuse a.id (firstCond
    [ s.signalRefusal a.fn a.hdr, refuse (s.rigs.cur.gen != gen || s.rigs.prev.isNone) 0x40 16,
      (s.rigs.prev.bind s.commitBreach).map fun b => ⟨0x40, breachInfo b⟩ ]) fun s =>
    match s.rigs.prev with
    | none => s
    | some r =>
      let s := s.applyRigs r
      { s with rigs := { s.rigs with prev := none } }.endEntry a.id r.gen

end Sys2Proof.Machine
end

