-- ==== Sys2Proof/Machine/Firmware.lean ====
section
/-! DEFINITION. Firmware (R363 to R370, R414): the image's layout and checks, the store's slots, their selection at boot,
FW_STAGE and FW_ACTIVATE. -/

namespace Sys2Proof.Machine

/-! ### Images (R365, R366) -/

/-- The length of the signature block. -/
def sigBlockLen : Nat := 12224

/-- The largest CODE_LEN of an IMAGE code (Table 13-1). -/
def maxCodeLen (code : Nat) : Nat :=
  match code with
  | 0 => 2097152
  | 1 => 4194304
  | 2 => 1048576
  | 3 => 524288
  | 4 => 2097152
  | _ => 0

/-- Is a CODE_LEN allowed for an IMAGE code? -/
def codeLenOk (code len : Nat) : Bool := len % 64 == 0 && decide (64 ≤ len) && decide (len ≤ maxCodeLen code)

/-- The header's CODE_LEN. -/
def fwCodeLen (bs : List Byte) : Nat := leAt bs 24 4

/-- The SHA-384 of bytes. -/
def sha384 (bs : List Byte) : List Byte := sha 1 bs

/-- Do the Lordal signatures verify under the boot ROM's keys (Table 13-3)? -/
def lordalSigned (keys hdr sig : List Byte) : Bool := bothSigned keys hdr (sig.take 4736)

/-- Does the integrator part fit the integrator-key fuse field? A blank field ignores it. -/
def integratorSigned (field hdr sig : List Byte) : Bool :=
  let keys := slice sig 4736 97 ++ slice sig 4864 2592
  blank field || (sha384 keys == field && allZero (slice sig 4833 31) &&
    bothSigned keys hdr (sig.drop 7456))

/-- Do the digest and the signatures of an image verify (R366)? -/
def State.fwGenuine (s : State) (bs : List Byte) : Bool :=
  let n := fwCodeLen bs
  let hdr := bs.take 128
  let sig := slice bs (128 + n) sigBlockLen
  sha384 (slice bs 128 n) == slice bs 32 48 && lordalSigned s.pen.lordalKeys hdr sig && integratorSigned s.pen.integratorKey hdr sig

/-- The record of an image that the store keeps. -/
def State.fwRecord (s : State) (bs : List Byte) : FwImage where
  image := leAt bs 8 1
  minRev := leAt bs 10 2
  svn := leAt bs 12 4
  build := leAt bs 16 4
  journal := leAt bs 20 1
  codeLen := fwCodeLen bs
  digest := slice bs 32 48
  sum := sha384 bs
  genuine := s.fwGenuine bs

/-- Does MIN_REV admit block revision 2.1? -/
def minRevOk (v : Nat) : Bool := v / 256 == 2 && decide (v % 256 ≤ 1)

/-- Is an image's header free of breaches of Table 13-2 that R369 gives no status of its own? -/
def fwHeaderOk (bs : List Byte) : Bool :=
  slice bs 0 8 == ascii "ZFWIMG01" && decide (leAt bs 12 4 ≤ 64) && (leAt bs 8 1 == 1 || leAt bs 20 1 == 0) &&
  zeroOutside bs 128 [(0, 9), (10, 11), (24, 4), (32, 48)]

/-- Do the fields of a stored image's header lie in the ranges of Table 13-2? Its reserved bytes were found zero when it was staged. -/
def FwImage.fieldsOk (i : FwImage) : Bool :=
  decide (i.svn ≤ 64) && (i.image == 1 || i.journal == 0) && codeLenOk i.image i.codeLen

/-- Is a stored image valid for a code (R366)? -/
def State.fwValid (s : State) (code : Nat) (i : FwImage) : Bool :=
  i.image == code && i.fieldsOk && minRevOk i.minRev && decide (s.pen.inForce.svn ≤ i.svn) && i.genuine

/-! ### The store (R364, R367) -/

/-- The slots of a code. -/
def State.fwCode (s : State) (code : Nat) : FwCode := FMap.getD s.fw code ⟨none, none, false, false⟩

/-- Change the slots of a code. -/
def State.modFw (code : Nat) (g : FwCode → FwCode) (s : State) : State := { s with fw := FMap.put s.fw code (g (s.fwCode code)) }

/-- The image in the active slot. -/
def FwCode.active (c : FwCode) : Option FwImage := if c.activeB then c.b else c.a

/-- The image in the other slot. -/
def FwCode.other (c : FwCode) : Option FwImage := if c.activeB then c.a else c.b

/-- Write the slot that is not active; none leaves it invalid. -/
def FwCode.store (c : FwCode) (i : Option FwImage) : FwCode := if c.activeB then { c with a := i } else { c with b := i }

/-- Make the other slot active. -/
def FwCode.swap (c : FwCode) : FwCode := { c with activeB := !c.activeB, pending := false }

/-- Is an optional image valid for a code? -/
def State.fwGood (s : State) (code : Nat) (i : Option FwImage) : Bool := (i.map (s.fwValid code)).getD false

/-- The selection of R367: false when no slot is valid. -/
def State.fwSelect (code : Nat) (s : State) : Bool × State :=
  let c := s.fwCode code
  let s := s.modFw code fun c => { c with pending := false }
  if c.pending && s.fwGood code c.other then (true, s.modFw code FwCode.swap)
  else
    let s := if c.pending then s.logEvent 0x0504 [code] else s
    if s.fwGood code c.active then (true, s)
    else if s.fwGood code c.other then (true, (s.modFw code FwCode.swap).logEvent 0x0505 [code])
    else (false, s)

/-- Select every code's slot: false when the block must enter RECOVERY. -/
def State.fwSelectAll (s : State) : Bool × State :=
  (List.range 5).foldl (fun r code =>
    let x := r.2.fwSelect code
    (r.1 && x.1, x.2)) (true, s)

/-- The least SVN of the active images (R368). -/
def State.leastSvn (s : State) : Nat :=
  ((List.range 5).map fun c => ((s.fwCode c).active.map (·.svn)).getD 0).foldl min 64

/-! ### FW_STAGE (R369) -/

/-- The conflicts of an image under a value of the anti-rollback tally, in the table's order, then the failed check. -/
def State.fwRefusal (s : State) (code len tally : Nat) (bs : List Byte) : Option Cond :=
  firstCond
    [ refuse (len != 128 + fwCodeLen bs + sigBlockLen) 0x40 32,
      refuse (leAt bs 8 1 != code) 0x40 72,
      refuse (!minRevOk (leAt bs 10 2)) 0x40 74,
      refuse (decide (leAt bs 12 4 < tally)) 0x40 76,
      refuse (!codeLenOk code (fwCodeLen bs)) 0x40 88,
      refuse (s.fwCode code).pending 0x40 16,
      refuse (!s.fwGenuine bs) 0x26 4 ]

/-- Check the bytes of a FW_STAGE, under the tally at its start, and write them into the slot that is not active. -/
def State.fwStageCheck (a : Acc) (code len tally : Nat) (image : HostRead) (s : State) : State :=
  let bs := fit len 0 (readBytes image)
  let fails := fun (k : State → State) => (k s).modFw code fun c => c.store none
  if image = .error then fails fun s => s.malformed a.id 24 6
  else if !fwHeaderOk bs then fails fun s => s.malformed a.id 24 5
  else
    match firstCond [s.signalRefusal a.fn a.hdr, s.fwRefusal code len tally bs] with
    | some c => fails fun s => s.failEntry a.id c.status c.info
    | none => (s.modFw code fun c => c.store (some (s.fwRecord bs))).endEntry a.id 0

/-- FW_STAGE: it waits while Shroud restarts (Table 13-13), with the tally as it is at its start (R416). -/
def State.runFwStage (a : Acc) (code len : Nat) (image : HostRead) (s : State) : State :=
  let tally := s.pen.inForce.svn
  if s.restarting .shroud then
    match image with
    | .data bs =>
      if !fwHeaderOk (fit len 0 bs) then s.fwStageCheck a code len tally image
      else
        s.orRefuse a.id (s.signalRefusal a.fn a.hdr) fun s =>
          s.modAcc a.id fun a => { a with phase := .waiting, note := bs, step := tally }
    | .error => s.fwStageCheck a code len tally image
  else s.fwStageCheck a code len tally image

/-- A FW_STAGE that waited runs its check once Shroud is back. -/
def State.settleStage (a : Acc) (s : State) : State :=
  match a.op with
  | .fwStage code _ len =>
    if a.phase = .waiting && a.fin.isNone && !s.restarting .shroud then s.fwStageCheck a code len a.step (.data a.note) else s
  | _ => s

/-! ### FW_ACTIVATE (R370) -/

/-- The processors that the i-th restart of an activation restarts, none after the last (Table 13-4). -/
def restartsOf (code i : Nat) : List Proc :=
  match code with
  | 0 => if i < 8 then [.dispatch i, .service i 0, .service i 1] else []
  | 1 => if i = 0 then [.mainstay] else []
  | 2 => if i = 0 then [.shroud] else []
  | 3 => if i = 0 then [.trim] else []
  | _ => if i = 0 then [.masthead] else []

/-- Restart processors that run. -/
def State.restartAll (ps : List Proc) (s : State) : State :=
  ps.foldl (fun s p => if s.restarting p then s else s.startRestart p) s

/-- FW_ACTIVATE. -/
def State.runFwActivate (a : Acc) (code : Nat) (now : Bool) (s : State) : State :=
  let c := s.fwCode code
  let journal := fun (i : Option FwImage) => (i.map (·.journal)).getD 0
  s.orRefuse a.id (firstCond
    [ s.signalRefusal a.fn a.hdr, refuse (!s.fwGood code c.other) 0x40 16,
      refuse (now && code == 1 && journal c.active != journal c.other) 0x40 17 ]) fun s =>
    if now then s.modAcc a.id fun a => { a with phase := .waiting, step := 0 }
    else (s.modFw code fun c => { c with pending := true }).endEntry a.id 0

/-- The activation at once that an entry runs: the IMAGE code. -/
def Acc.activating (a : Acc) : Option Nat :=
  match a.op with
  | .fwActivate code true => if a.phase = .waiting && a.fin.isNone then some code else none
  | _ => none

/-- An activation goes on: step 2i starts restart i once its processors run, step 2i + 1 waits for them. -/
def State.settleActivate (a : Acc) (s : State) : State :=
  match a.activating with
  | none => s
  | some code =>
    let ps := restartsOf code (a.step / 2)
    if ps.any s.restarting then s
    else if ps.isEmpty then (s.modFw code FwCode.swap).endEntry a.id 0
    else if a.step % 2 = 0 then (s.restartAll ps).modAcc a.id fun a => { a with step := a.step + 1 }
    else s.modAcc a.id fun a => { a with step := a.step + 1 }

/-- The activation that restarts a processor. -/
def State.activationOf (s : State) (p : Proc) : Option Acc :=
  s.accepted.find? fun a => a.step % 2 == 1 && ((a.activating.map fun c => (restartsOf c (a.step / 2)).contains p).getD false)

/-- A processor is back; one that fails its checks on the new image restarts on its previous one, and the activation ends
(R370). The check counts where an activation restarts the processor, and nowhere else. -/
def State.procBack (p : Proc) (checksPass : Bool) (s : State) : State :=
  if !s.restarting p then s
  else
    match s.activationOf p with
    | some a => if checksPass then s.restarted p else s.failEntry a.id 0x40 18
    | none => s.restarted p

end Sys2Proof.Machine
end

