-- ==== Sys2Proof/Machine/Masthead.lean ====
section
/-! DEFINITION. Masthead (R387 to R415): sensors and droops, the Telltale, the calendar's due entries, SNAP_LATCH, and the
mailbox with its commands. -/

namespace Sys2Proof.Machine

/-! ### Sensors (R63, R64, R390 to R392, R430) -/

/-- A limit that is disabled. -/
def limitOff : Word := 0x80000000#32

/-- A sensor as PORST_N leaves it (R391): the diodes have limits. -/
def sensorReset (i : Nat) : Sensor := if i < 16 then { warnAt := 1520, critAt := 1680, hyst := 32 } else {}

/-- A sensor. -/
def State.sensor (s : State) (i : Nat) : Sensor := FMap.getD s.sensors i (sensorReset i)

/-- Change a sensor. -/
def State.modSensor (i : Nat) (g : Sensor → Sensor) (s : State) : State :=
  { s with sensors := FMap.put s.sensors i (g (s.sensor i)) }

/-- The PMBus device of a sensor index (Table 14-2). -/
def pmbDevice (i : Nat) : Nat := if i < 32 then 0 else (i - 32) / 3 + 1

/-- Is the device of a sensor declared, or its monitor used (R390, Table 16-18)? The external ones are read from
SENSOR_LOCK on. -/
def Setup.declared (u : Setup) (i : Nat) : Bool :=
  let on := fun (ws : List Word) (n : Nat) => ((ws[n]?).map fun w => w.getLsbD 31).getD false
  if !sensorListed i then false
  else if i < 16 then true
  else if i < 24 then on u.vmon (i - 16)
  else if 80 ≤ i then u.sensorLock && on u.i3cDev (i - 80)
  else u.sensorLock && on u.pmbDev (pmbDevice i)

/-- How many of a PMBus sensor's units of Table 14-2 make one volt, ampere, watt or degree Celsius: temperatures are in sixteenths. -/
def unitsOf (i : Nat) : Int := if i = 27 || (decide (32 ≤ i) && (i - 32) % 3 == 2) then 16 else 1000

/-- A polled reading in the units of Table 14-2; an I3C target's is its 16-bit register, sign-extended (R390). -/
def rawReading (i : Nat) (v : Word) : Word := if 80 ≤ i then (v.truncate 16).signExtend 32 else v

/-- A number times a power of two, rounded toward zero. -/
def scaledBy (v e : Int) : Int := if 0 ≤ e then v * 2 ^ e.toNat else v.tdiv (2 ^ (-e).toNat)

/-- A reading in the units of Table 14-2 (R390): LINEAR11 is an 11-bit mantissa under a 5-bit exponent, LINEAR16 an unsigned mantissa
under the exponent of VOUT_MODE, and a target's register is raw. Log 19. -/
def busValue (i : Nat) (w : BusWord) : Int :=
  match w with
  | .linear11 v => scaledBy ((v.truncate 11).toInt * unitsOf i) ((v >>> 11).truncate 5).toInt
  | .linear16 v e => scaledBy (v.toNat * unitsOf i) e.toInt
  | .raw v => v.toInt

/-- A hysteresis, which is unsigned (Table 14-1); a disabled one is zero. -/
def Sensor.hystOf (x : Sensor) : Int := if x.hyst = limitOff then 0 else x.hyst.toNat

/-- Is the reading out of the WARN limits, or of limits drawn in by a margin? -/
def Sensor.outOfWarn (x : Sensor) (margin : Int) : Bool :=
  let v := x.reading.toInt
  (x.warnAt != limitOff && decide (x.warnAt.toInt - margin < v)) || (x.low != limitOff && decide (v < x.low.toInt + margin))

/-- Is the reading above the CRIT limit, or not yet below it by a margin? -/
def Sensor.overCrit (x : Sensor) (margin : Int) : Bool :=
  x.critAt != limitOff && decide (x.critAt.toInt - margin < x.reading.toInt)

/-- The WARN and CRIT flags that a reading gives (R391). -/
def Sensor.judge (x : Sensor) : Sensor :=
  { x with warn := x.outOfWarn (if x.warn then x.hystOf else 0), crit := x.overCrit (if x.crit then x.hystOf else 0) }

/-- A reading as an event data word: sign-extended. -/
def readingWord (v : Word) : Nat := twos 64 v.toInt

/-- DROOP_MV and DROOP_HYST (R392): the limits WARN and HYST of index 24, with their defaults. -/
def State.droopLimits (s : State) : Int × Int :=
  let x := s.sensor 24
  (if x.warnAt = limitOff then 44000 else x.warnAt.toInt, if x.hyst = limitOff then 1000 else x.hyst.toNat)

/-- A droop: counted and logged. -/
def State.droop (s : State) : State := (s.bump (ctrId 0 0 2)).logEvent 0x0703 [readingWord (s.sensor 24).reading]

/-- The droop test of an input-voltage reading. -/
def State.droopTest (s : State) : State :=
  let v := (s.sensor 24).reading.toInt
  let d := s.droopLimits
  if v < d.1 then if s.droopArmed then { s with droopArmed := false }.droop else s
  else if d.1 + d.2 ≤ v then { s with droopArmed := true } else s

/-- A sensor is judged: every entry into WARN or CRIT is logged, and CRIT is a fault (R391). -/
def State.judged (i : Nat) (x : Sensor) (s : State) : State :=
  let old := s.sensor i
  let new := x.judge
  let s := s.modSensor i fun _ => new
  let s := if new.warn && !old.warn then s.logEvent 0x0701 [i, readingWord new.reading] else s
  if new.crit && !old.crit then (s.logEvent 0x0702 [i, readingWord new.reading]).setFault 2 else s

/-- Take a sensor's reading (R390 to R392). -/
def State.takeReading (i : Nat) (v : Word) (s : State) : State :=
  if !s.setup.declared i then s
  else
    let s := s.judged i { s.sensor i with reading := v, read := true, stale := false, retried := false }
    if i = 24 then s.droopTest else s

/-- Take a reading that a device of the sensor port gave; one that fits no 32-bit reading is a free value. Log 18. -/
def State.takeBusWord (i : Nat) (w : BusWord) (s : State) : State :=
  let v := busValue i w
  if v = (BitVec.ofInt 32 v).toInt then s.takeReading i (BitVec.ofInt 32 v)
  else { s with free := s.free + 1 }.takeReading i (Config.wideReading s.free)

/-- SENSOR_POLL. -/
def State.sensorPoll (i : Nat) (v : Word) (s : State) : State := if s.sensing then s.takeReading i (rawReading i v) else s

/-- The bus and address of an external sensor: 0 PMBus, 1 I3C. -/
def Setup.sensorAddr (u : Setup) (i : Nat) : Nat × Nat :=
  if 80 ≤ i then (1, ((u.i3cDev[i - 80]?).getD 0).toNat % 128) else (0, ((u.pmbDev[pmbDevice i]?).getD 0).toNat % 128)

/-- SENSOR_TRANSACTION: a transaction for an external sensor completes with a reading, or fails; the first failure is
retried (R64). -/
def State.sensorTransaction (i : Nat) (reading : Option BusWord) (s : State) : State :=
  if !s.sensing || i < 24 || !s.setup.declared i then s
  else
    match reading with
    | some w => s.takeBusWord i w
    | none =>
      if (s.sensor i).retried then
        let a := s.setup.sensorAddr i
        (s.modSensor i fun x => { x with retried := false, stale := true }).logEvent 0x0104 [a.1, a.2]
      else s.modSensor i fun x => { x with retried := true }

/-- IN_BAND_INTERRUPT: Masthead reads the target at once. -/
def State.inBand (target : Nat) (v : BitVec 16) (s : State) : State :=
  if s.sensing && decide (target < 16) then s.takeBusWord (80 + target) (.raw v) else s

/-- Masthead services PMB_ALERT_N: an undervoltage warning of the bus monitor counts a droop, unless the last reading is below DROOP_MV
already (R392). -/
def State.serveAlert (undervoltage : Bool) (s : State) : State :=
  if undervoltage && s.setup.declared 24 && decide (s.droopLimits.1 ≤ (s.sensor 24).reading.toInt) then
    { s with droopArmed := false }.droop
  else s

/-- PMB_ALERT_N is low (R65): Masthead services it, once it is back where it restarts
(log 48). -/
def State.pmbAlert (undervoltage : Bool) (s : State) : State :=
  let s := { s with glob := { s.glob with pmbHigh := false } }
  if !s.mainOn then s
  else if s.restarting .masthead then
    { s with procs := { s.procs with alert := some (undervoltage || s.procs.alert.getD false) } }
  else s.serveAlert undervoltage

/-- A processor is back; Masthead services the alert that waits for it (R65). -/
def State.backUp (p : Proc) (checksPass : Bool) (s : State) : State :=
  let s := s.procBack p checksPass
  match s.procs.alert with
  | some u => if s.sensing then { s with procs := { s.procs with alert := none } }.serveAlert u else s
  | none => s

/-- The lowest diode in CRIT. -/
def State.critDiode (s : State) : Option Nat := (List.range 16).find? fun i => (s.sensor i).crit

/-- THROTTLED follows the diodes in RUN (R430); while Trim restarts it stays as it is. -/
def State.settleThrottle (s : State) : State :=
  let want := if s.glob.power = .run then s.critDiode else none
  if s.restarting .trim || want.isSome == s.glob.throttled then s
  else
    match want with
    | some d => { s with glob := { s.glob with throttled := true, throttleBy := d } }.logEvent 0x0809 [1, d]
    | none => { s with glob := { s.glob with throttled := false } }.logEvent 0x0809 [0, s.glob.throttleBy]

/-! ### The Telltale (R394 to R396) -/

/-- Is a source stale (R395)? -/
def State.srcStale (s : State) (t : TtSrc) : Bool :=
  (t.kind == 2 || t.kind == 3) && ((s.sensor t.select).stale || !s.setup.declared t.select)

/-- The increase of a counter since a base (Table 14-5). -/
def State.increase (s : State) (id base : Nat) : Nat :=
  let v := s.counter id
  if s.ctr.zeroed.contains (id / 256) then v
  else if ctrClass id = some .activity then (v + 2 ^ 64 - base) % 2 ^ 64
  else v - base

/-- A source's rate (Table 14-5). -/
def State.srcRate (s : State) (i : Nat) (t : TtSrc) : Nat :=
  let v := (s.sensor t.select).reading.toInt
  let r :=
    match t.kind with
    | 1 => s.increase t.select (FMap.getD s.tt.bases i (s.counter t.select))
    | 2 => (v - t.base).toNat
    | 3 => (t.base - v).toNat
    | 4 => if s.rigs.cur.sb.getD t.select 0 = 3 then NMap.get s.tt.edges t.select else 0
    | _ => NMap.get s.tt.inputs t.select
  min r (2 ^ 32 - 1)

/-- A source's ratio (R395). -/
def State.srcRatio (s : State) (i : Nat) (t : TtSrc) : Nat :=
  if s.srcStale t then if t.staleFull then 256 else NMap.get s.tt.lastRatio i
  else min (s.srcRate i t * 256 / t.limit) 256

/-- The thresholds that a figure reaches. -/
def TtSec.reached (t : TtSec) (v : Nat) : Nat := (([t.t1, t.t2, t.t3] : List Nat).filter fun x => x != 0 && decide (x ≤ v)).length

/-- The level after a sample. -/
def TtSec.levelAfter (t : TtSec) (held level : Nat) : Nat :=
  let up := t.reached held
  if level ≤ up then up else min level (t.reached (held + t.hyst))

/-- The risk computed by one sample (R395). -/
def State.risk (s : State) : Telltale :=
  let sec := s.rigs.cur.tt
  let ratios : FMap Nat := sec.srcs.map fun p => (p.1, s.srcRatio p.1 p.2)
  let terms : FMap Nat := sec.srcs.map fun p => (p.1, p.2.weight * s.srcRatio p.1 p.2 / 256)
  let raw := min ((terms.map (·.2)).foldl (· + ·) 0) 0xFFFF
  let held := max raw (s.tt.held * sec.decay / 65536)
  { s.tt with
    held := held, raw := raw, level := sec.levelAfter held s.tt.level, lastRatio := ratios, terms := terms, edges := [] }

/-- TELLTALE_SAMPLE: the risk, the level, and the interval triggers. It comes with an expiry of the Pennant timer, which is a trigger (R31, R396). -/
def State.sample (s : State) : State :=
  if !s.tt.sampling || !s.sensing || !s.timerTurn 2 s.tt.next then s
  else
    let s := s.timerServe s.tt.next
    let old := s.tt.level
    let s := { s with tt := { s.risk with next := { s.tt with next := s.tt.next + samplePeriod }.nextAfter (s.now + 1) } }.rebase
    let s := if s.tt.level = old then s else s.logEvent 0x0704 [old, s.tt.level, s.tt.held]
    s.testIntervals

/-- Sampling starts: the bases are taken (R396). -/
def State.startSampling (s : State) : State :=
  { s with tt := { s.tt with sampling := true, next := s.now + samplePeriod } }.rebase

/-- An edge on an SB line that is a Telltale source (Table 2-10). -/
def State.countEdge (n : Nat) (s : State) : State :=
  { s with tt := { s.tt with edges := NMap.set s.tt.edges n (min (NMap.get s.tt.edges n + 1) 65535) } }

/-! ### Due entries (R400) -/

/-- A due entry falls due: its expiry is a trigger; Masthead logs it with its label, then clears it (R31, R400). -/
def State.dueEntry (n : Nat) (s : State) : State :=
  match FMap.find s.pen.dues n with
  | none => s
  | some d =>
    if !s.mainOn || !s.timerTurn 3 (s.tickOfLife d.due) then s
    else
      let s := s.timerServe (s.tickOfLife d.due)
      if s.sensing then
        { s with pen := { s.pen with dues := FMap.del s.pen.dues n } }.logEvent (if d.cert then 0x0706 else 0x0705) [n, d.label]
      else s

/-! ### SNAP_LATCH (R410) -/

/-- Copy every counter, the Telltale and the life clock into their shadows. -/
def State.latch (s : State) : State :=
  { s with ctr := { s.ctr with
      shadow := FMap.keep s.ctr.live fun id _ => s.ctrExists id
      latchSeq := s.ctr.latchSeq + 1, shadowHeld := s.tt.held, shadowLevel := s.tt.level
      shadowLife := (s.pen.lifeS, s.pen.lifeTick) } }

/-- SNAP_LATCH. -/
def State.runSnapLatch (a : Acc) (s : State) : State :=
  s.orRefuse a.id (firstCond [s.signalRefusal a.fn a.hdr, refuse (a.fn != 0) 0x40 0]) fun s =>
    let s := s.latch
    s.endEntry a.id s.ctr.latchSeq.toNat

/-! ### The mailbox (R387, R388, R414, R415) -/

/-- What a command answers: RESULT and payload. -/
abbrev Reply := Nat × List Byte

/-- A refusal of a request. -/
def nay (result : Nat) : Reply := (result, [])

/-- OK without payload. -/
def ok : Reply := (0, [])

/-- The RESULT values (R387). -/
def resMalformed : Nat := 1

/-- BUSY. -/
def resBusy : Nat := 2

/-- DENIED. -/
def resDenied : Nat := 3

/-- AUTH_FAIL. -/
def resAuth : Nat := 4

/-- RANGE. -/
def resRange : Nat := 5

/-- Write the response to the outstanding request (R387, R456). -/
def State.respond (r : MbReq) (p : Reply) (s : State) : State :=
  { s with mb := { s.mb with
      outstanding := none, done := true
      resp := toLe 1 r.cmd ++ toLe 1 p.1 ++ toLe 2 p.2.length ++ toLe 4 r.tag ++ p.2 } }

/-- The CMD codes of Table 14-1. -/
def mbCommands : List Nat :=
  [0x01, 0x10, 0x11, 0x20, 0x30, 0x31, 0x32, 0x40, 0x41, 0x50, 0x51, 0x60, 0x61, 0x62, 0x70, 0x71]

/-- The CMD codes that the boot ROM serves in RECOVERY (R415). -/
def romCommands : List Nat := [0x30, 0x60, 0x61, 0x62]

/-- Is the header of a request in order (R387)? -/
def MbReq.headerOk (r : MbReq) : Bool := r.reserved == 0 && decide (r.len ≤ 4088)

/-- Serve the outstanding request, where a test accepts it, by a handler. -/
def State.mbServe (wanted : MbReq → Bool) (h : MbReq → State → Reply × State) (s : State) : State :=
  match s.mb.outstanding with
  | none => s
  | some r =>
    if !wanted r || s.mb.notReady then s
    else if s.glob.recovery && !romCommands.contains r.cmd then s.respond r (nay resDenied)
    else if !r.headerOk then s.respond r (nay resMalformed)
    else
      let x := h r s
      x.2.respond r x.1

/-- Serve a command by its CMD. -/
def State.mbCmd (cmd : Nat) (h : MbReq → State → Reply × State) (s : State) : State := s.mbServe (·.cmd == cmd) h

/-- A reply that changes nothing else. -/
def answer (p : Reply) (s : State) : Reply × State := (p, s)

/-- The request's bytes in MB_REQ. -/
def Mailbox.bytes (m : Mailbox) : List Byte := (List.range 1024).flatMap fun i => toLe 4 (NMap.get m.req i)

/-- MB_DOORBELL: take the request, or count a collision. A CMD that Table 14-1 does not hold is answered at once. -/
def State.mbDoorbell (s : State) : State :=
  if s.mb.outstanding.isSome then s.bump (ctrId 0 0 3)
  else if s.mb.notReady then s
  else
    let bs := s.mb.bytes
    let len := leAt bs 2 2
    let r : MbReq :=
      { cmd := leAt bs 0 1, reserved := leAt bs 1 1, len := len, tag := leAt bs 4 4, payload := slice bs 8 (min len 4088) }
    let s := { s with mb := { s.mb with outstanding := some r, done := false } }
    if mbCommands.contains r.cmd then s
    else s.respond r (nay (if s.glob.recovery then resDenied else resMalformed))

/-- MB_REQ written while BUSY leaves the request in progress undefined (R456): its payload is free bytes. -/
def State.mbSpoil (s : State) : State :=
  match s.mb.outstanding with
  | none => s
  | some r =>
    let r := { r with payload := (List.range r.payload.length).map (Config.mailboxBytes s.free) }
    { s with free := s.free + 1, mb := { s.mb with outstanding := some r } }

/-! ### Sensor commands -/

/-- The bytes that SENSOR_READ gives for an index. -/
def State.sensorBytes (s : State) (i : Nat) : List Byte :=
  let x := s.sensor i
  if s.setup.declared i then
    toLe 4 x.reading.toNat ++ toLe 4 (b2n x.stale + 2 * b2n x.warn + 4 * b2n x.crit)
  else toLe 4 0 ++ toLe 4 8

/-- SENSOR_READ. -/
def State.mbSensorRead (r : MbReq) (s : State) : Reply :=
  let first := leAt r.payload 0 1
  let n := leAt r.payload 1 1
  if r.len != 2 then nay resMalformed
  else if n = 0 || decide (128 < n) || decide (128 < first + n) then nay resRange
  else (0, (List.range n).flatMap fun i => s.sensorBytes (first + i))

/-- SENSOR_LIMITS: the last reading is judged by the new limits. -/
def State.mbSensorLimits (r : MbReq) (s : State) : Reply × State :=
  let p := r.payload
  let w := fun (o : Nat) => BitVec.ofNat 32 (leAt p o 4)
  if r.len != 20 || !zeroOutside p 20 [(0, 1), (4, 16)] then answer (nay resMalformed) s
  else if !sensorListed (leAt p 0 1) then answer (nay resRange) s
  else
    let x := { s.sensor (leAt p 0 1) with low := w 4, warnAt := w 8, critAt := w 12, hyst := w 16 }
    (ok, if x.read && !x.stale then s.judged (leAt p 0 1) x else s.modSensor (leAt p 0 1) fun _ => x)

/-! ### Log, clock and calendar commands -/

/-- What LOG_READ returns from a store: OVERWRITTEN and the entries (R401). -/
def logFrom (store : List LogEnt) (start : BitVec 32) (n : Nat) : Bool × List LogEnt :=
  match store.getLast? with
  | none => (false, [])
  | some last =>
    match store.findIdx? fun e => e.seq == start with
    | some i => (false, slice store i n)
    | none => if serialGt start last.seq then (false, []) else (true, store.take n)

/-- LOG_READ. -/
def State.mbLogRead (r : MbReq) (s : State) : Reply :=
  let n := leAt r.payload 4 2
  let store := leAt r.payload 6 1
  if r.len != 7 then nay resMalformed
  else if n = 0 || decide (63 < n) || decide (1 < store) then nay resRange
  else if store = 1 && !s.setup.hasStaging then nay resDenied
  else
    let x := logFrom (if store = 0 then s.log.always else s.log.persist) (BitVec.ofNat 32 (leAt r.payload 0 4)) n
    (0, toLe 4 (b2n x.1) ++ toLe 4 x.2.length ++ x.2.flatMap LogEnt.bytes)

/-- CLOCK_READ. -/
def State.mbClockRead (r : MbReq) (s : State) : Reply :=
  if r.len != 0 then nay resMalformed
  else (0, toLe 4 s.pen.lifeS ++ toLe 4 s.pen.lifeTick ++ toLe 8 s.pen.boot ++ toLe 8 s.pen.calOffset ++ toLe 1 (b2n s.pen.calValid))

/-- CAL_SET (R399). -/
def State.mbCalSet (r : MbReq) (s : State) : Reply × State :=
  if r.len != 8 then answer (nay resMalformed) s
  else (ok, { s with pen := { s.pen with calOffset := leAt r.payload 0 8, calValid := true } })

/-- DUE_SET (R400). -/
def State.mbDueSet (r : MbReq) (s : State) : Reply × State :=
  let p := r.payload
  let n := leAt p 0 1
  if r.len != 12 || leAt p 2 2 != 0 then answer (nay resMalformed) s
  else if decide (31 < n) || decide (1 < leAt p 1 1) then answer (nay resRange) s
  else
    let dues := if leAt p 4 4 = 0 then FMap.del s.pen.dues n
      else FMap.put s.pen.dues n ⟨leAt p 1 1 == 1, leAt p 4 4, leAt p 8 4⟩
    (ok, { s with pen := { s.pen with dues := dues } })

/-! ### Counter commands -/

/-- COUNTER_READ (R407, R409). -/
def State.mbCounterRead (r : MbReq) (s : State) : Reply :=
  let p := r.payload
  let n := leAt p 0 2
  let ids := (List.range n).map fun i => leAt p (4 + 4 * i) 4
  if decide (r.len < 4) || leAt p 2 2 != 0 then nay resMalformed
  else if n = 0 || decide (500 < n) then nay resRange
  else if r.len != 4 + 4 * n || ids.any (fun w => bits w 30 24 != 0) then nay resMalformed
  else if ids.any fun w => (ctrClass (w % 2 ^ 24)).isNone then nay resRange
  else
    let value := fun (w : Nat) => if bitOf w 31 then NMap.get s.ctr.shadow (w % 2 ^ 24) else s.counter (w % 2 ^ 24)
    (0, toLe 8 s.ctr.latchSeq.toNat ++ ids.flatMap fun w => toLe 8 (value w))

/-- JOB_LOOKUP. -/
def State.mbJobLookup (r : MbReq) (s : State) : Reply :=
  if r.len != 8 then nay resMalformed
  else (0, toLe 2 (((FMap.find s.jobs (leAt r.payload 0 8)).bind (·.idx)).getD 0xFFFF))

/-! ### Tally fuses (R411, R412) -/

/-- The changes that a setting takes (Table 14-11). -/
def tallyMax (setting : Nat) : Nat :=
  match setting with
  | 1 => 64
  | 2 => 8
  | 3 => 16
  | 4 => 2
  | _ => 0

/-- The records of a setting. -/
def Pen.records (p : Pen) (setting : Nat) : List TallyRec := p.tally.filter (·.setting == setting)

/-- The value of a setting's last complete record. -/
def Pen.tallied (p : Pen) (setting : Nat) : Option Nat := ((p.records setting).filter (·.committed)).getLast?.map (·.value)

/-- A setting's current value. -/
def Pen.tallyValue (p : Pen) (setting : Nat) : Nat :=
  (p.tallied setting).getD (if setting = 3 then Config.shippedSpares else 0)

/-- The changes that remain. -/
def Pen.tallyLeft (p : Pen) (setting : Nat) : Nat := tallyMax setting - (p.records setting).length

/-- TALLY_READ. -/
def State.mbTallyRead (r : MbReq) (s : State) : Reply :=
  if r.len != 0 then nay resMalformed
  else (0, ([1, 2, 3, 4] : List Nat).flatMap fun n =>
    toLe 1 (s.pen.records n).length ++ toLe 3 (s.pen.tallyLeft n) ++ toLe 4 (s.pen.tallyValue n))

/-- Is a VALUE allowed for a setting (Table 14-11, R412)? -/
def State.tallyOk (s : State) (setting v : Nat) : Bool :=
  let now := s.pen.tallyValue setting
  match setting with
  | 1 => v == now + 1 && decide (v ≤ s.leastSvn)
  | 2 => decide (v ≤ 1) && v != now
  | 3 => decide (v < 2 ^ 18) && decide (bits v 11 6 < 34) && decide (bits v 5 0 < 34) && bits v 11 6 != bits v 5 0
  | 4 => decide (v ≤ 1) && v != now
  | _ => false

/-- TALLY_BURN. -/
def State.mbTallyBurn (r : MbReq) (s : State) : Reply × State :=
  let p := r.payload
  let n := leAt p 0 1
  let v := leAt p 4 4
  if r.len != 12 || !zeroOutside p 12 [(0, 1), (4, 8)] || leAt p 8 4 != 2 ^ 32 - 1 - v then answer (nay resMalformed) s
  else if !s.glob.ready || (tallyMax n != 0 && s.pen.tallyLeft n == 0) then answer (nay resDenied) s
  else if !s.tallyOk n v then answer (nay resRange) s
  else
    let pen := { s.pen with tally := s.pen.tally ++ [⟨n, v, true⟩] }
    let pen := if n = 1 then { pen with inForce := { pen.inForce with svn := v } } else pen
    (ok, { s with pen := pen }.logEvent 0x0708 [n, v, pen.tallyLeft n])

/-! ### Image staging (R414, R415) -/

/-- IMAGE_BEGIN. -/
def State.mbImageBegin (r : MbReq) (s : State) : Reply × State :=
  let p := r.payload
  let code := leAt p 0 1
  let total := leAt p 4 4
  let staging := s.accepted.any fun a => a.fin.isNone && (match a.op with
    | .fwStage c _ _ => c == code
    | _ => false)
  if r.len != 8 || !zeroOutside p 8 [(0, 1), (4, 4)] then answer (nay resMalformed) s
  else if staging || (s.fwCode code).pending then answer (nay resBusy) s
  else if decide (total < 128 + sigBlockLen) || !codeLenOk code (total - 128 - sigBlockLen) then answer (nay resRange) s
  else (ok, { s with image := some { image := code, total := total } })

/-- IMAGE_DATA. -/
def State.mbImageData (r : MbReq) (s : State) : Reply × State :=
  let off := leAt r.payload 0 4
  let data := r.payload.drop 4
  if decide (r.len < 4) || decide (4084 < r.len) then answer (nay resMalformed) s
  else
    match s.image with
    | none => answer (nay resDenied) s
    | some i =>
      if off % 64 != 0 || decide (i.total < off + data.length) then answer (nay resRange) s
      else (ok, { s with image := some { i with chunks := i.chunks ++ [(off, data)] } })

/-- The bytes of a mailbox staging, those not written being zero. -/
def ImgStage.bytes (i : ImgStage) : List Byte := i.chunks.foldl (fun bs c => overlay bs c.1 c.2) (List.replicate i.total 0)

/-- IMAGE_END: the checks and the store write of R369. -/
def State.mbImageEnd (r : MbReq) (s : State) : Reply × State :=
  if r.len != 1 || decide (1 < leAt r.payload 0 1) then answer (nay resMalformed) s
  else
    match s.image with
    | none => answer (nay resDenied) s
    | some i =>
      let s := { s with image := none }
      let bs := i.bytes
      let fails := fun (n : Nat) => (nay n, s.modFw i.image fun c => c.store none)
      if !fwHeaderOk bs then fails resMalformed
      else
        match s.fwRefusal i.image i.total s.pen.inForce.svn bs with
        | some c => fails (if c.status = 0x26 then resAuth else resRange)
        | none =>
          let now := s.glob.recovery || bitOf (leAt r.payload 0 1) 0
          (ok, s.modFw i.image fun c => { c.store (some (s.fwRecord bs)) with pending := now })

/-! ### Telltale commands -/

/-- TELLTALE_INPUT. -/
def State.mbTelltaleInput (r : MbReq) (s : State) : Reply × State :=
  let p := r.payload
  if r.len != 8 || !zeroOutside p 8 [(0, 1), (4, 4)] then answer (nay resMalformed) s
  else if 31 < leAt p 0 1 then answer (nay resRange) s
  else (ok, { s with tt := { s.tt with inputs := NMap.set s.tt.inputs (leAt p 0 1) (leAt p 4 4) } })

/-- TELLTALE_READ. -/
def State.mbTelltaleRead (r : MbReq) (s : State) : Reply :=
  if r.len != 0 then nay resMalformed
  else (0, toLe 2 s.tt.held ++ toLe 2 s.tt.raw ++ toLe 4 s.tt.level ++
    (List.range 32).flatMap fun i => toLe 2 (NMap.get s.tt.terms i))

end Sys2Proof.Machine
end

