-- ==== Sys2Proof/Machine/Recognise.lean ====
section
/-! DEFINITION. What a boot reads back from staging (R160, R178, R180, R194): the generation directory, the manifest store, and the
generations that they hold. -/

namespace Sys2Proof.Machine

/-! ### The directory's copies (R160) -/

/-- Is a directory copy valid: its TAG, and the CRC-32C of bytes 8 to 1,023? -/
def dirCopyOk (bs : List Byte) : Bool :=
  bs.length == 1024 && leAt bs 0 4 == 0x4E45475A && leAt bs 4 4 == (crc32c (bs.drop 8)).toNat

/-- Has a directory copy FREE set? -/
def copyFree (bs : List Byte) : Bool := bitOf (leAt bs 12 1) 4

/-- What the block knows of a copy that it read; none where the copy is not valid. -/
def dirCopyRead (bs : List Byte) : Option DirCopy :=
  if dirCopyOk bs then some ⟨BitVec.ofNat 32 (leAt bs 8 4), copyFree bs⟩ else none

/-! ### The boot's reads (R321, R323, R329, R333) -/

/-- Read one granule of the reserved area: one that reads as bad is counted and logged, and comes as poison-marked zeros. -/
def State.bootRead (r : BootReads) (unit : Nat) (asWritten : List Byte) (s : State) : List PByte × State :=
  let pl := s.setup.stagingPlace (s.setup.reservedBase + 64 * unit)
  match (r.granules.find? (·.unit == unit)).map (·.answer) with
  | none =>
    if (s.unknownAt pl.1).contains pl.2 then (badGranule, s.uncEvent none 3 4 pl.1 pl.2 1) else (plain asWritten, s)
  | some a =>
    match s.stgClassify pl.1 pl.2 a with
    | (.bad cause n, s) => (badGranule, s.uncEvent none 3 cause pl.1 pl.2 n)
    | (.good g, s) => (g.data, s)

/-- Read n granules of the reserved area from one on; no bytes where any of them is bad or poisoned. -/
def State.bootBytes (r : BootReads) (first n : Nat) (asWritten : Nat → List Byte) (s : State) : List Byte × State :=
  let (bs, s) := (List.range n).foldl (fun (acc : List PByte × State) i =>
    let (g, s) := acc.2.bootRead r (first + i) (asWritten i)
    (acc.1 ++ g, s)) ([], s)
  (if anyPoison bs then [] else values bs, s)

/-- A directory entry as the boot read it: its copies, and the manifest that it names. -/
structure BootEnt where
  idx : Nat
  a : List Byte
  b : List Byte
  man : Option (List Byte) := none
  deriving DecidableEq, Repr

/-- What the block knows of the entry. -/
def BootEnt.entry (e : BootEnt) : DirEnt := ⟨dirCopyRead e.a, dirCopyRead e.b⟩

/-- The bytes of the copy that holds the entry. -/
def BootEnt.held (e : BootEnt) : Option (List Byte) := e.entry.holder.map fun c => if c = 0 then e.a else e.b

/-- The granules of the reserved area whose last write was not confirmed (R329). -/
def State.unknownUnits (s : State) : List Nat :=
  s.unknown.flatMap fun p => (p.2.map fun u => s.setup.stagingOff p.1 u).filterMap fun o =>
    if s.setup.reservedBase ≤ o then some ((o - s.setup.reservedBase) / 64) else none

/-- The directory entries that may hold something else than a FREE entry of SEQ 0, in order. -/
def State.bootIndices (s : State) (r : BootReads) : List Nat :=
  let units := (r.granules.map (·.unit)) ++ s.unknownUnits
  (List.range 1024).filter fun i => units.any fun u => u / 32 == i

/-- Read an entry, and the manifest of one that is not FREE (R178, R194). -/
def State.bootEnt (r : BootReads) (idx : Nat) (s : State) : BootEnt × State :=
  let free := fun (i : Nat) => slice (freeCopy 0) (64 * i) 64
  let (a, s) := s.bootBytes r (32 * idx) 16 free
  let (b, s) := s.bootBytes r (32 * idx + 16) 16 free
  let e : BootEnt := { idx := idx, a := a, b := b }
  match e.held with
  | none => (e, s)
  | some bs =>
    if copyFree bs then (e, s)
    else
      let n := leAt bs 652 4
      if 16777216 < n then (e, s)
      else
        let (man, s) := s.bootBytes r (32768 + 1024 * leAt bs 648 4) (ceilDiv n 64) fun _ => List.replicate 64 0
        ({ e with man := some (man.take n) }, s)

/-- Read the directory. -/
def State.bootDirectory (r : BootReads) (s : State) : List BootEnt × State :=
  (s.bootIndices r).foldl (fun (acc : List BootEnt × State) i =>
    let (e, s) := acc.2.bootEnt r i
    (acc.1 ++ [e], s)) ([], s)

/-! ### The manifest (R182 to R195) -/

/-- Is a manifest one that its directory entry may name: MAGIC, CRC, TOTAL_LEN, JOB and EPOCH (R194)? -/
def manifestFits (entry man : List Byte) : Bool :=
  let n := leAt man 12 4
  slice man 0 8 == ascii "ZHORAX01" && n == leAt entry 652 4 && man.length == n &&
  leAt man 16 4 == (crc32c (overlay man 16 (toLe 4 0))).toNat && leAt man 24 8 == leAt entry 24 8 &&
  leAt man 32 8 == leAt entry 32 8

/-- The records of a section of a manifest: offset and count of its pair, a size each. -/
def sectionRows (man : List Byte) (n size : Nat) : List (List Byte) :=
  (List.range (leAt man (100 + 8 * n) 4)).map fun i => slice man (leAt man (96 + 8 * n) 4 + size * i) size

/-- A region of a manifest (Table 6-4). -/
def regionOfRow (r : List Byte) : Region :=
  ⟨leAt r 0 8, leAt r 8 8, leAt r 16 4, leAt r 20 1, bitOf (leAt r 21 1) 1, bitOf (leAt r 21 1) 0⟩

/-- The members that a directory entry holds, with the window bases of the manifest (Tables 5-3, 6-3). -/
def membersOf (entry man : List Byte) : List Member :=
  let rows := sectionRows man 0 64
  (List.range (leAt entry 74 2)).map fun i =>
    let m := slice entry (128 + 32 * i) 32
    { ep := leAt m 0 2, buddy := leAt m 2 2, winOffset := leAt m 8 8, slotSegs := leAt m 16 8,
      winBase := leAt (rows.getD i []) 40 8 }

/-- The endpoints that stand in for those of the region list: a region's own endpoint, and its member's (R172). -/
def subsOf (members : List Member) (rows : List (List Byte)) : List (Nat × Nat) :=
  (rows.filterMap fun r =>
    match members[leAt r 22 2]? with
    | some m => if epOf (leAt r 0 8) = m.ep then none else some (epOf (leAt r 0 8), m.ep)
    | none => none).eraseDups

/-- A stamp of a manifest (Table 6-8); none where its record is empty. -/
def stampOfRow (r : List Byte) : Option Stamp :=
  if leAt r 2 2 = 1 then some ⟨leAt r 0 2, leAt r 8 8, leAt r 16 8, leAt r 24 4, slice r 64 (leAt r 4 2)⟩ else none

/-- The tier-3 copy that a directory entry records (Tables 5-4, 6-1). -/
def tier3Of (entry man : List Byte) (records : Nat) : Option Tier3 :=
  if bitOf (leAt entry 12 1) 2 then
    some ⟨leAt entry 48 8, leAt entry 56 4, leAt entry 60 4, leAt man 76 4, leAt entry 652 4, records⟩
  else none

/-- The tier state that RECORDS shows. -/
def stateOfRecords (r : Nat) : GenState :=
  if bitOf r 3 then .committed else if bitOf r 2 then .drained else if bitOf r 1 then .parity else .stayed

/-- The indices whose bits are set in a 16-bit field. -/
def bitList (v : Nat) : List Nat := (List.range 16).filter (bitOf v)

/-- The generation of a directory entry, before its segments. -/
def genOfEntry (entry man : List Byte) : Gen :=
  let v := fun off len => leAt entry off len
  let rows := (sectionRows man 1 32).filter fun r => leAt r 8 8 != 0
  let members := membersOf entry man
  let tiers := v 15 1
  let regions := rows.map regionOfRow
  { job := v 24 8, epoch := v 32 8, fn := v 13 1, pasid := v 16 4 % 2 ^ 20, fullImage := v 20 1 == 1, tiers := tiers,
    lookahead := 0, state := stateOfRecords (v 12 1), regions := regions, pauseSig := false, pauseCleat := 0, pauseEp := 0,
    manAddr := 0, manMax := 0, manKnown := false, poisonTotal := v 644 4, digests := bitOf (leAt man 20 1) 0,
    tensors := inputTensors man, pieces := inputPieces man,
    groups := some
      { slots := v 72 2, members := members, parityBase := v 80 8,
        k := if bitOf tiers 1 then v 21 1 % 16 + 1 else 0, m := if bitOf tiers 1 then v 21 1 / 16 else 0 },
    slot := v 14 1, step := v 40 8, segs := [], records := v 12 1 % 16,
    poisonList := ((sectionRows man 6 8).take (min 1024 (v 644 4))).map fun r => (leAt r 0 2, leAt r 2 6),
    poisonOvf := (sectionRows man 0 64).zipIdx.filterMap fun p => if bitOf (leAt p.1 4 1) 1 then some p.2 else none,
    stayLost := bitList (v 640 2), t2Lost := bitList (v 642 2), stamps := (sectionRows man 4 4160).filterMap stampOfRow,
    shas := (sectionRows man 5 64).zipIdx.filterMap fun p => if leAt p.1 2 1 = 1 then some (p.2, slice p.1 16 48) else none,
    t3 := tier3Of entry man ((regions.map Region.segs).foldl (· + ·) 0), manUnit := v 648 4, manLen := v 652 4,
    subs := subsOf members rows }

/-- The captured segments of a recognised generation: all of them lie in its copies. -/
def Gen.withSegs (g : Gen) : Gen :=
  { g with segs := (segsOfRegions g.regions).map fun x =>
      { x with state := .copied, hasRead := true, wrote := true, poisoned := g.listed (g.place x).1 (g.place x).2 } }

/-- The generation that a directory entry holds and the boot recognises: protected, with a manifest that fits (R178, R194). -/
def BootEnt.gen (e : BootEnt) : Option Gen :=
  match e.held, e.man with
  | some entry, some man =>
    if !manifestFits entry man then none
    else
      let g := { (genOfEntry entry man).withSegs with dirIdx := e.idx }
      if g.safe then some g else none
  | _, _ => none

/-! ### Recognition (R178 to R180) -/

/-- Insert by epoch. -/
def insertGen (g : Gen) : List Gen → List Gen
  | [] => [g]
  | x :: xs => if g.epoch < x.epoch then g :: x :: xs else x :: insertGen g xs

/-- The manifest-store units of a generation. -/
def Gen.manUnits (g : Gen) : List Nat := (List.range (ceilDiv g.manLen segBytes)).map (g.manUnit + ·)

/-- A job of a recognised generation takes the lowest free counter index (R407). -/
def bootJob (m : FMap Job) (g : Gen) : FMap Job :=
  if FMap.has m g.job then m
  else FMap.put m g.job { fn := g.fn, idx := (List.range 256).find? fun i => !m.any fun j => j.2.idx == some i }

/-- Take up the directory as it was read: protected generations are recognised, and every other entry that is not FREE is set FREE
(R178). With staging absent, or its area not yet written since PORST_N, there is nothing to recognise (R180). -/
def State.recognise (r : BootReads) (s : State) : State :=
  if !s.setup.hasStaging || s.glob.areaStale then { s with dir := [] }
  else
    let (ents, s) := s.bootDirectory r
    let gens := (ents.filterMap BootEnt.gen).foldl (fun gs g => insertGen g gs) []
    let stale := ents.filter fun e => e.gen.isNone && !(e.entry.held.map (·.isFree)).getD false
    { s with
      dir := ents.foldl (fun m e => FMap.put m e.idx e.entry) []
      dirQ := stale.map fun e => { idx := e.idx, epoch := noEpoch, code := recFree }
      gens := gens, manStore := gens.flatMap Gen.manUnits, jobs := gens.foldl bootJob [] }

end Sys2Proof.Machine
end

