-- ==== Sys2Proof/Machine/Power.lean ====
section
/-! DEFINITION. Resets and boot (R70, R71, R180, R367, R397, R398, R422), power states (R434 to R437) and the loss of
supplies. -/

namespace Sys2Proof.Machine

/-! ### Life records (R397) -/

/-- What a life record holds, with its CRC. -/
def Pen.lifeRec (p : Pen) : LifeRec :=
  LifeRec.sealed { lifeS := p.lifeS, boot := p.boot, bistPtr := p.bistPtr, spareDue := p.spareDue, bistDue := p.bistDue }

/-- Write the life record into the copies in turn. -/
def Pen.writeRec (p : Pen) : Pen :=
  if p.recNext then { p with recB := p.lifeRec, recNext := false } else { p with recA := p.lifeRec, recNext := true }

/-- The valid copy with the greater LIFE_S. -/
def Pen.bestRec (p : Pen) : LifeRec :=
  if p.recB.valid && (!p.recA.valid || decide (p.recA.lifeS < p.recB.lifeS)) then p.recB else p.recA

/-- The copy written last. -/
def Pen.lastRec (p : Pen) : LifeRec := if p.recNext then p.recA else p.recB

/-- A copy that a loss of the supply leaves half written: its CRC does not fit. -/
def LifeRec.torn (r : LifeRec) : LifeRec := { r with crc := ~~~(crc32c r.bytes) }

/-- The copies after a loss of the supply while the next one was being written. -/
def Pen.tornRec (p : Pen) : Pen := if p.recNext then { p with recB := p.recB.torn } else { p with recA := p.recA.torn }

/-- Restore from the records what a loss of the always-on supply lost. -/
def Pen.restoreLife (p : Pen) : Pen :=
  if p.lostSupply then
    let r := p.bestRec
    { p with lifeS := r.lifeS, lifeTick := 0, boot := r.boot, bistPtr := r.bistPtr, spareDue := r.spareDue
             bistDue := r.bistDue, lostSupply := false }
  else p

/-- LIFE_RECORD_WRITE: 64 life-clock seconds after the last record. -/
def State.recordLife (s : State) : State :=
  if !s.pen.powered then s
  else
    let s := s.expire (s.tickOfLife (s.pen.lastRec.lifeS + 64))
    { s with pen := s.pen.writeRec }

/-! ### Fuses (R411, R413) -/

/-- The spare maps that the complete records give (R18): by Yard, the lower lane first. -/
def spareMapsOf (rs : List TallyRec) : FMap (Nat × Nat) :=
  (rs.filter fun r => r.setting == 3 && r.committed).foldl (fun (m : FMap (Nat × Nat)) r =>
    let a := bits r.value 11 6
    let b := bits r.value 5 0
    FMap.put m (bits r.value 17 12) (min a b, max a b)) []

/-- The tally-fused values that PORST_N's boot puts in force. -/
def Pen.sense (p : Pen) : Pen :=
  { p with inForce :=
    { svn := (p.tallied 1).getD 0, safety := (p.tallied 2).getD 0, spares := spareMapsOf p.tally, keyFault := (p.tallied 4).getD 0 } }

/-! ### Reset (R12, R70, R71) -/

/-- A Yard as BLK_RST_N leaves it: its fences and stand-ins (R422, R455). -/
def Yard.kept (v : Yard) : Yard := { fenced := v.fenced, standA := v.standA, standB := v.standB, degraded := v.degraded }

/-- The global fields of a reset, with the pins as they are. -/
def Glob.afterReset (g : Glob) : Glob :=
  { Glob.reset with
    porstLow := g.porstLow, blkRstLow := g.blkRstLow, afterPorst := g.afterPorst, areaStale := g.areaStale
    unready := g.unready, unlogged := g.unlogged
    preemptHigh := g.preemptHigh, wakeHigh := g.wakeHigh, pmbHigh := g.pmbHigh, sbHigh := g.sbHigh }

/-- The state that BLK_RST_N leaves (R71): what survives is kept, everything else takes its Reset value. -/
def State.blockHeld (s : State) : State :=
  { State.reset with
    setup := s.setup, glob := s.glob.afterReset, pen := s.pen
    unknown := s.unknown, tap := s.tap
    spdm := { chain := s.spdm.chain }
    links := FMap.mapV s.links fun _ l => { linkUp := l.linkUp }
    drainUp := s.drainUp
    yards := FMap.mapV s.yards fun y v => (s.handBack y v).kept
    sensors := FMap.mapV s.sensors fun _ x => { low := x.low, warnAt := x.warnAt, critAt := x.critAt, hyst := x.hyst }
    log := s.log, fw := s.fw, free := s.free, laneCycle := s.laneCycle, nextId := s.nextId, issued := s.issued
    pending := s.pending }

/-- The state that PORST_N leaves: beyond BLK_RST_N's, the set-up, the lists of unknown granules, fences, limits, the certificate chain, the event log and the calendar's offset and due entries. -/
def State.powerHeld (s : State) : State :=
  { s.blockHeld with
    setup := Setup.reset, unknown := [], spdm := {}, yards := [], sensors := [], log := {}
    pen := { s.pen with calOffset := 0, calValid := false, dues := [] } }

/-- Assertion of PORST_N. -/
def State.porstLow (s : State) : State :=
  { s with glob := { s.glob with porstLow := true, afterPorst := true, areaStale := true, unready := true, unlogged := true }
           pen := { s.pen with powered := true } }.powerHeld

/-- Assertion of BLK_RST_N. -/
def State.blkRstLow (s : State) : State := { s with glob := { s.glob with blkRstLow := true } }.blockHeld

/-! ### Boot (Table 2-12) -/

/-- The submission queue 0 as boot leaves it (R453 item 3); its base and size are the registers'. -/
def bootAsq : Sq := { state := .disabled, fn := 0, slot := 0, log2 := 0, base := 0, cq := 0, maxOut := 1 }

/-- Step 1: the fuses and the life clock, after PORST_N. A torn record is found and logged once the log is up. -/
def State.bootSense (s : State) : State :=
  if s.glob.afterPorst then { s with pen := s.pen.sense.restoreLife, glob := { s.glob with afterPorst := false } } else s

/-- Step 2: the boot count, with a life record. -/
def State.bootCount (s : State) : State :=
  { s with pen := { s.pen with boot := min (s.pen.boot + 1) 0xFFFFFFFF }.writeRec }

/-- A lane that fails the boot self-checks is fenced and replaced (R422). Spares are fenced first. -/
def State.bootLanes (fails : List Nat) (s : State) : State :=
  let fails := fails.filter fun l => decide (l < 2176) && !(s.yard (l / 34)).fenced.contains (l % 34)
  let spare := fun (l : Nat) => (s.sparesFree (l / 34)).contains (l % 34)
  (fails.filter spare ++ fails.filter fun l => !spare l).foldl (fun s l => s.loseLane (l / 34) (l % 34) 4 []) s

/-- LANE_DEGRADED is set again while a Yard runs short (R446). -/
def State.bootFaults (s : State) : State :=
  if s.yards.any (fun v => v.2.degraded) && s.rigs.cur.spare.degradedFault then s.setFault 8 else s

/-- Must the boot write the areas of staging that no boot since PORST_N has written (R180, R331, R401)? -/
def State.mustWrite (s : State) : Bool := s.setup.hasStaging && s.glob.areaStale

/-- The global fields once Masthead is up: READY at once, or after what the boot must write is written. -/
def Glob.booted (g : Glob) (write : Bool) : Glob :=
  { g with
    power := if write then .boot else .run, ready := !write, areaStale := write, unready := g.unready && write
    unlogged := false }

/-- Steps 4 and 5: the processors start, and the log and the directory are taken up (R178). READY and CTL_READY rise, at once or after
the directory's and the event log's areas of staging are written (R180, R331, R401). -/
def State.bootUp (fails : List Nat) (r : BootReads) (s : State) : State :=
  let write := s.mustWrite
  let torn := if s.glob.unlogged then s.pen.tally.filter (!·.committed) else []
  let s := { s with
    glob := s.glob.booted write
    mb := { s.mb with notReady := write }
    fns := [(0, { state := .active, pasid := 0, beat := s.now })]
    sqs := [(0, { bootAsq with base := s.adm.asqBase, log2 := s.adm.asqLog2 })] }
  let s := s.flushLog
  let s := if write then
      (s.startScrub 0 s.setup.reservedBase 0x200000 (.freeEntry 0)).startScrub 0 s.setup.logBase 0x2000000 .zero
    else s
  let s := torn.foldl (fun s r => s.logEvent 0x0709 [r.setting]) s
  let s := ((s.recognise r).bootLanes fails).bootFaults
  if write then s else s.startSampling

/-- The always-on domain as READY rises: for the first time after PORST_N, a spare self-test is due (Table 14-6). -/
def State.readyPen (s : State) : Pen := if s.glob.unready then { s.pen with spareDue := s.pen.lifeS } else s.pen

/-- The last write of a boot has been answered: READY and CTL_READY rise. -/
def State.bootDone (s : State) : State :=
  if s.glob.power = .boot && s.scrubs.isEmpty then
    ({ s with
      pen := s.readyPen
      glob := { s.glob with power := .run, ready := true, areaStale := false, unready := false }
      mb := { s.mb with notReady := false } }.restartBeat 0).startSampling
  else s

/-- RECOVERY (R367): Shroud's boot ROM serves the mailbox; nothing else starts. -/
def State.bootRecovery (s : State) : State :=
  { s with glob := { s.glob with power := .run, recovery := true }, mb := { s.mb with notReady := false, rom := true } }

/-- Table 2-12 from the deassertion of the last reset on: from step 1 after PORST_N, from step 2 otherwise. -/
def State.boot (fails : List Nat) (r : BootReads) (s : State) : State :=
  let s := { s with glob := { s.glob with power := .boot } }.bootSense.bootCount
  match s.fwSelectAll with
  | (true, t) =>
    let u := t.bootUp fails r
    let g := s.glob.booted s.mustWrite
    { u with
      pen := if s.mustWrite then s.pen else s.readyPen
      glob := { u.glob with
        power := g.power, ready := g.ready, areaStale := g.areaStale, unready := g.unready, pfPasid := s.glob.pfPasid } }
  | (false, t) => { t.bootRecovery with pen := s.pen }

/-- The set-up after a deassertion of PORST_N: the tie-offs are sampled (R36). -/
def State.sampled (s : State) (present : BitVec 8) (size : BitVec 3) : Setup :=
  if s.glob.porstLow then { s.setup with stagePresent := present, stageSize := size } else s.setup

/-- Deassertion of PORST_N: the tie-offs are sampled (R36), and the block boots unless BLK_RST_N is low. -/
def State.porstHigh (present : BitVec 8) (size : BitVec 3) (fails : List Nat) (s : State) : State :=
  if !s.glob.porstLow then s
  else
    let s := { s with
      glob := { s.glob with porstLow := false }
      setup := s.sampled present size
      pen := { s.pen with powered := true } }
    if s.glob.blkRstLow then s else s.boot fails {}

/-- Deassertion of BLK_RST_N. -/
def State.blkRstHigh (fails : List Nat) (r : BootReads) (s : State) : State :=
  if !s.glob.blkRstLow then s
  else
    let s := { s with glob := { s.glob with blkRstLow := false } }
    if s.glob.porstLow then s else s.boot fails r

/-- A block reset by GLOBAL_CTRL (R447). -/
def State.blkReset (fails : List Nat) (r : BootReads) (s : State) : State := s.blockHeld.boot fails r

/-! ### IDLE and gating (R434, R435) -/

/-- Is tier work in progress: a generation between its tier-1 copy and the records that it requests? -/
def State.tierWork (s : State) : Bool :=
  !s.xfers.isEmpty || s.gens.any fun g => g.retained && (g.writing.isSome || g.drainBy.isSome || (g.state == .stayed && g.tier 2))

/-- The conditions of R435, while Trim is there to act on them. -/
def State.mayIdle (s : State) : Bool :=
  s.glob.power == .run && s.glob.ready && !s.restarting .trim && s.accepted.all Acc.isWait && s.sheets.isEmpty &&
  !s.gens.any (fun g => g.state == .opened || g.state == .cut) && !s.tierWork && !s.links.any (fun l => l.2.state == .roll) &&
  !s.glob.throttled && s.dirQ.isEmpty && s.tests.trials.isEmpty && s.tests.bist.isNone

/-- Since when the conditions have held. -/
def State.settleIdle (s : State) : State :=
  { s with idleSince := if s.mayIdle then s.idleSince.orElse fun _ => some s.now else none }

/-- Every Yard is gated, with the Tackle caches of its Mast (R30, R434). -/
def State.gateAll (s : State) : State :=
  { s with
    yards := (List.range 64).foldl (fun m y => FMap.put m y { FMap.getD m y {} with gated := true }) s.yards
    procs := { s.procs with tackleOn := [] }
    tackle := [] }

/-- IDLE_ENTRY: once the conditions of R435 have held for IDLE_DELAY AO ticks (Table 15-7). In IDLE every Yard is gated (Table 1-5). -/
def State.idleEntry (s : State) : State :=
  match s.idleSince with
  | none => s
  | some t =>
    let s := s.expire (t + s.rigs.cur.spare.idleDelay)
    if s.mayIdle then { s.gateAll with glob := { s.glob with power := .idle }, idleSince := none } else s

/-- Does a Yard hold work: a transfer in it, or a Sheet homed in it that is not stopping (R434)? -/
def State.yardBusy (s : State) (y : Nat) : Bool :=
  s.xfers.any (fun x => x.2.yard == y && x.2.phase != .queued) || s.sheets.any fun h => h.2.yard == y && !h.2.stopping

/-- YARD_GATE: the Yard is gated, and its Mast's cache with the last of its Yards. -/
def State.yardGate (y : Nat) (s : State) : State :=
  if s.glob.power != .run || s.restarting .trim || decide (64 ≤ y) || s.yardBusy y then s
  else
    let s := s.modYard y fun v => { v with gated := true }
    let m := y / 8
    if (List.range 8).all fun i => (s.yard (8 * m + i)).gated then
      { s with
        procs := { s.procs with tackleOn := s.procs.tackleOn.filter (· != m) }
        tackle := s.tackle.filter (·.mast != m) }
    else s

/-! ### PENNANT (R436, R437) -/

/-- The declared main rails: device and address. -/
def Setup.mainRails (u : Setup) : List (Nat × Nat) :=
  (u.pmbDev.zipIdx.filter fun p => p.1.getLsbD 31 && p.1.getLsbD 30).map fun p => (p.2, p.1.toNat % 128)

/-- PMBus OPERATION: 0x00 off, 0x80 on, to every main rail. -/
def State.rails (code : Nat) (s : State) : State := s.setup.mainRails.foldl (fun s r => s.emit (.sideband 0 r.2 code)) s

/-- OPERATION OFF. -/
def operationOff : Nat := 0x00

/-- OPERATION ON. -/
def operationOn : Nat := 0x80

/-- Entry to PENNANT: the life record, the main domain in reset, the rails off. The Telltale's level and held risk keep their values
(R396). -/
def State.enterPennant (s : State) : State :=
  let tt : Telltale := { held := s.tt.held, level := s.tt.level }
  let s := { { s with pen := s.pen.writeRec }.blockHeld with tt := tt }
  let s := { s with links := FMap.mapV s.links fun _ (l : Link) => { linkUp := l.linkUp } }
  { s with glob := { s.glob with power := .pennant } }.rails operationOff

/-- A PWR_DOWN request is tested (R436). -/
def State.pwrDown (s : State) : State :=
  if s.restarting .trim then { s with procs := { s.procs with pwrWait := true } }
  else if s.glob.power != .idle then s.logEvent 0x080B [1]
  else if !s.slices.isEmpty then s.logEvent 0x080B [2]
  else if s.accepted.any Acc.isWait then s.logEvent 0x080B [3]
  else s.enterPennant

/-- A PWR_DOWN that waited for Trim. -/
def State.pwrHeld (s : State) : State :=
  if s.procs.pwrWait && !s.restarting .trim then { s with procs := { s.procs with pwrWait := false } }.pwrDown else s

/-- The wait for power-good ends well, and the block boots as after BLK_RST_N; or it runs on. -/
def State.awaitRails (good : Bool) (fails : List Nat) (r : BootReads) (s : State) : State :=
  if good || s.setup.mainRails.isEmpty then { s with waking := {}, tt := {} }.boot fails r
  else { s with waking := { s.waking with waiting := true } }

/-- WAKE_N (R31, R437). -/
def State.wakePin (good : Bool) (fails : List Nat) (r : BootReads) (s : State) : State :=
  let s := { s with glob := { s.glob with wakeHigh := false } }
  if s.glob.power = .idle then s.wake
  else if s.glob.power = .pennant && !s.waking.waiting && !s.glob.blkRstLow && !s.glob.porstLow then
    (s.rails operationOn).awaitRails good fails r
  else s

/-- POWER_GOOD_TIMEOUT: the first wait is repeated once; the second failure is logged (R437). -/
def State.railsLate (rail : Nat) (good : Bool) (fails : List Nat) (r : BootReads) (s : State) : State :=
  if s.glob.power != .pennant || !s.waking.waiting then s
  else if s.waking.railsTried = 0 then
    (({ s with waking := { s.waking with railsTried := 1, waiting := false } }.rails operationOff).rails operationOn).awaitRails
      good fails r
  else ({ s with waking := {} }.rails operationOff).logEvent 0x080A [rail, 2]

/-! ### Pins (R65 to R68, R138) -/

/-- The jobs whose slice's PIN_PREEMPT has a bit, by the cadence row of each job's latest step mark (R138, R384). -/
def State.preempted (s : State) (bit : Nat) : List (Nat × Nat) :=
  (s.jobs.filter fun j => bitOf j.2.cad.pin bit).map fun j => (j.2.fn, j.1)

/-- A preemption notice by a pin: PREEMPT_N is bit 0, SB[n] bit n + 1. It is a trigger, whichever functions take it (R31). -/
def State.pinNotice (bit : Nat) (s : State) : State := (s.preempted bit).foldl (fun s j => s.noticeOf j.1 j.2) s.wake

/-- PREEMPT_N. -/
def State.preemptPin (s : State) : State :=
  let s := { s with glob := { s.glob with preemptHigh := false } }
  if s.mainOn then s.pinNotice 0 else s

/-- A falling edge of an SB line (Table 2-10). -/
def State.sbEdge (n : Nat) (s : State) : State :=
  if 4 ≤ n then s
  else
    let s := { s with glob := { s.glob with sbHigh := s.glob.sbHigh &&& ~~~(1#4 <<< n) } }
    if !s.mainOn then s
    else
      match s.rigs.cur.sb.getD n 0 with
      | 1 => s.pinNotice (n + 1)
      | 3 => if s.tt.sampling then s.countEdge n else s
      | _ => s

/-! ### Supplies (R397, R413, R436) -/

/-- The tally record that a supply loss tears: the one that an outstanding TALLY_BURN would burn. -/
def State.tornBurn (s : State) (t : Nat × Nat) : Bool :=
  match s.mb.outstanding with
  | some r =>
    let v := leAt r.payload 4 4
    r.cmd == 0x51 && leAt r.payload 0 1 == t.1 && v == t.2 && (State.mbTallyBurn r s).1.1 == 0
  | none => false

/-- Is the slot of an IMAGE code that is not active being written? -/
def State.storing (s : State) (code : Nat) : Bool :=
  (s.accepted.any fun a => a.fin.isNone && (match a.op with
    | .fwStage c _ _ => c == code
    | _ => false)) ||
  ((s.mb.outstanding.map fun r => r.cmd == 0x62).getD false && (s.image.map (·.image)) == some code)

/-- The tally records after a supply loss: a burn in progress leaves a torn one (R413). -/
def State.tallyTorn (s : State) (t : Torn) : List TallyRec :=
  match t.burn.filter s.tornBurn with
  | some b => s.pen.tally ++ [⟨b.1, b.2, false⟩]
  | none => s.pen.tally

/-- ALWAYS_ON_SUPPLY_LOSS: Pennant stops, and with it everything that it keeps but its cells and fuses; PORST_N is asserted
(R433). -/
def State.supplyLoss (t : Torn) (s : State) : State :=
  let tally := s.tallyTorn t
  let s := match t.store.filter s.storing with
    | some c => s.modFw c fun x => x.store none
    | none => s
  let s := s.porstLow
  let pen := if t.life then s.pen.tornRec else s.pen
  { s with pen := { pen with tally := tally, powered := false, lostSupply := true } }

/-- MAIN_SUPPLY_REMOVAL: under BLK_RST_N the block is in PENNANT (R436). -/
def State.mainRemoved (s : State) : State :=
  if s.glob.blkRstLow && !s.glob.porstLow then { s with glob := { s.glob with power := .pennant } } else s

end Sys2Proof.Machine
end

