-- ==== Sys2Proof/Machine/TestPort.lean ====
section
/-! DEFINITION. The test access port (R72). No row of the opcode table clocks it: log 29. -/

namespace Sys2Proof.Machine

/-- The IDCODE part number of the block (R72). -/
def tapPart : Nat := 0x9400

/-- The IDCODE version of block revision 2.1 (R72). -/
def tapVersion : Nat := 0x1

/-- The IDCODE register: version, part number, the integrator's manufacturer field, and the 1 that IEEE 1149.1 gives bit 0. -/
def tapIdcode : Word :=
  BitVec.ofNat 32 (tapVersion * 2 ^ 28 + tapPart * 2 ^ 12 + Config.manufacturer % 2 ^ 11 * 2 + 1)

/-- What the instruction register may hold: IDCODE, BYPASS, or one of the vendor's instructions. -/
inductive TapInstr where
  | idcode
  | bypass
  | vendor
  deriving DecidableEq, Repr

/-- TRST_N, or the test logic's own reset: IDCODE is selected. -/
def Tap.reset : Tap := {}

/-- Select a register. What a vendor's instruction does while the debug region is unlocked is not given; otherwise it selects
BYPASS. Log 29. -/
def Tap.select (i : TapInstr) : Tap := { idcode := i == .idcode }

/-- Capture: the selected register takes its value, a 0 in BYPASS. -/
def Tap.capture (t : Tap) : Tap :=
  { t with dr := if t.idcode then (List.range 32).map fun i => tapIdcode.getLsbD i else [false] }

/-- Shift by one TCK: the bit that leaves at TDO, and the register after it. -/
def Tap.shift (tdi : Bool) (t : Tap) : Bool × Tap := (t.dr.headD false, { t with dr := t.dr.drop 1 ++ [tdi] })

end Sys2Proof.Machine
end

