-- ==== Sys2Proof/Machine/Spdm.lean ====
section
/-! DEFINITION. The SPDM responder (R315 to R317): the requests of Table 10-5, served through the mailbox. Codes and layouts of
the messages are DSP0274's, log 23 (PRESUMED); nonces and the per-message secrets of signatures are free values. -/

namespace Sys2Proof.Machine

/-- SPDMVersion of a request. -/
def MbReq.spdmVersion (r : MbReq) : Nat := leAt r.payload 0 1

/-- RequestResponseCode of a request. -/
def MbReq.spdmCode (r : MbReq) : Nat := leAt r.payload 1 1

/-- Param1 of a request. -/
def MbReq.spdmParam (r : MbReq) : Nat := leAt r.payload 2 1

/-- The requests of Table 10-5. -/
inductive SpdmReq where
  | getVersion
  | getCapabilities
  | negotiateAlgorithms
  | getDigests
  | getCertificate
  | challenge
  | getMeasurements
  | setCertificate
  | unsupported
  deriving DecidableEq, Repr

/-- The request code of DSP0274; none is 0. -/
def SpdmReq.code : SpdmReq → Nat
  | .getVersion => 0x84
  | .getCapabilities => 0xE1
  | .negotiateAlgorithms => 0xE3
  | .getDigests => 0x81
  | .getCertificate => 0x82
  | .challenge => 0x83
  | .getMeasurements => 0xE0
  | .setCertificate => 0xEE
  | .unsupported => 0

/-- The supported requests. -/
def SpdmReq.supported : List SpdmReq :=
  [.getVersion, .getCapabilities, .negotiateAlgorithms, .getDigests, .getCertificate, .challenge, .getMeasurements,
    .setCertificate]

/-- Does a GET_MEASUREMENTS ask for a signature? -/
def MbReq.wantsSignature (r : MbReq) : Bool := bitOf r.spdmParam 0

/-- The certificate slot that a request names: in Param1, or, of a GET_MEASUREMENTS that asks for a signature, in SlotIDParam. -/
def SpdmReq.slot (q : SpdmReq) (r : MbReq) : Nat :=
  match q with
  | .getCertificate => r.spdmParam % 16
  | .challenge => r.spdmParam % 16
  | .setCertificate => r.spdmParam % 16
  | .getMeasurements => if r.wantsSignature then leAt r.payload 36 1 % 16 else 0
  | _ => 0

/-- Is a request's version supported: 1.2 and 1.3, and 1.0 for GET_VERSION, which every version sends so? -/
def SpdmReq.versionOk (q : SpdmReq) (v : Nat) : Bool := if q = .getVersion then v == 0x10 else v == 0x12 || v == 0x13

/-- The request of Table 10-5 that a message is (R315). -/
def MbReq.spdm (r : MbReq) : SpdmReq :=
  match SpdmReq.supported.find? fun q => q.code == r.spdmCode with
  | some q =>
    if 4 ≤ r.payload.length && q.versionOk r.spdmVersion && q.slot r == 0 then q else .unsupported
  | none => .unsupported

/-- ERROR with a code. -/
def MbReq.spdmError (r : MbReq) (code : Nat) : Reply := (0, [BitVec.ofNat 8 r.spdmVersion, 0x7F, BitVec.ofNat 8 code, 0])

/-- InvalidRequest. -/
def spdmInvalid : Nat := 0x01

/-- UnsupportedRequest. -/
def spdmUnsupported : Nat := 0x07

/-- A response: its header, with the request's version and the code that answers it, and a body. -/
def MbReq.spdmReply (r : MbReq) (p1 p2 : Nat) (body : List Byte) : Reply :=
  (0, [BitVec.ofNat 8 r.spdmVersion, BitVec.ofNat 8 (r.spdmCode - 0x80), BitVec.ofNat 8 p1, BitVec.ofNat 8 p2] ++ body)

/-! ### Capabilities and algorithms (Table 10-5) -/

/-- The capability flags: certificates, challenge, signed and fresh measurements, and SET_CERTIFICATE. -/
def spdmFlags : Nat := 2 ^ 1 + 2 ^ 2 + 2 ^ 4 + 2 ^ 5 + 2 ^ 19

/-- CAPABILITIES: a response time of 2^15 µs, the mailbox's payload as the size of a message, and the flags. Log 23. -/
def MbReq.capabilities (r : MbReq) : Reply :=
  r.spdmReply 0 0 ([0, 15, 0, 0] ++ toLe 4 spdmFlags ++ toLe 4 4088 ++ toLe 4 4088)

/-- ALGORITHMS: DMTF measurements with SHA-384, and ECDSA P-384 with SHA-384, where the request offers them; nothing else is selected
(Table 10-5). -/
def MbReq.algorithms (r : MbReq) : Reply :=
  let dmtf := bitOf (leAt r.payload 6 1) 0
  let p384 := bitOf (leAt r.payload 8 4) 7
  let sha := bitOf (leAt r.payload 12 4) 1
  r.spdmReply 0 0 (toLe 2 36 ++ toLe 1 (b2n dmtf) ++ [0] ++ toLe 4 (4 * b2n dmtf) ++ toLe 4 (128 * b2n p384) ++
    toLe 4 (2 * b2n sha) ++ List.replicate 16 0)

/-! ### Measurements (R317, Table 10-6) -/

/-- A block in the DMTF measurement specification format: index, the representation (raw or digest), the kind of value and the
value. -/
def dmtfBlock (index kind : Nat) (raw : Bool) (value : List Byte) : List Byte :=
  toLe 1 index ++ [1] ++ toLe 2 (value.length + 3) ++ toLe 1 (kind + 128 * b2n raw) ++ toLe 2 value.length ++ value

/-- An active firmware image, measured: its SHA-384 and its anti-rollback version. -/
def State.measureImage (s : State) (code : Nat) : List Byte :=
  match (s.fwCode code).active with
  | some i => i.sum ++ toLe 4 i.svn
  | none => []

/-- A slice's entry of the slice partition (Table 13-10). -/
def PartEnt.bytes (p : PartEnt) : List Byte :=
  fit 64 0 (toLe 2 p.queuesMax ++ toLe 2 p.lanesMax ++ toLe 4 p.sheetsMax ++ toLe 8 p.stagingMax ++ toLe 4 p.cleatBase ++
    toLe 4 p.cleatCount ++ toLe 2 p.keyBase ++ toLe 2 p.keyCount ++ toLe 2 p.hmacBase ++ toLe 2 p.hmacCount ++ toLe 4 p.fnRate ++
    toLe 4 p.fnBurst)

/-- The slice partition of the current rig set, as its section holds it. -/
def State.partition (s : State) : List Byte := (List.range 256).flatMap fun f => (FMap.getD s.rigs.cur.part f {}).bytes

/-- The fuse counts and states of block 0x07. -/
def State.measureFuses (s : State) : List Byte :=
  (([1, 2, 3, 4] : List Nat).map fun n => BitVec.ofNat 8 (s.pen.records n).length) ++
    [BitVec.ofNat 8 s.pen.inForce.keyFault, BitVec.ofNat 8 s.pen.inForce.safety, BitVec.ofNat 8 (b2n !s.glob.debugUnlocked),
      BitVec.ofNat 8 (b2n (blank s.pen.linkRoot))]

/-- The blocks of Table 10-6, by index from 0x01. The kinds of value, and the bytes of a value, are log 23. -/
def State.measures (s : State) : List (List Byte) :=
  [ dmtfBlock 1 2 true (toLe 2 0x0201 ++ toLe 2 tapPart),
    dmtfBlock 2 1 false (s.measureImage 0), dmtfBlock 3 1 false (s.measureImage 1), dmtfBlock 4 1 false (s.measureImage 2),
    dmtfBlock 5 1 false (s.measureImage 3), dmtfBlock 6 1 false (s.measureImage 4),
    dmtfBlock 7 2 true s.measureFuses,
    dmtfBlock 8 3 false (toLe 4 s.rigs.cur.gen ++ sha384 s.partition) ]

/-- The blocks that a GET_MEASUREMENTS asks for: by index, or all with 0xFF; none where no block has the index. -/
def State.measuresFor (s : State) (op : Nat) : Option (List (List Byte)) :=
  if op = 0 then some []
  else if op = 255 then some s.measures
  else (s.measures[op - 1]?).map fun b => [b]

/-! ### Transcripts and signatures -/

/-- A request joins the connection's transcripts; GET_VERSION starts the connection anew. -/
def Spdm.heard (x : Spdm) (q : SpdmReq) (bs : List Byte) : Spdm :=
  match q with
  | .getVersion => { chain := x.chain, vca := bs }
  | .getCapabilities => { x with vca := x.vca ++ bs, meas := [] }
  | .negotiateAlgorithms => { x with vca := x.vca ++ bs, meas := [] }
  | .getDigests => { x with certs := x.certs ++ bs, meas := [] }
  | .getCertificate => { x with certs := x.certs ++ bs, meas := [] }
  | .challenge => { x with certs := x.certs ++ bs, meas := [] }
  | .getMeasurements => { x with meas := x.meas ++ bs }
  | .setCertificate => { x with meas := [] }
  | .unsupported => { x with meas := [] }

/-- A response joins them. -/
def Spdm.said (x : Spdm) (q : SpdmReq) (signed : Bool) (bs : List Byte) : Spdm :=
  match q with
  | .getVersion => { x with vca := x.vca ++ bs }
  | .getCapabilities => { x with vca := x.vca ++ bs }
  | .negotiateAlgorithms => { x with vca := x.vca ++ bs }
  | .getDigests => { x with certs := x.certs ++ bs }
  | .getCertificate => { x with certs := x.certs ++ bs }
  | .challenge => { x with certs := [] }
  | .getMeasurements => { x with meas := if signed then [] else x.meas ++ bs }
  | .setCertificate => x
  | .unsupported => x

/-- What a signature of SPDM 1.2 and later covers: the version, the purpose and the hash of the transcript. -/
def spdmSigned (version : Nat) (purpose : String) (transcript : List Byte) : List Byte :=
  let v := if version = 0x13 then ascii "dmtf-spdm-v1.3.*" else ascii "dmtf-spdm-v1.2.*"
  v ++ v ++ v ++ v ++ List.replicate (36 - (ascii purpose).length) 0 ++ ascii purpose ++ sha384 transcript

/-- A nonce: free. -/
def State.spdmNonce (s : State) : List Byte := (List.range 32).map (Config.spdmNonce s.free)

/-- A signature with the DeviceID key (R317). -/
def State.spdmSign (s : State) (version : Nat) (purpose : String) (transcript : List Byte) : List Byte :=
  ecdsaSign (deviceKey s.pen.deviceRoot) (1 + Config.signSecret s.free % (p384Order - 1)) (spdmSigned version purpose transcript)

/-- The requester's context, which 1.3 echoes. -/
def MbReq.spdmContext (r : MbReq) (off : Nat) : List Byte := if r.spdmVersion = 0x13 then fit 8 0 (slice r.payload off 8) else []

/-- A reply with bytes after it. -/
def Reply.more (x : Reply) (bs : List Byte) : Reply := (x.1, x.2 ++ bs)

/-- MEASUREMENTS (R317): the blocks asked for, a nonce, and the signature where one is asked for. -/
def State.spdmMeasurements (r : MbReq) (s : State) : Reply × State :=
  let op := leAt r.payload 3 1
  match s.measuresFor op with
  | none => (r.spdmError spdmInvalid, s)
  | some blocks =>
    let record := blocks.flatten
    let body := toLe 1 blocks.length ++ toLe 3 record.length ++ record ++ s.spdmNonce ++ toLe 2 0 ++
      r.spdmContext (if r.wantsSignature then 37 else 4)
    let x := r.spdmReply (if op = 0 then s.measures.length else 0) 0 body
    let sign := s.spdmSign r.spdmVersion "responder-measurements signing" (s.spdm.vca ++ s.spdm.meas ++ x.2)
    (if r.wantsSignature then x.more sign else x, { s with free := s.free + 1 })

/-- CHALLENGE_AUTH: the chain's digest, a nonce, the digest of all measurements where it is asked for, and the signature. -/
def State.spdmChallenge (r : MbReq) (s : State) : Reply × State :=
  let summary := if leAt r.payload 3 1 = 0 then [] else sha384 s.measures.flatten
  let x := r.spdmReply 0 (b2n !s.spdm.chain.isEmpty)
    (sha384 s.spdm.chain ++ s.spdmNonce ++ summary ++ toLe 2 0 ++ r.spdmContext 36)
  (x.more (s.spdmSign r.spdmVersion "responder-challenge_auth signing" (s.spdm.vca ++ s.spdm.certs ++ x.2)),
    { s with free := s.free + 1 })

/-! ### Versions and certificates -/

/-- VERSION: the versions of Table 10-5. -/
def MbReq.versions (r : MbReq) : Reply := r.spdmReply 0 0 ([0, 2] ++ toLe 2 0x1300 ++ toLe 2 0x1200)

/-- DIGESTS: SHA-384 of the chain in slot 0. -/
def State.spdmDigests (r : MbReq) (s : State) : Reply :=
  if s.spdm.chain.isEmpty then r.spdmReply 0 0 [] else r.spdmReply 0 1 (sha384 s.spdm.chain)

/-- CERTIFICATE: a portion of the chain, with its length and what remains. -/
def State.spdmCertificate (r : MbReq) (s : State) : Reply :=
  let off := leAt r.payload 4 2
  let n := min (min (leAt r.payload 6 2) (s.spdm.chain.length - off)) 4080
  if r.payload.length < 8 || s.spdm.chain.length ≤ off then r.spdmError spdmInvalid
  else r.spdmReply 0 0 (toLe 2 n ++ toLe 2 (s.spdm.chain.length - off - n) ++ slice s.spdm.chain off n)

/-- SET_CERTIFICATE (R316). -/
def State.spdmSet (r : MbReq) (s : State) : Reply × State :=
  let chain := r.payload.drop 4
  if s.spdm.chain.isEmpty && !chain.isEmpty && decide (chain.length ≤ 16384) && leafHolds chain (devicePublic s.pen.deviceRoot) then
    (r.spdmReply 0 0 [], { s with spdm := { s.spdm with chain := chain } })
  else (r.spdmError spdmInvalid, s)

/-- Serve the outstanding request where it is the SPDM request of a kind; Shroud serves none while it restarts. -/
def State.spdmServe (q : SpdmReq) (h : MbReq → State → Reply × State) (s : State) : State :=
  if s.restarting .shroud then s
  else s.mbServe (fun r => r.cmd == 0x01 && r.spdm == q) fun r s =>
    let x := h r { s with spdm := s.spdm.heard q r.payload }
    (x.1, { x.2 with spdm := x.2.spdm.said q r.wantsSignature x.1.2 })

end Sys2Proof.Machine
end

