-- ==== Sys2Proof/Machine/Regs.lean ====
section
/-! DEFINITION. The control window (R9, R11, R13, R61, R443 to R459): what every register reads, and what a write to it does. -/

namespace Sys2Proof.Machine

/-! ### Reads (R61, R445 to R457) -/

/-- The upper halves of the pairs that can be read (R13), by the offset of _LO. -/
def State.upperHalf (s : State) (off : Nat) : Option Nat :=
  let fn := FMap.find s.fns ((off - 0x300000) / 0x1000)
  let page := decide (0x300000 ≤ off) && decide (off < 0x400000)
  let hi := fun (v : Nat) => some (v / 2 ^ 32)
  if off = 0x38 then hi s.setup.stagingBytes
  else if off = 0x10000 then hi s.adm.asqBase
  else if off = 0x10010 then hi s.adm.acqBase
  else if off = 0x10020 then hi s.adm.acqIntAddr
  else if page && off % 0x1000 = 0x20 then hi ((fn.map (·.quotaBase)).getD 0)
  else if page && off % 0x1000 = 0x28 then hi ((fn.map (·.quotaLen)).getD 0)
  else if page && off % 0x1000 = 0x60 then hi ((fn.map (·.orphan.lastEpoch)).getD 0)
  else none

/-- Is an offset a _LO half? -/
def isLo (off : Nat) : Bool :=
  off ∈ [0x38, 0x10000, 0x10010, 0x10020] ||
  (decide (0x300000 ≤ off) && decide (off < 0x400000) && decide (off % 0x1000 ∈ [0x20, 0x28, 0x60]))

/-- Is an offset a _HI half? -/
def isHi (off : Nat) : Bool := decide (4 ≤ off) && isLo (off - 4)

/-- The global region but for the pairs (Table 16-2). -/
def State.globalReg (s : State) (off : Nat) : Word :=
  let u := s.setup
  if 0x1000 ≤ off then if off < 0x1400 then BitVec.ofNat 32 (FMap.getD s.hbInt ((off - 0x1000) / 4) 0x40) else 0
  else
    match off with
    | 0x00 => 0x02019400
    | 0x04 => 0x20408408
    | 0x08 => fields [(s.usableLanes, 20), (0x1000, 7)]
    | 0x0C => fields [(0x200, 22), (u.stagePresent.toNat, 8), (u.stageSize.toNat, 5)]
    | 0x10 => s.globalStatus
    | 0x14 => s.glob.fault.zeroExtend 32
    | 0x1C => s.lockReg
    | 0x20 => BitVec.ofNat 32 s.glob.pfPasid
    | 0x24 => fields [(s.glob.fabTimeout, 16), (u.fabEp, 0)]
    | 0x28 => fields [(u.drainPresent.toNat, 28), (u.drainCount, 12), (u.drainBase, 0)]
    | 0x2C => s.sbStatus
    | 0x30 => fields [(s.pen.inForce.svn, 24), (s.pen.inForce.safety, 16), (s.pen.inForce.keyFault, 12)]
    | 0x34 => BitVec.ofNat 32 s.rigs.cur.gen
    | 0x38 => BitVec.ofNat 32 u.stagingBytes
    | 0x40 => s.linkStateReg 0
    | 0x44 => s.linkStateReg 1
    | 0x48 => s.linkStateReg 2
    | 0x4C => s.linkStateReg 3
    | 0x100 => s.glob.eccFlip
    | _ => 0

/-- ASQ_CTRL or ACQ_CTRL: both ENABLE fields read 1 under a halt (R453 item 6). -/
def State.ringCtrl (s : State) (enable : Bool) (log2 : Nat) : Word := fields [(b2n (enable || s.glob.halted), 31), (log2, 0)]

/-- The admin queue region (Table 16-14). -/
def State.admReg (s : State) (off : Nat) : Word :=
  match off with
  | 0x00 => BitVec.ofNat 32 s.adm.asqBase
  | 0x08 => s.ringCtrl s.adm.asqEnable s.adm.asqLog2
  | 0x10 => BitVec.ofNat 32 s.adm.acqBase
  | 0x18 => s.ringCtrl s.adm.acqEnable s.adm.acqLog2
  | 0x20 => BitVec.ofNat 32 s.adm.acqIntAddr
  | 0x28 => BitVec.ofNat 32 s.adm.acqIntData
  | 0x2C => fields [(s.adm.coalTicks, 16), (s.adm.coalCount, 0)]
  | _ => 0

/-- A doorbell page (Table 3-1). -/
def State.bellReg (s : State) (f off : Nat) : Word :=
  if !FMap.has s.fns f then 0
  else
    match off / 0x400 with
    | 1 => s.sqHead f (off % 0x400 / 4)
    | 3 => s.cqTail f (off % 0x400 / 4)
    | _ => 0

/-- The Mast and Yard region (Table 16-16). -/
def State.statusReg (s : State) (off : Nat) : Word :=
  if off < 0x4000 then s.yardReg (off / 0x100) (off % 0x100)
  else if off < 0x4800 && off % 0x100 = 0 then s.mastReg ((off - 0x4000) / 0x100)
  else 0

/-- The Masthead region (Tables 16-17, 16-18). -/
def State.mastheadReg (s : State) (off : Nat) : Word :=
  if off < 0x1000 then BitVec.ofNat 32 (NMap.get s.mb.req (off / 4))
  else if off < 0x2000 then BitVec.ofNat 32 (leAt s.mb.resp (off - 0x1000) 4)
  else if off = 0x2004 then s.mbStatus
  else if 0x3000 ≤ off && off < 0x3040 then (s.setup.pmbDev[(off - 0x3000) / 4]?).getD 0
  else if 0x3040 ≤ off && off < 0x3080 then (s.setup.i3cDev[(off - 0x3040) / 4]?).getD 0
  else if 0x3080 ≤ off && off < 0x30A0 then (s.setup.vmon[(off - 0x3080) / 4]?).getD 0
  else 0

/-- What a read of an aligned offset returns, but for the latches that it loads: the locked debug region and every offset
without a register read as zero (R61). -/
def State.readReg (s : State) (off : Nat) : Word :=
  if isHi off then FMap.getD s.glob.latches (off - 4) 0
  else if off < 0x10000 then s.globalReg off
  else if off < 0x20000 then s.admReg (off - 0x10000)
  else if off < 0x100000 then 0
  else if off < 0x200000 then s.bellReg ((off - 0x100000) / 0x1000) (off % 0x1000)
  else if off < 0x300000 then s.statusReg (off - 0x200000)
  else if off < 0x400000 then
    match FMap.find s.fns ((off - 0x300000) / 0x1000) with
    | some x => s.fnReg ((off - 0x300000) / 0x1000) x (off % 0x1000)
    | none => 0
  else if off < 0x800000 then s.mastheadReg (off - 0x400000)
  else 0

/-- A control access of a wrong size or alignment: an error response, and a log entry (R61). -/
def State.badAccess (off size : Nat) (s : State) : State :=
  if !s.ctlReady || (size == 4 && off % 4 == 0) then s else (s.emit (.ctlError off size)).logBadAccess off size

/-- The pins whose levels SB_STATUS shows: one that was low may have risen since its last edge (R65). Log 198. -/
def State.samplePins (s : State) : State :=
  let g := s.glob
  if g.preemptHigh && g.wakeHigh && g.pmbHigh && g.sbHigh == 0xF then s
  else
    let rose := Config.pinRose s.free
    { s with
      free := s.free + 1
      glob := { g with
        preemptHigh := g.preemptHigh || rose 6, wakeHigh := g.wakeHigh || rose 5, pmbHigh := g.pmbHigh || rose 4
        sbHigh := g.sbHigh ||| BitVec.ofNat 4 (((List.range 4).map fun n => b2n (rose n) * 2 ^ n).foldl (· + ·) 0) } }

/-- A read of a register: a _LO half loads its pair's latch (R13). -/
def State.ctlRead (off : Nat) (s : State) : State :=
  if !s.ctlReady then s
  else if off % 4 ≠ 0 then s.badAccess off 4
  else
    let s := if off = 0x2C then s.samplePins else s
    let t := match s.upperHalf off with
      | some h => { s with glob := { s.glob with latches := FMap.put s.glob.latches off (BitVec.ofNat 32 h) } }
      | none => s
    t.emit (.ctlRead off (s.readReg off))

/-! ### Global writes (R446 to R449, Table 16-9) -/

/-- The GLOBAL_FAULT bits whose cause still holds (R446). -/
def State.faultHolds (s : State) : BitVec 16 :=
  (if s.sensors.any (·.2.crit) then 0x0004#16 else 0) |||
  (if s.yards.any (·.2.degraded) then 0x0100#16 else 0) |||
  (if s.glob.halted then 0xC2E3#16 else 0) |||
  (if s.keys.drbgStopped then 0x0008#16 else 0)

/-- A W1C write of GLOBAL_FAULT: a bit whose cause holds is set again. -/
def State.clearFault (v : Word) (s : State) : State :=
  if !s.ctlReady then s
  else { s with glob := { s.glob with fault := s.glob.fault &&& (~~~(v.truncate 16) ||| s.faultHolds) } }

/-- A write of GLOBAL_CTRL (R447). -/
def State.writeCtrl (v : Word) (fails : List Nat) (r : BootReads) (s : State) : State :=
  if !s.ctlReady then s
  else if v.extractLsb' 24 8 ≠ 0xA5#8 then s.logBadAccess 0x18 4
  else if v.getLsbD 0 then s.blkReset fails r
  else if v.getLsbD 1 then s.pwrDown
  else s

/-- May FAB_LOCK be set (R448)? -/
def Setup.fabLockable (u : Setup) : Bool := u.fabEp != 0 && u.fabEp != 0xFFF

/-- Is the endpoint range of DRAIN_CFG one that DRAIN_LOCK may fix (R448): a port is connected, and the range includes no
0x000 and no 0xFFF and ends at 0xFFE at the latest? -/
def Setup.drainRangeOk (u : Setup) : Bool :=
  u.drainPresent != 0 && (u.drainCount == 0 || (u.drainBase != 0 && decide (u.drainBase + u.drainCount ≤ 0xFFF)))

/-- May DRAIN_LOCK be set (R448): the range does not include FAB_EP either? -/
def Setup.drainLockable (u : Setup) : Bool :=
  u.drainRangeOk && !(decide (u.drainBase ≤ u.fabEp) && decide (u.fabEp < u.drainBase + u.drainCount))

/-- The addresses of the PRESENT devices of a list. -/
def presentAddrs (ws : List Word) : List Nat := (ws.filter fun w => w.getLsbD 31).map fun w => w.toNat % 128

/-- Do the PMBus and I3C entries keep R457, so that SENSOR_LOCK may be set (R448)? -/
def Setup.sensorsOk (u : Setup) : Bool :=
  let p := presentAddrs u.pmbDev
  let t := presentAddrs u.i3cDev
  p.all (· != 0) && t.all (· != 0) && decide p.Nodup && decide t.Nodup && !((u.pmbDev[0]?).getD 0).getLsbD 30

/-- Is the sensor set-up valid: every USED monitor has a nominal voltage in range too (R457)? -/
def Setup.sensorsValid (u : Setup) : Bool :=
  u.sensorsOk && u.vmon.all fun w => !w.getLsbD 31 || (decide (500 ≤ w.toNat % 65536) && decide (w.toNat % 65536 ≤ 3300))

/-- A write of LOCK: each bit written as 1 sets its lock, where R448 does not have it ignored. -/
def Setup.writeLock (u : Setup) (v : Word) : Setup :=
  { u with
    fabLock := u.fabLock || (v.getLsbD 0 && u.fabLockable)
    drainLock := u.drainLock || (v.getLsbD 1 && u.drainLockable)
    sensorLock := u.sensorLock || (v.getLsbD 2 && u.sensorsOk) }

/-- FAB_EP, locked by FAB_LOCK. -/
def Setup.writeFab (u : Setup) (v : Nat) : Setup := if u.fabLock then u else { u with fabEp := v % 4096 }

/-- DRAIN_CFG, locked by DRAIN_LOCK; a DRAIN_EP_COUNT above 4,094 is reserved (R9). -/
def Setup.writeDrain (u : Setup) (v : Nat) : Setup :=
  if u.drainLock then u
  else
    { u with
      drainPresent := BitVec.ofNat 4 (bits v 31 28)
      drainCount := if 4094 < bits v 24 12 then u.drainCount else bits v 24 12
      drainBase := bits v 11 0 }

/-- The sensor set-up, locked by SENSOR_LOCK (Table 16-18). -/
def Setup.writeSensors (u : Setup) (off : Nat) (v : Word) : Setup :=
  if u.sensorLock then u
  else if off < 0x403040 then { u with pmbDev := u.pmbDev.set ((off - 0x403000) / 4) (v &&& 0xC000007F#32) }
  else if off < 0x403080 then { u with i3cDev := u.i3cDev.set ((off - 0x403040) / 4) (v &&& 0x8000FF7F#32) }
  else { u with vmon := u.vmon.set ((off - 0x403080) / 4) (v &&& 0x8000FFFF#32) }

/-- The set-up after a write of an aligned offset. -/
def Setup.write (u : Setup) (off : Nat) (v : Word) : Setup :=
  if off = 0x1C then u.writeLock v
  else if off = 0x24 then u.writeFab v.toNat
  else if off = 0x28 then u.writeDrain v.toNat
  else if 0x403000 ≤ off && off < 0x4030A0 then u.writeSensors off v
  else u

/-- The set-up after a write of an offset, where the port takes the write. -/
def State.setupAfter (s : State) (off : Nat) (v : Word) : Setup :=
  if s.ctlReady && off % 4 == 0 then s.setup.write off v else s.setup

/-- Put the set-up after a write in place. -/
def State.writeSetup (off : Nat) (v : Word) (s : State) : State := { s with setup := s.setupAfter off v }

/-- Record a W1S that is ignored. -/
def State.noteIgnored (b : Bool) (s : State) : State := if b then s.logBadAccess 0x1C 4 else s

/-- A write of LOCK: each W1S that is ignored is recorded, and the drain ports may carry what waits for them. -/
def State.writeLock (v : Word) (s : State) : State :=
  if !s.ctlReady then s
  else
    let u := s.setup
    let t := s.writeSetup 0x1C v
    (((t.noteIgnored (v.getLsbD 0 && !u.fabLockable)).noteIgnored (v.getLsbD 1 && !u.drainLockable)).noteIgnored
      (v.getLsbD 2 && !u.sensorsOk)).flushPkts

/-- A write of PF_PASID: while both rings are disabled. The PASID of a slice is not taken, as no two functions hold the same (R337). -/
def State.writePasid (v : Nat) (s : State) : State :=
  if s.adm.asqEnable || s.adm.acqEnable || s.glob.halted || s.slices.any (fun x => x.2.pasid == v % 2 ^ 20) then s
  else { s with glob := { s.glob with pfPasid := v % 2 ^ 20 } }

/-- A write of FAB_CFG: FAB_TIMEOUT 0 is reserved, and FAB_EP is locked by FAB_LOCK. -/
def State.writeFab (v : Word) (s : State) : State :=
  let s := s.writeSetup 0x24 v
  if v.toNat / 65536 = 0 then s else { s with glob := { s.glob with fabTimeout := v.toNat / 65536 } }

/-- A write of ECC_FLIP_MASK (Table 11-4); a TARGET above 2 is reserved (R9). -/
def State.writeFlip (v : Word) (s : State) : State :=
  let keep := decide (3 ≤ bits v.toNat 30 28)
  let w := (v &&& 0xFFF800FF#32)
  { s with glob := { s.glob with
      eccFlip := if keep then (w &&& 0x8FFFFFFF#32) ||| (s.glob.eccFlip &&& 0x70000000#32) else w } }

/-- A write of HB_INTERVAL[f] (R375, R451). -/
def State.writeInterval (f : Nat) (v : Nat) (s : State) : State :=
  if !s.ctlReady || 255 < f then s
  else
    let n := v % 65536
    ({ s with hbInt := if n = 0x40 then FMap.del s.hbInt f else FMap.put s.hbInt f n }).restartBeat f

/-- A write of HOST_HEARTBEAT of function f (R375, R454). -/
def State.hostBeat (f : Nat) (s : State) : State := if s.ctlReady then s.restartBeat f else s

/-- A write in the global region. -/
def State.writeGlobal (off : Nat) (v : Word) (s : State) : State :=
  if 0x1000 ≤ off then if off < 0x1400 then s.writeInterval ((off - 0x1000) / 4) v.toNat else s
  else
    if off = 0x14 then s.clearFault v
    else if off = 0x18 then s.writeCtrl v [] {}
    else if off = 0x1C then s.writeLock v
    else if off = 0x20 then s.writePasid v.toNat
    else if off = 0x24 then s.writeFab v
    else if off = 0x28 then s.writeSetup 0x28 v
    else if off = 0x100 then s.writeFlip v
    else s

/-! ### Admin queue writes (R13, R453) -/

/-- May a field of the submission or of the completion ring be set up now (R453 items 1 and 6)? -/
def State.ringOpen (s : State) (off : Nat) : Bool :=
  s.admWritable && (if off < 0x10010 then !s.adm.asqEnable else !s.adm.acqEnable)

/-- A write of a _LO half of the admin queue region is held. -/
def State.holdLo (off : Nat) (v : Word) (s : State) : State :=
  if s.ringOpen off then { s with glob := { s.glob with held := FMap.put s.glob.held off v } } else s

/-- The 64-bit value that a write of _HI commits: the held lower half, or the present one where none is held. -/
def State.committed (s : State) (lo : Nat) (now : Nat) (hi : Word) : Nat :=
  hi.toNat * 2 ^ 32 + ((FMap.find s.glob.held lo).map BitVec.toNat).getD (now % 2 ^ 32)

/-- Drop a pair's held half. -/
def State.dropHeld (lo : Nat) (s : State) : State := { s with glob := { s.glob with held := FMap.del s.glob.held lo } }

/-- Set the admin submission queue's base; a new one discards the tail recorded (R453). -/
def State.newAsqBase (b : Nat) (s : State) : State :=
  if b = s.adm.asqBase then s else { s with adm := { s.adm with asqBase := b } }.asqReset

/-- A write of a _HI half commits both halves; in a ring that is enabled both are ignored (R13, R453, Table 16-19). -/
def State.writeHi (off : Nat) (v : Word) (s : State) : State :=
  if !s.ctlReady then s
  else if off = 0x10004 then
    if !s.ringOpen 0x10000 then s.dropHeld 0x10000
    else
      (s.dropHeld 0x10000).newAsqBase (s.committed 0x10000 s.adm.asqBase v)
  else if off = 0x10014 then
    if !s.ringOpen 0x10010 then s.dropHeld 0x10010
    else
      let b := s.committed 0x10010 s.adm.acqBase v
      let t := s.dropHeld 0x10010
      { t with adm := { t.adm with acqBase := b } }
  else if off = 0x10024 then
    if !s.ringOpen 0x10020 then s.dropHeld 0x10020
    else
      let b := s.committed 0x10020 s.adm.acqIntAddr v
      let t := s.dropHeld 0x10020
      if b % 4 = 0 then { t with adm := { t.adm with acqIntAddr := b } } else t
  else s

/-- A write in the admin queue region. -/
def State.writeAdm (off : Nat) (v : Word) (s : State) : State :=
  if off = 0x10000 ∨ off = 0x10010 ∨ off = 0x10020 then s.holdLo off v
  else if off = 0x10008 then s.writeAsqCtrl v.toNat
  else if off = 0x10018 then s.writeAcqCtrl v.toNat
  else if off = 0x10028 then
    if s.ringOpen off then { s with adm := { s.adm with acqIntData := v.toNat } } else s
  else if off = 0x1002C then
    if s.ringOpen off then { s with adm := { s.adm with coalTicks := v.toNat / 65536, coalCount := v.toNat % 65536 } } else s
  else s.writeHi off v

/-! ### Other writes -/

/-- A write in a doorbell page (R76 to R79). -/
def State.writeBell (f off : Nat) (v : Nat) (s : State) : State :=
  match off / 0x400 with
  | 0 => s.sqDoorbell f (off / 4) (v % 65536) (bitOf v 31)
  | 2 => s.cqDoorbell f (off % 0x400 / 4) (v % 65536)
  | _ => s

/-- A write in the Masthead region; a write of MB_REQ while BUSY spoils the request in progress (R456). -/
def State.writeMasthead (off : Nat) (v : Word) (s : State) : State :=
  if off < 0x1000 then
    let s := { s with mb := { s.mb with req := NMap.set s.mb.req (off / 4) v.toNat } }
    if s.mb.outstanding.isSome then s.mbSpoil else s
  else if off = 0x2000 then s.mbDoorbell
  else s.writeSetup (off + 0x400000) v

/-- A write of an aligned offset: nothing where no register is (R61). -/
def State.writeReg (off : Nat) (v : Word) (s : State) : State :=
  if !s.ctlReady then s
  else if off % 4 ≠ 0 then s.badAccess off 4
  else if off < 0x10000 then s.writeGlobal off v
  else if off < 0x20000 then s.writeAdm off v
  else if off < 0x100000 then s
  else if off < 0x200000 then s.writeBell ((off - 0x100000) / 0x1000) (off % 0x1000) v.toNat
  else if off < 0x300000 then s
  else if off < 0x400000 then if off % 0x1000 = 0x8 then s.hostBeat ((off - 0x300000) / 0x1000) else s
  else if off < 0x800000 then s.writeMasthead (off - 0x400000) v
  else s

/-- Does an access reach the debug region while it is unlocked (R458)? -/
def State.debugOpen (s : State) (off : Nat) : Bool :=
  s.ctlReady && s.glob.debugUnlocked && decide (0x800000 ≤ off) && decide (off < 0x1000000)

end Sys2Proof.Machine
end

