-- ==== Sys2Proof/Machine/Datapath.lean ====
section
/-! DEFINITION. COPY and FILL (Table 3-11, R39, R340, R469), CLEAT_SIGNAL and CLEAT_WAIT (R279 to R287), and the expiries of
waits, coalescing timers and port requests (R49, R85, R286, R465). -/

namespace Sys2Proof.Machine

/-! ### COPY and FILL -/

/-- QUOTA where staging is absent (R39): INFO is the offset of the space field. -/
def State.stagingRefusal (s : State) (sp : Space) (field : Nat) : Option Cond :=
  refuse (sp == .staging && !s.setup.hasStaging) 0x41 field

/-- CONFLICT where function 0 names staging space (R340). -/
def spaceRefusal (fn : Nat) (sp : Space) (field : Nat) : Option Cond := refuse (sp == .staging && fn == 0) 0x40 field

/-- Does an address pass the check of R469? A staging offset counts from the base of the function's run (R342). -/
def State.addrOk (s : State) (fn : Nat) (sp : Space) (addr len : Nat) : Bool :=
  match sp with
  | .staging => decide (addr + len ≤ ((FMap.find s.fns fn).map (·.quotaLen)).getD 0)
  | .fabric => epOf addr != s.setup.fabEp && (s.attachedTo (epOf addr) fn || s.setup.isDrainEp (epOf addr))
  | .host => true

/-- CONFLICT where an address fails the check of R469. -/
def State.addrRefusal (s : State) (fn : Nat) (sp : Space) (addr len field : Nat) : Option Cond :=
  refuse (!s.addrOk fn sp addr len) 0x40 field

/-- The refusals of COPY. -/
def State.copyRefusal (s : State) (a : Acc) (f : CopyF) : Option Cond :=
  firstCond
    [ s.stagingRefusal f.srcSpace 40, s.stagingRefusal f.dstSpace 41, s.signalRefusal a.fn a.hdr,
      spaceRefusal a.fn f.srcSpace 40, spaceRefusal a.fn f.dstSpace 41,
      s.addrRefusal a.fn f.srcSpace f.src f.len 16, s.addrRefusal a.fn f.dstSpace f.dst f.len 24 ]

/-- Queue the transfers of a COPY, a segment each. -/
def State.queueCopy (a : Acc) (f : CopyF) (s : State) : State :=
  (piecesOf f.len).foldl (fun s c =>
    s.queueXfer a.fn (.copy a.id) [Part.at (s.locOf a.fn f.srcSpace (f.src + c.1)) c.2]
      [Part.at (s.locOf a.fn f.dstSpace (f.dst + c.1)) c.2]) s

/-- COPY. -/
def State.runCopy (a : Acc) (f : CopyF) (s : State) : State :=
  s.orRefuse a.id (s.copyRefusal a f) fun s => (s.modAcc a.id fun a => { a with phase := .running }).queueCopy a f

/-- The refusals of FILL. -/
def State.fillRefusal (s : State) (a : Acc) (f : FillF) : Option Cond :=
  firstCond
    [ s.stagingRefusal f.dstSpace 32, s.signalRefusal a.fn a.hdr, spaceRefusal a.fn f.dstSpace 32,
      s.addrRefusal a.fn f.dstSpace f.dst f.len 16 ]

/-- PATTERN repeated through n bytes. -/
def patternBytes (pattern n : Nat) : List Byte := (List.replicate (ceilDiv n 8) (toLe 8 pattern)).flatten.take n

/-- Queue the transfers of a FILL, a segment each. -/
def State.queueFill (a : Acc) (f : FillF) (s : State) : State :=
  (piecesOf f.len).foldl (fun s c =>
    s.queueXfer a.fn (.fill a.id) []
      [Part.load (s.locOf a.fn f.dstSpace (f.dst + c.1)) (plain (patternBytes f.pattern c.2))]) s

/-- FILL. -/
def State.runFill (a : Acc) (f : FillF) (s : State) : State :=
  s.orRefuse a.id (s.fillRefusal a f) fun s => (s.modAcc a.id fun a => { a with phase := .running }).queueFill a f

/-! ### CLEAT_SIGNAL and CLEAT_WAIT -/

/-- The refusals of CLEAT_SIGNAL (Table 9-1). -/
def State.cleatRefusal (s : State) (a : Acc) (c ep : Nat) : Option Cond :=
  let own := ep == s.setup.fabEp
  firstCond
    [ refuse (own && s.cleatOwner c != a.fn) 0x40 16, s.signalRefusal a.fn a.hdr,
      refuse (!own && !s.attachedTo ep a.fn) 0x40 20 ]

/-- A signal to a Cleat of the block: applied, or OVERFLOW (R285). -/
def State.signalOwn (a : Acc) (c n : Nat) (s : State) : State :=
  match s.applySignal c n with
  | (false, s) => s.endEntry a.id 0
  | (true, s) => s.failEntry a.id 0x62 (cleatInfo c a.sq (s.cleat c))

/-- CLEAT_SIGNAL. -/
def State.runCleatSignal (a : Acc) (c n ep : Nat) (s : State) : State :=
  s.orRefuse a.id (s.cleatRefusal a c ep) fun s =>
    let s := s.modAcc a.id fun a => { a with phase := .running }
    if ep = s.setup.fabEp then s.signalOwn a c n else s.entrySignalFar a.id ep c n

/-- The pending waits of the block. -/
def State.waits (s : State) : Nat := (s.accepted.filter fun a => a.waitsOn.isSome).length

/-- The refusals of CLEAT_WAIT (R283). -/
def State.waitRefusal (s : State) (a : Acc) (c : Nat) : Option Cond :=
  firstCond
    [ s.signalRefusal a.fn a.hdr, refuse (s.cleatOwner c != a.fn) 0x40 16, refuse (s.boundSheet c).isSome 0x40 16,
      refuse (decide (4096 ≤ s.waits)) 0x41 16 ]

/-- CLEAT_WAIT: it joins the Cleat's waits and is evaluated at once. -/
def State.runCleatWait (a : Acc) (c : Nat) (s : State) : State :=
  s.orRefuse a.id (s.waitRefusal a c) fun s => (s.modAcc a.id fun a => { a with phase := .waiting }).evaluate c

/-- An expiry of the Pennant timer leaves IDLE (R31); while Trim restarts, what it starts waits for the wake (R40). -/
def State.timerWakes (k : State → State) (s : State) : State :=
  let s := s.wake
  if s.glob.power = .idle then s else k s

/-- Expiry of a pending wait (R286): the count is not changed. -/
def State.waitTimeout (e : Nat) (s : State) : State :=
  match s.acc e with
  | none => s
  | some a =>
    match a.waitsOn, a.op with
    | some (c, _), .cleatWait _ _ timeout =>
      (s.expire (a.tick + timeout)).timerWakes fun s => s.failEntry e 0x60 (cleatInfo c a.sq (s.cleat c))
    | _, _ => s

/-! ### Timers of rings and ports -/

/-- Expiry of a ring's coalescing timer (R85). -/
def State.coalExpiry (ring : Nat) (s : State) : State :=
  match FMap.find s.cqs ring with
  | none => s
  | some r =>
    match r.firstUnsig with
    | none => s
    | some t => if r.coalTicks = 0 || r.intAddr = 0 then s else (s.expire (t + r.coalTicks)).timerWakes (State.interrupt ring)

/-- The fabric response timeout of an outstanding request (R49, R449). -/
def State.fabTimeoutAt (port tag : Nat) (s : State) : State :=
  match s.freqs.find? fun r => r.port == port && r.tag == tag with
  | none => s
  | some r => (s.expire (r.since + r.limit)).lose r 1

/-- The wait for a usable port ends (R465). -/
def State.portWaitOver (w : PortWait) (s : State) : State :=
  match w with
  | .transfer x => s.portTimeout x
  | .signal e =>
    match s.acc e with
    | some a => if a.sigWait then (s.expire (a.tick + s.glob.fabTimeout)).signalTimeout e else s
    | none => s

end Sys2Proof.Machine
end

