-- ==== Sys2Proof/Machine/Settle.lean ====
section
/-! DEFINITION. Settling: after the effect of a command, everything that waits for nothing outside goes on. Entries that have
ended give their signal and completion, links train, transfers move from read to write, drains, parity, restores and
Sheets take their next steps. -/

namespace Sys2Proof.Machine

/-- An entry that has ended gives its signal, then its completion (R82, R86); one that waits goes on where it can. -/
def State.settleEntry (e : Nat) (s : State) : State :=
  match s.acc e with
  | none => s
  | some a =>
    if a.fin.isSome then
      if a.ready then if (a.after.map s.completed).getD true then s.complete a else s
      else if a.sigWait then s
      else s.signalEnd a
    else
      match a.op with
      | .queueDestroy _ _ _ => s.settleDestroy a
      | .sliceResize _ _ => s.settleResized a
      | .sliceReset _ _ _ => s.settleReset a
      | .sliceFreeze _ => s.settleFreeze a
      | .fwStage _ _ _ => s.settleStage a
      | .fwActivate _ _ => s.settleActivate a
      | _ => s

/-- Settle every accepted entry, oldest first. -/
def State.settleEntries (s : State) : State := s.accepted.foldl (fun s a => s.settleEntry a.id) s

/-- Signal the slots of every Sheet that are due. -/
def State.settleSlots (s : State) : State := s.sheets.foldl (fun s p => State.signalSlots p.1 (p.2.slots + 1) s) s

/-- What the block writes to staging of its own accord goes on in RUN and while it boots (R40, R180, R401); completions that a ring held
in IDLE follow in RUN. -/
def State.settleOwn (s : State) : State :=
  let s := if s.glob.power = .run then s.cqs.foldl (fun s p => s.flushRing p.1) s else s
  if s.glob.power = .run || s.glob.power = .boot then ((s.settleScrubs).settleLog).settleDir else s

/-- Start every commit record that is due (R144, R146): also that of a generation whose last running STAMP has ended without a stamp
(R142, log 49). -/
def State.settleRecords (s : State) : State := s.gens.foldl (fun s g => s.advance g.epoch) s

/-- One round of settling. -/
def State.settleRound (s : State) : State :=
  let s := (((s.settleLinks).settleStages).settleXfers).settleEntries
  let s := s.settleOwn
  let s := (((s.settleRecords).settleDrains).settleParity).settleRests
  ((((s.settleSlots).settleSheets).settleResize).settleTests.settleThrottle.stopAcq).settleIdle

/-- Rounds of settling. -/
def State.settleRounds : Nat → State → State
  | 0, s => s
  | n + 1, s => settleRounds n s.settleRound

/-- What entries met stands in its order (R463). What settling leaves as the command made it: the set-up, the always-on domain, the
rig sets, the SPDM responder, the sensors, the epoch sequence, the levels of the drain ports, the power state and the global
registers but for halts, faults, throttling, an ECC flip that is used up and the read latches of a page that is gone. -/
def State.keepSettled (s t : State) : State :=
  { t with pending := s.pending, accepted := t.accepted.map Acc.stepOver, setup := s.setup, pen := s.pen, rigs := s.rigs,
           spdm := s.spdm, hbInt := s.hbInt, sensors := s.sensors, droopArmed := s.droopArmed, epochSeq := s.epochSeq, drainUp := s.drainUp,
           waking := s.waking, laneCycle := s.laneCycle,
           glob := { s.glob with halted := t.glob.halted, mainstayUnpaired := t.glob.mainstayUnpaired,
                                 throttled := t.glob.throttled, throttleBy := t.glob.throttleBy, fault := t.glob.fault
                                 eccFlip := t.glob.eccFlip, latches := t.glob.latches } }

/-- Settle: enough rounds for each entry to give its signal and its completion, and for what they set free. -/
def State.settle (s : State) : State := s.keepSettled (State.settleRounds (2 * s.accepted.length + 4) s)

/-- A boot that waited for its writes ends with their last answer (R180). -/
def State.bootOn (s : State) : State := if s.glob.power = .boot then s.bootDone.settle else s

/-- One AO tick, and what the lane cycles in it end: what a step does when no command waits. -/
def aoTick (s : State) : State := (s.ticks 1).settle

/-- The CUT_TIMEOUT of a job, by the cadence row of its latest step mark (R135, R384); of a job that no generation holds, by its
function's (log 67). -/
def State.cutLimit (s : State) (job fn : Nat) : Nat := (((FMap.find s.jobs job).map (·.cad)).getD (s.cad fn)).cutTimeout

/-- CUT_TIMEOUT of the cut or the restore that an entry runs (R120, R134, R201). -/
def State.answerTimeout (e : Nat) (s : State) : State :=
  match s.gens.find? fun g => (g.cutting.map (·.entry)) == some e with
  | some g =>
    match g.cutting with
    | some c =>
      if c.await.isEmpty then s else (s.expire (c.since + s.cutLimit g.job g.fn)).cutTimeout g.epoch
    | none => s
  | none =>
    match s.restoring e, s.acc e with
    | some r, some a =>
      if r.quiesceAwait.isEmpty then s else (s.expire (r.since + s.cutLimit r.job a.fn)).restTimeout e
    | _, _ => s

end Sys2Proof.Machine
end

