-- ==== Sys2Proof/Machine/AdminCmds.lean ====
section
/-! DEFINITION. The meanings of the admin entries (Table 3-10): each runs the accepted entry that it names. -/

namespace Sys2Proof.Machine

/-- Run an entry that has been accepted and not acted on, and settle. -/
def State.started (e : EntryId) (k : Acc → State → State) (s : State) : State :=
  match s.acc e with
  | none => s
  | some a => if a.phase = .accepted && a.fin.isNone then (k a s).settle else s

/-- The same for an entry whose row reads host memory: it waits for room on the host master port (R59). -/
def State.startedRead (e : EntryId) (k : Acc → State → State) (s : State) : State := if s.readRoom then s.started e k else s

/-- QUEUE_CREATE (R87, R91). -/
def execQueueCreate (e : EntryId) (s : State) : Host.Outcome State Fault Refusal :=
  s.doneFixed (s.started e fun a s =>
    match a.op with
    | .queueCreate f => s.runQueueCreate a f
    | _ => s)

/-- QUEUE_DESTROY (R88, R89). -/
def execQueueDestroy (e : EntryId) (s : State) : Host.Outcome State Fault Refusal :=
  s.doneFixed (s.started e fun a s =>
    match a.op with
    | .queueDestroy qid ring disable => s.runQueueDestroy a qid ring disable
    | _ => s)

/-- SLICE_CREATE (R338 to R343). -/
def execSliceCreate (e : EntryId) (s : State) : Host.Outcome State Fault Refusal :=
  s.doneFixed (s.started e fun a s =>
    match a.op with
    | .sliceCreate f pasid al => s.runSliceCreate a f pasid al
    | _ => s)

/-- SLICE_RESIZE (R345). -/
def execSliceResize (e : EntryId) (s : State) : Host.Outcome State Fault Refusal :=
  s.doneFixed (s.started e fun a s =>
    match a.op with
    | .sliceResize f al => s.runSliceResize a f al
    | _ => s)

/-- SLICE_RESET (R352, R353). -/
def execSliceReset (e : EntryId) (s : State) : Host.Outcome State Fault Refusal :=
  s.doneFixed (s.started e fun a s =>
    match a.op with
    | .sliceReset f squash _ => s.runSliceReset a f squash
    | _ => s)

/-- SLICE_FREEZE (R355). -/
def execSliceFreeze (e : EntryId) (s : State) : Host.Outcome State Fault Refusal :=
  s.doneFixed (s.started e fun a s =>
    match a.op with
    | .sliceFreeze f => s.runSliceFreeze a f
    | _ => s)

/-- SLICE_SAVE (R305, R356). -/
def execSliceSave (e : EntryId) (s : State) : Host.Outcome State Fault Refusal :=
  s.doneFixed (s.started e fun a s =>
    match a.op with
    | .sliceSave f dest len slot => s.runSliceSave a f dest len slot
    | _ => s)

/-- SLICE_LOAD (R357, R358). -/
def execSliceLoad (e : EntryId) (image : HostRead) (s : State) : Host.Outcome State Fault Refusal :=
  s.doneFixed (s.startedRead e fun a s =>
    match a.op with
    | .sliceLoad f pasid src len slot => (s.readStruct a.fn src image).runSliceLoad a f pasid len slot image
    | _ => s)

/-- RIG_STAGE (R379 to R381). -/
def execRigStage (e : EntryId) (image : HostRead) (s : State) : Host.Outcome State Fault Refusal :=
  s.doneRigs (s.startedRead e fun a s =>
    match a.op with
    | .rigStage src len gen => (s.readStruct a.fn src image).runRigStage a len gen image
    | _ => s)

/-- RIG_COMMIT (R382 to R384). -/
def execRigCommit (e : EntryId) (s : State) : Host.Outcome State Fault Refusal :=
  s.doneRigs (s.started e fun a s =>
    match a.op with
    | .rigCommit gen => s.runRigCommit a gen
    | _ => s)

/-- RIG_ROLLBACK (R385). -/
def execRigRollback (e : EntryId) (s : State) : Host.Outcome State Fault Refusal :=
  s.doneRigs (s.started e fun a s =>
    match a.op with
    | .rigRollback gen => s.runRigRollback a gen
    | _ => s)

/-- ATTACH_ENDPOINT (R344). -/
def execAttachEndpoint (e : EntryId) (s : State) : Host.Outcome State Fault Refusal :=
  s.doneFixed (s.started e fun a s =>
    match a.op with
    | .attach f => s.runAttach a f
    | _ => s)

/-- KEY_LOAD (R301 to R303). -/
def execKeyLoad (e : EntryId) (blob : HostRead) (s : State) : Host.Outcome State Fault Refusal :=
  s.doneFixed (s.startedRead e fun a s =>
    match a.op with
    | .keyLoad slot typ src len => (s.readStruct a.fn src blob).runKeyLoad a slot typ len blob
    | _ => s)

/-- FW_STAGE (R369). -/
def execFwStage (e : EntryId) (image : HostRead) (s : State) : Host.Outcome State Fault Refusal :=
  s.doneFw (s.startedRead e fun a s =>
    match a.op with
    | .fwStage code src len => (s.readStruct a.fn src image).runFwStage a code len image
    | _ => s)

/-- FW_ACTIVATE (R370). -/
def execFwActivate (e : EntryId) (s : State) : Host.Outcome State Fault Refusal :=
  s.doneFw (s.started e fun a s =>
    match a.op with
    | .fwActivate code now => s.runFwActivate a code now
    | _ => s)

end Sys2Proof.Machine
end

