-- ==== Sys2Proof/Machine/FaultCmds.lean ====
section
/-! DEFINITION. The meanings of faults, processor restarts and supply events (R306, R309, R371 to R374, R413, R418,
R422, R428 to R436, R458). -/

namespace Sys2Proof.Machine

/-- A lockstep mismatch, of a dispatch pair or the Mainstay pair (R371). -/
def execLockstepMismatch (p : Proc) (pc : Word64) (s : State) : Host.Outcome State Fault Refusal :=
  s.doneFixed ((match p with
  | .dispatch _ => s.crash p 1 pc.toNat
  | .mainstay => s.crash p 1 pc.toNat
  | _ => s).settle)

/-- A watchdog expires (R371). -/
def execWatchdogExpiry (p : Proc) (pc : Word64) (s : State) : Host.Outcome State Fault Refusal :=
  s.doneFixed ((s.watchdog p pc.toNat).settle)

/-- A firmware core traps (R326, R371). -/
def execTrap (p : Proc) (pc : Word64) (ecc : Option (Nat × Nat)) (s : State) : Host.Outcome State Fault Refusal :=
  s.doneFixed ((s.trap p pc.toNat ecc).settle)

/-- A processor is back (R370, R372). -/
def execProcessorRestartComplete (p : Proc) (checksPass : Bool) (s : State) : Host.Outcome State Fault Refusal :=
  s.done (((s.backUp p checksPass).settle).pwrHeld.settle)

/-- A datapath parity fault (R422, R423). -/
def execDatapathParityFault (lane : Nat) (spareFails : List (Nat × Nat))
    (s : State) : Host.Outcome State Fault Refusal :=
  s.doneFixed ((s.parityFault lane spareFails).settle)

/-- A lane stalls (R418, R423). -/
def execLaneStall (lane : Nat) (spareFails : List (Nat × Nat)) (s : State) : Host.Outcome State Fault Refusal :=
  s.doneFixed ((s.stallFault lane spareFails).settle)

/-- A clock-monitor fault (R428). -/
def execClockFault (clock : Nat) (relocked : Bool) (s : State) : Host.Outcome State Fault Refusal :=
  s.doneFixed ((s.clockFault clock relocked).settle)

/-- A voltage fault (R429). -/
def execVoltageFault (monitor : Nat) (mv : Word) (s : State) : Host.Outcome State Fault Refusal :=
  s.doneFixed ((s.voltageFault monitor mv.toNat).settle)

/-- A thermal trip (R430). -/
def execThermalTrip (diode : Nat) (s : State) : Host.Outcome State Fault Refusal :=
  s.doneFixed ((s.thermalTrip diode).settle)

/-- Key alarm 0x01 (R309). -/
def execKeyUnitParityMismatch (s : State) : Host.Outcome State Fault Refusal :=
  s.doneFixed ((if s.mainOn then s.keyAlarm 1 else s).settle)

/-- Key alarm 0x02 (R309). -/
def execEntropyHealthFailure (s : State) : Host.Outcome State Fault Refusal :=
  s.doneFixed ((if s.mainOn then s.keyAlarm 2 else s).settle)

/-- The debug region is unlocked (R458). -/
def execDebugUnlock (s : State) : Host.Outcome State Fault Refusal := s.doneFixed (s.unlockDebug.settle)

/-- The always-on supply is lost (R397, R413). -/
def execAlwaysOnSupplyLoss (torn : Torn) (s : State) : Host.Outcome State Fault Refusal :=
  .next (s.commit Setup.reset (s.tallyTorn torn) (s.supplyLoss torn))

/-- The main supplies are removed under BLK_RST_N (R436). -/
def execMainSupplyRemoval (s : State) : Host.Outcome State Fault Refusal := s.doneFixed (s.mainRemoved)

/-- The Key Unit finishes a request (R306). -/
def execKeyUnitRequestDone (s : State) : Host.Outcome State Fault Refusal := s.doneFixed (s.kuServe.settle)

/-- Mainstay has been unpaired for more than 50 ms (R431). -/
def execMainstayUnpairedTimeout (s : State) : Host.Outcome State Fault Refusal := s.doneTimed (s.unpairedLong.settle)

end Sys2Proof.Machine
end

