-- ==== Sys2Proof/Machine/IoCmds.lean ====
section
/-! DEFINITION. The meanings of the I/O entries (Table 3-11): each runs the accepted entry that it names. -/

namespace Sys2Proof.Machine

/-- COPY (Table 3-11, R469). -/
def execCopy (e : EntryId) (s : State) : Host.Outcome State Fault Refusal :=
  s.doneFixed (s.started e fun a s =>
    match a.op with
    | .copy f => s.runCopy a f
    | _ => s)

/-- FILL (Table 3-11, R469). -/
def execFill (e : EntryId) (s : State) : Host.Outcome State Fault Refusal :=
  s.doneFixed (s.started e fun a s =>
    match a.op with
    | .fill f => s.runFill a f
    | _ => s)

/-- GEN_OPEN (R106, R107, R184). -/
def execGenOpen (e : EntryId) (regionList manifest : HostRead) (s : State) : Host.Outcome State Fault Refusal :=
  s.doneFixed (s.startedRead e fun a s =>
    match a.op with
    | .genOpen f => ((s.readStruct a.fn f.regionList regionList).readStruct a.fn f.manifest manifest).runGenOpen a f regionList manifest
    | _ => s)

/-- CUT (R108 to R120, R132). -/
def execCut (e : EntryId) (s : State) : Host.Outcome State Fault Refusal :=
  s.doneFixed (s.started e fun a s =>
    match a.op with
    | .cut job step => s.runCut a job step
    | _ => s)

/-- STAMP (R141, R142). -/
def execStamp (e : EntryId) (s : State) : Host.Outcome State Fault Refusal :=
  s.doneFixed (s.started e fun a s =>
    match a.op with
    | .stamp f => s.runStamp a f
    | _ => s)

/-- PROTECT (R148 to R155). -/
def execProtect (e : EntryId) (groupList : HostRead) (s : State) : Host.Outcome State Fault Refusal :=
  s.doneFixed (s.startedRead e fun a s =>
    match a.op with
    | .protect f => (s.readStruct a.fn f.groupList groupList).runProtect a f groupList
    | _ => s)

/-- DRAIN (R163 to R167). -/
def execDrain (e : EntryId) (s : State) : Host.Outcome State Fault Refusal :=
  s.doneFixed (s.started e fun a s =>
    match a.op with
    | .drain f => s.runDrain a f
    | _ => s)

/-- RESTORE (R170, R198 to R217). -/
def execRestore (e : EntryId) (targetMap : HostRead) (s : State) : Host.Outcome State Fault Refusal :=
  s.doneFixed (s.startedRead e fun a s =>
    match a.op with
    | .restore f => s.runRestore a f targetMap
    | _ => s)

/-- RESTORE_SPARE (R170 to R176). -/
def execRestoreSpare (e : EntryId) (s : State) : Host.Outcome State Fault Refusal :=
  s.doneFixed (s.started e fun a s =>
    match a.op with
    | .restoreSpare job lost spare => s.runRestoreSpare a job lost spare
    | _ => s)

/-- SHEET_ARM (R244 to R254). -/
def execSheetArm (e : EntryId) (dimBlock header adapter : HostRead) (s : State) : Host.Outcome State Fault Refusal :=
  s.doneFixed (s.started e fun a s =>
    match a.op with
    | .sheetArm f =>
      let r : ArmReads := ⟨dimBlock, header, adapter⟩
      if s.armOpen a f r then (s.readArm a f r).runSheetArm a f r else s
    | _ => s)

/-- SHEET_REARM (R272, R273). -/
def execSheetRearm (e : EntryId) (dimBlock header adapter : HostRead) (s : State) : Host.Outcome State Fault Refusal :=
  s.doneFixed (s.started e fun a s =>
    match a.op with
    | .sheetRearm n base dims =>
      let r : ArmReads := ⟨dimBlock, header, adapter⟩
      if s.rearmOpen a n base dims r then (s.readRearm a n base dims r).runSheetRearm a n base dims r else s
    | _ => s)

/-- SHEET_STOP (R245, R274). -/
def execSheetStop (e : EntryId) (s : State) : Host.Outcome State Fault Refusal :=
  s.doneFixed (s.started e fun a s =>
    match a.op with
    | .sheetStop n atOnce => s.runSheetStop a n atOnce
    | _ => s)

/-- CLEAT_SIGNAL (R279 to R281, R285). -/
def execCleatSignal (e : EntryId) (s : State) : Host.Outcome State Fault Refusal :=
  s.doneFixed (s.started e fun a s =>
    match a.op with
    | .cleatSignal c n ep => s.runCleatSignal a c n ep
    | _ => s)

/-- CLEAT_WAIT (R283, R284). -/
def execCleatWait (e : EntryId) (s : State) : Host.Outcome State Fault Refusal :=
  s.doneFixed (s.started e fun a s =>
    match a.op with
    | .cleatWait c _ _ => s.runCleatWait a c
    | _ => s)

/-- DIGEST (R311 to R314). -/
def execDigest (e : EntryId) (s : State) : Host.Outcome State Fault Refusal :=
  s.doneFixed (s.started e fun a s =>
    match a.op with
    | .digest f => s.runDigest a f
    | _ => s)

/-- KU_BLOCK (R307). -/
def execKuBlock (e : EntryId) (s : State) : Host.Outcome State Fault Refusal :=
  s.doneFixed (s.started e fun a s =>
    match a.op with
    | .kuBlock slot _ _ _ => s.runKuBlock a slot
    | _ => s)

/-- SNAP_LATCH (R410). -/
def execSnapLatch (e : EntryId) (s : State) : Host.Outcome State Fault Refusal :=
  s.doneFixed (s.started e fun a s =>
    match a.op with
    | .snapLatch => s.runSnapLatch a
    | _ => s)

end Sys2Proof.Machine
end

