-- ==== Sys2Proof/Machine/MailboxCmds.lean ====
section
/-! DEFINITION. The meanings of the mailbox commands (R387, R389): each serves the request that the mailbox holds,
where it is of its CMD. -/

namespace Sys2Proof.Machine

/-- SENSOR_READ (R389). -/
def execSensorRead (s : State) : Host.Outcome State Fault Refusal :=
  s.doneFixed (s.mbCmd 0x10 fun r s => answer (State.mbSensorRead r s) s)

/-- SENSOR_LIMITS (R391). -/
def execSensorLimits (s : State) : Host.Outcome State Fault Refusal := s.doneFixed (s.mbCmd 0x11 State.mbSensorLimits)

/-- LOG_READ (R401). -/
def execLogRead (s : State) : Host.Outcome State Fault Refusal :=
  s.doneFixed (s.mbCmd 0x20 fun r s => answer (State.mbLogRead r s) s)

/-- CLOCK_READ (R397, R399). -/
def execClockRead (s : State) : Host.Outcome State Fault Refusal :=
  s.doneFixed (s.mbCmd 0x30 fun r s => answer (State.mbClockRead r s) s)

/-- CAL_SET (R399). -/
def execCalSet (s : State) : Host.Outcome State Fault Refusal := s.doneTimed (s.mbCmd 0x31 State.mbCalSet)

/-- DUE_SET (R400). -/
def execDueSet (s : State) : Host.Outcome State Fault Refusal := s.doneTimed (s.mbCmd 0x32 State.mbDueSet)

/-- COUNTER_READ (R407, R409). -/
def execCounterRead (s : State) : Host.Outcome State Fault Refusal :=
  s.doneFixed (s.mbCmd 0x40 fun r s => answer (State.mbCounterRead r s) s)

/-- JOB_LOOKUP (R407). -/
def execJobLookup (s : State) : Host.Outcome State Fault Refusal :=
  s.doneFixed (s.mbCmd 0x41 fun r s => answer (State.mbJobLookup r s) s)

/-- TALLY_READ (R411). -/
def execTallyRead (s : State) : Host.Outcome State Fault Refusal :=
  s.doneFixed (s.mbCmd 0x50 fun r s => answer (State.mbTallyRead r s) s)

/-- TALLY_BURN (R411, R412). -/
def execTallyBurn (s : State) : Host.Outcome State Fault Refusal :=
  .next (s.commit s.setup (s.mbCmd 0x51 State.mbTallyBurn).pen.tally (s.mbCmd 0x51 State.mbTallyBurn))

/-- IMAGE_BEGIN (R414). -/
def execImageBegin (s : State) : Host.Outcome State Fault Refusal := s.doneFixed (s.mbCmd 0x60 State.mbImageBegin)

/-- IMAGE_DATA (R414). -/
def execImageData (s : State) : Host.Outcome State Fault Refusal := s.doneFixed (s.mbCmd 0x61 State.mbImageData)

/-- IMAGE_END (R414): its check waits while Shroud restarts (Table 13-5). -/
def execImageEnd (s : State) : Host.Outcome State Fault Refusal :=
  s.doneFw (if s.restarting .shroud then s else s.mbCmd 0x62 State.mbImageEnd)

/-- TELLTALE_INPUT (R394). -/
def execTelltaleInput (s : State) : Host.Outcome State Fault Refusal :=
  s.doneFixed (s.mbCmd 0x70 State.mbTelltaleInput)

/-- TELLTALE_READ (R395). -/
def execTelltaleRead (s : State) : Host.Outcome State Fault Refusal :=
  s.doneFixed (s.mbCmd 0x71 fun r s => answer (State.mbTelltaleRead r s) s)

end Sys2Proof.Machine
end

