-- ==== Sys2Proof/Machine/PacketCmds.lean ====
section
/-! DEFINITION. The meanings of what the ports receive: fabric packets, staging, host and sideband responses (R43 to
R64). -/

namespace Sys2Proof.Machine

/-! ### Received packets

What a packet does stands in its flits: State.arrive opens and checks it, and State.actOn gives each class and opcode its
effect. The rows name the packets apart; a row whose flits are another packet's does what that packet does. -/

/-- RD_RSP (R45, R48, R49, R97). -/
def execRdRsp (port : Nat) (flits : List Flit) (s : State) : Host.Outcome State Fault Refusal :=
  s.doneFixed ((s.arrive port flits).settle)

/-- WR_ACK (R45, R49). -/
def execWrAck (port : Nat) (flits : List Flit) (s : State) : Host.Outcome State Fault Refusal :=
  s.doneFixed ((s.arrive port flits).settle)

/-- RD_REQ to the block (R47). -/
def execRdReqToBlock (port : Nat) (flits : List Flit) (s : State) : Host.Outcome State Fault Refusal :=
  s.doneFixed ((s.arrive port flits).settle)

/-- WR to the block (R47, R280): its data is discarded, its signal applied. -/
def execWrToBlock (port : Nat) (flits : List Flit) (s : State) : Host.Outcome State Fault Refusal :=
  s.doneFixed ((s.arrive port flits).settle)

/-- A CLEAT SIGNAL packet (R279, R280). -/
def execCleatSignalPacket (port : Nat) (flits : List Flit) (s : State) : Host.Outcome State Fault Refusal :=
  s.doneFixed ((s.arrive port flits).settle)

/-- A packet that R43 to R45 or R48 discard and count. -/
def execMalformedPacket (port : Nat) (flits : List Flit) (s : State) : Host.Outcome State Fault Refusal :=
  s.doneFixed ((s.arrive port flits).settle)

/-- PREEMPT_NOTICE (R138). -/
def execPreemptNotice (port : Nat) (flits : List Flit) (s : State) : Host.Outcome State Fault Refusal :=
  s.doneFixed ((s.arrive port flits).settle)

/-- QUIESCE_DONE (R132, R201). -/
def execQuiesceDone (port : Nat) (flits : List Flit) (s : State) : Host.Outcome State Fault Refusal :=
  s.doneFixed ((s.arrive port flits).settle)

/-- A packet of an EXPORT_MAP series (R133, R196). -/
def execExportMap (port : Nat) (flits : List Flit) (s : State) : Host.Outcome State Fault Refusal :=
  s.doneFixed ((s.arrive port flits).settle)

/-- RESUME_DONE (R134). -/
def execResumeDone (port : Nat) (flits : List Flit) (s : State) : Host.Outcome State Fault Refusal :=
  s.doneFixed ((s.arrive port flits).settle)

/-- A BELAY_HIT with ARMED (R113, R117, R118). -/
def execArmed (port : Nat) (flits : List Flit) (s : State) : Host.Outcome State Fault Refusal :=
  s.doneFixed ((s.arrive port flits).settle)

/-- A BELAY_HIT with WATCHED (R113, R115). -/
def execWatchHit (port : Nat) (flits : List Flit) (s : State) : Host.Outcome State Fault Refusal :=
  s.doneFixed ((s.arrive port flits).settle)

/-- A BELAY_HIT that asks for a hold (R125, R128). -/
def execHoldRequest (port : Nat) (flits : List Flit) (s : State) : Host.Outcome State Fault Refusal :=
  s.doneFixed ((s.arrive port flits).settle)

/-- A BELAY_HIT that asks for a fork (R126, R128). -/
def execForkRequest (port : Nat) (flits : List Flit) (s : State) : Host.Outcome State Fault Refusal :=
  s.doneFixed ((s.arrive port flits).settle)

/-- A tier-1 read reaches Yard SRAM (R123). -/
def execReadComplete (x : Nat) (s : State) : Host.Outcome State Fault Refusal :=
  s.doneFixed ((s.readComplete x).settle)

/-- A staging response (R58, R321 to R329). -/
def execStagingResponse (port tag : Nat) (err : Bool) (data check : List Byte)
    (s : State) : Host.Outcome State Fault Refusal :=
  s.doneTimed ((s.stgAnswer port tag (some (err, data, check))).settle.bootOn)

/-- No staging response within 10 µs (R329). -/
def execStagingResponseTimeout (port tag : Nat) (s : State) : Host.Outcome State Fault Refusal :=
  s.doneTimed ((s.stgAnswer port tag none).settle.bootOn)

/-- A host master response (R59, R96). -/
def execHostResponse (req : Nat) (answer : HostRead) (s : State) : Host.Outcome State Fault Refusal :=
  s.doneFixed ((s.hostAnswer req answer).settle)

/-- A PMBus or I3C transaction ends (R64, R390). -/
def execSensorTransaction (index : Nat) (reading : Option BusWord) (s : State) : Host.Outcome State Fault Refusal :=
  s.doneFixed ((s.sensorTransaction index reading).settle)

/-- An I3C in-band interrupt (R390). -/
def execInBandInterrupt (target : Nat) (reading : BitVec 16) (s : State) : Host.Outcome State Fault Refusal :=
  s.doneFixed ((s.inBand target reading).settle)

end Sys2Proof.Machine
end

