-- ==== Sys2Proof/Machine/PinCmds.lean ====
section
/-! DEFINITION. The meanings of the reset inputs, the pins and the link events (R12, R31, R54 to R56, R65 to R71,
R138, R437). -/

namespace Sys2Proof.Machine

/-- Assertion of PORST_N (R12, R70). -/
def execPorstAssertion (s : State) : Host.Outcome State Fault Refusal :=
  .next (s.commit Setup.reset s.pen.tally (s.porstLow))

/-- Deassertion of PORST_N: tie-offs and boot (R36, R70, Table 2-12). -/
def execPorstDeassertion (stagePresent : BitVec 8) (stageSizeSel : BitVec 3) (laneFails : List Nat)
    (s : State) : Host.Outcome State Fault Refusal :=
  .next (s.commit (s.sampled stagePresent stageSizeSel) s.pen.tally ((s.porstHigh stagePresent stageSizeSel laneFails).settle))

/-- Assertion of BLK_RST_N (R12, R71). -/
def execBlkRstAssertion (s : State) : Host.Outcome State Fault Refusal := s.done (s.blkRstLow)

/-- Deassertion of BLK_RST_N: boot from step 2 (R71, Table 2-12). -/
def execBlkRstDeassertion (laneFails : List Nat) (stored : BootReads) (s : State) : Host.Outcome State Fault Refusal :=
  s.done ((s.blkRstHigh laneFails stored).settle)

/-- PREEMPT_N (R66 to R68, R138). -/
def execPreemptN (s : State) : Host.Outcome State Fault Refusal := s.doneFixed (s.preemptPin.settle)

/-- WAKE_N (R31, R437). -/
def execWakeN (railsGood : Bool) (laneFails : List Nat) (stored : BootReads) (s : State) : Host.Outcome State Fault Refusal :=
  s.done ((s.wakePin railsGood laneFails stored).settle)

/-- A falling edge of an SB line (R67, Table 2-10). -/
def execSbFallingEdge (line : Nat) (s : State) : Host.Outcome State Fault Refusal :=
  s.doneFixed ((s.sbEdge line).settle)

/-- PMB_ALERT_N (R65, R392). -/
def execPmbAlertN (undervoltage : Bool) (s : State) : Host.Outcome State Fault Refusal :=
  s.doneFixed ((s.pmbAlert undervoltage).settle)

/-- LINK_UP rises (R54, Table 2-5). -/
def execLinkUpRise (port : Nat) (s : State) : Host.Outcome State Fault Refusal :=
  s.doneFixed ((s.linkRises port).settle)

/-- LINK_UP falls (R49, R54, R56). -/
def execLinkUpFall (port : Nat) (s : State) : Host.Outcome State Fault Refusal :=
  s.doneFixed ((s.linkFalls port).settle)

/-- LINK_HELLO received (R54). -/
def execLinkHello (port : Nat) (flits : List Flit) (s : State) : Host.Outcome State Fault Refusal :=
  s.doneFixed ((s.arrive port flits).settle)

/-- A link counter at 2^48 (R55, Table 2-6). -/
def execRekey (port : Nat) (s : State) : Host.Outcome State Fault Refusal := s.doneFixed ((s.startRekey port).settle)

/-- KEY_ROLL_ACK received (R55, Table 2-6). -/
def execKeyRollAck (port : Nat) (flits : List Flit) (s : State) : Host.Outcome State Fault Refusal :=
  s.doneFixed ((s.arrive port flits).settle)

/-- A link counter at its stop limit (R56). -/
def execLinkStopLimit (port : Nat) (s : State) : Host.Outcome State Fault Refusal :=
  s.doneFixed ((s.stopLimit port).settle)

end Sys2Proof.Machine
end

