-- ==== Sys2Proof/Machine/SpdmCmds.lean ====
section
/-! DEFINITION. The meanings of the SPDM requests (R315 to R317): each serves the request that the mailbox holds,
where it is of its kind. -/

namespace Sys2Proof.Machine

/-- GET_VERSION (R315). -/
def execGetVersion (s : State) : Host.Outcome State Fault Refusal :=
  s.doneSpdm (s.spdmServe .getVersion fun r s => answer r.versions s)

/-- GET_CAPABILITIES (R315). -/
def execGetCapabilities (s : State) : Host.Outcome State Fault Refusal :=
  s.doneSpdm (s.spdmServe .getCapabilities fun r s => answer r.capabilities s)

/-- NEGOTIATE_ALGORITHMS (R315). -/
def execNegotiateAlgorithms (s : State) : Host.Outcome State Fault Refusal :=
  s.doneSpdm (s.spdmServe .negotiateAlgorithms fun r s => answer r.algorithms s)

/-- GET_DIGESTS (R315). -/
def execGetDigests (s : State) : Host.Outcome State Fault Refusal :=
  s.doneSpdm (s.spdmServe .getDigests fun r s => answer (State.spdmDigests r s) s)

/-- GET_CERTIFICATE (R315). -/
def execGetCertificate (s : State) : Host.Outcome State Fault Refusal :=
  s.doneSpdm (s.spdmServe .getCertificate fun r s => answer (State.spdmCertificate r s) s)

/-- CHALLENGE (R315). -/
def execChallenge (s : State) : Host.Outcome State Fault Refusal := s.doneSpdm (s.spdmServe .challenge State.spdmChallenge)

/-- GET_MEASUREMENTS (R317). -/
def execGetMeasurements (s : State) : Host.Outcome State Fault Refusal :=
  s.doneSpdm (s.spdmServe .getMeasurements State.spdmMeasurements)

/-- SET_CERTIFICATE (R316). -/
def execSetCertificate (s : State) : Host.Outcome State Fault Refusal :=
  s.doneSpdm (s.spdmServe .setCertificate State.spdmSet)

/-- Every other SPDM request: ERROR, UnsupportedRequest (R315). -/
def execUnsupportedRequest (s : State) : Host.Outcome State Fault Refusal :=
  s.doneSpdm (s.spdmServe .unsupported fun r s => answer (r.spdmError spdmUnsupported) s)

end Sys2Proof.Machine
end

