-- ==== Sys2Proof/Machine/TimerCmds.lean ====
section
/-! DEFINITION. The meanings of acceptance, dispatch, expiries and periodic work (R49, R78, R85, R120, R264, R272,
R286, R375, R390 to R400, R426, R427, R434 to R437). -/

namespace Sys2Proof.Machine

/-- The fabric response timeout expires (R49). -/
def execFabricResponseTimeout (port tag : Nat) (s : State) : Host.Outcome State Fault Refusal :=
  s.doneTimed ((s.fabTimeoutAt port tag).settle)

/-- The wait for a usable port expires (R465). -/
def execUsablePortTimeout (w : PortWait) (s : State) : Host.Outcome State Fault Refusal :=
  s.doneTimed ((s.portWaitOver w).settle)

/-- ENTRY_ACCEPT (R78, R80, R92): the entries fetched, and the acceptance of the one at the head. -/
def execEntryAccept (qid : Nat) (fetched : List HostRead) (s : State) : Host.Outcome State Fault Refusal :=
  s.doneFixed ((s.fetchAccept qid fetched).settle)

/-- A waiting RESTORE or RESTORE_SPARE starts (R170, R177). -/
def execQueuedEntryStart (e : EntryId) (targetMap : HostRead) (s : State) : Host.Outcome State Fault Refusal :=
  s.doneFixed ((s.startQueued e targetMap).settle)

/-- A lane moves the next half of a transfer (R19, R377). -/
def execTransferDispatch (x yard lane port : Nat) (s : State) : Host.Outcome State Fault Refusal :=
  s.doneFixed ((s.dispatch x yard lane port).settle)

/-- The next work unit of a Yard's Sheets starts (R264). -/
def execSheetWorkUnitStart (yard lane : Nat) (s : State) : Host.Outcome State Fault Refusal :=
  s.doneFixed ((s.sheetStart yard lane).settle)

/-- An arming ends (R272). -/
def execArmingEnd (sheet : Nat) (s : State) : Host.Outcome State Fault Refusal :=
  s.doneFixed ((s.armingEnd sheet).settle)

/-- A coalescing timer expires (R85). -/
def execCoalTicksExpiry (ring : Nat) (s : State) : Host.Outcome State Fault Refusal :=
  s.doneTimed ((s.coalExpiry ring).settle)

/-- A CLEAT_WAIT expires (R286). -/
def execWaitTimeout (e : EntryId) (s : State) : Host.Outcome State Fault Refusal :=
  s.doneTimed ((s.waitTimeout e).settle)

/-- CUT_TIMEOUT (R120, R134, R201). -/
def execCutTimeout (e : EntryId) (s : State) : Host.Outcome State Fault Refusal :=
  s.doneTimed ((s.answerTimeout e).settle)

/-- A RESUME_DONE is late (R134). -/
def execResumeLate (ep : Nat) (s : State) : Host.Outcome State Fault Refusal := s.doneFixed (s.resumeLate ep)

/-- The TIMEOUT of a DRAIN-mode SLICE_RESET (R352). -/
def execSliceResetTimeout (e : EntryId) (s : State) : Host.Outcome State Fault Refusal :=
  s.doneTimed ((s.resetTimeout e).settle)

/-- A heartbeat interval passes (R348, R375). -/
def execHeartbeatMiss (f : Nat) (s : State) : Host.Outcome State Fault Refusal :=
  s.doneTimed ((s.heartbeatMiss f).settle)

/-- A Telltale sample (R394 to R396). -/
def execTelltaleSample (s : State) : Host.Outcome State Fault Refusal := s.doneTimed (s.sample.settle)

/-- A sensor is read (R390 to R392). -/
def execSensorPoll (index : Nat) (reading : Word) (s : State) : Host.Outcome State Fault Refusal :=
  s.doneFixed ((s.sensorPoll index reading).settle)

/-- The spare self-test (R400, R426). -/
def execSpareSelfTest (fails : List (Nat × Nat)) (s : State) : Host.Outcome State Fault Refusal :=
  s.doneTimed ((s.selfTest fails).settle)

/-- Yard BIST (R400, R427). -/
def execYardBist (fails : List BistFail) (s : State) : Host.Outcome State Fault Refusal :=
  s.doneTimed ((s.bist fails).settle)

/-- A due entry falls due (R400). -/
def execDueEntry (n : Nat) (s : State) : Host.Outcome State Fault Refusal := s.doneTimed (s.dueEntry n)

/-- The life record is written (R397). -/
def execLifeRecordWrite (s : State) : Host.Outcome State Fault Refusal := s.doneTimed (s.recordLife)

/-- Entry to IDLE (R435). -/
def execIdleEntry (s : State) : Host.Outcome State Fault Refusal := s.doneTimed (s.idleEntry.settle)

/-- A Yard is gated (R434). -/
def execYardGate (yard : Nat) (s : State) : Host.Outcome State Fault Refusal := s.doneFixed (s.yardGate yard)

/-- The wait for power-good expires (R437). -/
def execPowerGoodTimeout (rail : Nat) (railsGood : Bool) (laneFails : List Nat) (stored : BootReads)
    (s : State) : Host.Outcome State Fault Refusal :=
  s.done ((s.railsLate rail railsGood laneFails stored).settle)

end Sys2Proof.Machine
end

