-- ==== Sys2Proof/Machine/WindowCmds.lean ====
section
/-! DEFINITION. The meanings of the control-window accesses (R61, R76 to R84, R443 to R459). -/

namespace Sys2Proof.Machine

/-- SQ_DOORBELL with INV 0 (R77). -/
def execSqDoorbell (f slot : Nat) (tail : BitVec 16) (s : State) : Host.Outcome State Fault Refusal :=
  s.doneFixed (s.sqDoorbell f slot tail.toNat false)

/-- SQ_DOORBELL with INV 1 (R79). -/
def execInv (f slot : Nat) (tail : BitVec 16) (s : State) : Host.Outcome State Fault Refusal :=
  s.doneFixed (s.sqDoorbell f slot tail.toNat true)

/-- CQ_DOORBELL (R77, R84). -/
def execCqDoorbell (f slot : Nat) (head : BitVec 16) (s : State) : Host.Outcome State Fault Refusal :=
  s.doneFixed ((s.cqDoorbell f slot head.toNat).settle)

/-- A GLOBAL_CTRL write that sets BLK_RESET (R447). -/
def execBlkReset (value : Word) (laneFails : List Nat) (stored : BootReads) (s : State) : Host.Outcome State Fault Refusal :=
  s.done ((s.writeCtrl value laneFails stored).settle)

/-- A GLOBAL_CTRL write that sets PWR_DOWN (R436, R447). -/
def execPwrDown (value : Word) (s : State) : Host.Outcome State Fault Refusal :=
  s.done ((s.writeCtrl value [] {}).settle)

/-- W1C of GLOBAL_FAULT (R446). -/
def execGlobalFaultW1c (value : Word) (s : State) : Host.Outcome State Fault Refusal :=
  s.doneFixed (s.clearFault value)

/-- W1S of FAB_LOCK (R448). -/
def execFabLock (s : State) : Host.Outcome State Fault Refusal :=
  .next (s.commit (s.setupAfter 0x1C 1) s.pen.tally ((s.writeLock 1).settle))

/-- W1S of DRAIN_LOCK (R448). -/
def execDrainLock (s : State) : Host.Outcome State Fault Refusal :=
  .next (s.commit (s.setupAfter 0x1C 2) s.pen.tally ((s.writeLock 2).settle))

/-- W1S of SENSOR_LOCK (R448). -/
def execSensorLock (s : State) : Host.Outcome State Fault Refusal :=
  .next (s.commit (s.setupAfter 0x1C 4) s.pen.tally ((s.writeLock 4).settle))

/-- HOST_HEARTBEAT (R375): any value. -/
def execHostHeartbeat (f : Nat) (_beat : Word) (s : State) : Host.Outcome State Fault Refusal :=
  s.doneFixed (s.hostBeat f)

/-- HB_INTERVAL (R375, R451). -/
def execHbInterval (f : Nat) (value : Word) (s : State) : Host.Outcome State Fault Refusal :=
  s.doneBeat (s.writeInterval f value.toNat)

/-- ASQ_CTRL (R453). -/
def execAsqCtrl (value : Word) (s : State) : Host.Outcome State Fault Refusal :=
  s.doneFixed ((s.writeAsqCtrl value.toNat).settle)

/-- ACQ_CTRL (R453). -/
def execAcqCtrl (value : Word) (s : State) : Host.Outcome State Fault Refusal :=
  s.doneFixed ((s.writeAcqCtrl value.toNat).settle)

/-- A register read, of a _LO half above all (R13, R61). Inside the unlocked debug region it stops (R458). -/
def execLoRead (offset : Nat) (s : State) : Host.Outcome State Fault Refusal :=
  if s.debugOpen offset then .fault (.debugRegion offset) else s.doneFixed (s.ctlRead offset)

/-- A write of a _HI half (R13, R453). -/
def execHiWrite (offset : Nat) (value : Word) (s : State) : Host.Outcome State Fault Refusal :=
  s.doneFixed (s.writeHi offset value)

/-- A write of any register (R9, R11, R445 to R458). Inside the unlocked debug region it stops (R458). -/
def execRegisterWrite (offset : Nat) (value : Word) (s : State) : Host.Outcome State Fault Refusal :=
  if s.debugOpen offset then .fault (.debugRegion offset) else .next (s.commit (s.setupAfter offset value) s.pen.tally (s.writeReg offset value).settle)

/-- A control access of a wrong size or alignment (R61). -/
def execCtlBadAccess (offset size : Nat) (s : State) : Host.Outcome State Fault Refusal :=
  s.doneFixed (s.badAccess offset size)

end Sys2Proof.Machine
end

