-- ==== Sys2Proof/Machine/Dispatch.lean ====
section
/-! DEFINITION. The dispatch: one arm per command. -/

namespace Sys2Proof.Machine

/-- The effect of a command on everything but the queue of waiting commands. -/
def exec (i : Instr) (s : State) : Host.Outcome State Fault Refusal :=
  match i with
  | .queueCreate e => Sys2Proof.Machine.execQueueCreate e s
  | .queueDestroy e => Sys2Proof.Machine.execQueueDestroy e s
  | .sliceCreate e => Sys2Proof.Machine.execSliceCreate e s
  | .sliceResize e => Sys2Proof.Machine.execSliceResize e s
  | .sliceReset e => Sys2Proof.Machine.execSliceReset e s
  | .sliceFreeze e => Sys2Proof.Machine.execSliceFreeze e s
  | .sliceSave e => Sys2Proof.Machine.execSliceSave e s
  | .sliceLoad e image => Sys2Proof.Machine.execSliceLoad e image s
  | .rigStage e image => Sys2Proof.Machine.execRigStage e image s
  | .rigCommit e => Sys2Proof.Machine.execRigCommit e s
  | .rigRollback e => Sys2Proof.Machine.execRigRollback e s
  | .attachEndpoint e => Sys2Proof.Machine.execAttachEndpoint e s
  | .keyLoad e blob => Sys2Proof.Machine.execKeyLoad e blob s
  | .fwStage e image => Sys2Proof.Machine.execFwStage e image s
  | .fwActivate e => Sys2Proof.Machine.execFwActivate e s
  | .copy e => Sys2Proof.Machine.execCopy e s
  | .fill e => Sys2Proof.Machine.execFill e s
  | .genOpen e regionList manifest => Sys2Proof.Machine.execGenOpen e regionList manifest s
  | .cut e => Sys2Proof.Machine.execCut e s
  | .stamp e => Sys2Proof.Machine.execStamp e s
  | .protect e groupList => Sys2Proof.Machine.execProtect e groupList s
  | .drain e => Sys2Proof.Machine.execDrain e s
  | .restore e targetMap => Sys2Proof.Machine.execRestore e targetMap s
  | .restoreSpare e => Sys2Proof.Machine.execRestoreSpare e s
  | .sheetArm e dimBlock header adapter => Sys2Proof.Machine.execSheetArm e dimBlock header adapter s
  | .sheetRearm e dimBlock header adapter => Sys2Proof.Machine.execSheetRearm e dimBlock header adapter s
  | .sheetStop e => Sys2Proof.Machine.execSheetStop e s
  | .cleatSignal e => Sys2Proof.Machine.execCleatSignal e s
  | .cleatWait e => Sys2Proof.Machine.execCleatWait e s
  | .digest e => Sys2Proof.Machine.execDigest e s
  | .kuBlock e => Sys2Proof.Machine.execKuBlock e s
  | .snapLatch e => Sys2Proof.Machine.execSnapLatch e s
  | .sensorRead => Sys2Proof.Machine.execSensorRead s
  | .sensorLimits => Sys2Proof.Machine.execSensorLimits s
  | .logRead => Sys2Proof.Machine.execLogRead s
  | .clockRead => Sys2Proof.Machine.execClockRead s
  | .calSet => Sys2Proof.Machine.execCalSet s
  | .dueSet => Sys2Proof.Machine.execDueSet s
  | .counterRead => Sys2Proof.Machine.execCounterRead s
  | .jobLookup => Sys2Proof.Machine.execJobLookup s
  | .tallyRead => Sys2Proof.Machine.execTallyRead s
  | .tallyBurn => Sys2Proof.Machine.execTallyBurn s
  | .imageBegin => Sys2Proof.Machine.execImageBegin s
  | .imageData => Sys2Proof.Machine.execImageData s
  | .imageEnd => Sys2Proof.Machine.execImageEnd s
  | .telltaleInput => Sys2Proof.Machine.execTelltaleInput s
  | .telltaleRead => Sys2Proof.Machine.execTelltaleRead s
  | .getVersion => Sys2Proof.Machine.execGetVersion s
  | .getCapabilities => Sys2Proof.Machine.execGetCapabilities s
  | .negotiateAlgorithms => Sys2Proof.Machine.execNegotiateAlgorithms s
  | .getDigests => Sys2Proof.Machine.execGetDigests s
  | .getCertificate => Sys2Proof.Machine.execGetCertificate s
  | .challenge => Sys2Proof.Machine.execChallenge s
  | .getMeasurements => Sys2Proof.Machine.execGetMeasurements s
  | .setCertificate => Sys2Proof.Machine.execSetCertificate s
  | .unsupportedRequest => Sys2Proof.Machine.execUnsupportedRequest s
  | .sqDoorbell f slot tail => Sys2Proof.Machine.execSqDoorbell f slot tail s
  | .inv f slot tail => Sys2Proof.Machine.execInv f slot tail s
  | .cqDoorbell f slot head => Sys2Proof.Machine.execCqDoorbell f slot head s
  | .blkReset value laneFails stored => Sys2Proof.Machine.execBlkReset value laneFails stored s
  | .pwrDown value => Sys2Proof.Machine.execPwrDown value s
  | .globalFaultW1c value => Sys2Proof.Machine.execGlobalFaultW1c value s
  | .fabLock => Sys2Proof.Machine.execFabLock s
  | .drainLock => Sys2Proof.Machine.execDrainLock s
  | .sensorLock => Sys2Proof.Machine.execSensorLock s
  | .hostHeartbeat f beat => Sys2Proof.Machine.execHostHeartbeat f beat s
  | .hbInterval f value => Sys2Proof.Machine.execHbInterval f value s
  | .asqCtrl value => Sys2Proof.Machine.execAsqCtrl value s
  | .acqCtrl value => Sys2Proof.Machine.execAcqCtrl value s
  | .loRead offset => Sys2Proof.Machine.execLoRead offset s
  | .hiWrite offset value => Sys2Proof.Machine.execHiWrite offset value s
  | .registerWrite offset value => Sys2Proof.Machine.execRegisterWrite offset value s
  | .ctlBadAccess offset size => Sys2Proof.Machine.execCtlBadAccess offset size s
  | .porstAssertion => Sys2Proof.Machine.execPorstAssertion s
  | .porstDeassertion stagePresent stageSizeSel laneFails => Sys2Proof.Machine.execPorstDeassertion stagePresent stageSizeSel laneFails s
  | .blkRstAssertion => Sys2Proof.Machine.execBlkRstAssertion s
  | .blkRstDeassertion laneFails stored => Sys2Proof.Machine.execBlkRstDeassertion laneFails stored s
  | .preemptN => Sys2Proof.Machine.execPreemptN s
  | .wakeN railsGood laneFails stored => Sys2Proof.Machine.execWakeN railsGood laneFails stored s
  | .sbFallingEdge line => Sys2Proof.Machine.execSbFallingEdge line s
  | .pmbAlertN undervoltage => Sys2Proof.Machine.execPmbAlertN undervoltage s
  | .linkUpRise port => Sys2Proof.Machine.execLinkUpRise port s
  | .linkUpFall port => Sys2Proof.Machine.execLinkUpFall port s
  | .linkHello port flits => Sys2Proof.Machine.execLinkHello port flits s
  | .rekey port => Sys2Proof.Machine.execRekey port s
  | .keyRollAck port flits => Sys2Proof.Machine.execKeyRollAck port flits s
  | .linkStopLimit port => Sys2Proof.Machine.execLinkStopLimit port s
  | .rdRsp port flits => Sys2Proof.Machine.execRdRsp port flits s
  | .wrAck port flits => Sys2Proof.Machine.execWrAck port flits s
  | .rdReqToBlock port flits => Sys2Proof.Machine.execRdReqToBlock port flits s
  | .wrToBlock port flits => Sys2Proof.Machine.execWrToBlock port flits s
  | .cleatSignalPacket port flits => Sys2Proof.Machine.execCleatSignalPacket port flits s
  | .malformedPacket port flits => Sys2Proof.Machine.execMalformedPacket port flits s
  | .preemptNotice port flits => Sys2Proof.Machine.execPreemptNotice port flits s
  | .quiesceDone port flits => Sys2Proof.Machine.execQuiesceDone port flits s
  | .exportMap port flits => Sys2Proof.Machine.execExportMap port flits s
  | .resumeDone port flits => Sys2Proof.Machine.execResumeDone port flits s
  | .armed port flits => Sys2Proof.Machine.execArmed port flits s
  | .watchHit port flits => Sys2Proof.Machine.execWatchHit port flits s
  | .holdRequest port flits => Sys2Proof.Machine.execHoldRequest port flits s
  | .forkRequest port flits => Sys2Proof.Machine.execForkRequest port flits s
  | .readComplete x => Sys2Proof.Machine.execReadComplete x s
  | .stagingResponse port tag err data check => Sys2Proof.Machine.execStagingResponse port tag err data check s
  | .stagingResponseTimeout port tag => Sys2Proof.Machine.execStagingResponseTimeout port tag s
  | .hostResponse req answer => Sys2Proof.Machine.execHostResponse req answer s
  | .sensorTransaction index reading => Sys2Proof.Machine.execSensorTransaction index reading s
  | .inBandInterrupt target reading => Sys2Proof.Machine.execInBandInterrupt target reading s
  | .fabricResponseTimeout port tag => Sys2Proof.Machine.execFabricResponseTimeout port tag s
  | .usablePortTimeout w => Sys2Proof.Machine.execUsablePortTimeout w s
  | .entryAccept qid fetched => Sys2Proof.Machine.execEntryAccept qid fetched s
  | .queuedEntryStart e targetMap => Sys2Proof.Machine.execQueuedEntryStart e targetMap s
  | .transferDispatch x yard lane port => Sys2Proof.Machine.execTransferDispatch x yard lane port s
  | .sheetWorkUnitStart yard lane => Sys2Proof.Machine.execSheetWorkUnitStart yard lane s
  | .armingEnd sheet => Sys2Proof.Machine.execArmingEnd sheet s
  | .coalTicksExpiry ring => Sys2Proof.Machine.execCoalTicksExpiry ring s
  | .waitTimeout e => Sys2Proof.Machine.execWaitTimeout e s
  | .cutTimeout e => Sys2Proof.Machine.execCutTimeout e s
  | .resumeLate ep => Sys2Proof.Machine.execResumeLate ep s
  | .sliceResetTimeout e => Sys2Proof.Machine.execSliceResetTimeout e s
  | .heartbeatMiss f => Sys2Proof.Machine.execHeartbeatMiss f s
  | .telltaleSample => Sys2Proof.Machine.execTelltaleSample s
  | .sensorPoll index reading => Sys2Proof.Machine.execSensorPoll index reading s
  | .spareSelfTest fails => Sys2Proof.Machine.execSpareSelfTest fails s
  | .yardBist fails => Sys2Proof.Machine.execYardBist fails s
  | .dueEntry n => Sys2Proof.Machine.execDueEntry n s
  | .lifeRecordWrite => Sys2Proof.Machine.execLifeRecordWrite s
  | .idleEntry => Sys2Proof.Machine.execIdleEntry s
  | .yardGate yard => Sys2Proof.Machine.execYardGate yard s
  | .powerGoodTimeout rail railsGood laneFails stored => Sys2Proof.Machine.execPowerGoodTimeout rail railsGood laneFails stored s
  | .lockstepMismatch p pc => Sys2Proof.Machine.execLockstepMismatch p pc s
  | .watchdogExpiry p pc => Sys2Proof.Machine.execWatchdogExpiry p pc s
  | .trap p pc ecc => Sys2Proof.Machine.execTrap p pc ecc s
  | .processorRestartComplete p checksPass => Sys2Proof.Machine.execProcessorRestartComplete p checksPass s
  | .datapathParityFault lane spareFails => Sys2Proof.Machine.execDatapathParityFault lane spareFails s
  | .laneStall lane spareFails => Sys2Proof.Machine.execLaneStall lane spareFails s
  | .clockFault clock relocked => Sys2Proof.Machine.execClockFault clock relocked s
  | .voltageFault monitor mv => Sys2Proof.Machine.execVoltageFault monitor mv s
  | .thermalTrip diode => Sys2Proof.Machine.execThermalTrip diode s
  | .keyUnitParityMismatch => Sys2Proof.Machine.execKeyUnitParityMismatch s
  | .entropyHealthFailure => Sys2Proof.Machine.execEntropyHealthFailure s
  | .debugUnlock => Sys2Proof.Machine.execDebugUnlock s
  | .alwaysOnSupplyLoss torn => Sys2Proof.Machine.execAlwaysOnSupplyLoss torn s
  | .mainSupplyRemoval => Sys2Proof.Machine.execMainSupplyRemoval s
  | .keyUnitRequestDone => Sys2Proof.Machine.execKeyUnitRequestDone s
  | .mainstayUnpairedTimeout => Sys2Proof.Machine.execMainstayUnpairedTimeout s

end Sys2Proof.Machine
end

