-- ==== Sys2Proof/Safety.lean ====
section
/-! DEFINITION. What counts as safe, in the terms that claims use: the set-up that a lock fixes stays lawful, the fuses keep to
their counts, and locks hold until PORST_N; and the kinds of commands, by what they may change. -/

namespace Sys2Proof.Machine

/-- What the locks promise (R448): a locked identifier, drain range and sensor set-up are ones that the lock accepted. -/
structure Setup.Lawful (u : Setup) : Prop where
  fab : u.fabLock = true → u.fabLockable = true
  drain : u.drainLock = true → u.drainRangeOk = true
  sensors : u.sensorLock = true → u.sensorsOk = true

/-- Every lock that is set in `u` is set in `v` (R448). -/
structure Setup.LocksHold (u v : Setup) : Prop where
  fab : u.fabLock = true → v.fabLock = true
  drain : u.drainLock = true → v.drainLock = true
  sensors : u.sensorLock = true → v.sensorLock = true

/-- What a lock fixes is the same in `v` as in `u` (R448, RWL of Table 0-2). -/
structure Setup.LockedSame (u v : Setup) : Prop where
  fab : u.fabLock = true → v.fabEp = u.fabEp
  drain : u.drainLock = true →
    v.drainPresent = u.drainPresent ∧ v.drainCount = u.drainCount ∧ v.drainBase = u.drainBase
  sensors : u.sensorLock = true → v.pmbDev = u.pmbDev ∧ v.i3cDev = u.i3cDev ∧ v.vmon = u.vmon

/-- The fuses keep to the changes that Table 14-11 allows each setting (R411). -/
def Pen.FusesLawful (p : Pen) : Prop := ∀ n, (p.records n).length ≤ tallyMax n

/-! ### The forms in which the state is held -/

/-- The tables that State holds by number are sorted, with no number twice; no two entries at work have one number, nor two fabric
requests, and none has one that is still to come. A Cleat that is listed has a count, at most 2^31 - 1 (R277). The indices of a
queue and of a ring are below its size (R74, R77), and queue 0 has the size that ASQ_CTRL gives (R453). The log's stores, and what is
held for them, keep to their sizes (R401, R404), and counters to their classes' widths (R406, Table 14-9). -/
structure State.Canonical (s : State) : Prop where
  cleats : FMap.Sorted s.cleats
  counts : ∀ p ∈ s.cleats, 0 < p.2 ∧ p.2 ≤ cleatMax
  sqs : FMap.Sorted s.sqs
  cqs : FMap.Sorted s.cqs
  queues : ∀ p ∈ s.sqs, p.2.head < ringSize p.2.log2 ∧ p.2.tail < ringSize p.2.log2
  rings : ∀ p ∈ s.cqs, p.2.head < ringSize p.2.log2 ∧ p.2.tail < ringSize p.2.log2
  admin : ∀ q, FMap.find s.sqs 0 = some q → q.log2 = s.adm.asqLog2
  fns : FMap.Sorted s.fns
  eps : FMap.Sorted s.eps
  jobs : FMap.Sorted s.jobs
  keys : FMap.Sorted s.keys.store
  beats : FMap.Sorted s.hbInt
  dues : FMap.Sorted s.pen.dues
  entries : (s.accepted.map (·.id)).Nodup
  numbers : ∀ a ∈ s.accepted, a.id < s.nextId
  requests : (s.freqs.map (·.num)).Nodup ∧ ∀ r ∈ s.freqs, r.num < s.nextId
  always : s.log.always.length ≤ 16384
  persist : s.log.persist.length ≤ 524288
  place : s.log.slot < 524288
  held : s.log.held.length ≤ 256
  live : FMap.Sorted s.ctr.live
  counters : ∀ p ∈ s.ctr.live,
    (ctrClass p.1 = some .event → p.2 ≤ 2 ^ 48 - 1) ∧ (ctrClass p.1 = some .activity → p.2 < 2 ^ 64)

/-- The commands that assert PORST_N, or take its supply away. -/
def assertsPorst : Instr → Bool
  | .porstAssertion => true
  | .alwaysOnSupplyLoss _ => true
  | _ => false

/-! ### Packets -/

/-- Every field of a packet has a value that its field of the header flit holds (Table 2-3). -/
structure Pkt.Fits (p : Pkt) : Prop where
  cls : p.cls < 16
  op : p.op < 256
  src : p.src < 4096
  dst : p.dst < 4096
  len : p.len < 8192
  addr : p.addr < 2 ^ 64
  tag : p.tag < 2 ^ 32
  slice : p.slice < 256
  sigCount : p.sigCount < 256
  cleat : p.cleat < 65536
  arg32 : p.arg32 < 2 ^ 32
  argA : p.argA < 2 ^ 64
  argB : p.argB < 2 ^ 64

/-- A packet that R43 to R45 let act on the block, with its payload: Table 2-3 holds, its identifiers are ones that it may name, it is
for the block or link-local, SIG is set where Table 2-3 allows it, and LEN is its payload's length, at most 512 B. Where it carries no
payload, LEN may be any. -/
structure Pkt.Proper (p : Pkt) (fabEp : Nat) (payload : List Byte) : Prop where
  fits : p.Fits
  opcode : opcodes.contains (p.cls, p.op) = true
  ends : p.endpointsOk = true
  here : p.isLocal = true ∨ p.dst = fabEp
  sig : p.sig = true → (p.cls = 2 ∧ p.op = 1) ∨ p.cls = 5
  short : payload.length ≤ 512
  len : carriesPayload p = true → p.len = payload.length
  data : carriesPayload p = false → payload = []

/-- The flits of a packet as the peer at a port sends them: under the running session, sealed with the key and the counter that the
block opens them with; at a drain port in the clear (R52). -/
def State.peerFlits (s : State) (port : Nat) (p : Pkt) (payload : List Byte) : List Flit := p.flits (s.rxSeal port) (plain payload)

/-- The keys of a port's session have the length that R51 gives them: a key and its salt. -/
def State.keyed (s : State) (port : Nat) : Prop := port < 32 → (s.link port).running = true → (s.link port).rxKey.length = 36

/-! ### The kinds of commands, by what they have a say over -/

/-- The commands with no say over the set-up, the always-on domain, the rig sets, the firmware store, the SPDM responder and
the heartbeat intervals: all but the resets, the lock and register writes, the expiries and calendar commands, entry to IDLE, the
answers of staging, the rig-set and firmware commands, TALLY_BURN, HB_INTERVAL and the SPDM requests. -/
def ordinary : Instr → Bool
  | .blkReset _ _ _ | .pwrDown _ | .processorRestartComplete _ _ | .blkRstAssertion | .blkRstDeassertion _ _ => false
  | .wakeN _ _ _ | .powerGoodTimeout _ _ _ _ | .fabLock | .drainLock | .sensorLock | .registerWrite _ _ => false
  | .alwaysOnSupplyLoss _ | .porstAssertion | .porstDeassertion _ _ _ | .tallyBurn | .hbInterval _ _ => false
  | .mainstayUnpairedTimeout | .fabricResponseTimeout _ _ | .usablePortTimeout _ | .coalTicksExpiry _ => false
  | .waitTimeout _ | .cutTimeout _ | .sliceResetTimeout _ | .heartbeatMiss _ | .telltaleSample => false
  | .spareSelfTest _ | .yardBist _ | .dueEntry _ | .lifeRecordWrite | .calSet | .dueSet | .idleEntry => false
  | .stagingResponse _ _ _ _ _ | .stagingResponseTimeout _ _ => false
  | .rigStage _ _ | .rigCommit _ | .rigRollback _ | .fwStage _ _ | .fwActivate _ | .imageEnd => false
  | .getVersion | .getCapabilities | .negotiateAlgorithms | .getDigests | .getCertificate | .challenge => false
  | .getMeasurements | .setCertificate | .unsupportedRequest => false
  | _ => true

/-- The SPDM requests. -/
def isSpdm : Instr → Bool
  | .getVersion | .getCapabilities | .negotiateAlgorithms | .getDigests | .getCertificate | .challenge => true
  | .getMeasurements | .setCertificate | .unsupportedRequest => true
  | _ => false

/-- The entries that stage, commit or roll back a rig set. -/
def isRig : Instr → Bool
  | .rigStage _ _ | .rigCommit _ | .rigRollback _ => true
  | _ => false

/-- The commands that stage or activate a firmware image. -/
def isFw : Instr → Bool
  | .fwStage _ _ | .fwActivate _ | .imageEnd => true
  | _ => false

/-- The expiries, the commands on the calendar, entry to IDLE, and the answers of staging, with the last of which a boot ends. -/
def isTimed : Instr → Bool
  | .mainstayUnpairedTimeout | .fabricResponseTimeout _ _ | .usablePortTimeout _ | .coalTicksExpiry _ => true
  | .waitTimeout _ | .cutTimeout _ | .sliceResetTimeout _ | .heartbeatMiss _ | .telltaleSample => true
  | .spareSelfTest _ | .yardBist _ | .dueEntry _ | .lifeRecordWrite | .calSet | .dueSet | .idleEntry => true
  | .stagingResponse _ _ _ _ _ | .stagingResponseTimeout _ _ => true
  | _ => false

end Sys2Proof.Machine
end

