-- ==== Sys2Proof/Certificates/Slice0/Obligations.lean ====
section
/-! DEFINITION. The statements for the provers, after the words that they share. -/

namespace Sys2Proof.Claims

open Sys2Proof.Machine

/-- The command has the effect `t` on `s`, after which the block settles: everything that waits for nothing outside goes on
(log 45). -/
def Acts (c : Instr) (s t : State) : Prop := exec c s = .next (s.keepFixed t.settle)

/-- The entry `a` is accepted and nothing has been done for it yet. -/
def Fresh (s : State) (a : Acc) : Prop := s.acc a.id = some a ∧ a.phase = .accepted ∧ a.fin = none

/-- The entry `a` has ended in `t` with no condition of its own: its completion will carry OK and this INFO. -/
def EndsOk (t : State) (a : Acc) (info : Nat) : Prop := t.acc a.id = some { a with fin := some info }

/-- The 64-bit value of a register pair that can be read, by the offset of _LO: STAGING_BYTES, the three admin pairs, and each
function page's quota base, quota length and last epoch. A page without a function reads zero. -/
def pairValue (s : State) (off : Nat) : Option Nat :=
  let page := FMap.find s.fns ((off - 0x300000) / 0x1000)
  if off = 0x38 then some s.setup.stagingBytes
  else if off = 0x10000 then some s.adm.asqBase
  else if off = 0x10010 then some s.adm.acqBase
  else if off = 0x10020 then some s.adm.acqIntAddr
  else if 0x300000 ≤ off ∧ off < 0x400000 ∧ off % 0x1000 = 0x20 then some ((page.map (·.quotaBase)).getD 0)
  else if 0x300000 ≤ off ∧ off < 0x400000 ∧ off % 0x1000 = 0x28 then some ((page.map (·.quotaLen)).getD 0)
  else if 0x300000 ≤ off ∧ off < 0x400000 ∧ off % 0x1000 = 0x60 then some ((page.map (·.orphan.lastEpoch)).getD 0)
  else none

/-- The mailbox holds the request `r`, which its header lets be served, and is ready. -/
def Presents (s : State) (r : MbReq) : Prop :=
  s.mb.outstanding = some r ∧ s.mb.notReady = false ∧ r.reserved = 0 ∧ r.len ≤ 4088

/-- The mailbox holds the request `r`, which its header lets be served, and the block is past its boot and not in RECOVERY. -/
def Holds (s : State) (r : MbReq) : Prop :=
  s.mb.outstanding = some r ∧ s.mb.notReady = false ∧ s.glob.recovery = false ∧ r.reserved = 0 ∧ r.len ≤ 4088

/-- The response to `r`: RESULT OK and this payload, and nothing else of the state changes. -/
def Replies (c : Instr) (s : State) (r : MbReq) (payload : List Byte) : Prop := exec c s = .next (s.respond r (0, payload))

/-- The mailbox commands with the codes of Table 14-1, IMAGE_END apart. -/
def mailboxRows : List (Nat × Instr) :=
  [(0x10, .sensorRead), (0x11, .sensorLimits), (0x20, .logRead), (0x30, .clockRead), (0x31, .calSet), (0x32, .dueSet),
    (0x40, .counterRead), (0x41, .jobLookup), (0x50, .tallyRead), (0x51, .tallyBurn), (0x60, .imageBegin), (0x61, .imageData),
    (0x70, .telltaleInput), (0x71, .telltaleRead)]

/-- The SPDM requests with the codes of DSP0274 (log 23). -/
def spdmRows : List (SpdmReq × Instr) :=
  [(.getVersion, .getVersion), (.getCapabilities, .getCapabilities), (.negotiateAlgorithms, .negotiateAlgorithms),
    (.getDigests, .getDigests), (.getCertificate, .getCertificate), (.challenge, .challenge),
    (.getMeasurements, .getMeasurements), (.setCertificate, .setCertificate), (.unsupported, .unsupportedRequest)]

/-- A command that may reset or wake the block has the effect `t` on `s`, after which the block settles. -/
def Resets (c : Instr) (s t : State) : Prop := exec c s = .next (s.keepSetup t.settle)

/-- Does R367 find a good slot of every IMAGE code for a boot from `s`? -/
def imagesGood (s : State) : Bool :=
  ((State.bootCount (State.bootSense { s with glob := { s.glob with power := .boot } })).fwSelectAll).1

/-- What a boot from `s`, with these failing lanes, has come to in `t`, before the block settles: the boot is counted, from the better
life record where the always-on supply was lost, and the set-up stays. With a good image of every code, function 0 and queue 0 stand
alone, function 0 ACTIVE and queue 0 DISABLED and empty unless a failing lane halts the block; READY is high, or the block writes the
areas of staging first. Without, the block is in RECOVERY. -/
def StartsUp (s : State) (fails : List Nat) (t : State) : Prop :=
  t.setup = s.setup ∧
  t.pen.boot = min ((if s.glob.afterPorst && s.pen.lostSupply then s.pen.bestRec.boot else s.pen.boot) + 1) 0xFFFFFFFF ∧
  (imagesGood s = true →
    t.glob.ready = !s.mustWrite ∧ t.glob.power = (if s.mustWrite then .boot else .run) ∧ t.mb.notReady = s.mustWrite ∧
    t.fns.map (·.1) = [0] ∧ t.sqs.map (·.1) = [0] ∧ t.cqs = s.cqs ∧
    (fails = [] → ∃ x, t.fns = [(0, x)] ∧ x.state = .active ∧ t.sqs = [(0, { bootAsq with base := s.adm.asqBase, log2 := s.adm.asqLog2 })])) ∧
  (imagesGood s = false → t.glob.recovery = true ∧ t.glob.power = .run ∧ t.glob.ready = s.glob.ready ∧ t.fns = s.fns ∧
    t.sqs = s.sqs ∧ t.mb.rom = true)

/-- A boot from `s` has ended in `t`, in RUN; or it goes on, until the areas of staging that no boot since PORST_N has written are
written (R180). -/
def Booted (s t : State) : Prop :=
  t.glob.power = .run ∨ t.glob.power = .boot ∧ t.glob.ready = false ∧ s.glob.areaStale = true ∧ t.setup.hasStaging = true

/-- The port and the flits of a received packet. -/
def flitsAt : Instr → Option (Nat × List Flit)
  | .linkHello port fs | .keyRollAck port fs | .rdRsp port fs | .wrAck port fs | .rdReqToBlock port fs | .wrToBlock port fs => some (port, fs)
  | .cleatSignalPacket port fs | .malformedPacket port fs | .preemptNotice port fs | .quiesceDone port fs => some (port, fs)
  | .exportMap port fs | .resumeDone port fs | .armed port fs | .watchHit port fs | .holdRequest port fs => some (port, fs)
  | .forkRequest port fs => some (port, fs)
  | _ => none

/-- A fabric port whose session runs, under a key and salt of the length that R51 gives them, of a block in RUN: it takes packets. -/
def Hears (s : State) (port : Nat) : Prop :=
  s.glob.power = .run ∧ port < 32 ∧ (s.link port).running = true ∧ s.keyed port

/-- A packet that R43 to R45 let act comes at such a port, as its peer seals it. -/
def Comes (s : State) (port : Nat) (q : Pkt) (bs : List Byte) : Prop := Hears s port ∧ q.Proper s.setup.fabEp bs

/-- The packet that a packet's class and opcode make it (Table 2-4). -/
def Pkt.Is (q : Pkt) (cls op : Nat) : Prop := q.cls = cls ∧ q.op = op

/-- The generation whose cut awaits an endpoint's export map. -/
def mapsFor (ep : Nat) (g : Gen) : Bool :=
  match g.cutting with
  | some c => g.retained && c.stage == .mapping && c.await.contains ep
  | none => false

/-- A job takes a preemption notice (R138): its cut falls due, or, where CUTs of it are accepted, waits for what becomes of each. -/
def Noticed (s t : State) (job : Nat) : Prop :=
  ∃ k, FMap.find t.jobs job = some k ∧ (s.cutsPending job = [] → k.notice = true) ∧ ∀ e ∈ s.cutsPending job, e ∈ k.noticeLate

/-- A preemption pin, by its bit of PIN_PREEMPT: each job whose cadence row has the bit, as of its latest step mark (R384), takes the
notice unless its function is FROZEN. -/
def TakesNotice (s t : State) (bit : Nat) : Prop :=
  (∀ (job : Nat) (j : Job) (x : Fn), FMap.find s.jobs job = some j → bitOf j.cad.pin bit = true → FMap.find s.fns j.fn = some x →
    x.state ≠ .frozen → Noticed s t job) ∧
  t = { s with glob := t.glob, waking := t.waking, jobs := t.jobs }

/-- The newest entry of the always-on event log has this code and these data words; the words that it does not use are zero. -/
def Logged (t : State) (code : Nat) (d : List Nat) : Prop :=
  ∃ e, t.log.always.getLast? = some e ∧ e.code = code ∧ e.d = (d ++ [0, 0, 0, 0, 0]).take 5

/-- The event log gained an entry of this code with these data words, whatever was logged with it. -/
def LogHolds (t : State) (code : Nat) (d : List Nat) : Prop :=
  ∃ e ∈ t.log.always, e.code = code ∧ e.d = (d ++ [0, 0, 0, 0, 0]).take 5

/-- Nothing but link counters and event counters changes. -/
def OnlyCounts (s t : State) : Prop := t = { s with links := t.links, ctr := t.ctr }

/-- An event counter of a state goes up by one, unless it is saturated. -/
def CountedOnce (s t : State) (id : Nat) : Prop := s.ctr.value id < 2 ^ 48 - 1 → t.ctr.value id = s.ctr.value id + 1

/-- A Cleat of the function `f` that no Sheet is bound to and no entry waits on. -/
def PlainCleat (s : State) (c f : Nat) : Prop :=
  s.cleatOwner c = f ∧ s.boundSheet c = none ∧ s.waitsOf c = [] ∧ ∀ x, FMap.find s.fns f = some x → x.resetting = false

/-- Only these Cleats differ. -/
def CleatsSame (s t : State) (c : Nat) : Prop := ∀ k, k ≠ c → t.cleat k = s.cleat k

/-- An expiry has the effect `t` on `s`, after which the block settles. -/
def Expires (c : Instr) (s t : State) : Prop := exec c s = .next (s.keepTimed t.settle)

/-- No transfer, generation, Sheet or restore is under way, and no port owes a response. -/
def Quiet (s : State) : Prop :=
  s.xfers = [] ∧ s.gens = [] ∧ s.sheets = [] ∧ s.restores = [] ∧ s.freqs = [] ∧ s.sreqs = [] ∧ s.hreqs = [] ∧ s.waitPkts = []

/-- The entry `a` has ended in `t` with one condition, and no other: its completion will carry this status and INFO. -/
def EndsWith (t : State) (a : Acc) (status info : Nat) : Prop :=
  t.acc a.id = some { a with conds := a.conds ++ [⟨status, info⟩], fin := some 0 }

/-- The processors run, and the block is booted and not in RECOVERY, so that a fault or a crash counts. -/
def Alive (s : State) : Prop := (s.glob.power = .run ∨ s.glob.power = .idle) ∧ s.glob.recovery = false

/-- No transfer, Sheet or generation is touched, and no Cleat and no entry. -/
def WorkSame (s t : State) : Prop :=
  t.xfers = s.xfers ∧ t.sheets = s.sheets ∧ t.gens = s.gens ∧ t.cleats = s.cleats ∧ t.accepted = s.accepted

/-- The register bit of GLOBAL_FAULT is set, and no other bit changes. -/
def Raises (s t : State) (bit : Nat) : Prop := t.glob.fault = s.glob.fault ||| (1#16 <<< bit)

/-- The entry that an entry's row runs. -/
def entryOf : Instr → Option EntryId
  | .queueCreate e | .queueDestroy e | .sliceCreate e | .sliceResize e | .sliceReset e | .sliceFreeze e | .sliceSave e => some e
  | .sliceLoad e _ | .rigStage e _ | .rigCommit e | .rigRollback e | .attachEndpoint e | .keyLoad e _ | .fwStage e _ => some e
  | .fwActivate e | .copy e | .fill e | .genOpen e _ _ | .cut e | .stamp e | .protect e _ | .drain e | .restore e _ => some e
  | .restoreSpare e | .sheetArm e _ _ _ | .sheetRearm e _ _ _ | .sheetStop e | .cleatSignal e | .cleatWait e => some e
  | .digest e | .kuBlock e | .snapLatch e => some e
  | _ => none

/-- The entry asks for no signal of its own. -/
def Plain (a : Acc) : Prop := a.hdr.sig = false ∧ a.conds = []

/-- The entry `a` is at work in `t`, with nothing met and nothing ended. -/
def Works (t : State) (a : Acc) (phase : Phase) : Prop :=
  ∃ b, t.acc a.id = some b ∧ b.phase = phase ∧ b.fin = none ∧ b.conds = a.conds ∧ b.op = a.op

/-- Only the accepted entries differ. -/
def OnlyEntries (s t : State) : Prop := t = { s with accepted := t.accepted }

/-- How a re-arm presents a Sheet's fields to the checks of an arming. -/
def rearmForm (n dims : Nat) (h : Sheet) : ArmF :=
  ⟨n, h.elem, h.cur.dim.counts.length, h.slots, h.outType, h.persistent, h.merge, h.ring, h.ring, h.slotSize, h.period, dims,
    h.frameBytes⟩

/-- The breach of a re-arm's structures: with DIM_BLOCK zero the block is kept (R273). -/
def rearmBreach (n dims : Nat) (h : Sheet) (r : ArmReads) : Option (Nat × Nat) :=
  if dims = 0 then keepBreach h r else armBreach (rearmForm n dims h) 32 r

/-- What a re-arm arms its Sheet with (R273). -/
def rearmSrc (n base dims : Nat) (h : Sheet) (r : ArmReads) : ArmSrc :=
  if dims = 0 then
    { base := base, dim := h.cur.dim, hdr := if h.cur.dim.packed then some (parsePack (readBytes r.hdr)) else none
      ad := if h.merge then some (parsePack (readBytes r.ad)) else none }
  else armSrc (rearmForm n dims h) base r

end Sys2Proof.Claims

section

open Sys2Proof Sys2Proof.Machine Sys2Proof.Claims

/-! ### The step -/

/-- A step with a command at the front of the queue runs it on the rest of the state. -/
def Obligations.StepRunsFront : Prop :=
  ∀ (s : State) (c : Instr) (rest : List Instr), s.pending = c :: rest → step s = exec c { s with pending := rest }

/-- A step with no command waiting is one AO tick, after which the block settles (log 45): the powered life clock and the Pennant
timer advance by one tick, 32,768 of which are a second of life, which saturates. The tick is the model's choice, log 13. -/
def Obligations.IdleStepIsTick : Prop :=
  ∀ s : State, s.pending = [] → s.pen.powered = true → s.pen.lifeTick < 32768 →
    ∃ t : State, step s = .next t.settle ∧ t.pending = [] ∧ t.pen.timer = s.pen.timer + 1 ∧
      t.pen.lifeTick = (s.pen.lifeTick + 1) % 32768 ∧
      t.pen.lifeS = (if s.pen.lifeTick = 32767 then min (s.pen.lifeS + 1) 0xFFFFFFFF else min s.pen.lifeS 0xFFFFFFFF) ∧
      t.pen.boot = s.pen.boot ∧ t.setup = s.setup ∧ t.rigs = s.rigs ∧ t.cleats = s.cleats ∧ t.gens = s.gens ∧
      t.accepted = s.accepted ∧ t.keys = s.keys

/-- No command touches the queue of waiting commands. -/
def Sys2Proof.Claims.QueueUntouched : Prop :=
  ∀ (c : Instr) (s t : State), exec c s = .next t → t.pending = s.pending

/-! ### What commands leave alone -/

/-- Ordinary commands leave the set-up registers, the always-on domain with its fuses, the rig sets, the firmware store, the
SPDM responder and the heartbeat intervals as they are. -/
def Sys2Proof.Claims.OrdinaryFrame : Prop :=
  ∀ (c : Instr) (s t : State), ordinary c = true → exec c s = .next t →
    t.setup = s.setup ∧ t.pen = s.pen ∧ t.rigs = s.rigs ∧ t.fw = s.fw ∧ t.spdm = s.spdm ∧ t.hbInt = s.hbInt

/-- SPDM requests change the responder and the mailbox's world only: rig-set entries change the rig sets, and firmware commands
the store, of what ordinary commands leave alone; an expiry and a calendar command change the clocks, records and
calendar, and neither the boot count nor a fuse nor a value in force. -/
def Sys2Proof.Claims.SpecialFrames : Prop :=
  ∀ (c : Instr) (s t : State), exec c s = .next t →
    (isSpdm c = true →
      t.setup = s.setup ∧ t.pen = s.pen ∧ t.rigs = s.rigs ∧ t.fw = s.fw ∧ t.hbInt = s.hbInt) ∧
    (isRig c = true →
      t.setup = s.setup ∧ t.pen = s.pen ∧ t.fw = s.fw ∧ t.spdm = s.spdm ∧ t.hbInt = s.hbInt) ∧
    (isFw c = true →
      t.setup = s.setup ∧ t.pen = s.pen ∧ t.rigs = s.rigs ∧ t.spdm = s.spdm ∧ t.hbInt = s.hbInt) ∧
    (isTimed c = true →
      t.setup = s.setup ∧ t.pen.boot = s.pen.boot ∧ t.pen.inForce = s.pen.inForce ∧ t.pen.tally = s.pen.tally ∧
      t.pen.linkRoot = s.pen.linkRoot ∧ t.pen.deviceRoot = s.pen.deviceRoot ∧ t.rigs = s.rigs ∧ t.fw = s.fw ∧
      t.spdm = s.spdm ∧ t.hbInt = s.hbInt)

/-! ### Invariants of the set-up and the fuses -/

/-- At reset no lock is set, so the set-up is lawful, no fuse record is burned, and the state is in canonical form. -/
def Obligations.ResetLawful : Prop := State.reset.setup.Lawful ∧ State.reset.pen.FusesLawful ∧ State.reset.Canonical

/-- R448: a locked FAB_EP is an endpoint identifier that FAB_LOCK accepts, a locked DRAIN_CFG a range that DRAIN_LOCK accepts, and
the PMBus and I3C entries of a locked sensor set-up keep R457, in every state that a step leads to. -/
def Obligations.SetupStaysLawful : Prop :=
  ∀ s t : State, s.setup.Lawful → step s = .next t → t.setup.Lawful

/-- R411: no step burns a setting more often than Table 14-11 allows. -/
def Obligations.FusesStayLawful : Prop :=
  ∀ s t : State, s.pen.FusesLawful → step s = .next t → t.pen.FusesLawful

/-- R448: a lock that is set stays set, and what it locks stays the same, until PORST_N. Losing the always-on supply asserts
PORST_N. -/
def Sys2Proof.Claims.LocksHoldUntilPorst : Prop :=
  ∀ (c : Instr) (s t : State), assertsPorst c = false → exec c s = .next t →
    s.setup.LocksHold t.setup ∧ s.setup.LockedSame t.setup

/-- R448, its W1S rules: FAB_LOCK is set unless FAB_EP is 0x000 or 0xFFF; DRAIN_LOCK unless the range includes 0x000, 0xFFF or
FAB_EP, runs past 0xFFE, or DRAIN_PRESENT is zero; SENSOR_LOCK unless a PMBus or I3C entry breaks R457. The dedicated commands
and a write of LOCK act alike. A lock that is set stays set. -/
def Sys2Proof.Claims.LockWrites : Prop :=
  ∀ (s : State) (v : Word), s.ctlReady = true →
    (∃ t, exec .fabLock s = .next t ∧
      t.setup = { s.setup with fabLock := s.setup.fabLock || (s.setup.fabEp != 0 && s.setup.fabEp != 0xFFF) }) ∧
    (∃ t, exec .drainLock s = .next t ∧
      t.setup.drainLock = (s.setup.drainLock ||
        decide (s.setup.drainPresent ≠ 0 ∧
          (s.setup.drainCount = 0 ∨ (s.setup.drainBase ≠ 0 ∧ s.setup.drainBase + s.setup.drainCount ≤ 0xFFF)) ∧
          ¬(s.setup.drainBase ≤ s.setup.fabEp ∧ s.setup.fabEp < s.setup.drainBase + s.setup.drainCount))) ∧
      t.setup = { s.setup with drainLock := t.setup.drainLock }) ∧
    (∃ t, exec .sensorLock s = .next t ∧ t.setup = { s.setup with sensorLock := t.setup.sensorLock } ∧
      (t.setup.sensorLock = true ↔ s.setup.sensorLock = true ∨
        (∀ w ∈ s.setup.pmbDev, w.getLsbD 31 = true → w.toNat % 128 ≠ 0) ∧
        (∀ w ∈ s.setup.i3cDev, w.getLsbD 31 = true → w.toNat % 128 ≠ 0) ∧
        ((s.setup.pmbDev.filter fun w => w.getLsbD 31).map fun w => w.toNat % 128).Nodup ∧
        ((s.setup.i3cDev.filter fun w => w.getLsbD 31).map fun w => w.toNat % 128).Nodup ∧
        ((s.setup.pmbDev[0]?).getD 0).getLsbD 30 = false)) ∧
    (∃ t u w x, exec (.registerWrite 0x1C v) s = .next t ∧ exec .fabLock s = .next u ∧ exec .drainLock s = .next w ∧
      exec .sensorLock s = .next x ∧ t.setup = { s.setup with
        fabLock := if v.getLsbD 0 then u.setup.fabLock else s.setup.fabLock
        drainLock := if v.getLsbD 1 then w.setup.drainLock else s.setup.drainLock
        sensorLock := if v.getLsbD 2 then x.setup.sensorLock else s.setup.sensorLock })

/-- R448, R456, R457, Table 16-18: writes of FAB_CFG, DRAIN_CFG and the sensor set-up while their lock is open. FAB_CFG takes the endpoint
and, unless it is zero, the fabric timeout; a DRAIN_EP_COUNT above 4,094 is reserved, and leaves the count as it is (R9). With the lock
set, the locked fields stay; FAB_TIMEOUT has no lock. -/
def Sys2Proof.Claims.SetupWrites : Prop :=
  ∀ (s : State) (v : Word), s.ctlReady = true →
    (∃ t, exec (.registerWrite 0x24 v) s = .next t ∧
      t.setup = { s.setup with fabEp := if s.setup.fabLock then s.setup.fabEp else v.toNat % 4096 } ∧
      t.glob.fabTimeout = (if v.toNat / 65536 = 0 then s.glob.fabTimeout else v.toNat / 65536)) ∧
    (∃ t, exec (.registerWrite 0x28 v) s = .next t ∧ (s.setup.drainLock = true → t.setup = s.setup) ∧
      (s.setup.drainLock = false → t.setup = { s.setup with
        drainPresent := v.extractLsb' 28 4
        drainCount := if v.toNat / 4096 % 8192 ≤ 4094 then v.toNat / 4096 % 8192 else s.setup.drainCount
        drainBase := v.toNat % 4096 })) ∧
    (∀ n, n < 16 → ∃ t u, exec (.registerWrite (0x403000 + 4 * n) v) s = .next t ∧ exec (.registerWrite (0x403040 + 4 * n) v) s = .next u ∧
      (s.setup.sensorLock = true → t.setup = s.setup ∧ u.setup = s.setup) ∧
      (s.setup.sensorLock = false → t.setup = { s.setup with pmbDev := s.setup.pmbDev.set n (v &&& 0xC000007F#32) } ∧
        u.setup = { s.setup with i3cDev := s.setup.i3cDev.set n (v &&& 0x8000FF7F#32) })) ∧
    (∀ n, n < 8 → ∃ t, exec (.registerWrite (0x403080 + 4 * n) v) s = .next t ∧ (s.setup.sensorLock = true → t.setup = s.setup) ∧
      (s.setup.sensorLock = false → t.setup = { s.setup with vmon := s.setup.vmon.set n (v &&& 0x8000FFFF#32) }))

/-- R457: what makes a sensor set-up valid; and a monitor has its voltage window from SENSOR_LOCK onward only, before which no
voltage fault arises. -/
def Obligations.SensorSetupValid : Prop :=
  (∀ (s : State) (m : Nat), s.windowOn m = true ↔
    s.setup.sensorLock = true ∧ ∃ w, s.setup.vmon[m]? = some w ∧ w.getLsbD 31 = true) ∧
  (∀ (s : State) (m : Nat) (mv : Word), s.setup.sensorLock = false → Acts (.voltageFault m mv) s s) ∧
  ∀ u : Setup, u.sensorsValid = true ↔
    (∀ w ∈ u.pmbDev, w.getLsbD 31 = true → w.toNat % 128 ≠ 0) ∧
    (∀ w ∈ u.i3cDev, w.getLsbD 31 = true → w.toNat % 128 ≠ 0) ∧
    ((u.pmbDev.filter fun w => w.getLsbD 31).map fun w => w.toNat % 128).Nodup ∧
    ((u.i3cDev.filter fun w => w.getLsbD 31).map fun w => w.toNat % 128).Nodup ∧
    ((u.pmbDev[0]?).getD 0).getLsbD 30 = false ∧
    (∀ w ∈ u.vmon, w.getLsbD 31 = true → 500 ≤ w.toNat % 65536 ∧ w.toNat % 65536 ≤ 3300)

/-- R36: the tie-offs are sampled at the deassertion of PORST_N, and no later change on them is seen: no other command changes the
samples, BLK_RST_N's deassertion included, until PORST_N or its supply goes. -/
def Obligations.TieoffsSampled : Prop :=
  ∀ s : State,
    (∀ (p : BitVec 8) (z : BitVec 3) (l : List Nat), s.glob.porstLow = true →
      ∃ t, exec (.porstDeassertion p z l) s = .next t ∧ t.setup.stagePresent = p ∧ t.setup.stageSize = z) ∧
    (∀ (c : Instr) (t : State), assertsPorst c = false → (∀ p z l, c ≠ .porstDeassertion p z l) → exec c s = .next t →
      t.setup.stagePresent = s.setup.stagePresent ∧ t.setup.stageSize = s.setup.stageSize)

/-! ### Registers of the control window -/

/-- R77: a doorbell write with a TAIL inside the ring. RUNNING takes it as the new tail, DISABLED records it, and a queue that is
HALTED, DESTROYING or ABSENT ignores it; INV set besides discards the entry cache (R79). No other queue changes. While all queues of
a function are halted, every write of its doorbells is ignored; the admin queue is no part of function 0's halt (R94). -/
def Sys2Proof.Claims.DoorbellByState : Prop :=
  (∀ (s : State) (f slot : Nat) (value : BitVec 16), s.queuesHalted f = true →
    (f ≠ 0 ∨ ∀ q, FMap.find s.sqs 0 = some q → q.state = .halted) →
    exec (.sqDoorbell f slot value) s = .next s ∧ exec (.inv f slot value) s = .next s ∧ Acts (.cqDoorbell f slot value) s s) ∧
  ∀ (s : State) (f slot : Nat) (tail : BitVec 16), s.ctlReady = true → FMap.has s.fns f = true →
    (s.queuesHalted f = false ∨ f = 0 ∧ ∃ q, FMap.find s.sqs 0 = some q ∧ q.state ≠ .halted) →
    (∀ qid q, s.sqAt f slot = some (qid, q) → tail.toNat < ringSize q.log2 →
      (q.state = .running ∨ q.state = .disabled →
        (∃ t, exec (.sqDoorbell f slot tail) s = .next t ∧ FMap.find t.sqs qid = some { q with tail := tail.toNat } ∧
          ∀ k, k ≠ qid → FMap.find t.sqs k = FMap.find s.sqs k) ∧
        (∃ t, exec (.inv f slot tail) s = .next t ∧
          FMap.find t.sqs qid = some { q with tail := tail.toNat, cache := [] } ∧
          ∀ k, k ≠ qid → FMap.find t.sqs k = FMap.find s.sqs k)) ∧
      (q.state = .halted ∨ q.state = .destroying ∨ q.state = .absent →
        exec (.sqDoorbell f slot tail) s = .next s ∧ exec (.inv f slot tail) s = .next s)) ∧
    (s.sqAt f slot = none → exec (.sqDoorbell f slot tail) s = .next s ∧ exec (.inv f slot tail) s = .next s)

/-- A doorbell value past the end of the ring changes nothing but the function's event counter (R74). -/
def Sys2Proof.Claims.DoorbellOutOfRange : Prop :=
  ∀ (s : State) (f slot qid : Nat) (q : Sq) (tail : BitVec 16), s.ctlReady = true → FMap.has s.fns f = true →
    s.doorbellsOff f = false → s.sqAt f slot = some (qid, q) → q.state = .running ∨ q.state = .disabled →
    ringSize q.log2 ≤ tail.toNat →
    exec (.sqDoorbell f slot tail) s = .next { s with ctr := s.ctr.add (ctrId 7 f 0) 1 } ∧
    exec (.inv f slot tail) s = .next { s with ctr := s.ctr.add (ctrId 7 f 0) 1 }

/-- CQ_DOORBELL moves the head of a RUNNING completion ring that holds no completion back, and nothing else of it (R77, R84). That the
doorbells of a function whose queues are all halted are ignored for rings as well is the model's choice, log 73. -/
def Sys2Proof.Claims.CompletionDoorbell : Prop :=
  ∀ (s : State) (f slot qid : Nat) (r : Cq) (head : BitVec 16), s.ctlReady = true → FMap.has s.fns f = true →
    s.doorbellsOff f = false → s.cqAt f slot = some (qid, r) → r.state = .running → r.held = [] →
    head.toNat < ringSize r.log2 →
    ∃ t, Acts (.cqDoorbell f slot head) s t ∧ FMap.find t.cqs qid = some { r with head := head.toNat } ∧
      (∀ k, k ≠ qid → FMap.find t.cqs k = FMap.find s.cqs k) ∧ t.sqs = s.sqs ∧ t.accepted = s.accepted ∧
      t.issued = s.issued

/-- R13, reads: a read of _LO returns the lower half and latches the upper one; a read of _HI returns the latch. -/
def Sys2Proof.Claims.PairReads : Prop :=
  ∀ (s : State) (lo v : Nat), s.ctlReady = true → pairValue s lo = some v →
    (∃ t, exec (.loRead lo) s = .next t ∧ t.issued = s.issued ++ [.ctlRead lo (BitVec.ofNat 32 v)] ∧
      FMap.find t.glob.latches lo = some (BitVec.ofNat 32 (v / 2 ^ 32)) ∧
      ∀ k, k ≠ lo → FMap.find t.glob.latches k = FMap.find s.glob.latches k) ∧
    exec (.loRead (lo + 4)) s =
      .next { s with issued := s.issued ++ [.ctlRead (lo + 4) (FMap.getD s.glob.latches lo 0)] }

/-- R13, writes, on the pairs that software writes: a write of _LO is held and changes no register; a write of _HI commits both
halves at once. While their ring is enabled both are ignored, and the held half with them (R453 item 1, Table 16-19). A new base sets the
submission ring's indices to 0. -/
def Sys2Proof.Claims.PairWrites : Prop :=
  ∀ (s : State) (lo hi : Word), s.ctlReady = true → s.admWritable = true →
    (∀ off, off = 0x10000 ∧ s.adm.asqEnable = false ∨ (off = 0x10010 ∨ off = 0x10020) ∧ s.adm.acqEnable = false →
      exec (.registerWrite off lo) s =
        .next (s.keepSetup (State.settle { s with glob := { s.glob with held := FMap.put s.glob.held off lo } }))) ∧
    (∀ off, off = 0x10000 ∧ s.adm.asqEnable = true ∨ (off = 0x10010 ∨ off = 0x10020) ∧ s.adm.acqEnable = true →
      exec (.registerWrite off lo) s = .next (s.keepSetup s.settle) ∧
      exec (.hiWrite (off + 4) hi) s = .next { s with glob := { s.glob with held := FMap.del s.glob.held off } }) ∧
    (s.adm.asqEnable = false → FMap.find s.glob.held 0x10000 = some lo →
      ∃ t, exec (.hiWrite 0x10004 hi) s = .next t ∧ t.adm = { s.adm with asqBase := hi.toNat * 2 ^ 32 + lo.toNat } ∧
        (t.adm.asqBase = s.adm.asqBase → t.sqs = s.sqs) ∧
        (t.adm.asqBase ≠ s.adm.asqBase → ∀ q, FMap.find s.sqs 0 = some q → FMap.find t.sqs 0 =
          some { q with head := 0, tail := 0, cache := [], base := t.adm.asqBase, log2 := t.adm.asqLog2 })) ∧
    (s.adm.acqEnable = false → FMap.find s.glob.held 0x10010 = some lo →
      ∃ t, exec (.hiWrite 0x10014 hi) s = .next t ∧ t.adm = { s.adm with acqBase := hi.toNat * 2 ^ 32 + lo.toNat }) ∧
    (s.adm.acqEnable = false → FMap.find s.glob.held 0x10020 = some lo → lo.toNat % 4 = 0 →
      ∃ t, exec (.hiWrite 0x10024 hi) s = .next t ∧ t.adm = { s.adm with acqIntAddr := hi.toNat * 2 ^ 32 + lo.toNat })

/-- Every aligned read of the control window outside the unlocked debug region answers with the register's value and, but for a
_LO half's latch, changes nothing; the locked debug region reads zero (R61, R458). Three identity registers read as Table 16-3
gives them. -/
def Sys2Proof.Claims.RegisterReads : Prop :=
  ∀ (s : State) (off : Nat), s.ctlReady = true → off % 4 = 0 → s.debugOpen off = false →
    (∃ t, exec (.loRead off) s = .next t ∧ t.issued = s.issued ++ [.ctlRead off (s.readReg off)] ∧
      t = { s with issued := t.issued, glob := { s.glob with latches := t.glob.latches } }) ∧
    s.readReg 0x00 = 0x02019400#32 ∧ s.readReg 0x14 = s.glob.fault.zeroExtend 32 ∧
    (0x800000 ≤ off → s.readReg off = 0)

/-- The one stop of the block (R458): an access inside the debug region that Lordal's procedure has unlocked, whose contents lie
outside the manual. -/
def Sys2Proof.Claims.DebugRegionStops : Prop :=
  ∀ (s : State) (off : Nat) (v : Word), s.ctlReady = true → s.glob.debugUnlocked = true → 0x800000 ≤ off → off < 0x1000000 →
    exec (.loRead off) s = .fault (.debugRegion off) ∧ exec (.registerWrite off v) s = .fault (.debugRegion off)

/-- Every command answers a next state but the accesses to the unlocked debug region (R458): the model refuses nothing. -/
def Sys2Proof.Claims.OnlyDebugStops : Prop :=
  ∀ (c : Instr) (s : State),
    (∃ t, exec c s = .next t) ∨
    (∃ off, s.debugOpen off = true ∧ (c = .loRead off ∨ ∃ v, c = .registerWrite off v) ∧
      exec c s = .fault (.debugRegion off))

/-- An access of a wrong size or alignment is answered with an error and logged with its offset and size, and changes no register
(R61). While Masthead restarts the log entry is held. -/
def Sys2Proof.Claims.BadAccess : Prop :=
  ∀ (s : State) (off size : Nat), s.ctlReady = true → ¬(size = 4 ∧ off % 4 = 0) →
    ∃ t, exec (.ctlBadAccess off size) s = .next t ∧ t.issued = s.issued ++ [.ctlError off size] ∧
      (s.restarting .masthead = false → Logged t 0x0103 [off, size]) ∧ t = { s with issued := t.issued, log := t.log, ctr := t.ctr }

/-- Writes of single registers. PF_PASID is taken while both admin rings are disabled, the block is not halted and no slice holds the
PASID (R337, Table 16-9), and ACQ_COAL and ACQ_INT_DATA while ACQ_CTRL's ENABLE is 0 (R453 item 1). ECC_FLIP_MASK is taken whole but for
its reserved bits (Table 11-4), and a TARGET above 2 leaves the field as it is (R9). A write of MB_REQ stores its word; while BUSY it
leaves the payload of the request in progress open (R456, log 21). MB_DOORBELL takes the request that MB_REQ holds, counts one that comes
while BUSY, and is ignored while the mailbox is not ready (R387); a CMD that Table 14-1 does not list is answered at once, which is the
model's choice, log 185. -/
def Sys2Proof.Claims.SingleWrites : Prop :=
  ∀ (s : State) (v : Word), s.ctlReady = true →
    (s.adm.asqEnable = false → s.adm.acqEnable = false → s.glob.halted = false → (∀ x ∈ s.slices, x.2.pasid ≠ v.toNat % 2 ^ 20) →
      Resets (.registerWrite 0x20 v) s { s with glob := { s.glob with pfPasid := v.toNat % 2 ^ 20 } }) ∧
    (s.adm.asqEnable = true ∨ s.adm.acqEnable = true ∨ s.glob.halted = true ∨ (∃ x ∈ s.slices, x.2.pasid = v.toNat % 2 ^ 20) →
      Resets (.registerWrite 0x20 v) s s) ∧
    (s.admWritable = true → s.adm.acqEnable = false →
      Resets (.registerWrite 0x1002C v) s
        { s with adm := { s.adm with coalTicks := v.toNat / 65536, coalCount := v.toNat % 65536 } } ∧
      Resets (.registerWrite 0x10028 v) s { s with adm := { s.adm with acqIntData := v.toNat } }) ∧
    (s.admWritable = false ∨ s.adm.acqEnable = true →
      Resets (.registerWrite 0x1002C v) s s ∧ Resets (.registerWrite 0x10028 v) s s) ∧
    (v.toNat / 2 ^ 28 % 8 ≤ 2 →
      Resets (.registerWrite 0x100 v) s { s with glob := { s.glob with eccFlip := v &&& 0xFFF800FF#32 } }) ∧
    (2 < v.toNat / 2 ^ 28 % 8 →
      Resets (.registerWrite 0x100 v) s { s with glob := { s.glob with
        eccFlip := (v &&& 0x8FF800FF#32) ||| (s.glob.eccFlip &&& 0x70000000#32) } }) ∧
    (∀ i, i < 1024 → ∃ t, Resets (.registerWrite (0x400000 + 4 * i) v) s t ∧ NMap.get t.mb.req i = v.toNat ∧
      (∀ k, k ≠ i → NMap.get t.mb.req k = NMap.get s.mb.req k) ∧
      (s.mb.outstanding = none → t = { s with mb := { s.mb with req := t.mb.req } }) ∧
      (∀ r, s.mb.outstanding = some r → ∃ p, p.length = r.payload.length ∧
        t = { s with free := s.free + 1, mb := { s.mb with req := t.mb.req, outstanding := some { r with payload := p } } })) ∧
    (∀ bs, bs = s.mb.bytes → s.mb.outstanding = none → s.mb.notReady = false → ∃ t, Resets (.registerWrite 0x402000 v) s t ∧
      ((leAt bs 0 1 = 0x01 ∨ leAt bs 0 1 = 0x62 ∨ leAt bs 0 1 ∈ mailboxRows.map (·.1)) →
        t = { s with mb := { s.mb with
          done := false
          outstanding := some (⟨leAt bs 0 1, leAt bs 1 1, leAt bs 2 2, leAt bs 4 4, slice bs 8 (min (leAt bs 2 2) 4088)⟩ : MbReq) } }) ∧
      (¬(leAt bs 0 1 = 0x01 ∨ leAt bs 0 1 = 0x62 ∨ leAt bs 0 1 ∈ mailboxRows.map (·.1)) →
        t = { s with mb := { s.mb with done := true, outstanding := none
                                       resp := toLe 1 (leAt bs 0 1) ++ toLe 1 (if s.glob.recovery then 3 else 1) ++ toLe 2 0 ++
                                         toLe 4 (leAt bs 4 4) } })) ∧
    (s.mb.outstanding ≠ none → Resets (.registerWrite 0x402000 v) s (s.bump (ctrId 0 0 3))) ∧
    (s.mb.outstanding = none → s.mb.notReady = true → Resets (.registerWrite 0x402000 v) s s)

/-- R447: a GLOBAL_CTRL write whose KEY is not 0xA5 is ignored and recorded; with KEY right, BLK_RESET resets and boots the block
(the boot count rises, R398), and a write that sets PWR_DOWN too acts as BLK_RESET alone. A boot that has staging to write first (R180)
goes on until its writes are answered. -/
def Sys2Proof.Claims.GlobalCtrlKey : Prop :=
  ∀ (s : State) (v : Word) (fails : List Nat) (r : BootReads), s.ctlReady = true →
    (v.extractLsb' 24 8 ≠ 0xA5#8 →
      exec (.blkReset v fails r) s = .next (s.keepSetup (s.logBadAccess 0x18 4).settle) ∧
      exec (.pwrDown v) s = .next (s.keepSetup (s.logBadAccess 0x18 4).settle)) ∧
    (v.extractLsb' 24 8 = 0xA5#8 → v.getLsbD 0 = true →
      (∃ t, exec (.blkReset v fails r) s = .next t ∧ t.setup = s.setup ∧ Booted s t ∧
        t.pen.boot = min ((if s.glob.afterPorst && s.pen.lostSupply then s.pen.bestRec.boot else s.pen.boot) + 1) 0xFFFFFFFF) ∧
      exec (.pwrDown v) s = exec (.blkReset v [] {}) s)

/-- R436: PWR_DOWN alone puts the block in PENNANT where it is in IDLE, no slice exists and no CLEAT_WAIT waits: the life record is
written, the main rails are switched off, and what BLK_RST_N keeps (R71), with the Telltale's level and held risk (R396), stays; all
else takes its reset value. Otherwise the request is logged with its cause and nothing else changes; while Trim restarts it waits, log
196, and once Trim is back it is tested in the state that then holds. -/
def Obligations.PowerDown : Prop :=
  ∀ (s : State) (v : Word), s.ctlReady = true → v.extractLsb' 24 8 = 0xA5#8 → v.getLsbD 0 = false → v.getLsbD 1 = true →
    (s.restarting .trim = false →
      (s.glob.power = .idle → s.slices = [] → s.accepted.any Acc.isWait = false →
        ∃ t, Resets (.pwrDown v) s t ∧ t.glob.power = .pennant ∧ t.glob.ready = false ∧ t.glob.fault = 0 ∧ t.setup = s.setup ∧
          t.pen.lifeS = s.pen.lifeS ∧ t.pen.boot = s.pen.boot ∧ t.pen.tally = s.pen.tally ∧ t.pen.dues = s.pen.dues ∧
          (s.pen.recNext = false → t.pen.recA = s.pen.lifeRec) ∧ (s.pen.recNext = true → t.pen.recB = s.pen.lifeRec) ∧
          t.tt = { held := s.tt.held, level := s.tt.level } ∧ t.log = s.log ∧ t.unknown = s.unknown ∧ t.fw = s.fw ∧
          t.spdm = { chain := s.spdm.chain } ∧
          (∀ y w, FMap.find s.yards y = some w → s.tests.trials = [] → ∃ z, FMap.find t.yards y = some z ∧ z.fenced = w.fenced ∧
            z.standA = w.standA ∧ z.standB = w.standB ∧ z.strikes = []) ∧
          (∀ p l, FMap.find s.links p = some l → ∃ w, FMap.find t.links p = some w ∧ w.state = .down ∧ w.linkUp = l.linkUp ∧ w.txKey = []) ∧
          t.issued = s.issued ++ s.setup.mainRails.map (fun r => Out.sideband 0 r.2 0x00) ∧
          t.adm = Adm.reset ∧ t.sqs = [] ∧ t.cqs = [] ∧ t.accepted = [] ∧ t.fns = [] ∧ t.hbInt = [] ∧ t.eps = [] ∧ t.lost = [] ∧
          t.rigs = {} ∧ t.jobs = [] ∧ t.gens = [] ∧ t.restores = [] ∧ t.forks = [] ∧ t.dir = [] ∧ t.dirQ = [] ∧ t.scrubs = [] ∧
          t.sheets = [] ∧ t.tackle = [] ∧ t.cleats = [] ∧ t.keys = {} ∧ t.freqs = [] ∧ t.waitPkts = [] ∧ t.sreqs = [] ∧ t.hreqs = [] ∧
          t.xfers = [] ∧ t.procs = {} ∧ t.mb = {} ∧ t.image = none ∧ t.ctr = {} ∧ t.epochSeq = 1) ∧
      (s.glob.power ≠ .idle → Resets (.pwrDown v) s (s.logEvent 0x080B [1])) ∧
      (s.glob.power = .idle → s.slices ≠ [] → Resets (.pwrDown v) s (s.logEvent 0x080B [2])) ∧
      (s.glob.power = .idle → s.slices = [] → s.accepted.any Acc.isWait = true →
        Resets (.pwrDown v) s (s.logEvent 0x080B [3]))) ∧
    (s.restarting .trim = true → Resets (.pwrDown v) s { s with procs := { s.procs with pwrWait := true } }) ∧
    (s.restarting .trim = true → s.procs.pwrWait = true → s.accepted = [] → ∀ ok, ∃ w : State,
      exec (.processorRestartComplete .trim ok) s = .next (s.keepSetup w.pwrDown.settle) ∧ w.restarting .trim = false ∧
      w.procs.pwrWait = false)

/-- W1C of GLOBAL_FAULT clears the bits written as 1 whose cause holds no more, and nothing else (R446). -/
def Sys2Proof.Claims.FaultW1c : Prop :=
  ∀ (s : State) (v : Word), s.ctlReady = true →
    exec (.globalFaultW1c v) s = .next { s with glob := { s.glob with
      fault := s.glob.fault &&& (~~~(v.truncate 16) ||| s.faultHolds) } }

/-- R451, R375: a write of HB_INTERVAL sets the value and restarts the function's interval, even when the value is unchanged, and
for a function that does not exist sets the value; a heartbeat restarts the interval. -/
def Obligations.Heartbeats : Prop :=
  ∀ (s : State) (f : Nat) (v : Word), s.ctlReady = true → f < 256 →
    (∃ t, exec (.hbInterval f v) s = .next t ∧
      (FMap.Sorted s.hbInt → FMap.getD t.hbInt f 0x40 = v.toNat % 65536) ∧
      FMap.find t.fns f = (FMap.find s.fns f).map (fun x => { x with beat := s.pen.timer, missed := false }) ∧
      (∀ k, k ≠ f → FMap.find t.hbInt k = FMap.find s.hbInt k ∧ FMap.find t.fns k = FMap.find s.fns k)) ∧
    (∃ t, exec (.hostHeartbeat f v) s = .next t ∧
      FMap.find t.fns f = (FMap.find s.fns f).map (fun x => { x with beat := s.pen.timer, missed := false }) ∧
      (∀ k, k ≠ f → FMap.find t.fns k = FMap.find s.fns k) ∧ t = { s with fns := t.fns })

/-- R453: ASQ_CTRL and ACQ_CTRL. An enable with valid ring set-up starts the ring, at zero; the admin submission queue needs the
completion ring enabled; a disable stops the queue, and the completion ring's waits for the last admin completion. -/
def Obligations.AdminRings : Prop :=
  ∀ (s : State) (n : Nat), s.ctlReady = true → s.admWritable = true → s.glob.ready = true → 4 ≤ n → n ≤ 16 →
    (s.adm.acqEnable = false → s.adm.acqBase % 4096 = 0 →
      ∃ t, Acts (.acqCtrl (BitVec.ofNat 32 (0x80000000 + n))) s t ∧ t.adm = { s.adm with acqEnable := true, acqLog2 := n } ∧
        (FMap.find t.cqs 0).map (fun r => (r.state, r.head, r.tail, r.log2, r.base)) =
          some (.running, 0, 0, n, s.adm.acqBase)) ∧
    (s.adm.asqEnable = false → s.adm.acqEnable = true → s.adm.acqStopping = false → s.adm.asqBase % 4096 = 0 →
      s.adm.asqLog2 = n → ∀ q, FMap.find s.sqs 0 = some q →
      ∃ t, Acts (.asqCtrl (BitVec.ofNat 32 (0x80000000 + n))) s t ∧ t.adm = { s.adm with asqEnable := true } ∧
        FMap.find t.sqs 0 = some { q with state := .running, base := s.adm.asqBase, log2 := n }) ∧
    (s.adm.asqEnable = true → ∀ q, FMap.find s.sqs 0 = some q → q.state = .running →
      ∃ t, Acts (.asqCtrl 0) s t ∧ t.adm = { s.adm with asqEnable := false } ∧
        FMap.find t.sqs 0 = some { q with state := .disabled, cache := [] }) ∧
    (s.adm.acqEnable = true → s.adm.asqEnable = false →
      ∃ t, Acts (.acqCtrl 0) s t ∧ t.adm = { s.adm with acqStopping := true })

/-! ### The mailbox and the SPDM responder -/

/-- R387: what a response is: the request's CMD, RESULT, the payload's length, the request's TAG and the payload; DONE is set and
the mailbox is free again. -/
def Sys2Proof.Claims.MailboxResponse : Prop :=
  ∀ (s : State) (r : MbReq) (result : Nat) (p : List Byte), r.cmd < 256 → r.tag < 2 ^ 32 → result < 256 → p.length ≤ 4088 →
    let m := (s.respond r (result, p)).mb
    m.outstanding = none ∧ m.done = true ∧ m.resp.length = 8 + p.length ∧ leAt m.resp 0 1 = r.cmd ∧ leAt m.resp 1 1 = result ∧
      leAt m.resp 2 2 = p.length ∧ leAt m.resp 4 4 = r.tag ∧ m.resp.drop 8 = p

/-- R390, R391: SENSOR_READ answers eight bytes for each index from FIRST: the reading and its STALE, WARN and CRIT bits, or zero
and ABSENT for an index whose device is not declared. That an index without a sensor reads so is the
model's choice, log 190. SENSOR_LIMITS sets the four limits of one index, and nothing else. -/
def Sys2Proof.Claims.MailboxSensors : Prop :=
  ∀ (s : State) (r : MbReq), Holds s r →
    (∀ first n : Nat, r.cmd = 0x10 → r.len = 2 → leAt r.payload 0 1 = first → leAt r.payload 1 1 = n → 1 ≤ n → first + n ≤ 128 →
      ∃ p, Replies .sensorRead s r p ∧ p.length = 8 * n ∧ ∀ i, i < n →
        (s.setup.declared (first + i) = true →
          leAt p (8 * i) 4 = (s.sensor (first + i)).reading.toNat ∧
          leAt p (8 * i + 4) 4 = b2n (s.sensor (first + i)).stale + 2 * b2n (s.sensor (first + i)).warn +
            4 * b2n (s.sensor (first + i)).crit) ∧
        (s.setup.declared (first + i) = false → leAt p (8 * i) 4 = 0 ∧ leAt p (8 * i + 4) 4 = 8)) ∧
    (∀ i : Nat, r.cmd = 0x11 → r.len = 20 → r.payload.length = 20 → leAt r.payload 0 1 = i → leAt r.payload 1 3 = 0 →
      sensorListed i = true →
      ∃ t, exec .sensorLimits s = .next t ∧ t.sensor i = { s.sensor i with
          low := BitVec.ofNat 32 (leAt r.payload 4 4), warnAt := BitVec.ofNat 32 (leAt r.payload 8 4),
          critAt := BitVec.ofNat 32 (leAt r.payload 12 4), hyst := BitVec.ofNat 32 (leAt r.payload 16 4) } ∧
        (∀ k, k ≠ i → t.sensor k = s.sensor k) ∧ t = { s with sensors := t.sensors, mb := (s.respond r (0, [])).mb })

/-- R397, R399, R395, R401, R407, R409, R411: what the reads of the mailbox answer: the life clock, boot count and calendar; the
Telltale; the event log from a START that the store holds, from its oldest entry where START has been overwritten, and
nothing where START is yet to come; live and shadowed counters; a job's index; and the tally. -/
def Sys2Proof.Claims.MailboxReads : Prop :=
  ∀ (s : State) (r : MbReq), Holds s r →
    (r.cmd = 0x30 → r.len = 0 → Replies .clockRead s r
      (toLe 4 s.pen.lifeS ++ toLe 4 s.pen.lifeTick ++ toLe 8 s.pen.boot ++ toLe 8 s.pen.calOffset ++ toLe 1 (b2n s.pen.calValid))) ∧
    (r.cmd = 0x71 → r.len = 0 → Replies .telltaleRead s r
      (toLe 2 s.tt.held ++ toLe 2 s.tt.raw ++ toLe 4 s.tt.level ++
        (List.range 32).flatMap fun i => toLe 2 (NMap.get s.tt.terms i))) ∧
    (r.cmd = 0x20 → r.len = 7 → leAt r.payload 6 1 = 0 → 1 ≤ leAt r.payload 4 2 → leAt r.payload 4 2 ≤ 63 →
      ∀ older : List LogEnt, ∀ last : LogEnt, s.log.always = older ++ [last] →
      (∀ (before after : List LogEnt) (e : LogEnt), s.log.always = before ++ e :: after →
        e.seq = BitVec.ofNat 32 (leAt r.payload 0 4) → (∀ x ∈ before, x.seq ≠ e.seq) →
        Replies .logRead s r (toLe 4 0 ++ toLe 4 (min (leAt r.payload 4 2) (1 + after.length)) ++
          ((e :: after).take (leAt r.payload 4 2)).flatMap LogEnt.bytes)) ∧
      ((∀ x ∈ s.log.always, x.seq ≠ BitVec.ofNat 32 (leAt r.payload 0 4)) →
        (serialGt (BitVec.ofNat 32 (leAt r.payload 0 4)) last.seq = true → Replies .logRead s r (toLe 4 0 ++ toLe 4 0)) ∧
        (serialGt (BitVec.ofNat 32 (leAt r.payload 0 4)) last.seq = false →
          Replies .logRead s r (toLe 4 1 ++ toLe 4 (min (leAt r.payload 4 2) s.log.always.length) ++
            (s.log.always.take (leAt r.payload 4 2)).flatMap LogEnt.bytes)))) ∧
    (r.cmd = 0x40 → ∀ ids : List Nat, ids ≠ [] → ids.length ≤ 500 → r.payload.length = r.len →
      r.payload = toLe 4 ids.length ++ ids.flatMap (toLe 4) →
      (∀ w ∈ ids, w < 2 ^ 32 ∧ w / 2 ^ 24 % 128 = 0 ∧ ctrClass (w % 2 ^ 24) ≠ none) →
      Replies .counterRead s r (toLe 8 s.ctr.latchSeq.toNat ++ ids.flatMap fun w =>
        toLe 8 (if 2 ^ 31 ≤ w then NMap.get s.ctr.shadow (w % 2 ^ 24) else s.counter (w % 2 ^ 24)))) ∧
    (r.cmd = 0x41 → r.len = 8 → Replies .jobLookup s r
      (toLe 2 (((FMap.find s.jobs (leAt r.payload 0 8)).bind (·.idx)).getD 0xFFFF))) ∧
    (r.cmd = 0x50 → r.len = 0 → ∃ p, Replies .tallyRead s r p ∧ p.length = 32 ∧ ∀ n, n < 4 →
      (s.pen.FusesLawful → leAt p (8 * n) 1 = (s.pen.records (n + 1)).length ∧
        leAt p (8 * n + 1) 3 = tallyMax (n + 1) - (s.pen.records (n + 1)).length) ∧
      (s.pen.tallyValue (n + 1) < 2 ^ 32 → leAt p (8 * n + 4) 4 = s.pen.tallyValue (n + 1)))

/-- R399, R400, R394: CAL_SET sets the calendar's offset and its validity; DUE_SET sets one due entry or, with a time of zero,
clears it; TELLTALE_INPUT sets one input. Each changes nothing else but the mailbox. -/
def Sys2Proof.Claims.MailboxWrites : Prop :=
  ∀ (s : State) (r : MbReq), Holds s r →
    (r.cmd = 0x31 → r.len = 8 → exec .calSet s = .next
      { s with mb := (s.respond r (0, [])).mb, pen := { s.pen with calOffset := leAt r.payload 0 8, calValid := true } }) ∧
    (r.cmd = 0x32 → r.len = 12 → leAt r.payload 2 2 = 0 → leAt r.payload 0 1 ≤ 31 → leAt r.payload 1 1 ≤ 1 →
      ∃ t, exec .dueSet s = .next t ∧
        (leAt r.payload 4 4 ≠ 0 → FMap.find t.pen.dues (leAt r.payload 0 1) =
          some ⟨leAt r.payload 1 1 == 1, leAt r.payload 4 4, leAt r.payload 8 4⟩) ∧
        (leAt r.payload 4 4 = 0 → FMap.Sorted s.pen.dues → FMap.find t.pen.dues (leAt r.payload 0 1) = none) ∧
        (∀ k, k ≠ leAt r.payload 0 1 → FMap.find t.pen.dues k = FMap.find s.pen.dues k) ∧
        t = { s with mb := (s.respond r (0, [])).mb, pen := { s.pen with dues := t.pen.dues } }) ∧
    (r.cmd = 0x70 → r.len = 8 → r.payload.length = 8 → leAt r.payload 1 3 = 0 → leAt r.payload 0 1 ≤ 31 →
      ∃ t, exec .telltaleInput s = .next t ∧ NMap.get t.tt.inputs (leAt r.payload 0 1) = leAt r.payload 4 4 ∧
        (∀ k, k ≠ leAt r.payload 0 1 → NMap.get t.tt.inputs k = NMap.get s.tt.inputs k) ∧
        t = { s with mb := (s.respond r (0, [])).mb, tt := { s.tt with inputs := t.tt.inputs } })

/-- R414, R415: staging an image through the mailbox, in RECOVERY too, where the boot ROM also answers CLOCK_READ: IMAGE_BEGIN opens a
staging of the image's length, IMAGE_DATA adds bytes at an offset, and IMAGE_END, where the staged bytes pass every check of R369,
writes them into the slot that is not active and closes the staging; ACTIVATE, or RECOVERY, sets the activation pending. Where a
check of the image's contents fails, the slot holds no image, and the answer is RANGE or, for a digest or signature, AUTH_FAIL. -/
def Sys2Proof.Claims.MailboxImages : Prop :=
  ∀ (s : State) (r : MbReq), Presents s r →
    (r.cmd = 0x30 → r.len = 0 → s.glob.recovery = true → Replies .clockRead s r
      (toLe 4 s.pen.lifeS ++ toLe 4 s.pen.lifeTick ++ toLe 8 s.pen.boot ++ toLe 8 s.pen.calOffset ++ toLe 1 (b2n s.pen.calValid))) ∧
    (r.cmd = 0x60 → r.len = 8 → r.payload.length = 8 → leAt r.payload 1 3 = 0 →
      (∀ a ∈ s.accepted, ∀ x n, a.op ≠ .fwStage (leAt r.payload 0 1) x n) → (s.fwCode (leAt r.payload 0 1)).pending = false →
      128 + sigBlockLen ≤ leAt r.payload 4 4 → codeLenOk (leAt r.payload 0 1) (leAt r.payload 4 4 - 128 - sigBlockLen) = true →
      exec .imageBegin s = .next
        { s with mb := (s.respond r (0, [])).mb, image := some { image := leAt r.payload 0 1, total := leAt r.payload 4 4 } }) ∧
    (r.cmd = 0x61 → 4 ≤ r.len → r.len ≤ 4084 → ∀ i : ImgStage, s.image = some i → leAt r.payload 0 4 % 64 = 0 →
      leAt r.payload 0 4 + (r.payload.length - 4) ≤ i.total →
      exec .imageData s = .next
        { s with mb := (s.respond r (0, [])).mb
                 image := some { i with chunks := i.chunks ++ [(leAt r.payload 0 4, r.payload.drop 4)] } }) ∧
    (r.cmd = 0x62 → r.len = 1 → leAt r.payload 0 1 ≤ 1 → s.restarting .shroud = false →
      ∀ i : ImgStage, s.image = some i → fwHeaderOk i.bytes = true →
      (State.fwRefusal { s with image := none } i.image i.total s.pen.inForce.svn i.bytes = none →
        ∃ t, exec .imageEnd s = .next t ∧ t.image = none ∧ t.fwCode i.image = { (s.fwCode i.image).store (some (s.fwRecord i.bytes)) with
            pending := leAt r.payload 0 1 == 1 || s.glob.recovery } ∧
          (∀ k, k ≠ i.image → t.fwCode k = s.fwCode k) ∧ t.mb = (s.respond r (0, [])).mb) ∧
      (∀ c, State.fwRefusal { s with image := none } i.image i.total s.pen.inForce.svn i.bytes = some c →
        ∃ t, exec .imageEnd s = .next t ∧ t.image = none ∧ t.fwCode i.image = (s.fwCode i.image).store none ∧
          (∀ k, k ≠ i.image → t.fwCode k = s.fwCode k) ∧ t.mb = (s.respond r (if c.status = 0x26 then 4 else 5, [])).mb))

/-- R411, R412: a burn of a value that Table 14-11 allows, with its complement, adds one record to the setting, is logged as TALLY_BURNED
with the setting, its value and the changes that remain, and takes effect at the next PORST_N but for the security version, which is
in force at once. -/
def Sys2Proof.Claims.TallyBurns : Prop :=
  ∀ (s : State) (r : MbReq), Holds s r → r.cmd = 0x51 → r.len = 12 → r.payload.length = 12 → leAt r.payload 1 3 = 0 →
    leAt r.payload 8 4 = 2 ^ 32 - 1 - leAt r.payload 4 4 → s.glob.ready = true →
    s.tallyOk (leAt r.payload 0 1) (leAt r.payload 4 4) = true →
    (s.pen.records (leAt r.payload 0 1)).length < tallyMax (leAt r.payload 0 1) →
    ∃ t, exec .tallyBurn s = .next t ∧ t.pen.tally = s.pen.tally ++ [⟨leAt r.payload 0 1, leAt r.payload 4 4, true⟩] ∧
      t.pen.inForce = (if leAt r.payload 0 1 = 1 then { s.pen.inForce with svn := leAt r.payload 4 4 } else s.pen.inForce) ∧
      t.pen.tallyValue (leAt r.payload 0 1) = leAt r.payload 4 4 ∧ t.setup = s.setup ∧
      (s.restarting .masthead = false → Logged t 0x0708 [leAt r.payload 0 1, leAt r.payload 4 4,
        tallyMax (leAt r.payload 0 1) - (s.pen.records (leAt r.payload 0 1)).length - 1]) ∧
      t.mb = (s.respond r (0, [])).mb

/-- R387, R415: a request whose reserved byte is not zero or whose LEN exceeds 4,088 is answered MALFORMED, and in RECOVERY a
command that the boot ROM does not serve is answered DENIED; neither changes anything else. While the mailbox is not ready,
or holds another command, nothing is served. -/
def Sys2Proof.Claims.MailboxRefusals : Prop :=
  ∀ (s : State) (p : Nat × Instr), p ∈ mailboxRows →
    (∀ r, s.mb.outstanding = some r → r.cmd = p.1 → s.mb.notReady = false →
      (s.glob.recovery = true → p.1 ≠ 0x30 → p.1 ≠ 0x60 → p.1 ≠ 0x61 → exec p.2 s = .next (s.respond r (3, []))) ∧
      (s.glob.recovery = false → (r.reserved ≠ 0 ∨ 4088 < r.len) → exec p.2 s = .next (s.respond r (1, [])))) ∧
    ((s.mb.outstanding = none ∨ s.mb.notReady = true ∨ ∃ r, s.mb.outstanding = some r ∧ r.cmd ≠ p.1) →
      exec p.2 s = .next s)

/-- R315: every SPDM request that the mailbox holds is answered, with RESULT OK, and joins the connection's transcripts with its
response; the responder's chain changes only by SET_CERTIFICATE. Table 10-5's requests answer with the code of the request less
0x80; a GET_MEASUREMENTS of an index without a block with ERROR, InvalidRequest; and the others with ERROR,
UnsupportedRequest. The codes and the bodies' contents are the model's, log 23. -/
def Sys2Proof.Claims.SpdmServes : Prop :=
  ∀ (s : State) (r : MbReq) (p : SpdmReq × Instr), p ∈ spdmRows → Holds s r → r.cmd = 0x01 → r.spdm = p.1 →
    s.restarting .shroud = false →
    ∃ t b, exec p.2 s = .next t ∧ t.mb = (s.respond r (0, b)).mb ∧ 4 ≤ b.length ∧
      t.spdm = { (s.spdm.heard p.1 r.payload).said p.1 r.wantsSignature b with chain := t.spdm.chain } ∧
      (p.1 ≠ .setCertificate → t.spdm.chain = s.spdm.chain) ∧
      t = { s with mb := t.mb, spdm := t.spdm, free := t.free } ∧
      leAt b 0 1 = r.spdmVersion % 256 ∧
      (p.1 = .unsupported → b = [BitVec.ofNat 8 r.spdmVersion, 0x7F, 0x07, 0]) ∧
      (p.1 = .getMeasurements → s.measuresFor (leAt r.payload 3 1) = none →
        b = [BitVec.ofNat 8 r.spdmVersion, 0x7F, 0x01, 0]) ∧
      (p.1 = .getMeasurements → s.measuresFor (leAt r.payload 3 1) ≠ none → leAt b 1 1 = 0x60) ∧
      (p.1 ≠ .unsupported → p.1 ≠ .getCertificate → p.1 ≠ .setCertificate → p.1 ≠ .getMeasurements →
        leAt b 1 1 = p.1.code - 0x80)

/-- R315, R316: DIGESTS carries SHA-384 of the chain, CERTIFICATE the portion asked for with what remains, and SET_CERTIFICATE
stores a chain of at most 16,384 B whose leaf holds the DeviceID public key where none is stored, and nothing otherwise. -/
def Sys2Proof.Claims.CertificateChain : Prop :=
  ∀ (s : State) (r : MbReq), Holds s r → r.cmd = 0x01 → s.restarting .shroud = false →
    (r.spdm = .getDigests → s.spdm.chain ≠ [] → ∃ t h, exec .getDigests s = .next t ∧
      t.mb = (s.respond r (0, h ++ sha384 s.spdm.chain)).mb ∧ h.length = 4) ∧
    (r.spdm = .getCertificate → 8 ≤ r.payload.length → leAt r.payload 4 2 < s.spdm.chain.length → ∃ t h n rest,
      exec .getCertificate s = .next t ∧
      t.mb = (s.respond r (0, h ++ toLe 2 n ++ toLe 2 rest ++ slice s.spdm.chain (leAt r.payload 4 2) n)).mb ∧
      h.length = 4 ∧ n ≤ leAt r.payload 6 2 ∧ leAt r.payload 4 2 + n + rest = s.spdm.chain.length) ∧
    (r.spdm = .setCertificate → ∃ t, exec .setCertificate s = .next t ∧
      t.spdm.chain = (if s.spdm.chain = [] ∧ r.payload.drop 4 ≠ [] ∧ (r.payload.drop 4).length ≤ 16384 ∧
          leafHolds (r.payload.drop 4) (devicePublic s.pen.deviceRoot) = true then r.payload.drop 4 else s.spdm.chain))

/-- R317: MEASUREMENTS carries the number of blocks asked for, the length of their record, the record and a nonce, and, where one is
asked for, a signature with the DeviceID key over the transcript. The blocks are Table 10-6's, by index from 1, of which 2 to 6
measure the five firmware images and 8 the slice partition. The places in the message are DSP0274's, log 23. -/
def Sys2Proof.Claims.Measurements : Prop :=
  ∀ (s : State) (r : MbReq), Holds s r → r.cmd = 0x01 → s.restarting .shroud = false → r.spdm = .getMeasurements →
    (∀ blocks, s.measuresFor (leAt r.payload 3 1) = some blocks → ∃ t h tail, exec .getMeasurements s = .next t ∧
      h.length = 4 ∧
      t.mb = (s.respond r (0, h ++ toLe 1 blocks.length ++ toLe 3 blocks.flatten.length ++ blocks.flatten ++ s.spdmNonce ++
        tail)).mb ∧
      (r.wantsSignature = false → tail = toLe 2 0 ++ r.spdmContext 4) ∧
      (r.wantsSignature = true → ∃ k, 1 ≤ k ∧ k < p384Order ∧ tail = toLe 2 0 ++ r.spdmContext 37 ++
        ecdsaSign (deviceKey s.pen.deviceRoot) k (spdmSigned r.spdmVersion "responder-measurements signing"
          (s.spdm.vca ++ (s.spdm.meas ++ r.payload) ++ (h ++ toLe 1 blocks.length ++ toLe 3 blocks.flatten.length ++
            blocks.flatten ++ s.spdmNonce ++ (toLe 2 0 ++ r.spdmContext 37)))))) ∧
    s.measuresFor 0 = some [] ∧ s.measuresFor 255 = some s.measures ∧ s.measures.length = 8 ∧
    (∀ i, 1 ≤ i → i ≤ 8 → ∃ b, s.measuresFor i = some [b] ∧ s.measures[i - 1]? = some b ∧ leAt b 0 1 = i) ∧
    (∀ code, code < 5 → s.measuresFor (code + 2) = some [dmtfBlock (code + 2) 1 false (s.measureImage code)]) ∧
    s.measuresFor 8 = some [dmtfBlock 8 3 false (toLe 4 s.rigs.cur.gen ++ sha384 s.partition)]

/-! ### Resets, supplies and pins -/

/-- R12, R70, R71: an assertion of PORST_N or BLK_RST_N stops the block at once and empties everything that the reset does not
spare. BLK_RST_N spares the set-up, the always-on domain, the lists of unknown granules, fences and stand-ins, sensor limits, the
certificate chain, the event log and the firmware store; PORST_N the clocks, fuses and firmware store alone, and after it the
areas of staging that boot writes are to be written again. What the block knows of the directory goes: boot reads it again. -/
def Obligations.ResetAssertions : Prop :=
  ∀ s : State,
    (∃ t, exec .blkRstAssertion s = .next t ∧ t.glob.power = .held ∧ t.glob.blkRstLow = true ∧ t.glob.ready = false ∧
      t.glob.fault = 0 ∧ t.setup = s.setup ∧ t.pen = s.pen ∧ t.unknown = s.unknown ∧ t.log = s.log ∧
      t.fw = s.fw ∧ t.spdm = { chain := s.spdm.chain } ∧ t.tap = s.tap ∧ t.glob.areaStale = s.glob.areaStale ∧ t.dir = [] ∧
      t.dirQ = [] ∧ t.scrubs = [] ∧
      (∀ y v, FMap.find s.yards y = some v → ∃ w, FMap.find t.yards y = some w ∧ w.fenced = v.fenced ∧ w.standA = v.standA ∧
        w.standB = v.standB ∧ w.strikes = []) ∧
      (∀ i x, FMap.find s.sensors i = some x → ∃ w, FMap.find t.sensors i = some w ∧ w.low = x.low ∧ w.warnAt = x.warnAt ∧
        w.critAt = x.critAt ∧ w.hyst = x.hyst ∧ w.reading = 0) ∧
      (∀ p l, FMap.find s.links p = some l → ∃ w, FMap.find t.links p = some w ∧ w.state = .down ∧ w.linkUp = l.linkUp) ∧
      t.adm = Adm.reset ∧ t.sqs = [] ∧ t.cqs = [] ∧ t.accepted = [] ∧ t.fns = [] ∧ t.hbInt = [] ∧ t.eps = [] ∧ t.rigs = {} ∧
      t.jobs = [] ∧ t.gens = [] ∧ t.restores = [] ∧ t.sheets = [] ∧ t.tackle = [] ∧ t.cleats = [] ∧ t.keys = {} ∧ t.freqs = [] ∧
      t.sreqs = [] ∧ t.hreqs = [] ∧ t.xfers = [] ∧ t.procs = {} ∧ t.mb = {} ∧ t.tt = {} ∧ t.image = none ∧ t.ctr = {} ∧
      t.epochSeq = 1) ∧
    (∃ t, exec .porstAssertion s = .next t ∧ t.glob.power = .held ∧ t.glob.porstLow = true ∧ t.glob.ready = false ∧
      t.setup = Setup.reset ∧ t.glob.areaStale = true ∧ t.dir = [] ∧ t.dirQ = [] ∧ t.scrubs = [] ∧ t.unknown = [] ∧ t.log = {} ∧ t.fw = s.fw ∧ t.spdm = {} ∧ t.yards = [] ∧
      t.sensors = [] ∧ t.keys = {} ∧ t.ctr = {} ∧ t.cleats = [] ∧ t.gens = [] ∧ t.sheets = [] ∧ t.accepted = [] ∧
      t.pen.lifeS = s.pen.lifeS ∧ t.pen.boot = s.pen.boot ∧ t.pen.tally = s.pen.tally ∧ t.pen.linkRoot = s.pen.linkRoot ∧
      t.pen.deviceRoot = s.pen.deviceRoot ∧ t.pen.dues = [] ∧ t.pen.calValid = false)

/-- R70, R180, R398, Table 2-12: the deassertion of the last reset boots the block, which counts the boot: READY with queue 0 and function
0 alone, or RECOVERY where no image of some code is good. Where staging is present and no boot since PORST_N has written the
directory's and the log's areas of it, READY waits for that. While the other reset is low nothing boots. -/
def Obligations.BootFromReset : Prop :=
  ∀ (s : State) (p : BitVec 8) (z : BitVec 3) (fails : List Nat) (r : BootReads),
    (s.glob.blkRstLow = true → s.glob.porstLow = false →
      ∃ t, Resets (.blkRstDeassertion fails r) s t ∧ t.glob.blkRstLow = false ∧
        StartsUp { s with glob := { s.glob with blkRstLow := false } } fails t ∧
        (s.glob.afterPorst = false → t.pen.lifeS = s.pen.lifeS)) ∧
    (s.glob.blkRstLow = true → s.glob.porstLow = true →
      Resets (.blkRstDeassertion fails r) s { s with glob := { s.glob with blkRstLow := false } }) ∧
    (s.glob.porstLow = true → s.glob.blkRstLow = true → ∃ u t, exec (.porstDeassertion p z fails) s = .next t ∧
      u = { s with setup := { s.setup with stagePresent := p, stageSize := z }, glob := { s.glob with porstLow := false }
                   pen := { s.pen with powered := true } } ∧
      t = s.commit u.setup s.pen.tally u.settle) ∧
    (s.glob.porstLow = true → s.glob.blkRstLow = false → ∃ u t w, exec (.porstDeassertion p z fails) s = .next t ∧
      u = { s with setup := { s.setup with stagePresent := p, stageSize := z }, glob := { s.glob with porstLow := false }
                   pen := { s.pen with powered := true } } ∧
      t = s.commit u.setup s.pen.tally w.settle ∧ StartsUp u fails w ∧ w.glob.porstLow = false)

/-- R62, R180: a boot that waits for its writes of staging goes on with each response, and with the last of them READY and CTL_READY
rise and the block is in RUN; until then it stays in its boot. A response in any other state is taken alike. No entry is accepted in
a boot. -/
def Sys2Proof.Claims.BootCompletes : Prop :=
  ∀ (s : State) (port tag : Nat) (err : Bool) (data check : List Byte),
    let u := (s.stgAnswer port tag (some (err, data, check))).settle
    (s.glob.power ≠ .boot → u.glob.power ≠ .boot →
      exec (.stagingResponse port tag err data check) s = .next (s.keepTimed u)) ∧
    (s.glob.power = .boot → u.glob.power = .boot → u.accepted = [] →
      ∃ t, exec (.stagingResponse port tag err data check) s = .next t ∧
        (u.scrubs = [] → t.glob.power = .run ∧ t.glob.ready = true ∧ t.glob.areaStale = false ∧ t.mb.notReady = false) ∧
        (u.scrubs ≠ [] → t.glob.power = .boot ∧ t.glob.ready = u.glob.ready ∧ t.mb.notReady = u.mb.notReady))

/-- R397, R413: losing the always-on supply asserts PORST_N, stops the clocks and keeps the fuses: a record that was not being
burned stays, and nothing is torn unless it was being written. Under BLK_RST_N the main supplies may go, and the block is then
in PENNANT (R436). -/
def Sys2Proof.Claims.SupplyLoss : Prop :=
  ∀ s : State,
    (∀ torn : Torn, ∃ t, exec (.alwaysOnSupplyLoss torn) s = .next t ∧ t.glob.porstLow = true ∧ t.glob.power = .held ∧
      t.setup = Setup.reset ∧ t.pen.powered = false ∧ t.pen.lostSupply = true ∧ t.pen.linkRoot = s.pen.linkRoot ∧
      (t.pen.tally = s.pen.tally ∨
        ∃ b r, torn.burn = some b ∧ s.mb.outstanding = some r ∧ r.cmd = 0x51 ∧
          t.pen.tally = s.pen.tally ++ [⟨b.1, b.2, false⟩])) ∧
    (s.glob.blkRstLow = true → s.glob.porstLow = false →
      exec .mainSupplyRemoval s = .next { s with glob := { s.glob with power := .pennant } }) ∧
    ((s.glob.blkRstLow = false ∨ s.glob.porstLow = true) → exec .mainSupplyRemoval s = .next s)

/-- R31, R437: WAKE_N takes IDLE to RUN, and in PENNANT switches the declared main rails on: where they come good, or none is
declared, the block boots, and else it waits for power-good. In RUN it changes the pin's level alone. -/
def Sys2Proof.Claims.Wake : Prop :=
  ∀ (s : State) (good : Bool) (fails : List Nat) (r : BootReads),
    (s.glob.power = .idle → s.restarting .trim = false →
      ∃ t, Resets (.wakeN good fails r) s t ∧ t.glob.power = .run ∧ t.glob.wakeHigh = false) ∧
    (s.glob.power = .pennant → s.waking.waiting = false → s.glob.blkRstLow = false → s.glob.porstLow = false →
      (good = true ∨ s.setup.mainRails = [] →
        ∃ t, exec (.wakeN good fails r) s = .next t ∧ Booted s t ∧ t.setup = s.setup) ∧
      (good = false → s.setup.mainRails ≠ [] → ∃ t, Resets (.wakeN good fails r) s t ∧ t.glob.power = .pennant ∧
        t.waking.waiting = true ∧ t.issued = s.issued ++ s.setup.mainRails.map fun r => Out.sideband 0 r.2 0x80)) ∧
    (s.glob.power = .run → ∃ t, Resets (.wakeN good fails r) s t ∧ t = { s with glob := { s.glob with wakeHigh := false } })

/-- R437: the first wait for power-good that expires is repeated once, with the rails off and on again; after the second the rails
go off, WAKE_FAIL is logged with the rail, and the block stays in PENNANT. -/
def Sys2Proof.Claims.PowerGood : Prop :=
  ∀ (s : State) (rail : Nat) (fails : List Nat) (r : BootReads), s.glob.power = .pennant → s.waking.waiting = true →
    (s.waking.railsTried = 0 → s.setup.mainRails ≠ [] →
      ∃ t, Resets (.powerGoodTimeout rail false fails r) s t ∧ t.waking.railsTried = 1 ∧ t.waking.waiting = true ∧
        t.glob.power = .pennant ∧
        t.issued = s.issued ++ (s.setup.mainRails.map fun r => Out.sideband 0 r.2 0x00) ++
          s.setup.mainRails.map fun r => Out.sideband 0 r.2 0x80) ∧
    (s.waking.railsTried = 0 → ∃ t, exec (.powerGoodTimeout rail true fails r) s = .next t ∧ Booted s t) ∧
    (s.waking.railsTried = 1 → ∀ good, ∃ t, Resets (.powerGoodTimeout rail good fails r) s t ∧ t.waking = {} ∧
      t.glob.power = .pennant ∧ (s.restarting .masthead = false → Logged t 0x080A [rail, 2]) ∧ t.issued = s.issued ++ s.setup.mainRails.map fun r => Out.sideband 0 r.2 0x00)

/-- R31, R65, R67, R68, R138, R392: PREEMPT_N wakes the block and gives a preemption notice to every job of the functions whose PIN_PREEMPT
names it, frozen ones apart: the job's cut falls due, or, where CUTs of it are accepted, waits for what becomes of each. An SB line
of use 1 does the same by its own bit, one of use 3 counts an edge for the Telltale, and one that is unassigned does nothing.
PMB_ALERT_N for an undervoltage counts and logs a droop, with the last reading, where that is not below DROOP_MV already; while
Masthead restarts it waits for that. Where the main domain is off, each changes its pin's level alone. The clauses on notices are
of a block without generations. -/
def Obligations.Pins : Prop :=
  ∀ s : State,
    (∃ t, Acts .preemptN s t ∧ t.glob.preemptHigh = false ∧
      (s.mainOn = false → t = { s with glob := { s.glob with preemptHigh := false } }) ∧
      (s.mainOn = true → s.gens = [] → (s.restarting .trim = false → t.glob.power = .run) ∧ TakesNotice s t 0)) ∧
    (∀ n, n < 4 → ∃ t, Acts (.sbFallingEdge n) s t ∧ t.glob.sbHigh = s.glob.sbHigh &&& ~~~(1#4 <<< n) ∧
      (s.mainOn = true → s.rigs.cur.sb.getD n 0 = 1 → s.gens = [] →
        (s.restarting .trim = false → t.glob.power = .run) ∧ TakesNotice s t (n + 1)) ∧
      (s.mainOn = true → s.rigs.cur.sb.getD n 0 = 3 → s.tt.sampling = true →
        NMap.get t.tt.edges n = min (NMap.get s.tt.edges n + 1) 65535 ∧ t.cleats = s.cleats ∧ t.accepted = s.accepted) ∧
      (s.mainOn = false ∨ s.rigs.cur.sb.getD n 0 = 0 →
        t = { s with glob := { s.glob with sbHigh := s.glob.sbHigh &&& ~~~(1#4 <<< n) } })) ∧
    (∀ u, ∃ t, Acts (.pmbAlertN u) s t ∧ t.glob.pmbHigh = false ∧
      (s.mainOn = false → t = { s with glob := { s.glob with pmbHigh := false } }) ∧
      (s.mainOn = true → s.restarting .masthead = true →
        t = { s with glob := { s.glob with pmbHigh := false }, procs := { s.procs with alert := some (u || s.procs.alert.getD false) } }) ∧
      (s.mainOn = true → s.restarting .masthead = false →
        (u = true → s.setup.declared 24 = true → s.droopLimits.1 ≤ (s.sensor 24).reading.toInt →
          t = { s with glob := { s.glob with pmbHigh := false }, droopArmed := false, ctr := t.ctr, log := t.log } ∧
          CountedOnce s t (ctrId 0 0 2) ∧ Logged t 0x0703 [readingWord (s.sensor 24).reading]) ∧
        (u = false ∨ s.setup.declared 24 = false ∨ (s.sensor 24).reading.toInt < s.droopLimits.1 →
          t = { s with glob := { s.glob with pmbHigh := false } })))

/-- R30, R434, R435: IDLE_ENTRY takes RUN to IDLE, with every Yard gated and the Tackle caches off and empty, exactly where every
condition of R435 has held for IDLE_DELAY AO ticks and holds, and YARD_GATE gates a Yard that holds no work in RUN; with the last Yard of a Mast its Tackle cache goes
off and its lines are lost. -/
def Sys2Proof.Claims.IdleAndGates : Prop :=
  ∀ s : State,
    (∀ since, s.idleSince = some since → since + s.rigs.cur.spare.idleDelay ≤ s.pen.timer →
      (s.mayIdle = true → ∃ t, Expires .idleEntry s t ∧ t.glob = { s.glob with power := .idle } ∧ t.tackle = [] ∧
        t.procs = { s.procs with tackleOn := [] } ∧ (∀ y, y < 64 → t.yard y = { s.yard y with gated := true }) ∧ t.idleSince = none ∧
        t = { s with glob := t.glob, yards := t.yards, procs := t.procs, tackle := t.tackle, idleSince := t.idleSince }) ∧
      (s.mayIdle = false → Expires .idleEntry s s)) ∧
    (s.idleSince = none → Expires .idleEntry s s) ∧
    (∀ y, s.glob.power = .run → s.restarting .trim = false → y < 64 → s.yardBusy y = false →
      ∃ t, exec (.yardGate y) s = .next t ∧ (t.yard y).gated = true ∧ (∀ k, k ≠ y → t.yard k = s.yard k) ∧
        ((∃ i, i < 8 ∧ 8 * (y / 8) + i ≠ y ∧ (s.yard (8 * (y / 8) + i)).gated = false) → t.tackle = s.tackle ∧ t.procs = s.procs) ∧
        ((∀ i, i < 8 → 8 * (y / 8) + i ≠ y → (s.yard (8 * (y / 8) + i)).gated = true) →
          (∀ l ∈ t.tackle, l.mast ≠ y / 8) ∧ y / 8 ∉ t.procs.tackleOn)) ∧
    (∀ y, s.yardBusy y = true → exec (.yardGate y) s = .next s)

/-! ### Fabric links -/

/-- R41, R54, Table 2-5: LINK_UP of a fabric port sets the level from which the link trains, and takes one that stopped and went low
out of STOPPED; its fall takes the link down at once. Of a drain port it makes the port usable or not. Here no response and no
packet waits for the port. That a stopped link counts as retrained by the rise is the model's choice, log 159. -/
def Sys2Proof.Claims.LinkLevels : Prop :=
  ∀ (s : State) (p : Nat), s.waitPkts = [] → (∀ r ∈ s.freqs, r.port ≠ p) →
    (p < 32 →
      (∃ t, Acts (.linkUpRise p) s t ∧ (t.link p).linkUp = true ∧
        (t.link p).state = (if (s.link p).state = .stopped ∧ (s.link p).linkUp = false then .down else (s.link p).state) ∧
        t.link p = { s.link p with linkUp := true, state := (t.link p).state } ∧ (∀ k, k ≠ p → t.link k = s.link k) ∧
        t = { s with links := t.links }) ∧
      (∃ t, Acts (.linkUpFall p) s t ∧ (t.link p).state = .down ∧ (t.link p).linkUp = false ∧ (t.link p).txKey = [] ∧
        (t.link p).rxKey = [] ∧ (∀ k, k ≠ p → t.link k = s.link k) ∧ t = { s with links := t.links })) ∧
    (32 ≤ p → p < 36 →
      (∃ t, Acts (.linkUpRise p) s t ∧ p - 32 ∈ t.drainUp ∧ (∀ k ∈ s.drainUp, k ∈ t.drainUp) ∧ t = { s with drainUp := t.drainUp }) ∧
      (∃ t, Acts (.linkUpFall p) s t ∧ p - 32 ∉ t.drainUp ∧ (∀ k ∈ s.drainUp, k ≠ p - 32 → k ∈ t.drainUp) ∧
        t = { s with drainUp := t.drainUp }))

/-- R51, R52, R54: LINK_HELLO, in the clear, gives in HELLO the peer's half; once the block's own is sent too, the session is UP, with
the keys and salts of R51 for the two halves and both counters at zero. In UP or ROLL it is opened under the session like any packet,
and one whose ICV holds is counted as malformed, which is the model's choice, log 53; in DOWN or STOPPED nothing happens. -/
def Sys2Proof.Claims.LinkHello : Prop :=
  ∀ (s : State) (p src : Nat) (half : Word64), s.glob.power = .run → p < 32 → s.waitPkts = [] → src < 4096 →
    let fs := Pkt.flits { cls := 3, op := 0x20, src := src, dst := 0, argA := half.toNat } none []
    ((s.link p).state = .hello → ∃ t, Acts (.linkHello p fs) s t ∧ (t.link p).peerHalf = half ∧
      ((s.link p).helloSent = true → (t.link p).state = .up ∧ (t.link p).tx = 0 ∧ (t.link p).rx = 0 ∧
        ((t.link p).txKey, (t.link p).rxKey) = sessionKeys s.pen.linkRoot p (s.link p).blockHalf half) ∧
      ((s.link p).helloSent = false → (t.link p).state = .hello ∧ (t.link p).helloGot = true) ∧
      (∀ k, k ≠ p → t.link k = s.link k)) ∧
    (∀ q, Comes s p q [] → Pkt.Is q 3 0x20 →
      ∃ t, Acts (.linkHello p (s.peerFlits p q [])) s t ∧ CountedOnce s t (ctrId 4 p 3) ∧ OnlyCounts s t) ∧
    ((s.link p).state = .down ∨ (s.link p).state = .stopped → Acts (.linkHello p fs) s s)

/-- R51, R55, Table 2-6: at 2^48 on either counter an UP link enters ROLL; the acknowledgement of its new half sends KEY_ROLL_FIN under
the old session, and both counters restart at zero in UP, with the new halves and their keys. R56: at 2^48 + 2^20 a link in ROLL
stops and asks for retraining. Here no response is owed at the port. -/
def Obligations.Rekeying : Prop :=
  ∀ (s : State) (p : Nat),
    ((s.link p).state = .up → 2 ^ 48 ≤ (s.link p).tx ∨ 2 ^ 48 ≤ (s.link p).rx →
      ∃ t, Acts (.rekey p) s t ∧ t.link p = { s.link p with state := .roll, newHalf := none, rollSent := false } ∧
        (∀ k, k ≠ p → t.link k = s.link k)) ∧
    ((s.link p).state = .up → (s.link p).tx < 2 ^ 48 → (s.link p).rx < 2 ^ 48 → Acts (.rekey p) s s) ∧
    (∀ mine q, Comes s p q [] → Pkt.Is q 3 0x22 → (s.link p).state = .roll → (s.link p).rollSent = true →
      (s.link p).newHalf = some mine →
      ∃ t, Acts (.keyRollAck p (s.peerFlits p q [])) s t ∧
        t.issued = s.issued ++ [.packet p ((s.localPkt 0x23 0).flits (s.txSeal p) [])] ∧
        (t.link p).state = .up ∧ (t.link p).blockHalf = mine ∧ (t.link p).peerHalf = BitVec.ofNat 64 q.argA ∧
        ((t.link p).txKey, (t.link p).rxKey) = sessionKeys s.pen.linkRoot p mine (BitVec.ofNat 64 q.argA) ∧ (t.link p).tx = 0 ∧
        (t.link p).rx = 0 ∧ ∀ k, k ≠ p → t.link k = s.link k) ∧
    ((s.link p).state = .roll → 2 ^ 48 + 2 ^ 20 ≤ (s.link p).tx ∨ 2 ^ 48 + 2 ^ 20 ≤ (s.link p).rx →
      (∀ r ∈ s.freqs, r.port ≠ p) →
      ∃ t, Acts (.linkStopLimit p) s t ∧ (t.link p).state = .stopped ∧ (t.link p).retrain = true ∧
        t = { s with links := t.links }) ∧
    ((s.link p).tx < 2 ^ 48 + 2 ^ 20 → (s.link p).rx < 2 ^ 48 + 2 ^ 20 → Acts (.linkStopLimit p) s s)

/-! ### Received packets -/

/-- R48, R52 to R54: a packet at a link in DOWN or STOPPED or at an unusable drain port, or outside RUN, has no effect; where the ICV of
a packet without poisoned flits fails, its effect is withheld, the link stops and asks for retraining; one whose header flit is
poisoned is discarded and counted. In the second case no response is owed at the port. That a packet
outside RUN waits with its sender, and that a poisoned header counts as malformed, are the model's choices, logs 138 and 136; what
moves a link is in log 53. -/
def Sys2Proof.Claims.PacketsGated : Prop :=
  ∀ (c : Instr) (s : State) (p : Nat) (h : Flit) (data : List Flit), flitsAt c = some (p, h :: data) →
    (s.glob.power ≠ .run ∨ (p < 32 ∧ ((s.link p).state = .down ∨ (s.link p).state = .stopped)) ∨ (32 ≤ p ∧ p ∉ s.drainPorts) →
      Acts c s s) ∧
    (Hears s p → h.poison = false → (∀ f ∈ data, f.poison = false) → (s.rxSeal p).verifies h data = false →
      (∀ r ∈ s.freqs, r.port ≠ p) →
      ∃ t, Acts c s t ∧ (t.link p).state = .stopped ∧ (t.link p).retrain = true ∧ (∀ k, k ≠ p → t.link k = s.link k) ∧
        t.cleats = s.cleats ∧ t.eps = s.eps ∧ t.gens = s.gens ∧ t.freqs = s.freqs ∧ t.jobs = s.jobs ∧ t.issued = s.issued) ∧
    (Hears s p → h.poison = true → ∃ t, Acts c s t ∧ CountedOnce s t (ctrId 4 p 3) ∧ OnlyCounts s t)

/-- R43 to R45, R47: an RD_REQ to the block is answered by one RD_RSP with ERR that returns its TAG, its SLICE and its offset; a packet
that breaks Table 2-3, names an identifier that it may not or is for another endpoint is discarded and counted, and so is a
response that answers no request, or comes from another endpoint than the request went to. The last of these, and a DST that
names another endpoint, are the model's choices, logs 52 and 137. -/
def Sys2Proof.Claims.PacketAnswers : Prop :=
  ∀ (s : State) (p : Nat),
    (∀ q, Comes s p q [] → Pkt.Is q 1 1 → ∃ t, Acts (.rdReqToBlock p (s.peerFlits p q [])) s t ∧
      t.issued = s.issued ++ [.packet p (Pkt.flits
        { cls := 1, op := 2, src := s.setup.fabEp, dst := q.src, addr := fabAddr s.setup.fabEp (q.addr % 2 ^ 52), tag := q.tag
          slice := q.slice, err := true, last := true } (s.txSeal p) [])] ∧
      t = { s with links := t.links, ctr := t.ctr, issued := t.issued }) ∧
    (∀ c h data, flitsAt c = some (p, h :: data) → Hears s p → h.poison = false →
      (s.rxSeal p).verifies h data = true →
      (headerOk h.bytes data.length = false ∨ (parsePkt h.bytes).endpointsOk = false ∨
        ((parsePkt h.bytes).isLocal = false ∧ (parsePkt h.bytes).dst ≠ s.setup.fabEp)) →
      ∃ t, Acts c s t ∧ CountedOnce s t (ctrId 4 p 3) ∧ OnlyCounts s t) ∧
    (∀ q, Comes s p q [] → Pkt.Is q 2 2 → (∀ r, s.reqFor p q.tag true = some r → q.src ≠ r.ep) →
      ∃ t, Acts (.wrAck p (s.peerFlits p q [])) s t ∧ CountedOnce s t (ctrId 4 p 3) ∧ OnlyCounts s t) ∧
    (∀ q bs, Comes s p q bs → Pkt.Is q 1 2 →
      (∀ r, s.reqFor p q.tag false = some r → q.src ≠ r.ep ∧ FMap.find s.xfers r.xfer ≠ none) →
      ∃ t, Acts (.rdRsp p (s.peerFlits p q bs)) s t ∧ CountedOnce s t (ctrId 4 p 3) ∧ OnlyCounts s t)

/-- R45, Table 2-4: a WR_ACK ends the write that it names and the earlier ones of its pair on the port; a RD_RSP adds its data to what its
transfer has received, and the last one of the length asked for ends the request. -/
def Obligations.Responses : Prop :=
  ∀ (s : State) (p : Nat) (q : Pkt) (bs : List Byte) (r : FabReq), Comes s p q bs → s.freqs.Nodup → q.src = r.ep → q.err = false →
    (Pkt.Is q 2 2 → s.reqFor p q.tag true = some r →
      ∃ t, Acts (.wrAck p (s.peerFlits p q bs)) s t ∧ r ∉ t.freqs ∧
        (∀ q ∈ s.freqs, (q.port ≠ p ∨ q.ep ≠ r.ep ∨ q.write = false) → q ∈ t.freqs) ∧ (∀ q ∈ t.freqs, q ∈ s.freqs) ∧
        (∀ before after q, s.freqs = before ++ r :: after → q ∈ before → q.port = p → q.ep = r.ep → q.write = true →
          q ∉ t.freqs) ∧
        t = { s with links := t.links, ctr := t.ctr, freqs := t.freqs }) ∧
    (∀ x part a, Pkt.Is q 1 2 → s.reqFor p q.tag false = some r → FMap.find s.xfers r.xfer = some x → x.id = r.xfer →
      x.srcs[r.part]? = some part → part.loc = .fabric a → q.addr = a + r.off → epOf (a + r.off) = r.ep → q.last = true →
      r.got = 0 → bs.length = r.len → 0 < r.len → r.off + r.len = part.len → s.ownerOf x = none →
      ∃ t y z, Acts (.rdRsp p (s.peerFlits p q bs)) s t ∧ (∀ k ∈ t.freqs, ¬(k.port = p ∧ k.tag = q.tag ∧ k.write = false)) ∧
        FMap.find t.xfers r.xfer = some y ∧ y.srcs[r.part]? = some z ∧ FMap.find z.chunks r.off = some (plain bs))

/-- R279, R280, R285: a signal from an accelerator, as a packet of its own or riding on a WR to the block, adds its count to the Cleat
where the accelerator is attached to the Cleat's owner; a count that would pass the largest one, or a signal from elsewhere,
changes no Cleat and is counted and logged with the endpoint and the Cleat. A count of 0 is malformed. A WR without a signal does nothing. -/
def Obligations.SignalPackets : Prop :=
  ∀ (s : State) (p f : Nat) (q : Pkt) (bs : List Byte) (k : Instr), Comes s p q bs →
    (Pkt.Is q 5 1 ∧ k = .cleatSignalPacket p (s.peerFlits p q bs) ∨
      Pkt.Is q 2 1 ∧ q.sig = true ∧ k = .wrToBlock p (s.peerFlits p q bs) →
      (1 ≤ q.sigCount → PlainCleat s q.cleat f → s.attachedTo q.src f = true → s.cleat q.cleat + q.sigCount ≤ cleatMax →
        ∃ t, Acts k s t ∧ t.cleat q.cleat = s.cleat q.cleat + q.sigCount ∧ CleatsSame s t q.cleat ∧
          t = { s with links := t.links, ctr := t.ctr, cleats := t.cleats }) ∧
      (1 ≤ q.sigCount → PlainCleat s q.cleat f → s.attachedTo q.src f = true → cleatMax < s.cleat q.cleat + q.sigCount →
        ∃ t, Acts k s t ∧ t.cleats = s.cleats ∧ CountedOnce s t (ctrId 7 f 2) ∧ t.accepted = s.accepted ∧
          (s.restarting .masthead = false → Logged t 0x0403 [q.src, q.cleat])) ∧
      (1 ≤ q.sigCount → s.cleatOwner q.cleat = f → s.attachedTo q.src f = false →
        ∃ t, Acts k s t ∧ t.cleats = s.cleats ∧ CountedOnce s t (ctrId 7 f 1) ∧ t.accepted = s.accepted ∧
          (s.restarting .masthead = false → Logged t 0x0402 [q.src, q.cleat])) ∧
      (q.sigCount = 0 → ∃ t, Acts k s t ∧ CountedOnce s t (ctrId 4 p 3) ∧ OnlyCounts s t)) ∧
    (Pkt.Is q 2 1 → q.sig = false → ∃ t, Acts (.wrToBlock p (s.peerFlits p q bs)) s t ∧ OnlyCounts s t)

/-- R45, R113, R128, R132, R133, R134, R196: the protocol packets of an attached accelerator. RESUME_DONE ends the wait for it; a
WATCH_HIT marks a segment of the OPEN generation as hit, and is ignored, and counted (log 136), of any other; QUIESCE_DONE and
ARMED take the accelerator off those that a cut awaits; a hold or fork request that no generation covers is answered at once, and
one during a cut is held; the packets of an EXPORT_MAP series that a cut awaits are gathered, and a good map of one packet is
taken over; a series that none awaits is ignored. From an accelerator that is not attached each is discarded and counted. -/
def Sys2Proof.Claims.ProtocolPackets : Prop :=
  ∀ (s : State) (p : Nat) (q : Pkt) (bs : List Byte), Comes s p q bs →
    let fs := s.peerFlits p q bs
    (∀ x, FMap.find s.eps q.src = some x →
      (Pkt.Is q 3 6 → ∃ t, Acts (.resumeDone p fs) s t ∧ FMap.find t.eps q.src = some { x with owesResume := none } ∧
        ∀ k, k ≠ q.src → FMap.find t.eps k = FMap.find s.eps k) ∧
      (Pkt.Is q 4 2 → bitOf q.arg32 1 = false → bitOf q.arg32 2 = true →
        (∀ g i z, s.gen q.argA = some g → g.state = .opened → g.segAt q.argB = some i → g.segs[i]? = some z → z.state = .idle →
          ∃ t h, Acts (.watchHit p fs) s t ∧ t.gen q.argA = some h ∧
            h.segs[i]? = some { z with watch := false, hit := true }) ∧
        ((∀ g, s.gen q.argA = some g → g.state ≠ .opened) →
          ∃ t, Acts (.watchHit p fs) s t ∧ CountedOnce s t (ctrId 4 p 3) ∧ OnlyCounts s t)) ∧
      (Pkt.Is q 3 2 → ∀ g c, s.gen q.argA = some g → g.cutting = some c → c.stage = .quiesce → q.src ∈ c.await →
        (∃ k ∈ c.await, k ≠ q.src) → s.restores = [] → ∃ t h, Acts (.quiesceDone p fs) s t ∧ t.gen q.argA = some h ∧
          h.cutting = some { c with await := c.await.filter (· != q.src) } ∧
          (FMap.find t.eps q.src).map (·.quiesced) = some (some q.argA)) ∧
      (Pkt.Is q 4 2 → bitOf q.arg32 1 = false → bitOf q.arg32 2 = false → s.gen q.argA = none → ∃ t,
        Acts (if bitOf q.arg32 0 then .forkRequest p fs else .holdRequest p fs) s t ∧ t.gens = s.gens ∧ t.forks = s.forks ∧
        (∀ port pk, pk = ({ s.pkt 4 (if bitOf q.arg32 0 then 5 else 3) q.src with
            argA := q.argA, argB := q.argB, slice := x.fn } : Pkt) → s.protoPort pk = some port → s.waitPkts = [] →
          t.issued = s.issued ++ [.packet port (pk.flits (s.txSeal port) [])])) ∧
      (Pkt.Is q 4 2 → bitOf q.arg32 1 = false → bitOf q.arg32 2 = false → ∀ g i, s.gen q.argA = some g → g.state = .opened →
        g.cutting ≠ none → g.segAt q.argB = some i →
        ∃ t h, Acts (if bitOf q.arg32 0 then .forkRequest p fs else .holdRequest p fs) s t ∧ t.gen q.argA = some h ∧
          h = { g with heldHits := g.heldHits.filter (·.1 != i) ++ [(i, bitOf q.arg32 0)] }) ∧
      (Pkt.Is q 4 2 → bitOf q.arg32 1 = true → ∀ g is, s.gen q.argA = some g → g.batches = [(q.src, true, is)] →
        ∃ t h, Acts (.armed p fs) s t ∧ t.gen q.argA = some h ∧ h.batches = [] ∧
          ∀ i z, g.segs[i]? = some z → h.segs[i]? = some (if i ∈ is then { z with watch := true } else z)) ∧
      (Pkt.Is q 3 4 → s.gens.find? (mapsFor q.src) = none → ∃ t, Acts (.exportMap p fs) s t ∧ OnlyCounts s t) ∧
      (Pkt.Is q 3 4 → ∀ g c, s.gens.find? (mapsFor q.src) = some g → s.gen g.epoch = some g → g.cutting = some c →
        (q.last = false → ∃ t rx, Acts (.exportMap p fs) s t ∧ rx = (FMap.find c.mapRx q.src).getD (q.arg32, []) ∧
          t.gen g.epoch = some { g with cutting := some { c with mapRx := FMap.put c.mapRx q.src (rx.1, rx.2 ++ plain bs) } }) ∧
        (∀ es, q.last = true → FMap.find c.mapRx q.src = none → bs.length = 16 * q.arg32 →
          es = mapGiven bs.length (plain bs) → badMap q.src q.arg32 es = false →
          ((namedRanges es).map (·.len)).foldl (· + ·) 0 ≤ ((g.regions.filter fun r => g.regionEp r == q.src).map (·.len)).foldl (· + ·) 0 →
          (∃ k ∈ c.await, k ≠ q.src) → ∃ t, Acts (.exportMap p fs) s t ∧
            t.gen g.epoch = some { g with
              maps := g.maps.filter (·.1 != q.src) ++ [(q.src, es)]
              cutting := some { c with await := c.await.filter (· != q.src), mapped := c.mapped ++ [q.src]
                                       mapRx := FMap.del c.mapRx q.src } }))) ∧
    (FMap.find s.eps q.src = none → Pkt.Is q 3 2 ∨ Pkt.Is q 3 4 ∨ Pkt.Is q 3 6 ∨ Pkt.Is q 4 2 → ∀ k, k ∈ ([.resumeDone p fs,
        .quiesceDone p fs, .armed p fs, .watchHit p fs, .holdRequest p fs, .forkRequest p fs, .exportMap p fs] : List Instr) →
      ∃ t, Acts k s t ∧ CountedOnce s t (ctrId 4 p 3) ∧ OnlyCounts s t)

/-- R138, R140, R362: a PREEMPT_NOTICE marks the jobs that it names, those of the slice for job 0: each job's cut falls due, or, where
CUTs of it are accepted, waits for what becomes of each; here no generation exists. One for a slice that does not exist or is FROZEN
is discarded and counted. The counter of a notice that
names an absent function is the model's choice, log 105. -/
def Sys2Proof.Claims.PreemptNotices : Prop :=
  ∀ (s : State) (p : Nat) (q : Pkt), Comes s p q [] → Pkt.Is q 3 0x10 →
    (∀ x, FMap.find s.fns (q.arg32 % 256) = some x → x.state ≠ .frozen → s.gens = [] → FMap.Sorted s.jobs →
      ∃ t, Acts (.preemptNotice p (s.peerFlits p q [])) s t ∧ t = { s with links := t.links, ctr := t.ctr, jobs := t.jobs } ∧
        ∀ j y, FMap.find s.jobs j = some y → FMap.find t.jobs j =
          some (if y.fn = q.arg32 % 256 ∧ (q.argA = 0 ∨ j = q.argA) then
            (if s.cutsPending j = [] then { y with notice := true }
             else { y with noticeLate := (y.noticeLate ++ s.cutsPending j).eraseDups }) else y)) ∧
    ((∀ x, FMap.find s.fns (q.arg32 % 256) = some x → x.state = .frozen) →
      ∃ t, Acts (.preemptNotice p (s.peerFlits p q [])) s t ∧ CountedOnce s t (ctrId 4 p 3) ∧ OnlyCounts s t)

/-! ### Expiries -/

/-- R31, R286: a CLEAT_WAIT that expires ends with WAIT_TIMEOUT, whose INFO names the Cleat, the queue and the count; the count is not
changed, and a block in IDLE wakes. While Trim restarts in IDLE the expiry waits for the wake, log 194. An entry that does not wait
is left alone. -/
def Sys2Proof.Claims.WaitTimeouts : Prop :=
  ∀ (s : State) (e c n timeout : Nat) (a : Acc), s.acc e = some a →
    (a.op = .cleatWait c n timeout → a.phase = .waiting → a.fin = none → a.conds = [] →
      ((s.glob.power = .idle → s.restarting .trim = false) →
        ∃ t, Expires (.waitTimeout e) s t ∧ EndsWith t a 0x60 (c + a.sq * 2 ^ 16 + s.cleat c * 2 ^ 32) ∧ t.cleats = s.cleats ∧
          (s.pen.powered = true → t.pen.timer = max s.pen.timer (a.tick + timeout)) ∧
          (s.glob.power = .idle → t.glob.power = .run)) ∧
      (s.glob.power = .idle → s.restarting .trim = true →
        ∃ t, Expires (.waitTimeout e) s t ∧ t.acc e = some a ∧ t.waking.waiting = true ∧ t.glob.power = .idle)) ∧
    (a.phase ≠ .waiting ∨ a.fin ≠ none → Expires (.waitTimeout e) s s)

/-- R31, R348, R375: a function that is ACTIVE and has a heartbeat interval goes to ORPHANED when it passes, with its report started, or
is marked where an admin entry that names it is still at work; a block in IDLE wakes. While a claimant of the Pennant timer that
precedes it has a deadline too, it waits (R438). Any other function is left alone. -/
def Sys2Proof.Claims.HeartbeatMisses : Prop :=
  ∀ (s : State) (f : Nat) (x : Fn), FMap.find s.fns f = some x →
    (x.state = .active → s.hbTicks f ≠ 0 → s.timerTurn 4 (x.beat + s.hbTicks f) = true → s.namedNow f = false →
      ∃ t y, Expires (.heartbeatMiss f) s t ∧ FMap.find t.fns f = some y ∧ y.state = .orphaned ∧ y.orphan.orphaned = true ∧
        t.sqs = s.sqs ∧ t.accepted = s.accepted ∧ t.cleats = s.cleats ∧
        (s.glob.power = .idle → s.restarting .trim = false → t.glob.power = .run)) ∧
    (x.state = .active → s.hbTicks f ≠ 0 → s.timerTurn 4 (x.beat + s.hbTicks f) = true → s.namedNow f = true →
      ∃ t y, Expires (.heartbeatMiss f) s t ∧ FMap.find t.fns f = some y ∧ y.state = .active ∧ y.missed = true) ∧
    (x.state ≠ .active ∨ s.hbTicks f = 0 ∨ s.timerTurn 4 (x.beat + s.hbTicks f) = false → Expires (.heartbeatMiss f) s s)

/-- R31, R85: when a ring's coalescing time has passed, its interrupt is one host write of INT_DATA at INT_ADDR, and the ring holds no
unsignalled completion any more; a block in IDLE wakes, and while Trim restarts there the interrupt waits for the wake, log 194. A
ring without such a time, address or completion is left alone. -/
def Sys2Proof.Claims.CoalescingExpires : Prop :=
  ∀ (s : State) (q : Nat) (r : Cq), FMap.find s.cqs q = some r →
    (∀ t0, r.firstUnsig = some t0 → r.coalTicks ≠ 0 → r.intAddr ≠ 0 →
      ((s.glob.power = .idle → s.restarting .trim = false) → ∃ t, Expires (.coalTicksExpiry q) s t ∧
        t.issued = s.issued ++ [.hostWrite s.nextId (s.pasidOf r.fn) r.intAddr (toLe 4 r.intData)] ∧
        FMap.find t.cqs q = some { r with unsig := 0, firstUnsig := none } ∧ t.accepted = s.accepted ∧
        (s.glob.power = .idle → t.glob.power = .run)) ∧
      (s.glob.power = .idle → s.restarting .trim = true → ∃ t, Expires (.coalTicksExpiry q) s t ∧
        t.issued = s.issued ∧ FMap.find t.cqs q = some r ∧ t.waking.waiting = true)) ∧
    (r.firstUnsig = none ∨ r.coalTicks = 0 ∨ r.intAddr = 0 → Expires (.coalTicksExpiry q) s s)

/-- R120, R134: the time of a cut's answers has passed: the CUT ends with the lowest endpoint that has not answered and the cause of
its stage, its generation stays OPEN, and the trigger stays due. That the lowest of several is named is the model's
choice, log 104. Here no guard is armed, nothing is quiesced and the
generation is the only one. -/
def Sys2Proof.Claims.CutTimeouts : Prop :=
  ∀ (s : State) (e cause : Nat) (g : Gen) (c : Cutting) (a : Acc) (j : Job), s.gens = [g] → g.cutting = some c → c.entry = e →
    s.acc e = some a → a.fin = none → a.conds = [] → c.await ≠ [] → g.armedEps = [] → g.state = .opened → s.xfers = [] →
    (∀ p ∈ s.eps, p.2.quiesced = none) → FMap.find s.jobs g.job = some j →
    cause = (match c.stage with
      | .quiesce => 1
      | .arm => 2
      | .mapping => 3) →
    ∃ t h y lowest, Expires (.cutTimeout e) s t ∧ (lowest = 0xFFF ∨ lowest ∈ c.await) ∧ (∀ k ∈ c.await, lowest ≤ k) ∧
      EndsWith t a 0x65 (lowest + cause * 4096) ∧
      t.gen g.epoch = some h ∧ h.cutting = none ∧ h.state = .opened ∧ FMap.find t.jobs g.job = some y ∧ y.interval = true

/-- R134: an endpoint whose RESUME_DONE is late is logged, and the block waits for it no more; one that owes none is left alone. -/
def Sys2Proof.Claims.ResumesLate : Prop :=
  ∀ (s : State) (ep : Nat) (x : Ep), FMap.find s.eps ep = some x →
    (∀ e, x.owesResume = some e → ∃ t, exec (.resumeLate ep) s = .next t ∧
      FMap.find t.eps ep = some { x with owesResume := none } ∧ (∀ k, k ≠ ep → FMap.find t.eps k = FMap.find s.eps k) ∧
      t = { s with eps := t.eps, log := t.log, ctr := t.ctr }) ∧
    (x.owesResume = none → exec (.resumeLate ep) s = .next s)

/-- R352, Table 12-6: when the time of a DRAIN-mode reset has passed, the reset squashes what is left and the function is ACTIVE again;
the entry ends with the number of entries that it ended. Here nothing but entries is left of the function, which is not
frozen and has no ring, and no resize waits. -/
def Sys2Proof.Claims.ResetTimeouts : Prop :=
  ∀ (s : State) (e f timeout : Nat) (a : Acc) (x : Fn), Quiet s → s.acc e = some a → a.op = .sliceReset f false timeout →
    a.phase = .waiting → a.fin = none → a.step = 1 → a.sq = 0 → FMap.Sorted s.fns → FMap.find s.fns f = some x →
    x.state = .active → (∀ p ∈ s.fns, p.2.resize = none) → s.accepted = [a] → (∀ r ∈ s.cqs, r.2.fn ≠ f) →
    ∃ t y, Expires (.sliceResetTimeout e) s t ∧ t.acc e = some { a with step := 2, count := 0, fin := some 0 } ∧
      FMap.find t.fns f = some y ∧ y.state = .active ∧ y.resetting = false ∧ y.haltCause = 0

/-- R49: a FILL's write that is not acknowledged in time is lost: its entry meets FABRIC_LOST with the port and cause TIMEOUT, and the
request is owed no more. The bytes of its piece are not known to be written. -/
def Sys2Proof.Claims.FabricTimeouts : Prop :=
  ∀ (s : State) (p tag e : Nat) (r : FabReq) (x : Xfer) (a : Acc), s.freqs = [r] → r.port = p → r.tag = tag → r.write = true →
    FMap.find s.xfers r.xfer = some x → x.id = r.xfer → x.work = .fill e → r.part < x.dsts.length → s.acc e = some a →
    a.fin = none → a.conds = [] →
    ∃ t y d, Expires (.fabricResponseTimeout p tag) s t ∧ t.freqs = [] ∧ FMap.find t.xfers r.xfer = some y ∧
      t.acc e = some { a with conds := [⟨0x23, lostInfo p 1⟩] } ∧ y.dsts[r.part]? = some d ∧ d.failed = true

/-- R465: an entry's CLEAT SIGNAL packet that has waited for a usable port until the time has passed is not sent, and the entry ends
with FABRIC_LOST, port 0xFF, cause LINK_STOPPED. A wait that does not exist leaves everything alone. -/
def Sys2Proof.Claims.PortTimeouts : Prop :=
  ∀ (s : State) (e : Nat) (a : Acc), s.acc e = some a →
    (a.sigWait = true → a.fin = none → ∃ t, Expires (.usablePortTimeout (.signal e)) s t ∧
      t.acc e = some { a with sigWait := false, conds := a.conds ++ [⟨0x23, lostInfo 0xFF 2⟩], fin := some 0 } ∧
      (∀ w ∈ t.waitPkts, w.1 ≠ e) ∧ (∀ w ∈ s.waitPkts, w.1 ≠ e → w ∈ t.waitPkts) ∧ t.issued = s.issued) ∧
    (a.sigWait = false → Expires (.usablePortTimeout (.signal e)) s s) ∧
    (∀ x, FMap.find s.xfers x = none → Expires (.usablePortTimeout (.transfer x)) s s)

/-- R431: with SAFE_STOP in force, Mainstay unpaired for more than 50 ms halts the block and sets SAFE_STOP; without it nothing but the
clock moves. Here no generation is open. -/
def Sys2Proof.Claims.Unpaired : Prop :=
  ∀ (s : State) (t0 : Nat), s.procs.unpairedSince = some t0 → s.gens = [] → t0 + 1639 ≤ s.pen.timer →
    (s.pen.inForce.safety = 1 → ∃ t, Expires .mainstayUnpairedTimeout s t ∧ t.glob.halted = true ∧ Raises s t 13) ∧
    (s.pen.inForce.safety ≠ 1 → Expires .mainstayUnpairedTimeout s s)

/-! ### The calendar, sensors and the Telltale -/

/-- R397, R400, R438: a life record is written into the two copies in turn, sealed with its CRC; a due entry is logged once, with its
label, and cleared. While a claimant of the Pennant timer that precedes it has a deadline too, a due entry waits. -/
def Obligations.Calendar : Prop :=
  ∀ s : State,
    (s.pen.powered = true → s.pen.lastRec.lifeS + 64 ≤ s.pen.lifeS → ∃ t, exec .lifeRecordWrite s = .next t ∧
      t.pen.recNext = !s.pen.recNext ∧
      (s.pen.recNext = false → t.pen.recA = s.pen.lifeRec ∧ t.pen.recB = s.pen.recB) ∧
      (s.pen.recNext = true → t.pen.recB = s.pen.lifeRec ∧ t.pen.recA = s.pen.recA) ∧
      s.pen.lifeRec.lifeS = s.pen.lifeS ∧ s.pen.lifeRec.boot = s.pen.boot ∧ s.pen.lifeRec.crc = crc32c s.pen.lifeRec.bytes ∧
      t = { s with pen := t.pen }) ∧
    (∀ n d, FMap.find s.pen.dues n = some d → FMap.Sorted s.pen.dues → Alive s → s.restarting .masthead = false →
      (d.due ≤ s.pen.lifeS → s.timerTurn 3 s.pen.timer = true →
        ∃ t l, exec (.dueEntry n) s = .next t ∧ FMap.find t.pen.dues n = none ∧
          (∀ k, k ≠ n → FMap.find t.pen.dues k = FMap.find s.pen.dues k) ∧ t.log.always.getLast? = some l ∧
          l.code = (if d.cert = true then 0x0706 else 0x0705) ∧ l.d.take 2 = [n, d.label]) ∧
      (s.timerTurn 3 (s.tickOfLife d.due) = false → exec (.dueEntry n) s = .next s)) ∧
    (∀ n, FMap.find s.pen.dues n = none → exec (.dueEntry n) s = .next s)

/-- R390 to R392, R63, R64: a reading of a declared sensor is taken with its WARN and CRIT flags judged anew, whether it is polled, comes
from a transaction or from an in-band interrupt, where a device's word is converted to the units of Table 14-2 (log 19); one that fits no
32-bit reading is a free value (log 18). The first failure of a transaction is retried and the second makes the sensor STALE. No other
sensor changes. A sensor that is not declared is left alone. -/
def Sys2Proof.Claims.SensorReadings : Prop :=
  ∀ (s : State) (i : Nat), Alive s → s.restarting .masthead = false →
    (s.setup.declared i = true →
      (∀ v, ∃ t, Acts (.sensorPoll i v) s t ∧
        t.sensor i = { s.sensor i with reading := rawReading i v, read := true, stale := false, retried := false }.judge ∧
        (∀ k, k ≠ i → t.sensor k = s.sensor k) ∧ WorkSame s t) ∧
      (∀ (w : BusWord) c, (24 ≤ i ∧ c = Instr.sensorTransaction i (some w)) ∨
          (80 ≤ i ∧ i < 96 ∧ ∃ x, w = .raw x ∧ c = .inBandInterrupt (i - 80) x) →
        ∃ t v, Acts c s t ∧ (-2 ^ 31 ≤ busValue i w → busValue i w < 2 ^ 31 → v.toInt = busValue i w ∧ t.free = s.free) ∧
          t.sensor i = { s.sensor i with reading := v, read := true, stale := false, retried := false }.judge ∧
          (∀ k, k ≠ i → t.sensor k = s.sensor k) ∧ WorkSame s t)) ∧
    (s.setup.declared i = true → 24 ≤ i →
      ((s.sensor i).retried = false → ∃ t, Acts (.sensorTransaction i none) s t ∧ t.sensor i = { s.sensor i with retried := true } ∧
        t = { s with sensors := t.sensors }) ∧
      ((s.sensor i).retried = true → ∃ t, Acts (.sensorTransaction i none) s t ∧
        t.sensor i = { s.sensor i with retried := false, stale := true } ∧ WorkSame s t)) ∧
    (s.setup.declared i = false → (∀ v, Acts (.sensorPoll i v) s s) ∧ ∀ r, Acts (.sensorTransaction i r) s s)

/-- R391: when the flags are set and cleared: WARN outside the limits, and within them by less than the hysteresis, which is unsigned, where it was
set; CRIT the same above its limit. A limit of 0x8000_0000 is disabled. How a failed reading is tried again is in log
191. -/
def Sys2Proof.Claims.SensorFlags : Prop :=
  ∀ x : Sensor, x.low ≠ limitOff → x.warnAt ≠ limitOff → x.critAt ≠ limitOff → x.hyst ≠ limitOff →
    (x.warn = false → (x.judge.warn = true ↔ x.warnAt.toInt < x.reading.toInt ∨ x.reading.toInt < x.low.toInt)) ∧
    (x.warn = true → (x.judge.warn = true ↔
      x.warnAt.toInt - x.hyst.toNat < x.reading.toInt ∨ x.reading.toInt < x.low.toInt + x.hyst.toNat)) ∧
    (x.crit = false → (x.judge.crit = true ↔ x.critAt.toInt < x.reading.toInt)) ∧
    (x.crit = true → (x.judge.crit = true ↔ x.critAt.toInt - x.hyst.toNat < x.reading.toInt)) ∧
    x.judge.reading = x.reading ∧ x.judge.low = x.low ∧ x.judge.hyst = x.hyst

/-- R31, R395, R396, R438: a Telltale sample sums the sources' terms, each a weight by its ratio, into the raw figure, and holds the
greater of that and the decayed old risk; the level follows the held risk, and a change of it is logged. The next sample is due at the
first time of the schedule that has not passed, and a block in IDLE wakes. A Telltale that does not sample is left alone, and while a
claimant of the Pennant timer that precedes it has a deadline too, the sample waits. -/
def Obligations.TelltaleSamples : Prop :=
  ∀ s : State, Alive s → s.restarting .masthead = false →
    (s.tt.sampling = true → s.tt.next ≤ s.pen.timer → s.timerAt ≤ s.pen.timer → s.timerTurn 2 s.tt.next = true →
      ∃ t, Expires .telltaleSample s t ∧
        t.tt.terms = s.rigs.cur.tt.srcs.map (fun p => (p.1, p.2.weight * s.srcRatio p.1 p.2 / 256)) ∧
        t.tt.raw = min ((t.tt.terms.map (·.2)).foldl (· + ·) 0) 0xFFFF ∧
        t.tt.held = max t.tt.raw (s.tt.held * s.rigs.cur.tt.decay / 65536) ∧
        t.tt.level = s.rigs.cur.tt.levelAfter t.tt.held s.tt.level ∧
        (t.tt.level = s.tt.level → t.log = s.log) ∧
        (t.tt.level ≠ s.tt.level → Logged t 0x0704 [s.tt.level, t.tt.level, t.tt.held]) ∧
        (s.pen.timer < s.tt.next + 3277 → t.tt.next = s.tt.next + 3277) ∧ s.pen.timer < t.tt.next ∧
        t.accepted = s.accepted ∧ t.sheets = s.sheets ∧ (s.restarting .trim = false → t.glob.power = .run)) ∧
    (s.tt.sampling = false ∨ s.timerTurn 2 s.tt.next = false → Expires .telltaleSample s s)

/-- R22, R31, R400, R426, R427: the spare self-test and the Yard BIST start on time or late, when they are logged with how late they are;
the next is due a period later, the BIST moves to the next Yard, and with every lane and Yard good nothing is fenced and no fault bit is
set. A free spare that fails is fenced and reported, and so is a part of a Yard that fails; a BIST run waits for the Yard's work, and
is logged when that takes longer than its period. While a service core that they need restarts they wait, which of them the BIST
needs being the model's choice, log 17, and in IDLE for Trim's restart. -/
def Obligations.LatentTests : Prop :=
  ∀ s : State, Alive s → s.glob.ready = true → s.timerAt ≤ s.pen.timer → s.restarting .masthead = false →
    (s.pen.spareDue ≤ s.pen.lifeS → s.timerTurn 3 s.pen.timer = true →
      (s.procs.restarting = [] → s.tests.trials = [] →
        (∃ t, Expires (.spareSelfTest []) s t ∧
          t.pen.spareDue = (if s.pen.lifeS < s.pen.spareDue + 14400 then s.pen.spareDue + 14400 else s.pen.lifeS + 14400) ∧
          (s.pen.spareDue = s.pen.lifeS → t.log = s.log) ∧
          (s.pen.spareDue < s.pen.lifeS → Logged t 0x070A [0, s.pen.lifeS - s.pen.spareDue]) ∧
          t.yards = s.yards ∧ t.glob.fault = s.glob.fault ∧ t.glob.power = .run ∧ WorkSame s t) ∧
        (∀ y p check, y < 64 → p ∈ s.sparesFree y → p < 34 → (s.yard y).servesAs (s.spareMap y) p = none → y / 8 ∉ s.procs.orphanMasts → s.pen.inForce.safety ≠ 1 →
          ∃ t, Expires (.spareSelfTest [(34 * y + p, check)]) s t ∧ (t.yard y).fenced = (s.yard y).fenced ++ [p] ∧
            (∀ z, z ≠ y → t.yard z = s.yard z) ∧ LogHolds t 0x0801 [34 * y + p, 3] ∧ Logged t 0x0804 [34 * y + p, check, 0] ∧
            Raises s t 10 ∧ WorkSame s t)) ∧
      (∀ fails m c, m < 8 → c < 2 → s.restarting (.service m c) = true → ∃ t, Expires (.spareSelfTest fails) s t ∧
        t = { s with timerAt := s.pen.timer + 1, glob := t.glob, waking := t.waking }) ∧
      (∀ fails, s.procs.restarting = [.trim] → s.glob.power = .idle →
        Expires (.spareSelfTest fails) s { s with timerAt := s.pen.timer + 1, waking := { s.waking with waiting := true } })) ∧
    (s.pen.bistDue ≤ s.pen.lifeS → s.timerTurn 3 s.pen.timer = true → s.tests.bist = none → s.buffersFit s.pen.bistPtr none 1 = true →
      (s.procs.restarting = [] →
        (∃ t, Expires (.yardBist []) s t ∧
          t.pen.bistDue = (if s.pen.lifeS < s.pen.bistDue + 1350 then s.pen.bistDue + 1350 else s.pen.lifeS + 1350) ∧
          t.pen.bistPtr = (s.pen.bistPtr + 1) % 64 ∧ (t.yard s.pen.bistPtr).gated = false ∧
          (s.pen.bistDue = s.pen.lifeS → t.log = s.log) ∧
          (s.pen.bistDue < s.pen.lifeS → LogHolds t 0x070A [1, s.pen.lifeS - s.pen.bistDue]) ∧
          (s.yardIdle s.pen.bistPtr = true → t.tests = s.tests) ∧
          (s.yardIdle s.pen.bistPtr = false → ∃ r, t.tests.bist = some r ∧ r.yard = s.pen.bistPtr ∧ r.due = s.pen.bistDue) ∧
          t.glob.fault = s.glob.fault ∧ t.glob.power = .run ∧ WorkSame s t) ∧
        (∀ part buffer, s.yardIdle s.pen.bistPtr = true → s.pen.inForce.safety ≠ 1 →
          ∃ t, Expires (.yardBist [⟨part, buffer⟩]) s t ∧ Raises s t 10 ∧
            Logged t 0x0805 [s.pen.bistPtr, part, if part = 1 then buffer else 0] ∧ WorkSame s t)) ∧
      (∀ fails, s.restarting (.service (s.pen.bistPtr / 8) (s.pen.bistPtr % 8 / 4)) = true → ∃ t, Expires (.yardBist fails) s t ∧
        t = { s with timerAt := s.pen.timer + 1, glob := t.glob, waking := t.waking }) ∧
      (∀ fails, s.procs.restarting = [.trim] → s.glob.power = .idle →
        Expires (.yardBist fails) s { s with timerAt := s.pen.timer + 1, waking := { s.waking with waiting := true } })) ∧
    (∀ r, s.tests.bist = some r → s.yardIdle r.yard = false → r.late = false → r.due + 1350 ≤ s.pen.lifeS →
      Logged s.runBist 0x070A [1, s.pen.lifeS - r.due] ∧ s.runBist.tests.bist = some { r with late := true })

/-! ### Faults -/

/-- R371, R373, R374, Table 13-5: a crash of a processor that runs marks it as restarting and is logged with its cause and pc; Masthead's
own waits with the entries that it does not write meanwhile. Of a second Mainstay processor it is logged, and halts the block. The
end of the restart takes the processor off the list, and brings Mainstay's pair back. -/
def Sys2Proof.Claims.CrashRules : Prop :=
  ∀ (s : State) (pc : Word64), Alive s →
    (∀ p, procExists p = true → s.restarting p = false → ∀ c cause,
      (c = Instr.watchdogExpiry p pc ∧ cause = 2) ∨ (c = .trap p pc none ∧ cause = 3) ∨
        (c = .lockstepMismatch p pc ∧ cause = 1 ∧ (p = .mainstay ∨ ∃ m, p = .dispatch m)) →
      ∃ t, Acts c s t ∧ t.restarting p = true ∧ (∀ q, q ≠ p → t.restarting q = s.restarting q) ∧
        (p = .mainstay → t.glob.mainstayUnpaired = true ∧ t.procs.unpairedSince = some s.pen.timer) ∧
        (p = .masthead → t.mb.notReady = true ∧ t.tt.sampling = false) ∧
        (p ≠ .masthead → s.restarting .masthead = false → Logged t 0x0503 [cause, pc.toNat]) ∧
        (p = .masthead → s.log.held.length < 256 →
          ∃ e, t.log.held = s.log.held ++ [e] ∧ e.code = 0x0503 ∧ e.d = [cause, pc.toNat, 0, 0, 0])) ∧
    (s.restarting .mainstay = true → s.restarting .masthead = false → s.gens = [] → ∃ t, Acts (.watchdogExpiry .mainstay pc) s t ∧
      t.glob.halted = true ∧ Raises s t 1 ∧ Logged t 0x0503 [2, pc.toNat]) ∧
    (∀ p ok, s.restarting p = true → s.activationOf p = none → (p = .mainstay ∨ p = .shroud ∨ ∃ m c, p = .service m c) →
      ∃ t, exec (.processorRestartComplete p ok) s = .next (s.keepSetup (t.settle.pwrHeld.settle)) ∧ t.restarting p = false ∧
        (∀ q, q ≠ p → t.restarting q = s.restarting q) ∧
        (p = .mainstay → t.glob.mainstayUnpaired = false ∧ t.procs.unpairedSince = none) ∧ WorkSame s t) ∧
    (∀ p ok, s.restarting p = false → s.procs.alert = none →
      exec (.processorRestartComplete p ok) s = .next (s.keepSetup (s.settle.pwrHeld.settle)))

/-- R374, R420 to R423: a datapath parity fault below the strike count of the spare policy is logged and counts a strike; at the count,
or at a stall of a lane that moves something, the lane is fenced, and a free spare takes its number, each of which is logged. Both
wait where the Mast has no dispatcher. Here nothing moves but the lane's own transfer in the stall case, which reads, no lane is under
test, and the spares pass their tests. -/
def Sys2Proof.Claims.LaneFaultRules : Prop :=
  (∀ (s : State) (y p : Nat), Alive s → s.restarting .masthead = false → y < 64 → p < 34 → (s.yard y).fenced = [] → s.xfers = [] →
    s.tests.trials = [] →
    (∀ k, y / 8 ∉ s.procs.orphanMasts → 2 ≤ s.rigs.cur.spare.strikes → (s.yard y).strikes = [] →
      (s.yard y).servesAs (s.spareMap y) p = some k →
      ∃ t, Acts (.datapathParityFault (34 * y + p) []) s t ∧ (t.yard y).strikes = [(p, s.pen.lifeS)] ∧ (t.yard y).fenced = [] ∧
        (∀ z, z ≠ y → t.yard z = s.yard z) ∧ Logged t 0x0802 [34 * y + p, 1] ∧ WorkSame s t) ∧
    (∀ k a rest, y / 8 ∉ s.procs.orphanMasts → s.rigs.cur.spare.strikes = 1 → (s.yard y).servesAs (s.spareMap y) p = some k →
      s.sparesFree y = a :: rest → a ≠ p →
      ∃ t, Acts (.datapathParityFault (34 * y + p) []) s t ∧ (t.yard y).fenced = [p] ∧ (∀ z, z ≠ y → t.yard z = s.yard z) ∧
        LogHolds t 0x0801 [34 * y + p, 1] ∧ Logged t 0x0803 [34 * y + a, 32 * y + k] ∧ WorkSame s t) ∧
    (∀ fails, y / 8 ∈ s.procs.orphanMasts → ∃ t, Acts (.datapathParityFault (34 * y + p) fails) s t ∧
      t = { s with ctr := t.ctr, procs := { s.procs with laneFaults := s.procs.laneFaults ++ [(34 * y + p, 1, fails)] } }) ∧
    Acts (.laneStall (34 * y + p) []) s s) ∧
  ∀ (s : State) (y p k a : Nat) (rest : List Nat) (x : Xfer), Alive s → s.restarting .masthead = false → y < 64 → p < 34 →
    (s.yard y).fenced = [] → s.tests.trials = [] → s.xfers = [(x.id, x)] → x.yard = y → x.lane = k → x.phase = .reading → x.srcs ≠ [] →
    s.owes x.id = true → x.work.isSheet = false → (s.yard y).servesAs (s.spareMap y) p = some k → s.sparesFree y = a :: rest → a ≠ p →
    (y / 8 ∉ s.procs.orphanMasts → ∃ t, Acts (.laneStall (34 * y + p) []) s t ∧ (t.yard y).fenced = [p] ∧
      (∀ z, z ≠ y → t.yard z = s.yard z) ∧ LogHolds t 0x0801 [34 * y + p, 2] ∧ LogHolds t 0x0803 [34 * y + a, 32 * y + k] ∧
      t.gens = s.gens ∧ t.cleats = s.cleats ∧ t.accepted = s.accepted) ∧
    (y / 8 ∈ s.procs.orphanMasts → Acts (.laneStall (34 * y + p) []) s
      { s with procs := { s.procs with laneFaults := s.procs.laneFaults ++ [(34 * y + p, 2, [])] } })

/-- R371 to R374, R420 to R423, Table 13-5: crashes and the ends of restarts; parity faults and stalls of lanes. -/
def Obligations.CrashesAndLaneFaults : Prop :=
  Claims.CrashRules ∧ Claims.LaneFaultRules

/-! ### The forms of the state -/

/-- R74, R77, R277, R401, R404, R406, R453: the forms of the state stay: the tables sorted, the numbers of entries fresh and told apart,
no Cleat above 2^31 - 1, the indices of queues and rings below their sizes, the log's stores and the counters within theirs. -/
def Obligations.FormsStayCanonical : Prop :=
  ∀ s t : State, s.Canonical → step s = .next t → t.Canonical

/-- R428 to R430: a clock that locked again is logged and no work is lost; one that did not halts the block, as a voltage monitor with its
window armed and a thermal trip do, each with its bit; clock and voltage faults are logged. A clock fault's reaction waits while Trim
restarts. Here no generation or transfer is at work, and Masthead runs. -/
def Sys2Proof.Claims.ClockVoltageThermal : Prop :=
  ∀ s : State, Alive s → Quiet s → s.keys.queue = [] → s.restarting .masthead = false →
    (∀ clock, s.restarting .trim = false →
      (∃ t, Acts (.clockFault clock true) s t ∧ t.glob.halted = s.glob.halted ∧ LogHolds t 0x0807 [clock, 0] ∧ WorkSame s t) ∧
      (∃ t, Acts (.clockFault clock false) s t ∧ t.glob.halted = true ∧ LogHolds t 0x0807 [clock, 1] ∧
        (s.pen.inForce.keyFault ≠ 1 → Raises s t 5))) ∧
    (∀ clock ok, s.restarting .trim = true → ∃ t, Acts (.clockFault clock ok) s t ∧ t.procs.clockWait = some (clock, ok) ∧
      t = { s with procs := t.procs }) ∧
    (∀ m mv, s.windowOn m = true → m ≠ Config.shroudRail → ∃ t, Acts (.voltageFault m mv) s t ∧ t.glob.halted = true ∧
      Raises s t 6 ∧ Logged t 0x0808 [m, mv.toNat]) ∧
    (∀ m mv, s.windowOn m = false → Acts (.voltageFault m mv) s s) ∧
    (∀ d, d < 16 → ∃ t, Acts (.thermalTrip d) s t ∧ t.glob.halted = true ∧ Raises s t 7)

/-- R94, R95: what a halt of the block does: every function and submission queue that was working is HALTED, the block is halted and the
bit of the global fault status is set. -/
def Sys2Proof.Claims.BlockHalts : Prop :=
  ∀ (s : State) (bit : Nat), s.gens = [] →
    let t := s.haltBlock bit
    t.glob.halted = true ∧ Raises s t bit ∧
    (∀ k q, FMap.find s.sqs k = some q → (q.state = .running ∨ q.state = .disabled) →
      FMap.find t.sqs k = some { q with state := .halted, cache := [] }) ∧
    (∀ k q, FMap.find s.sqs k = some q → q.state ≠ .running → q.state ≠ .disabled → FMap.find t.sqs k = some q) ∧
    (∀ f x, FMap.find s.fns f = some x → (x.state = .active ∨ x.state = .orphaned) →
      FMap.find t.fns f = some { x with state := .halted, haltCause := 4 }) ∧
    t.accepted = s.accepted ∧ t.cleats = s.cleats ∧ t.cqs = s.cqs

/-- R309: key alarms. In the native mode a parity mismatch fails the Key Unit's front request alone, an entropy failure stops the
generator with ENTROPY_FAIL and fails every waiting KEY_LOAD and KU_BLOCK, and an unlock of the debug region erases both key stores; in
the ERASE mode each erases them, with KEYS_ERASED, and stops every fabric link. That the requests of SLICE_SAVE and SLICE_LOAD stay is
the model's choice, log 31, and that a stopped link asks for retraining, log 159. Here no drain is at work, and no response is owed. -/
def Sys2Proof.Claims.KeyAlarms : Prop :=
  ∀ s : State, Alive s → Quiet s →
    (s.pen.inForce.keyFault ≠ 1 →
      (s.keys.queue = [] → ∃ t, Acts .keyUnitParityMismatch s t ∧ t = { s with log := t.log, ctr := t.ctr }) ∧
      (∀ r rest a, s.keys.queue = r :: rest → s.acc r.entry = some a → a.op.takesKeyFault = true → a.fin = none → a.conds = [] →
        ∃ t, Acts .keyUnitParityMismatch s t ∧ EndsWith t a 0x44 1 ∧ t.keys = { s.keys with queue := rest }) ∧
      (∃ t, Acts .entropyHealthFailure s t ∧
        t.keys = { s.keys with drbgStopped := true, queue := s.keys.queue.filter fun r => !s.faults r } ∧ Raises s t 3)) ∧
    (∀ c, c = Instr.debugUnlock ∨ (s.pen.inForce.keyFault = 1 ∧ (c = .keyUnitParityMismatch ∨ c = .entropyHealthFailure)) →
      ∃ t, Acts c s t ∧ t.keys.store = [] ∧ t.keys.hmac = [] ∧ t.keys.ctxs = [] ∧
        t.keys.queue = s.keys.queue.filter (fun r => !s.faults r) ∧ t.pipeCtx = [] ∧
        (∀ p, p < 32 → (t.link p).state = .stopped ∧ (t.link p).retrain = true) ∧ t.glob.fault.getLsbD 4 = true ∧
        (c = .debugUnlock → t.glob.debugUnlocked = true))

/-- R302, R303, R306: the Key Unit finishes the request at its front: a KEY_LOAD whose blob unwraps ends OK with its slot loaded, one
whose blob fails a check ends with AUTH_FAIL and loads nothing, and one whose slot a DRAIN has begun to seal with meanwhile ends with
CONFLICT. While Shroud restarts, without the generator (log 31), and with no request, nothing happens. -/
def Sys2Proof.Claims.KeyUnitServes : Prop :=
  ∀ s : State,
    (∀ r rest a slot typ src len, s.keys.queue = r :: rest → s.restarting .shroud = false → s.keys.drbgStopped = false → s.acc r.entry = some a →
      a.op = .keyLoad slot typ src len → a.id = r.entry → a.fin = none → a.conds = [] →
      (unwrapBlob a.note r.wrapper = none → ∃ t, Acts .keyUnitRequestDone s t ∧ EndsWith t a 0x26 1 ∧
        t.keys = { s.keys with queue := rest, drbg := t.keys.drbg }) ∧
      (∀ key, unwrapBlob a.note r.wrapper = some key → s.sealsWith slot ((parseBlob a.note).typ == 1) = true →
        ∃ t, Acts .keyUnitRequestDone s t ∧ EndsWith t a 0x40 16 ∧
          t.keys = { s.keys with queue := rest, drbg := t.keys.drbg }) ∧
      (∀ key, unwrapBlob a.note r.wrapper = some key → (parseBlob a.note).typ = 2 ∨ (parseBlob a.note).typ = 3 →
        s.sealsWith slot false = false →
        ∃ t k, Acts .keyUnitRequestDone s t ∧ EndsOk t a 0 ∧ FMap.find t.keys.store slot = some k ∧ k.key = key ∧
          k.typ = (parseBlob a.note).typ ∧ k.keyId = (parseBlob a.note).keyId ∧ k.ku = (parseBlob a.note).ku ∧
          (∀ n, n ≠ slot → FMap.find t.keys.store n = FMap.find s.keys.store n) ∧ t.keys.hmac = s.keys.hmac)) ∧
    (s.keys.queue = [] ∨ s.restarting .shroud = true ∨ s.keys.drbgStopped = true → Acts .keyUnitRequestDone s s)

/-! ### Entries: how they start and how they are refused -/

/-- R80: an entry's row acts on an entry that has been accepted and not acted on yet, and on no other. One that reads a structure in host
memory waits for room on the host master port (R59, log 28). -/
def Sys2Proof.Claims.EntriesActOnce : Prop :=
  ∀ (c : Instr) (s : State) (e : EntryId), entryOf c = some e →
    ((∀ a, s.acc e = some a → a.phase ≠ .accepted ∨ a.fin ≠ none) → exec c s = .next s) ∧
    (s.readRoom = false → (∃ w, c = .sliceLoad e w ∨ c = .rigStage e w ∨ c = .keyLoad e w ∨ c = .fwStage e w ∨ c = .protect e w) ∨
      (∃ v w, c = .genOpen e v w) → exec c s = .next s)

/-- R31, R73, R78, R80, R92, R337, R376: what a fetch returns joins the queue's cache, each entry read at base + 64 × its index under
the PASID of the queue's function, while the host master port has room for a read (log 28). The entry at the head of a RUNNING queue's cache is accepted where the queue may accept and its
turn has come, and a block in IDLE wakes: the head moves on, the entry leaves the cache and joins the accepted ones with its number;
an entry that breaks a rule of its layout ends MALFORMED and halts its function (R93, R94). Otherwise nothing is accepted. That a
malformed entry moves the head, and the weight of work that belongs to no queue, are the model's choices, logs 74 and 146. -/
def Sys2Proof.Claims.EntriesAccepted : Prop :=
  ∀ (s : State) (qid : Nat) (q : Sq), (s.glob.power = .run ∨ s.glob.power = .idle ∧ s.restarting .trim = false) →
    FMap.find s.sqs qid = some q → q.state = .running →
    let u := { s with sqs := FMap.put s.sqs qid (q.fetch []) }
    (∀ bs rest, (q.fetch []).cache = .data bs :: rest → u.hasNext qid (q.fetch []) = true → u.hasTurn qid = true →
      (entryBreach (qid == 0) (fit 64 0 bs) = none →
        ∃ t q', Acts (.entryAccept qid []) s t ∧ FMap.find t.sqs qid = some q' ∧ q'.head = (q.head + 1) % 2 ^ q.log2 ∧ q'.cache = rest ∧
          q'.tail = q.tail ∧ t.nextId = s.nextId + 1 ∧ t.accepted = s.accepted ++
            [{ id := s.nextId, sq := qid, idx := q.head, fn := q.fn, hdr := decodeHeader (fit 64 0 bs),
               op := decodeOp (qid == 0) (fit 64 0 bs), tick := s.pen.timer }] ∧
          t.glob.power = .run ∧ (∀ k, k ≠ qid → FMap.find t.sqs k = FMap.find s.sqs k)) ∧
      (∀ off reason, qid ≠ 0 → (∀ a ∈ s.accepted, a.id ≠ s.nextId) →
        entryBreach (qid == 0) (fit 64 0 bs) = some (off, reason) → ∀ x, FMap.find s.fns q.fn = some x → x.state = .active →
        ∃ t b y, Acts (.entryAccept qid []) s t ∧ t.acc s.nextId = some b ∧ b.fin = some 0 ∧
          b.conds = [⟨0x80, off + reason * 2 ^ 8 + qid * 2 ^ 16 + q.head * 2 ^ 32⟩] ∧ FMap.find t.fns q.fn = some y ∧
          y.state = .halted ∧ y.haltCause = 1 ∧ ∀ z, FMap.find t.sqs qid = some z → z.state = .halted)) ∧
    (∀ fetched, s.readRoom = true → let v := { s with sqs := FMap.put s.sqs qid (q.fetch fetched) }
      v.hasNext qid (q.fetch fetched) = false ∨ v.hasTurn qid = false →
      ∃ t, Acts (.entryAccept qid fetched) s t ∧ FMap.find t.sqs qid = some (q.fetch fetched) ∧ t.accepted = s.accepted ∧
        t.issued = s.issued ++ (List.range ((q.fetch fetched).cache.length - q.cache.length)).map (fun i =>
          .hostRead 0 (s.pasidOf q.fn) (q.base + 64 * ((q.head + q.cache.length + i) % 2 ^ q.log2)) 64) ∧
        t = { s with sqs := t.sqs, issued := t.issued })

/-- R83, R84, R86: the completion of an entry that has ended: it leaves the accepted ones, and is written at the tail of its queue's
ring, with its TAG and OK with the entry's INFO, unless NO_CQE is set; a full ring holds it. -/
def Sys2Proof.Claims.CompletionsWritten : Prop :=
  ∀ (s : State) (a : Acc) (q : Sq) (r : Cq) (info : Nat), a.conds = [] → a.fin = some info →
    FMap.find s.sqs a.sq = some q → FMap.find s.cqs q.cq = some r → a.sq ≠ 0 →
    (a.hdr.noCqe = false → r.state = .running → r.full = false → r.held = [] → r.intAddr = 0 →
      ∃ r', FMap.find (s.complete a).cqs q.cq = some r' ∧ r'.tail = (r.tail + 1) % 2 ^ r.log2 ∧
      (s.complete a).issued = s.issued ++ [.hostWrite s.nextId (s.pasidOf r.fn) (r.base + 16 * r.tail)
        (toLe 4 a.hdr.tag ++ toLe 1 0 ++ toLe 3 (a.sq * 2 ^ 12 + b2n r.phase) ++ toLe 8 info)]) ∧
    (a.hdr.noCqe = false → r.full = true → (s.complete a).issued = s.issued ∧
      FMap.find (s.complete a).cqs q.cq = some { r with held := r.held ++ [⟨a.id, a.hdr.tag, 0, a.sq, false, info⟩] }) ∧
    (a.hdr.noCqe = true → (s.complete a).cqs = s.cqs ∧ (s.complete a).issued = s.issued) ∧
    (∀ b ∈ (s.complete a).accepted, b.id ≠ a.id) ∧ (∀ b ∈ s.accepted, b.id ≠ a.id → b ∈ (s.complete a).accepted)

/-- The refusals of R82, R86 end an entry with their status and INFO, and change nothing else: entries on Cleats, copies and fills,
digests, stamps, latches, slices, queues, drains and rig sets. -/
def Sys2Proof.Claims.EntriesRefused : Prop :=
  ∀ (s : State) (a : Acc) (c : Cond), Fresh s a → a.conds = [] →
    (∀ k n ep, a.op = .cleatSignal k n ep → s.cleatRefusal a k ep = some c →
      ∃ t, Acts (.cleatSignal a.id) s t ∧ OnlyEntries s t ∧ EndsWith t a c.status c.info) ∧
    (∀ k n timeout, a.op = .cleatWait k n timeout → s.waitRefusal a k = some c →
      ∃ t, Acts (.cleatWait a.id) s t ∧ OnlyEntries s t ∧ EndsWith t a c.status c.info) ∧
    (∀ f, a.op = .copy f → s.copyRefusal a f = some c →
      ∃ t, Acts (.copy a.id) s t ∧ OnlyEntries s t ∧ EndsWith t a c.status c.info) ∧
    (∀ f, a.op = .fill f → s.fillRefusal a f = some c →
      ∃ t, Acts (.fill a.id) s t ∧ OnlyEntries s t ∧ EndsWith t a c.status c.info) ∧
    (∀ f, a.op = .drain f → s.drainRefusal a f = some c →
      ∃ t, Acts (.drain a.id) s t ∧ OnlyEntries s t ∧ EndsWith t a c.status c.info) ∧
    (∀ f, a.op = .queueCreate f → f.enable = false → s.createRefusal a f = some c →
      ∃ t, Acts (.queueCreate a.id) s t ∧ OnlyEntries s t ∧ EndsWith t a c.status c.info) ∧
    (∀ qid ring disable, a.op = .queueDestroy qid ring disable → s.destroyRefusal a qid ring disable = some c →
      ∃ t, Acts (.queueDestroy a.id) s t ∧ OnlyEntries s t ∧ EndsWith t a c.status c.info) ∧
    (∀ f pasid al, a.op = .sliceCreate f pasid al → a.hdr.sig = false → s.queuesHalted f = false → s.sliceRefusal f pasid al = some c →
      ∃ t, Acts (.sliceCreate a.id) s t ∧ OnlyEntries s t ∧ EndsWith t a c.status c.info) ∧
    (∀ f, a.op = .digest f → s.digestBehind a f = false → a.hdr.sig = false → s.digestRefusal a.fn f = some c →
      ∃ t, Acts (.digest a.id) s t ∧ OnlyEntries s t ∧ EndsWith t a c.status c.info) ∧
    (a.op = .snapLatch → a.hdr.sig = false → a.fn ≠ 0 →
      ∃ t, Acts (.snapLatch a.id) s t ∧ OnlyEntries s t ∧ EndsWith t a 0x40 0) ∧
    (∀ f, a.op = .stamp f → firstCond [s.jobRefusal a.fn f.job, s.stampRefusal f, s.signalRefusal a.fn a.hdr] = some c →
      ∃ t, Acts (.stamp a.id) s t ∧ OnlyEntries s t ∧ EndsWith t a c.status c.info) ∧
    (∀ src len gen bs, a.op = .rigStage src len gen → a.hdr.sig = false → s.readRoom = true → bs.length = len →
      rigImageOk bs len gen = true → serialGt (BitVec.ofNat 32 gen) (BitVec.ofNat 32 s.rigs.cur.gen) = false →
      ∃ t, exec (.rigStage a.id (.data bs)) s = .next { s.keepFixed t.settle with rigs := t.rigs } ∧ EndsWith t a 0x40 36 ∧
        t = { s with accepted := t.accepted, issued := t.issued }) ∧
    (∀ gen, a.op = .rigCommit gen → a.hdr.sig = false →
      (s.rigs.staged.map (·.gen) ≠ some gen →
        ∃ t, exec (.rigCommit a.id) s = .next { s.keepFixed t.settle with rigs := t.rigs } ∧ OnlyEntries s t ∧ EndsWith t a 0x40 16) ∧
      (∀ r b, s.rigs.staged = some r → r.gen = gen → s.commitBreach r = some b →
        ∃ t, exec (.rigCommit a.id) s = .next { s.keepFixed t.settle with rigs := t.rigs } ∧ OnlyEntries s t ∧
          EndsWith t a 0x40 (breachInfo b))) ∧
    (∀ gen, a.op = .rigRollback gen → a.hdr.sig = false →
      (s.rigs.cur.gen ≠ gen ∨ s.rigs.prev = none →
        ∃ t, exec (.rigRollback a.id) s = .next { s.keepFixed t.settle with rigs := t.rigs } ∧ OnlyEntries s t ∧
          EndsWith t a 0x40 16) ∧
      (∀ r b, s.rigs.cur.gen = gen → s.rigs.prev = some r → s.commitBreach r = some b →
        ∃ t, exec (.rigRollback a.id) s = .next { s.keepFixed t.settle with rigs := t.rigs } ∧ OnlyEntries s t ∧
          EndsWith t a 0x40 (breachInfo b)))

/-! ### Entries on queues and slices -/

/-- R87: QUEUE_CREATE makes a RUNNING submission queue or completion ring, empty, with the fields of the entry, or enables a DISABLED
queue, and completes OK; no other queue or ring changes. -/
def Sys2Proof.Claims.QueuesCreated : Prop :=
  ∀ (s : State) (a : Acc) (f : QCreate), Fresh s a → Plain a → a.op = .queueCreate f →
    (f.enable = false → f.ring = false → s.createRefusal a f = none →
      ∃ t, Acts (.queueCreate a.id) s t ∧ FMap.find t.sqs f.qid = some
          { state := .running, fn := f.func, slot := f.slot, log2 := f.log2, base := f.base, cq := f.cqId, maxOut := f.maxOut } ∧
        (∀ k, k ≠ f.qid → FMap.find t.sqs k = FMap.find s.sqs k) ∧ t.cqs = s.cqs ∧ EndsOk t a 0) ∧
    (f.enable = false → f.ring = true → s.createRefusal a f = none →
      ∃ t r, Acts (.queueCreate a.id) s t ∧ FMap.find t.cqs f.qid = some r ∧ r.state = .running ∧ r.fn = f.func ∧ r.slot = f.slot ∧
        r.log2 = f.log2 ∧ r.base = f.base ∧ r.head = 0 ∧ r.tail = 0 ∧ r.intAddr = f.intAddr ∧ r.intData = f.intData ∧ r.held = [] ∧
        (∀ k, k ≠ f.qid → FMap.find t.cqs k = FMap.find s.cqs k) ∧ t.sqs = s.sqs ∧ EndsOk t a 0) ∧
    (f.enable = true → f.ring = false → ∀ q, FMap.find s.sqs f.qid = some q → q.state = .disabled → s.queuesHalted q.fn = false →
      (∀ x, FMap.find s.fns q.fn = some x → x.state ≠ .frozen) →
      ∃ t, Acts (.queueCreate a.id) s t ∧ FMap.find t.sqs f.qid = some { q with state := .running } ∧
        (∀ k, k ≠ f.qid → FMap.find t.sqs k = FMap.find s.sqs k) ∧ t.cqs = s.cqs ∧ EndsOk t a 0)

/-- R84, R88, R89: QUEUE_DESTROY removes a ring that no queue uses, and completes with its tail (the model's choice, log 71), once the ring holds no completion; a
queue it stops at once, its cache discarded, and waits for the queue's entries. -/
def Sys2Proof.Claims.QueuesDestroyed : Prop :=
  ∀ (s : State) (a : Acc) (qid : Nat), Fresh s a → Plain a → qid ≠ 0 →
    (∀ r, a.op = .queueDestroy qid true false → FMap.Sorted s.cqs → FMap.find s.cqs qid = some r → s.queuesHalted r.fn = false →
      (∀ p ∈ s.sqs, p.2.cq = qid → p.2.state = .absent) →
      (r.held = [] → ∃ t, Acts (.queueDestroy a.id) s t ∧ FMap.find t.cqs qid = none ∧
        (∀ k, k ≠ qid → FMap.find t.cqs k = FMap.find s.cqs k) ∧ t.sqs = s.sqs ∧
        t.acc a.id = some { a with phase := .waiting, fin := some r.tail }) ∧
      (r.held ≠ [] → r.state = .running → ∃ t, Acts (.queueDestroy a.id) s t ∧ t.cqs = s.cqs ∧ t.sqs = s.sqs ∧
        Works t a .waiting)) ∧
    (∀ q disable, a.op = .queueDestroy qid false disable → FMap.find s.sqs qid = some q → q.state = .running →
      s.queuesHalted q.fn = false →
      ∃ t, Acts (.queueDestroy a.id) s t ∧
        FMap.find t.sqs qid = some { q with state := if disable = true then .disabled else .destroying, cache := [] } ∧
        (∀ k, k ≠ qid → FMap.find t.sqs k = FMap.find s.sqs k) ∧ Works t a .waiting)

/-- R341, R342: SLICE_CREATE of a slice that Table 12-2 allows makes it ACTIVE with its PASID and allotments, a staging run of its own
where it asks for one; its Cleats count zero, its key slots are empty and it holds no digest context. Here no generation of its number is recognised. -/
def Sys2Proof.Claims.SlicesCreated : Prop :=
  ∀ (s : State) (a : Acc) (f pasid : Nat) (al : Allot), Fresh s a → Plain a → a.op = .sliceCreate f pasid al → f ≠ 0 →
    s.queuesHalted f = false → s.sliceRefusal f pasid al = none → (∀ g ∈ s.gens, g.fn ≠ f) →
    ∃ t x, Acts (.sliceCreate a.id) s t ∧ EndsOk t a 0 ∧ FMap.find t.fns f = some x ∧ x.state = .active ∧ x.pasid = pasid ∧
      x.lanes = al.lanes ∧ x.queues = al.queues ∧ x.sheets = al.sheets ∧ x.quotaLen = al.staging ∧
      (al.staging ≠ 0 → s.runFree f x.quotaBase al.staging = true) ∧
      (∀ k, k ≠ f → FMap.find t.fns k = FMap.find s.fns k) ∧ (∀ c, s.cleatOwner c ≠ f → t.cleat c = s.cleat c) ∧ (∀ c, s.cleatOwner c = f → t.cleat c = 0) ∧
      (∀ k, s.keyOwner k false = f → FMap.find t.keys.store k = none) ∧ (∀ k, s.keyOwner k true = f → FMap.find t.keys.hmac k = none) ∧
      (∀ d c, t.ctx d = some c → c.fn ≠ f)

/-- R334, R345: SLICE_RESIZE of a slice without an OPEN generation takes effect at once, and completes with INFO 1, after the staging
that leaves the slice is overwritten; with one it is reserved, and completes with INFO 0. Here the slice's staging does not grow. -/
def Sys2Proof.Claims.SlicesResized : Prop :=
  ∀ (s : State) (a : Acc) (f : Nat) (al : Allot) (x : Fn), Fresh s a → Plain a → a.op = .sliceResize f al →
    FMap.find s.fns f = some x → s.queuesHalted f = false → s.resizeRefusal f al = none → x.quotaLen ≠ 0 →
    (s.hasOpen f = false → al.staging = x.quotaLen → s.scrubsFor a.id = false →
      ∃ t y, Acts (.sliceResize a.id) s t ∧ EndsOk t a 1 ∧ FMap.find t.fns f = some y ∧ y.lanes = al.lanes ∧
      y.queues = al.queues ∧ y.sheets = al.sheets ∧ y.quotaLen = al.staging ∧ y.quotaBase = x.quotaBase ∧ y.resize = none ∧
      ∀ k, k ≠ f → FMap.find t.fns k = FMap.find s.fns k) ∧
    (s.hasOpen f = false → al.staging < x.quotaLen → 0 < al.staging →
      ∃ t y k, Acts (.sliceResize a.id) s t ∧ Works t a .waiting ∧ FMap.find t.fns f = some y ∧ y.quotaLen = al.staging ∧
        y.quotaBase = x.quotaBase ∧ t.scrubs = s.scrubs ++ [k] ∧ k.entry = a.id ∧ k.base = x.quotaBase + al.staging ∧
        k.len = x.quotaLen - al.staging ∧ k.fill = .zero) ∧
    (s.hasOpen f = true → al.staging = x.quotaLen →
      ∃ t y, Acts (.sliceResize a.id) s t ∧ EndsOk t a 0 ∧ FMap.find t.fns f = some y ∧ y.resize = some al ∧
      y.lanes = x.lanes ∧ ∀ k, k ≠ f → FMap.find t.fns k = FMap.find s.fns k)

/-- R352, R355: SLICE_FREEZE of an idle slice stops its acceptance and waits; SLICE_RESET in SQUASH mode of a slice that is not frozen ends
its entries and brings it back to ACTIVE, with its halted queues DISABLED, and completes with their number. Here the slice has no
entry, work, Cleat, ring or resize of its own. -/
def Sys2Proof.Claims.SlicesFrozenAndReset : Prop :=
  ∀ (s : State) (a : Acc) (f : Nat) (x : Fn), Fresh s a → Plain a → FMap.find s.fns f = some x →
    (a.op = .sliceFreeze f → x.state = .active → s.freezeBusy f x = false →
      ∃ t y, Acts (.sliceFreeze a.id) s t ∧ FMap.find t.fns f = some y ∧ y = { x with freezing := true } ∧ Works t a .waiting ∧
        ∀ k, k ≠ f → FMap.find t.fns k = FMap.find s.fns k) ∧
    (∀ timeout, a.op = .sliceReset f true timeout → Quiet s → x.state ≠ .frozen → s.accepted = [a] → a.sq = 0 → s.eps = [] →
      (∀ p ∈ s.fns, p.2.resize = none) → (∀ r ∈ s.cqs, r.2.fn ≠ f) →
      ∃ t y b, Acts (.sliceReset a.id) s t ∧ FMap.find t.fns f = some y ∧ y.state = .active ∧ y.resetting = false ∧ y.haltCause = 0 ∧
        t.acc a.id = some b ∧ b.fin = some 0 ∧ b.conds = [] ∧
        ∀ k q, k ≠ 0 → FMap.find s.sqs k = some q → q.fn = f → q.state = .halted → ∃ z, FMap.find t.sqs k = some z ∧ z.state = .disabled)

/-- R305, R306, R356 to R358: SLICE_SAVE of a frozen slice under a migration key writes its image, and SLICE_LOAD of an image that
verifies under the key makes the slice ACTIVE again with the image's allotments; where the image carries keys, each joins the Key
Unit's queue first. An image whose tag does not verify ends with AUTH_FAIL, cause 1, whatever key it names. The
order of SLICE_LOAD's checks is the model's reading, log 170. Here no generation of the slice's number is recognised. -/
def Sys2Proof.Claims.SlicesSavedAndLoaded : Prop :=
  ∀ (s : State) (a : Acc) (f slot len : Nat) (k : KeySlot), Fresh s a → Plain a → s.migKey slot = some k → s.keys.drbgStopped = false →
    (∀ dest x, a.op = .sliceSave f dest len slot → FMap.find s.fns f = some x → x.state = .frozen →
      (s.exported f = [] → 128 ≤ len →
        ∃ t y b, Acts (.sliceSave a.id) s t ∧ Works t a .running ∧ FMap.find t.xfers s.nextId = some y ∧ y.work = .resultOut a.id ∧
          y.srcs = [] ∧ y.dsts.map (·.loc) = [Loc.host (s.pasidOf a.fn) dest] ∧ t.acc a.id = some b ∧ b.count = 128) ∧
      (s.exported f ≠ [] → 128 + 192 * (s.exported f).length ≤ len →
        ∃ t, Acts (.sliceSave a.id) s t ∧ Works t a .waiting ∧ t.keys = { s.keys with queue := s.keys.queue ++ [⟨a.id, a.fn, k.key⟩] })) ∧
    (∀ pasid src bs, a.op = .sliceLoad f pasid src len slot → s.readRoom = true → f ≠ 0 → s.queuesHalted f = false → bs.length = len →
      (imageAuth (some k) bs = none → leAt bs 12 4 = len → sliceImageOk bs = true → s.loadRefusal f pasid bs = none →
        (∀ g ∈ s.gens, g.fn ≠ f) →
        (imageRecords bs = [] → ∃ t x, Acts (.sliceLoad a.id (.data bs)) s t ∧ EndsOk t a 0 ∧ FMap.find t.fns f = some x ∧
          x.state = .active ∧ x.pasid = pasid ∧ x.lanes = leAt bs 24 2 ∧ x.queues = leAt bs 26 2 ∧ x.sheets = leAt bs 28 2 ∧
          x.quotaLen = leAt bs 32 8) ∧
        (imageRecords bs ≠ [] → ∃ t b, Acts (.sliceLoad a.id (.data bs)) s t ∧ Works t a .waiting ∧ t.acc a.id = some b ∧
          b.note = bs ∧ t.keys = { s.keys with queue := s.keys.queue ++ [⟨a.id, a.fn, k.key⟩] })) ∧
      (slice bs 64 16 ≠ gcmTag k.key (slice bs 52 12) (overlay (bs.take (leAt bs 12 4)) 64 (List.replicate 16 0)) [] →
        ∃ t, Acts (.sliceLoad a.id (.data bs)) s t ∧ EndsWith t a 0x26 1 ∧ t.fns = s.fns ∧ t.keys = s.keys))

/-- R344: ATTACH_ENDPOINT attaches an accelerator to a slice that has room for it, with its Belay level and windows, and detaches one
that holds no region of a cut. Here no generation, restore or waiting packet concerns it. -/
def Obligations.EndpointsAttached : Prop :=
  ∀ (s : State) (a : Acc) (f : AttachF), Fresh s a → Plain a → a.op = .attach f →
    (f.detach = false → s.queuesHalted f.slice = false → s.attachRefusal f = none →
      ∃ t x, Acts (.attachEndpoint a.id) s t ∧ EndsOk t a 0 ∧ FMap.find t.eps f.ep = some x ∧ x.fn = f.slice ∧ x.belay = f.belay ∧
        x.quiesce = f.quiesce ∧ x.winBase = f.winBase ∧ x.winLen = f.winLen ∧ x.forkBase = f.forkBase ∧ x.forkSegs = f.forkSegs ∧
        x.quiesced = none ∧ x.owesResume = none ∧ ∀ k, k ≠ f.ep → FMap.find t.eps k = FMap.find s.eps k) ∧
    (∀ x, f.detach = true → FMap.find s.eps f.ep = some x → s.queuesHalted x.fn = false → s.gens = [] → s.restores = [] →
      s.waitPkts = [] → FMap.Sorted s.eps →
      ∃ t, Acts (.attachEndpoint a.id) s t ∧ EndsOk t a 0 ∧ FMap.find t.eps f.ep = none ∧ f.ep ∉ t.lost ∧
        ∀ k, k ≠ f.ep → FMap.find t.eps k = FMap.find s.eps k)

/-! ### Rig sets, firmware and keys -/

/-- R382 to R385: RIG_STAGE stages a well-formed set that is newer than the current one; RIG_COMMIT makes the staged set current where no
rule of Table 13-11 stops it, with the old one kept for RIG_ROLLBACK, which brings it back once. Each completes OK, the last two
with the generation that is current then. -/
def Obligations.RigSets : Prop :=
  ∀ (s : State) (a : Acc), Fresh s a → Plain a →
    (∀ src len gen bs, a.op = .rigStage src len gen → s.readRoom = true → bs.length = len → rigImageOk bs len gen = true →
      serialGt (BitVec.ofNat 32 gen) (BitVec.ofNat 32 s.rigs.cur.gen) = true →
      ∃ t, exec (.rigStage a.id (.data bs)) s = .next { s.keepFixed t.settle with rigs := t.rigs } ∧ EndsOk t a 0 ∧
        t.rigs = { s.rigs with staged := some (parseRigs bs) } ∧ t.cleats = s.cleats ∧ t.keys = s.keys) ∧
    (∀ gen r, a.op = .rigCommit gen → s.rigs.staged = some r → r.gen = gen → s.commitBreach r = none →
      ∃ t, exec (.rigCommit a.id) s = .next { s.keepFixed t.settle with rigs := t.rigs } ∧ EndsOk t a gen ∧ t.rigs.cur = r ∧
        t.rigs.prev = some s.rigs.cur ∧ t.rigs.staged = none ∧
        (∀ c, s.movesCleat r c = false → t.cleat c = s.cleat c) ∧ (∀ c, s.movesCleat r c = true → FMap.Sorted s.cleats → t.cleat c = 0) ∧
        (∀ k, s.movesSlot r false k = true → FMap.Sorted s.keys.store → FMap.find t.keys.store k = none) ∧
        (∀ k, s.movesSlot r false k = false → FMap.find t.keys.store k = FMap.find s.keys.store k)) ∧
    (∀ gen r, a.op = .rigRollback gen → s.rigs.cur.gen = gen → s.rigs.prev = some r → s.commitBreach r = none →
      ∃ t, exec (.rigRollback a.id) s = .next { s.keepFixed t.settle with rigs := t.rigs } ∧ EndsOk t a r.gen ∧ t.rigs.cur = r ∧
        t.rigs.prev = none ∧ t.rigs.staged = s.rigs.staged)

/-- R369, R370: FW_STAGE of a genuine image that passes every check writes it into the slot that is not active; FW_ACTIVATE for the next
reset sets the other slot's activation pending, where that slot holds a good image. -/
def Sys2Proof.Claims.Firmware : Prop :=
  ∀ (s : State) (a : Acc), Fresh s a → Plain a →
    (∀ code src len bs, a.op = .fwStage code src len → s.readRoom = true → bs.length = len → s.restarting .shroud = false →
      fwHeaderOk bs = true → s.fwRefusal code len s.pen.inForce.svn bs = none →
      ∃ t, exec (.fwStage a.id (.data bs)) s = .next { s.keepFixed t.settle with fw := t.settle.fw } ∧ EndsOk t a 0 ∧
        t.fwCode code = (s.fwCode code).store (some (s.fwRecord bs)) ∧ ∀ k, k ≠ code → t.fwCode k = s.fwCode k) ∧
    (∀ code, a.op = .fwActivate code false → s.fwGood code (s.fwCode code).other = true →
      ∃ t, exec (.fwActivate a.id) s = .next { s.keepFixed t.settle with fw := t.settle.fw } ∧ EndsOk t a 0 ∧
        t.fwCode code = { s.fwCode code with pending := true } ∧ ∀ k, k ≠ code → t.fwCode k = s.fwCode k) ∧
    (∀ code, a.op = .fwActivate code true → s.fwGood code (s.fwCode code).other = true → code ≠ 1 →
      ∃ t, exec (.fwActivate a.id) s = .next { s.keepFixed t.settle with fw := t.settle.fw } ∧ Works t a .waiting ∧ t.fw = s.fw)

/-- R301 to R307: KEY_LOAD of a well-formed blob that R303 does not refuse, and KU_BLOCK of a Key Unit key that the function owns, join
the Key Unit's queue with the wrapping key or the key. That the wrapping key is the one in force at the entry's start is the model's choice,
log 158. Here the blob is wrapped by the device's root. -/
def Sys2Proof.Claims.KeyEntries : Prop :=
  ∀ (s : State) (a : Acc) (slot : Nat), Fresh s a → Plain a → s.keys.drbgStopped = false →
    (∀ typ src len bs, a.op = .keyLoad slot typ src len → s.readRoom = true → blobOk bs = true → (parseBlob bs).wrap = 0 →
      s.queuesHalted (s.keyOwner slot (typ == 1)) = false → s.keyLoadRefusal slot typ len (parseBlob bs) = none →
      ∃ t b, Acts (.keyLoad a.id (.data bs)) s t ∧ Works t a .waiting ∧ t.acc a.id = some b ∧ b.note = bs ∧
        t.keys = { s.keys with queue := s.keys.queue ++ [⟨a.id, a.fn, deviceKek s.pen.deviceRoot⟩] }) ∧
    (∀ k decrypt data out, a.op = .kuBlock slot decrypt data out → FMap.find s.keys.store slot = some k → k.typ = 3 → k.ku = true →
      s.keyOwner slot false = a.fn →
      ∃ t, Acts (.kuBlock a.id) s t ∧ Works t a .waiting ∧
        t.keys = { s.keys with queue := s.keys.queue ++ [⟨a.id, a.fn, k.key⟩] })

/-! ### Cleats, copies, digests and the latch -/

/-- R280, R281, R283, R284: CLEAT_SIGNAL to a Cleat that the function owns adds its count, or ends with OVERFLOW and adds nothing;
CLEAT_WAIT whose threshold the count reaches takes the threshold off and ends with what is left, and otherwise waits. No other
Cleat changes. -/
def Obligations.CleatEntries : Prop :=
  ∀ (s : State) (a : Acc) (c : Nat), Fresh s a → Plain a → PlainCleat s c a.fn → (s.accepted.map (·.id)).Nodup →
    (∀ n, a.op = .cleatSignal c n s.setup.fabEp → s.cleat c + n ≤ 2147483647 →
      ∃ t b, Acts (.cleatSignal a.id) s t ∧ t.cleat c = s.cleat c + n ∧ CleatsSame s t c ∧ t.acc a.id = some b ∧ b.fin = some 0 ∧
        b.conds = []) ∧
    (∀ n, a.op = .cleatSignal c n s.setup.fabEp → 2147483647 < s.cleat c + n →
      ∃ t b, Acts (.cleatSignal a.id) s t ∧ t.cleats = s.cleats ∧ t.acc a.id = some b ∧ b.fin = some 0 ∧
        b.conds = [⟨0x62, c + a.sq * 2 ^ 16 + s.cleat c * 2 ^ 32⟩]) ∧
    (∀ n timeout, a.op = .cleatWait c n timeout → s.waits < 4096 → n ≤ s.cleat c →
      ∃ t b, Acts (.cleatWait a.id) s t ∧ t.acc a.id = some b ∧ b.fin = some (s.cleat c - n) ∧ b.conds = [] ∧
        (FMap.Sorted s.cleats → t.cleat c = s.cleat c - n) ∧ CleatsSame s t c) ∧
    (∀ n timeout, a.op = .cleatWait c n timeout → s.waits < 4096 → s.cleat c < n →
      ∃ t, Acts (.cleatWait a.id) s t ∧ Works t a .waiting ∧ t.cleats = s.cleats)

/-- R469, R24: COPY and FILL within the function's spaces queue one transfer for each segment of their length, and wait for them. Here
the length is one segment at most. -/
def Obligations.CopiesAndFills : Prop :=
  ∀ (s : State) (a : Acc), Fresh s a → Plain a →
    (∀ f, a.op = .copy f → 1 ≤ f.len → f.len ≤ segBytes → s.copyRefusal a f = none →
      ∃ t x, Acts (.copy a.id) s t ∧ Works t a .running ∧ FMap.find t.xfers s.nextId = some x ∧ x.phase = .queued ∧
        x.work = .copy a.id ∧ x.srcs = [Part.at (s.locOf a.fn f.srcSpace f.src) f.len] ∧
        x.dsts = [Part.at (s.locOf a.fn f.dstSpace f.dst) f.len] ∧
        (∀ k, k ≠ s.nextId → FMap.find t.xfers k = FMap.find s.xfers k) ∧ t.issued = s.issued) ∧
    (∀ f, a.op = .fill f → 1 ≤ f.len → f.len ≤ segBytes → s.fillRefusal a f = none →
      ∃ t x, Acts (.fill a.id) s t ∧ Works t a .running ∧ FMap.find t.xfers s.nextId = some x ∧ x.phase = .queued ∧
        x.work = .fill a.id ∧ x.srcs = [] ∧
        x.dsts = [Part.load (s.locOf a.fn f.dstSpace f.dst) (plain (patternBytes f.pattern f.len))] ∧
        (∀ k, k ≠ s.nextId → FMap.find t.xfers k = FMap.find s.xfers k) ∧ t.issued = s.issued)

/-- R311 to R314: DIGEST INIT sets a context to its algorithm's initial state, for the function; UPDATE and FINISH of no data keep what
the context has taken, and FINISH writes the digest to host memory. With data, of one piece here, the entry reads it, and a context
that was FINISHED is at its initial state at once. -/
def Sys2Proof.Claims.Digests : Prop :=
  ∀ (s : State) (a : Acc) (f : DigestF), Fresh s a → Plain a → a.op = .digest f → s.digestBehind a f = false →
    s.digestRefusal a.fn f = none →
    (f.op = 0 → f.len = 0 → f.hmac = false →
      ∃ t x b, Acts (.digest a.id) s t ∧ t.ctx f.ctx = some x ∧ x.fn = a.fn ∧ x.alg = f.alg ∧ x.chain = shaInit f.alg ∧
      x.half = [] ∧ x.count = 0 ∧ x.finished = false ∧ (∀ k, k ≠ f.ctx → t.ctx k = s.ctx k) ∧ t.acc a.id = some b ∧ b.fin = some 0) ∧
    (∀ x, f.op = 1 → f.len = 0 → s.ctx f.ctx = some x → x.finished = false → x.half.length < shaBlockLen x.alg →
      ∃ t y b, Acts (.digest a.id) s t ∧ t.ctx f.ctx = some y ∧ y.chain = x.chain ∧ y.half = x.half ∧ y.count = x.count ∧
        t.acc a.id = some b ∧ b.fin = some 0) ∧
    (∀ x, f.op = 2 → f.len = 0 → s.ctx f.ctx = some x → x.finished = false → x.hmac = false → x.half.length < shaBlockLen x.alg →
      ∃ t y z, Acts (.digest a.id) s t ∧ t.ctx f.ctx = some y ∧ y.finished = true ∧ FMap.find t.xfers s.nextId = some z ∧
        z.work = .resultOut a.id ∧ z.srcs = [] ∧
        z.dsts = [Part.load (.host (s.pasidOf a.fn) f.out) (plain (shaOut x.alg x.chain))]) ∧
    (∀ x, f.op = 1 ∨ f.op = 2 → 1 ≤ f.len → f.len ≤ segBytes → s.ctx f.ctx = some x →
      ∃ t y z, Acts (.digest a.id) s t ∧ Works t a .running ∧ t.ctx f.ctx = some y ∧ y.finished = false ∧
        (x.finished = true → y.chain = x.initState ∧ y.half = [] ∧ y.count = 0) ∧ (x.finished = false → y = x) ∧
        FMap.find t.xfers s.nextId = some z ∧ z.work = .digest a.id ∧ z.dsts = [] ∧
        z.srcs = [Part.at (.host (s.pasidOf a.fn) f.src) f.len])

/-- R410: SNAP_LATCH of the physical function copies every live counter that exists, the Telltale's level and risk and the life clock,
counts the latch and completes with its number; nothing else changes. -/
def Sys2Proof.Claims.Latches : Prop :=
  ∀ (s : State) (a : Acc), Fresh s a → Plain a → a.op = .snapLatch → a.fn = 0 →
    ∃ t, Acts (.snapLatch a.id) s t ∧ EndsOk t a (s.ctr.latchSeq + 1).toNat ∧ t.ctr.latchSeq = s.ctr.latchSeq + 1 ∧
      t.ctr.live = s.ctr.live ∧ t.ctr.shadowHeld = s.tt.held ∧ t.ctr.shadowLevel = s.tt.level ∧
      t.ctr.shadowLife = (s.pen.lifeS, s.pen.lifeTick) ∧
      (∀ id, s.ctrExists id = true → NMap.get t.ctr.shadow id = NMap.get s.ctr.live id) ∧
      t = { s with ctr := t.ctr, accepted := t.accepted }

/-! ### Generations, restores and Sheets -/

/-- R101, R106, R107, R26: GEN_OPEN of a well-formed region list and input section that Table 4-3 does not refuse opens a generation
of the next epoch, boot count times 2^40 and the sequence, and completes with that epoch; a region list that is well formed but for a
BASE that is not a multiple of 64 ends as malformed with reason 0x04 at the list's field. In the first case no endpoint attaches with
Belay, and no preemption notice of the job is due. The order of the last case is the model's reading, log
77, and the reads of the structures its choice, log 148. -/
def Sys2Proof.Claims.GensOpened : Prop :=
  ∀ (s : State) (a : Acc) (f : GenOpenF) (list input : List Byte), Fresh s a → Plain a → a.op = .genOpen f → s.readRoom = true →
    regionListOk f list (some (inputCounts input).1) = true → s.pauseForeign a.fn list = false →
    (misaligned (parseRegions list f.regions) = true → a.sq ≠ 0 →
      ∃ t, Acts (.genOpen a.id (.data list) (.data input)) s t ∧ EndsWith t a 0x80 (malformedInfo a 32 4) ∧ t.gens = s.gens ∧
        t.epochSeq = s.epochSeq) ∧
    (misaligned (parseRegions list f.regions) = false → inputOk f (parseRegions list f.regions) input = true →
      s.genOpenRefusal a f (parseRegions list f.regions) = none → (∀ ep, s.belayOf ep = 0) →
      (∀ j, FMap.find s.jobs f.job = some j → j.notice = false) →
      ∃ t, Acts (.genOpen a.id (.data list) (.data input)) s t ∧ EndsOk t a (s.pen.boot % 2 ^ 24 * 2 ^ 40 + s.epochSeq) ∧
        t.gens = s.gens ++ [newGen f a.fn (s.pasidOf a.fn) (s.pen.boot % 2 ^ 24 * 2 ^ 40 + s.epochSeq) list input] ∧
        t.epochSeq = s.epochSeq + 1 ∧ FMap.has t.jobs f.job = true ∧ t.xfers = s.xfers ∧ t.cleats = s.cleats)

/-- R108, R109, R132: a step that is not beyond the job's last ends with STEP_ORDER and has no other effect. A CUT whose trigger is not
due ends at once with INFO 0 and is the job's last step; so does one that is due while a cut of the generation is under way, and its
trigger stays due. A due CUT of a generation without a group list ends with CONFLICT, INFO 16, and its trigger stays due; one of a
full-image generation with a list waits while its endpoints are asked to quiesce. That a trigger due while a cut is being armed is deferred is the
model's choice, log 101. Where a step is marked, nothing attaches with
Belay and LOOKAHEAD is 0. -/
def Sys2Proof.Claims.CutsTaken : Prop :=
  ∀ (s : State) (a : Acc) (job step : Nat) (g : Gen) (j : Job), Fresh s a → Plain a → a.op = .cut job step → j.fn = a.fn →
    FMap.find s.jobs job = some j → j.base ≠ none → s.openGen job = some g → s.gen g.epoch = some g →
    (∀ l, j.lastStep = some l → step ≤ l → EndsWith (s.failEntry a.id 0x64 l) a 0x64 l ∧
      Acts (.cut a.id) s (s.failEntry a.id 0x64 l)) ∧
    ((∀ l, j.lastStep = some l → l < step) →
      ((s.markLevel j).cutDue step = false → (∀ ep, s.belayOf ep = 0) → g.lookahead = 0 →
        ∃ t, Acts (.cut a.id) s t ∧ EndsOk t a 0 ∧ FMap.find t.jobs job = some { s.markLevel j with lastStep := some step } ∧
          t.xfers = s.xfers ∧ t.gens.map (·.epoch) = s.gens.map (·.epoch)) ∧
      ((s.markLevel j).cutDue step = true → g.cutting ≠ none → (∀ ep, s.belayOf ep = 0) → g.lookahead = 0 →
        ∃ t, Acts (.cut a.id) s t ∧ EndsOk t a 0 ∧
          FMap.find t.jobs job = some { s.markLevel j with lastStep := some step, interval := true } ∧
          t.xfers = s.xfers ∧ t.gens.map (·.epoch) = s.gens.map (·.epoch)) ∧
      ((s.markLevel j).cutDue step = true → g.cutting = none → (s.gensOf job).all (fun h => h.state != .cut) = true →
        (g.groups = none → ∃ t, Acts (.cut a.id) s t ∧ EndsWith t a 0x40 16 ∧
          FMap.find t.jobs job = some { s.markLevel j with interval := true } ∧ t.gens = s.gens ∧ t.xfers = s.xfers) ∧
        (g.groups ≠ none → g.fullImage = true →
          ∃ t h c, Acts (.cut a.id) s t ∧ Works t a .waiting ∧ t.gen g.epoch = some h ∧ h.state = g.state ∧ h.cutting = some c ∧
            c.entry = a.id ∧ c.step = step ∧ c.stage = .quiesce ∧ c.await = g.holders ∧
            FMap.find t.jobs job = some { s.markLevel j with lastStep := some step })))

/-- R141, R142, R148, R152, R163: a STAMP without a blob is recorded in its OPEN generation and ends with its epoch; the first
PROTECT of a generation gives it its group list and a slot and waits, and a later one of a generation that is protected ends
with its epoch; a DRAIN marks its generation, with the priority, and waits. -/
def Obligations.GensProtected : Prop :=
  ∀ (s : State) (a : Acc) (g : Gen), Fresh s a → Plain a →
    (∀ f, a.op = .stamp f → f.blobLen = 0 → s.jobRefusal a.fn f.job = none → s.gen f.epoch = some g → g.job = f.job →
      g.state = .opened → g.recorded 0 = false → f.ep ∈ g.allHolders →
      ∃ t, Acts (.stamp a.id) s t ∧ EndsOk t a f.epoch ∧
        t.gen f.epoch = some { g with stamps := g.stamps.filter (·.ep != f.ep) ++ [⟨f.ep, f.draws, f.samples, f.perSample, []⟩] }) ∧
    (∀ f, a.op = .stamp f → f.blobLen ≠ 0 → s.jobRefusal a.fn f.job = none → s.stampRefusal f = none →
      ∃ t x, Acts (.stamp a.id) s t ∧ Works t a .running ∧ FMap.find t.xfers s.nextId = some x ∧ x.work = .stamp a.id ∧
        x.srcs = [Part.at (.host (s.pasidOf a.fn) f.blob) f.blobLen] ∧ t.gens = s.gens) ∧
    (∀ f bs, a.op = .protect f → s.readRoom = true → groupListOk f bs = true → s.jobRefusal a.fn f.job = none → (f.tiers / 2 % 2 = 0 ∨ s.setup.hasStaging = true) →
      s.protectGen f = some g → s.gen g.epoch = some g →
      (∀ slot unit, g.groups = none → s.supplyRefusal a f g (s.groupsOf f bs) = none →
        s.assignSlot g.job (s.groupsOf f bs).slots (g.manTotal (s.groupsOf f bs).members.length) = some (slot, none, unit) →
        ∃ t h, Acts (.protect a.id (.data bs)) s t ∧ Works t a .waiting ∧ t.gen g.epoch = some h ∧
          h.groups = some (s.groupsOf f bs) ∧ h.slot = slot ∧ h.manUnit = unit ∧ h.state = g.state ∧ h.tiers = g.tiers) ∧
      (∀ held, g.groups = some held → repeatRefusal f g held (s.groupsOf f bs) = none → g.safe = true → g.poisonCount = 0 →
        ∃ t, Acts (.protect a.id (.data bs)) s t ∧ EndsOk t a g.epoch ∧ t.gens = s.gens)) ∧
    (∀ f, a.op = .drain f → s.drainRefusal a f = none → s.drainGen f = some g → s.gen g.epoch = some g →
      ∃ t, Acts (.drain a.id) s t ∧ Works t a .waiting ∧
        t.gen g.epoch = some { g with drainBy := some a.id, prio := f.priority } ∧ t.xfers = s.xfers)

/-- R170, R172, R173, R198: a RESTORE or RESTORE_SPARE that Table 6-10 or R170 does not refuse starts from the generation and the
sources that R173 chooses; a RESTORE behind another restore of its job waits its turn, and starts when it is first and none
of its job runs. Here no generation of the job is loose, and nothing of the lost endpoint is in use. -/
def Obligations.RestoresStarted : Prop :=
  ∀ (s : State) (a : Acc), s.acc a.id = some a → a.fin = none → Plain a → (∀ r ∈ s.restores, r.entry ≠ a.id) →
    (∀ f g src map, a.op = .restore f → s.readRoom = true → f.rerig = false → s.jobRefusal a.fn f.job = none → s.restoreRefusal f = none →
      (s.gensOf f.job).filter Gen.loose = [] →
      s.choose { bareRest a.id f.job with
        tier := f.tier, only := f.epoch, keySlot := some f.keySlot
        ref := if f.epoch ≠ 0 then f.epoch else ((s.safeGens f.job).head?.map (·.epoch)).getD 0 } = some (g, src) →
      s.gen g.epoch = some g → (∀ m ∈ g.members, m.ep ∉ s.lost) →
      ((a.phase = .accepted → s.restBusy f.job = false →
        ∃ t r b, Acts (.restore a.id map) s t ∧ t.restoring a.id = some r ∧ r.epoch = g.epoch ∧ r.src = src ∧ r.job = f.job ∧
          t.acc a.id = some b ∧ b.phase = .running ∧ b.fin = none ∧ t.gens = s.gens) ∧
      (a.phase = .queued → s.restRuns f.job = false → (s.waitingRests f.job).head? = some a →
        ∃ t r b, Acts (.queuedEntryStart a.id map) s t ∧ t.restoring a.id = some r ∧ r.epoch = g.epoch ∧ r.src = src ∧
          r.job = f.job ∧ t.acc a.id = some b ∧ b.phase = .running ∧ b.fin = none ∧ t.gens = s.gens))) ∧
    (∀ f j map, a.op = .restore f → s.readRoom = true → a.phase = .accepted → s.jobRefusal a.fn f.job = none → (s.waitingRests f.job).length < 4 →
      s.restBusy f.job = true → FMap.find s.jobs f.job = some j →
      ∃ t, Acts (.restore a.id map) s t ∧ Works t a .queued ∧ t.restores = s.restores ∧
        FMap.find t.jobs f.job = some { j with restored := j.restored ++ [a.id] }) ∧
    (∀ job lost spare g src, a.op = .restoreSpare job lost spare → a.phase = .accepted → s.spareRefusal a.fn job lost spare = none →
      s.restBusy job = false → (s.gensOf job).filter Gen.loose = [] → lost ∈ s.lost →
      (∀ h ∈ s.gens, ∀ m ∈ h.members, m.buddy ≠ lost) →
      s.choose { bareRest a.id job with lost := lost, spare := spare, ref := ((s.safeGens job).head?.map (·.epoch)).getD 0 } =
        some (g, src) → s.gen g.epoch = some g →
      ∃ t r b, Acts (.restoreSpare a.id) s t ∧ t.restoring a.id = some r ∧ r.epoch = g.epoch ∧ r.src = src ∧ r.lost = lost ∧
        r.spare = spare ∧ t.acc a.id = some b ∧ b.phase = .running ∧ b.fin = none ∧ t.gens = s.gens)

/-- R230, R244, R250, R254, R273, R274, R349: SHEET_ARM of an arming whose structures are well formed and were read, and that Table 8-3
does not refuse, makes its Sheet RUNNING with its fields, and its release Cleat counts zero; SHEET_REARM of a persistent Sheet, with a
new dimension block or the kept one, starts the new arming at once when the old one's last transfer has completed or it has not
started, and otherwise holds it; of an ORPHANED function it holds none. SHEET_STOP stops the Sheet and waits. No other Sheet changes.
The reads of a header in fabric or staging space are the model's in part, log 148. -/
def Sys2Proof.Claims.SheetsArmed : Prop :=
  ∀ (s : State) (a : Acc), Fresh s a → Plain a → (s.accepted.map (·.id)).Nodup →
    (∀ f r u, a.op = .sheetArm f → s.armOpen a f r = true → u = s.readArm a f r → armBreach { f with base := f.ring } 48 r = none →
      u.noStaging (armSrc f f.base r) = none → u.hdrRefusal a.fn (armHdrs f r) = none →
      (armHdrs f r).findSome? (u.hdrLost a.fn) = none → u.headerRefusal a.fn f (armSrc f f.base r) = none →
      FMap.find s.sheets f.sheet = none → u.armRefusal a f.sheet { f with base := f.ring } (armSrc f f.base r) true = none →
      ∃ t h, Acts (.sheetArm a.id r.dim r.hdr r.ad) s t ∧ Works t a .running ∧ FMap.find t.sheets f.sheet = some h ∧ h.fn = a.fn ∧
        h.entry = a.id ∧ h.cur = armSrc f f.base r ∧ h.slots = f.slots ∧ h.slotSize = f.slotSize ∧ h.ring = f.ring ∧
        h.outType = f.outType ∧ h.persistent = f.persistent ∧ h.merge = f.merge ∧ h.w = 0 ∧ h.stopping = false ∧
        (∀ k, k ≠ f.sheet → FMap.find t.sheets k = FMap.find s.sheets k) ∧
        (FMap.Sorted s.cleats → t.cleat h.cur.dim.releaseCleat = 0)) ∧
    (∀ n h, FMap.find s.sheets n = some h → h.fn = a.fn → h.stopping = false →
      (∀ base dims r u, a.op = .sheetRearm n base dims → s.rearmOpen a n base dims r = true → u = s.readRearm a n base dims r →
        h.persistent = true → h.pend = none → rearmBreach n dims h r = none → u.noStaging (rearmSrc n base dims h r) = none →
        u.hdrRefusal a.fn (h.rearmHdrs base dims r) = none → (h.rearmHdrs base dims r).findSome? (u.hdrLost a.fn) = none →
        u.headerRefusal a.fn (rearmForm n dims h) (rearmSrc n base dims h r) = none →
        u.armRefusal a n (rearmForm n dims h) (rearmSrc n base dims h r) false = none →
        (s.orphaned h.fn = true → ∃ t, Acts (.sheetRearm a.id r.dim r.hdr r.ad) s t ∧ EndsOk t a 1 ∧ t.sheets = s.sheets) ∧
        (s.orphaned h.fn = false → s.lastDone n h = true ∨ h.fresh = true → ∃ t y, Acts (.sheetRearm a.id r.dim r.hdr r.ad) s t ∧
          EndsOk t a 0 ∧ FMap.find t.sheets n = some y ∧ y.cur = rearmSrc n base dims h r ∧ y.w0 = h.w ∧ y.w = h.w ∧ y.next = 0 ∧
          y.pend = none ∧ ∀ k, k ≠ n → FMap.find t.sheets k = FMap.find s.sheets k) ∧
        (s.orphaned h.fn = false → s.lastDone n h = false → h.fresh = false →
          ∃ t, Acts (.sheetRearm a.id r.dim r.hdr r.ad) s t ∧ EndsOk t a 1 ∧
            FMap.find t.sheets n = some { h with pend := some (rearmSrc n base dims h r) } ∧
            ∀ k, k ≠ n → FMap.find t.sheets k = FMap.find s.sheets k)) ∧
      (∀ atOnce, a.op = .sheetStop n atOnce → ∃ t, Acts (.sheetStop a.id) s t ∧ Works t a .waiting ∧
        FMap.find t.sheets n = some { h with
          stopping := true, atOnce := atOnce, pend := none
          stopAfter := if atOnce = true then none else some h.w
          sigStop := some (if atOnce = true then h.firstOpen else h.w + 1), stopEntry := some a.id } ∧
        ∀ k, k ≠ n → FMap.find t.sheets k = FMap.find s.sheets k))

/-- R264, R266, R272, R349: the end of an arming begins the pending one at slot W, or with none the same again where the Sheet is
persistent, or stops the Sheet (log 151 reads how it stops); of an ORPHANED function it stops the Sheet. A work unit's start takes the next unit of the Sheet that
is first to run dry, where no other work comes first; where no lane is free, no Sheet is ready, or other work comes first, nothing
changes. -/
def Sys2Proof.Claims.SheetsRun : Prop :=
  ∀ (s : State) (n : Nat) (h : Sheet), FMap.find s.sheets n = some h →
    (h.stopping = false → h.armEnded = true → s.hasWork (Work.ofSheet n) = false →
      (∀ x, h.pend = some x → s.orphaned h.fn = false →
        ∃ t y, Acts (.armingEnd n) s t ∧ FMap.find t.sheets n = some y ∧ y.cur = x ∧ y.pend = none ∧ y.w0 = h.w ∧
          y.next = 0 ∧ y.stopping = false) ∧
      (h.pend = none → h.persistent = true → s.orphaned h.fn = false →
        ∃ t y, Acts (.armingEnd n) s t ∧ FMap.find t.sheets n = some y ∧ y.cur = h.cur ∧ y.w0 = h.w ∧ y.next = 0 ∧ y.stopping = false) ∧
      (h.pend = none ∧ h.persistent = false ∨ s.orphaned h.fn = true → ∃ t, Acts (.armingEnd n) s t ∧
        FMap.find t.sheets n = some { h with stopping := true, atOnce := true, pend := none } ∧
        ∀ k, k ≠ n → FMap.find t.sheets k = FMap.find s.sheets k)) ∧
    (h.armEnded = false → Acts (.armingEnd n) s s) ∧
    (∀ y lane, s.glob.power = .run → s.laneFree y lane = true → s.nextSheet y = some (n, h) →
      s.goesNext y (s.sheetClaim h) (s.rivals y none false) = true → s.givesWay y (s.sheetClaim h) = false →
      FMap.find s.xfers s.nextId = none →
      ∃ t x z, Acts (.sheetWorkUnitStart y lane) s t ∧ FMap.find t.xfers s.nextId = some x ∧
        x.work = .sheet n (h.nextUnit.getD h.next) ∧ x.lane = lane ∧ x.phase = .reading ∧ FMap.find t.sheets n = some z ∧
        z.next = h.nextUnit.getD h.next + 1) ∧
    (∀ y lane, s.laneFree y lane = false ∨ s.nextSheet y = none ∨
      s.nextSheet y = some (n, h) ∧ (s.goesNext y (s.sheetClaim h) (s.rivals y none false) = false ∨ s.givesWay y (s.sheetClaim h) = true) →
      Acts (.sheetWorkUnitStart y lane) s s)

/-! ### Transfers and their answers -/

/-- R19, R124, R167, R377, R123: a lane that is free takes a transfer's reads, or its writes where it has nothing to read or its data has
come, when its Yard is ready for it, the port allows it and no other work comes first, in its Yard or, for what R124 and R167 order
across Yards, elsewhere; otherwise nothing changes. A tier-1 read that has come is ready to be written. The order within a class is the
model's in part, logs 61 and 62. A transfer that is to be sealed before it has anything to write, one that is to be replayed, and words
with an error in them are not meant here. -/
def Obligations.TransfersMove : Prop :=
  ∀ (s : State) (id : Nat) (x : Xfer), FMap.find s.xfers id = some x → x.id = id →
    (∀ y lane port ps w, s.glob.power = .run → s.laneFree y lane = true → s.ready y x = true → x.parked = false →
      s.goesNext y (s.claimOf x) (s.rivals y (some id) true) = true → s.givesWay y (s.claimOf x) = false → x.work.sealsFirst = false ∨ x.phase = .loaded →
      x.nextParts = some (ps, w) → s.portsAllow ps w port = true →
      ∃ t z, Acts (.transferDispatch id y lane port) s t ∧ FMap.find t.xfers id = some z ∧
        (w = false → z = { x with phase := .reading, yard := y, lane := lane, port := port }) ∧
        (w = true → s.glob.eccFlip = 0 → flipsOf x.dsts = [] → z = { x with
          phase := .writing, yard := y, lane := lane, port := port, stale := z.stale
          sigLast := (s.carries x).map fun (a : Acc) => (a.hdr.cleatId, a.hdr.sigCount) })) ∧
    (∀ y lane port, s.laneFree y lane = false ∨ s.ready y x = false ∨
      s.goesNext y (s.claimOf x) (s.rivals y (some id) true) = false ∨ s.givesWay y (s.claimOf x) = true → Acts (.transferDispatch id y lane port) s s) ∧
    (∀ j e i g q, x.work = .tier1 j e i → x.phase = .reading → s.owes id = false → flipsOf x.srcs = [] → s.gen e = some g → g.state = .opened →
      g.segs[i]? = some q →
      ∃ t z h r, Acts (.readComplete id) s t ∧ FMap.find t.xfers id = some z ∧ z.phase = .loaded ∧ z.srcs = x.srcs ∧
        z.dsts = x.dsts.map (fun p => { p with chunks := [(0, x.input.getD 0 [])] }) ∧ t.gen e = some h ∧ h.segs[i]? = some r ∧
        r.hasRead = true ∧ r.state = q.state)

/-- R58, R329: a staging write that is confirmed makes its granule known again; one that is not, by an error (cause 4) or because no
answer came in time (cause 3), leaves it unknown. A read answered with an error (cause 2) or not in time (cause 3) gives its entry
ECC_ERROR, memory 3, and halts its queue, and a read of a granule that is not known gives it cause 4 whatever comes. Here the
transfers are of a COPY, and the block is not in its boot. -/
def Sys2Proof.Claims.StagingAnswers : Prop :=
  ∀ (s : State) (port tag : Nat) (r : StgReq) (x : Xfer) (a : Acc) (q : Sq) (e : Nat),
    (s.sreqs.find? fun z => z.port == port && z.tag == tag) = some r → r.old = false → r.xfer ≠ 0 → FMap.find s.xfers r.xfer = some x → x.id = r.xfer →
    x.work = .copy e → s.acc e = some a → a.fin = none → a.conds = [] → a.id = e → FMap.find s.sqs a.sq = some q → q.state = .running →
    s.glob.power ≠ .boot →
    (r.write = true → ∀ data check, Expires (.stagingResponse port tag false data check) s
      { s with sreqs := s.sreqs.erase r, unknown := FMap.put s.unknown port ((s.unknownAt port).filter (· != r.unitAddr)) }) ∧
    (r.write = true → r.unitAddr ∉ s.unknownAt r.port → (s.unknownAt r.port).length < 1024 →
      ∀ c cause, (c = .stagingResponseTimeout port tag ∧ cause = 3 ∨ ∃ data check, c = .stagingResponse port tag true data check ∧ cause = 4) →
      ∃ t b z, Expires c s t ∧ t.sreqs = s.sreqs.erase r ∧ t.unknownAt r.port = s.unknownAt r.port ++ [r.unitAddr] ∧ t.acc e = some b ∧
        b.conds = [⟨0x82, eccInfo 3 cause r.port r.unitAddr⟩] ∧ FMap.find t.sqs a.sq = some z ∧ z.state = .halted) ∧
    (r.write = false → r.rmw = false → r.unitAddr ∉ s.unknownAt port →
      ∀ c cause, (c = .stagingResponseTimeout port tag ∧ cause = 3 ∨ ∃ data check, c = .stagingResponse port tag true data check ∧ cause = 2) →
      ∃ t b z, Expires c s t ∧ t.sreqs = s.sreqs.erase r ∧ t.acc e = some b ∧
        b.conds = [⟨0x82, eccInfo 3 cause r.port r.unitAddr⟩] ∧ FMap.find t.sqs a.sq = some z ∧ z.state = .halted) ∧
    (r.write = false → r.rmw = false → r.unitAddr ∈ s.unknownAt port →
      ∀ c, (c = .stagingResponseTimeout port tag ∨ ∃ err data check, c = .stagingResponse port tag err data check) →
      ∃ t b z, Expires c s t ∧ t.sreqs = s.sreqs.erase r ∧ t.acc e = some b ∧
        b.conds = [⟨0x82, eccInfo 3 4 r.port r.unitAddr⟩] ∧ FMap.find t.sqs a.sq = some z ∧ z.state = .halted)

/-- R59, R96: an answer to a host request ends it: a write's answer and an interrupt's have no further effect, a read's bytes come for
their transfer, an error of a COPY's data counts as poison, and an error of a completion write halts the ring and its
function with RING_FAULT. An answer that nothing waits for has no effect. That completions and interrupts are host writes of their
own, and what their errors do, is the model's choice in part, log 64. -/
def Sys2Proof.Claims.HostAnswers : Prop :=
  ∀ (s : State) (req : Nat),
    ((∀ r ∈ s.hreqs, r.id ≠ req) → ∀ w, Acts (.hostResponse req w) s s) ∧
    (∀ r, (s.hreqs.find? (·.id == req)) = some r →
      (∀ ring w, r.use = .interrupt ring → Acts (.hostResponse req w) s { s with hreqs := s.hreqs.filter (·.id != req) }) ∧
      (∀ ring i bs, r.use = .completion ring i → Acts (.hostResponse req (.data bs)) s { s with hreqs := s.hreqs.filter (·.id != req) }) ∧
      (∀ ring i c x, r.use = .completion ring i → ring ≠ 0 → FMap.find s.cqs ring = some c → FMap.find s.fns c.fn = some x →
        x.state = .active →
        ∃ t y, Acts (.hostResponse req .error) s t ∧ FMap.find t.cqs ring = some { c with state := .halted } ∧
          FMap.find t.fns c.fn = some y ∧ y.state = .halted ∧ y.haltCause = 2 ∧ y.haltIndex = i ∧ y.haltQid = ring) ∧
      (∀ x i off len bs t0, r.use = .data x i off len false → FMap.find s.xfers x = some t0 → s.glob.eccFlip = 0 → flipsOf t0.srcs = [] →
        ∃ t y, Acts (.hostResponse req (.data bs)) s t ∧ FMap.find t.xfers x = some y ∧
          y.srcs = t0.srcs.zipIdx.map (fun p =>
            if p.2 = i then { p.1 with chunks := FMap.put p.1.chunks off (plain (bs.take len)) } else p.1) ∧ y.phase = t0.phase) ∧
      (∀ x i off len w t0 e a, r.use = .data x i off len w → FMap.find s.xfers x = some t0 → t0.work = .copy e → s.acc e = some a →
        a.id = e → a.fin = none → a.conds = [] →
        ∃ t, Acts (.hostResponse req .error) s t ∧
          t.acc e = some { a with conds := [⟨0x22, 2 ^ 32⟩], hostLost := a.hostLost + len }))


/-! ### The parts together -/

/-- What commands leave alone: the queue of waiting commands, always; the set-up, the always-on domain, the rig sets, the firmware
store, the SPDM responder and the heartbeat intervals, each but for the commands that are there to change it. -/
def Obligations.Frames : Prop :=
  Claims.QueueUntouched ∧ Claims.OrdinaryFrame ∧ Claims.SpecialFrames

/-- R448: how the locks are set, that they and what they lock stay until PORST_N, and the writes of what they lock. -/
def Obligations.LockRules : Prop :=
  Claims.LocksHoldUntilPorst ∧ Claims.LockWrites ∧ Claims.SetupWrites

/-- R74, R76, R77, R79: doorbell writes by the state of their ring and by their index. -/
def Obligations.Doorbells : Prop :=
  Claims.DoorbellByState ∧ Claims.DoorbellOutOfRange ∧ Claims.CompletionDoorbell

/-- R13: 64-bit register pairs, read and written. -/
def Obligations.PairRegisters : Prop :=
  Claims.PairReads ∧ Claims.PairWrites

/-- R458: an access of the unlocked debug region is the one stop of the block. -/
def Obligations.DebugRegion : Prop :=
  Claims.DebugRegionStops ∧ Claims.OnlyDebugStops

/-- R61: reads of the control window, accesses of a wrong size or alignment, and writes of single registers. -/
def Obligations.ControlPort : Prop :=
  Claims.RegisterReads ∧ Claims.BadAccess ∧ Claims.SingleWrites

/-- R446, R447: writes of GLOBAL_FAULT and GLOBAL_CTRL. -/
def Obligations.GlobalRegisters : Prop :=
  Claims.GlobalCtrlKey ∧ Claims.FaultW1c

/-- R387, R388 and Table 14-1: the mailbox commands that read. -/
def Obligations.MailboxReading : Prop :=
  Claims.MailboxSensors ∧ Claims.MailboxReads

/-- R387, R388 and Table 14-1: the mailbox commands that write, the tally's burns among them. -/
def Obligations.MailboxWriting : Prop :=
  Claims.MailboxWrites ∧ Claims.TallyBurns

/-- R387: the response to a mailbox request, and the requests that are refused. -/
def Obligations.MailboxAnswers : Prop :=
  Claims.MailboxResponse ∧ Claims.MailboxRefusals

/-- R369, R370: firmware images staged and activated, through the mailbox and by entries. -/
def Obligations.FirmwareImages : Prop :=
  Claims.MailboxImages ∧ Claims.Firmware

/-- R315 to R317, log 23: the SPDM responder. -/
def Obligations.SpdmResponder : Prop :=
  Claims.SpdmServes ∧ Claims.CertificateChain ∧ Claims.Measurements

/-- R62, R180, R397, R434 to R437: the always-on supply, waking, power-good, the end of a boot, IDLE and gated Yards. -/
def Obligations.PowerEvents : Prop :=
  Claims.SupplyLoss ∧ Claims.Wake ∧ Claims.PowerGood ∧ Claims.IdleAndGates ∧ Claims.BootCompletes

/-- R50, R51, R465: the level of a port's link, and the HELLO that starts its session. -/
def Obligations.LinkTraining : Prop :=
  Claims.LinkLevels ∧ Claims.LinkHello

/-- R43 to R48, R52, R53: which packets are taken, and the answers to packets addressed to the block. -/
def Obligations.PacketTaking : Prop :=
  Claims.PacketsGated ∧ Claims.PacketAnswers

/-- R113 to R138, R201: the protocol packets of endpoints. -/
def Obligations.ProtocolHandling : Prop :=
  Claims.ProtocolPackets ∧ Claims.PreemptNotices

/-- R120, R134, R286, R352: the timeouts of entries, and an endpoint's late RESUME_DONE. -/
def Obligations.EntryTimeouts : Prop :=
  Claims.WaitTimeouts ∧ Claims.ResetTimeouts ∧ Claims.CutTimeouts ∧ Claims.ResumesLate

/-- R85, R348, R375, R431: the heartbeat, the coalescing timer and Mainstay unpaired. -/
def Obligations.OtherTimeouts : Prop :=
  Claims.HeartbeatMisses ∧ Claims.CoalescingExpires ∧ Claims.Unpaired

/-- R49, R465: fabric requests without an answer, and waits for a usable port. -/
def Obligations.PortTimeoutRules : Prop :=
  Claims.FabricTimeouts ∧ Claims.PortTimeouts

/-- R63, R64, R390 to R392: sensor readings and their flags. -/
def Obligations.SensorRules : Prop :=
  Claims.SensorReadings ∧ Claims.SensorFlags

/-- R401, R404: an entry takes the next SEQ and joins the always-on store, and with staging outside PENNANT the persistent one, with its
place in staging; the oldest leaves a full store. While Masthead restarts, 256 entries are held and each further one is lost and
counted in LOG_LOST; the held ones are written in order when it is back, and LOG_GAP follows with the number lost. -/
def Sys2Proof.Claims.EventLog : Prop :=
  ∀ (s : State) (e : LogEnt),
    (s.restarting .masthead = false →
      let t := s.logEntry e
      t = { s with log := t.log } ∧ t.log.next = s.log.next + 1 ∧
      (s.log.always.length < 16384 → t.log.always = s.log.always ++ [{ e with seq := s.log.next }]) ∧
      (s.log.always.length = 16384 → t.log.always = s.log.always.tail ++ [{ e with seq := s.log.next }]) ∧
      (s.setup.hasStaging = true → s.glob.power ≠ .pennant →
        (s.log.persist.length < 524288 → t.log.persist = s.log.persist ++ [{ e with seq := s.log.next }]) ∧
        (s.log.persist.length = 524288 → t.log.persist = s.log.persist.tail ++ [{ e with seq := s.log.next }]) ∧
        t.log.toStage = s.log.toStage ++ [(s.log.slot, { e with seq := s.log.next })] ∧
        t.log.slot = (s.log.slot + 1) % 524288) ∧
      (s.setup.hasStaging = false ∨ s.glob.power = .pennant → t.log.persist = s.log.persist ∧ t.log.toStage = s.log.toStage)) ∧
    (s.restarting .masthead = true →
      (s.log.held.length < 256 → s.logEntry e = { s with log := { s.log with held := s.log.held ++ [e] } }) ∧
      (256 ≤ s.log.held.length → (s.logEntry e).log = { s.log with lost := s.log.lost + 1 } ∧
        CountedOnce s (s.logEntry e) (ctrId 0 0 1))) ∧
    (s.restarting .masthead = false →
      s.flushLog.log.held = [] ∧ s.flushLog.log.lost = 0 ∧
      (s.log.lost = 0 → s.flushLog.log.next = s.log.next + BitVec.ofNat 32 s.log.held.length ∧
        (s.log.always.length + s.log.held.length ≤ 16384 →
          (s.flushLog.log.always.map fun e => (e.code, e.d)) =
            (s.log.always.map fun e => (e.code, e.d)) ++ s.log.held.map fun e => (e.code, e.d))) ∧
      (s.log.lost ≠ 0 → s.flushLog.log.next = s.log.next + BitVec.ofNat 32 s.log.held.length + 1 ∧
        Logged s.flushLog 0x0707 [s.log.lost]))

/-- Table 14-9, R406: an event counter stops at 2^48 - 1, an activity counter wraps at 2^64, a byte counter in units of 4 KiB carries
what does not fill one; no other counter moves. R408: a counter that is zeroed reads zero, and no other instance's is. -/
def Sys2Proof.Claims.CountersCount : Prop :=
  ∀ (s : State) (id n : Nat), FMap.Sorted s.ctr.live →
    (ctrClass id = some .event → (s.count id n).ctr.value id = min (s.ctr.value id + n) (2 ^ 48 - 1)) ∧
    (ctrClass id = some .activity → (s.count id n).ctr.value id = (s.ctr.value id + n) % 2 ^ 64) ∧
    (ctrClass id = some .activity → FMap.Sorted s.ctr.rem → ∃ units,
      (s.countBytes id n).ctr.value id = (s.ctr.value id + units) % 2 ^ 64 ∧
      4096 * units + NMap.get (s.countBytes id n).ctr.rem id = NMap.get s.ctr.rem id + n ∧
      NMap.get (s.countBytes id n).ctr.rem id < 4096) ∧
    (∀ k, k ≠ id → (s.count id n).ctr.value k = s.ctr.value k) ∧
    (∀ scope inst k, (s.zeroCtr scope inst).ctr.value k = if k / 256 = scope * 2 ^ 12 + inst then 0 else s.ctr.value k)

/-- R401, R404, R406, R408: the event log and the counters. R371, R432 and Table 16-6: the faults that halt the block, and what a halt
does. -/
def Obligations.FaultReports : Prop :=
  Claims.EventLog ∧ Claims.CountersCount ∧ Claims.ClockVoltageThermal ∧ Claims.BlockHalts

/-- R301 to R310: KEY_LOAD, KU_BLOCK, the Key Unit's service and the key alarms. -/
def Obligations.KeyUnitRules : Prop :=
  Claims.KeyAlarms ∧ Claims.KeyUnitServes ∧ Claims.KeyEntries

/-- R78, R80, R92: the acceptance of entries; an entry's row runs an accepted entry once. -/
def Obligations.EntryLife : Prop :=
  Claims.EntriesActOnce ∧ Claims.EntriesAccepted

/-- R82, R86, R91, R93: completions, and entries that are refused. -/
def Obligations.EntryEnds : Prop :=
  Claims.CompletionsWritten ∧ Claims.EntriesRefused

/-- R87 to R91: QUEUE_CREATE and QUEUE_DESTROY. -/
def Obligations.QueueEntries : Prop :=
  Claims.QueuesCreated ∧ Claims.QueuesDestroyed

/-- R341 to R345: SLICE_CREATE and SLICE_RESIZE. -/
def Obligations.SliceAllotments : Prop :=
  Claims.SlicesCreated ∧ Claims.SlicesResized

/-- R305, R352 to R358: SLICE_FREEZE, SLICE_RESET, SLICE_SAVE and SLICE_LOAD. -/
def Obligations.SliceStates : Prop :=
  Claims.SlicesFrozenAndReset ∧ Claims.SlicesSavedAndLoaded

/-- R311 to R314, R410: DIGEST and SNAP_LATCH. -/
def Obligations.DigestsAndLatches : Prop :=
  Claims.Digests ∧ Claims.Latches

/-- R101, R106 to R109, R132, R136: GEN_OPEN and CUT. -/
def Obligations.GensOpenedAndCut : Prop :=
  Claims.GensOpened ∧ Claims.CutsTaken

/-- R244 to R274: Sheets armed, re-armed, run and stopped. -/
def Obligations.SheetRules : Prop :=
  Claims.SheetsArmed ∧ Claims.SheetsRun

/-- R58, R59, R96, R329: the answers of the staging and host master ports. -/
def Obligations.PortAnswers : Prop :=
  Claims.StagingAnswers ∧ Claims.HostAnswers

/-- R293: a manifest that its pipe suspends at every boundary of 4,096 B and resumes is sealed as one that it seals at one go, under a
key of 32 bytes. -/
def Obligations.SealsInPieces : Prop :=
  ∀ (k : KeySlot) (i : SealId) (text : List Byte) (n : Nat), k.key.length = 32 → text.length ≤ 4096 * n →
    ((GcmCtx.start k i text.length).run text n).finish = sealObject k i text

end
end

