-- ==== Sys2Proof/Laws/Crypto.lean ====
section
/-! SUPPORT. The product of GF(2^8) under AES's polynomial is a commutative and associative product, AES decryption undoes
encryption, and AES Key Wrap can be unwrapped. -/

-- One theorem at a time: each waiting task would hold a thread stack of its own.
set_option Elab.async false

namespace Sys2Proof.Machine

/-! ### The product -/

theorem gfX_xor (p a b : Byte) : gfX p (a ^^^ b) = gfX p a ^^^ gfX p b := by
  unfold gfX
  rw [BitVec.getLsbD_xor]
  cases a.getLsbD 7 <;> cases b.getLsbD 7 <;> simp [BitVec.shiftLeft_xor_distrib] <;> ac_nf
  simp

/-- The product taken in some bits, from a sum and a multiple on. -/
theorem gfMul_fold_left (p b : Byte) (is : List Nat) : ∀ x x' : Byte × Byte,
    is.foldl (fun (acc : Byte × Byte) i => (if b.getLsbD i then acc.1 ^^^ acc.2 else acc.1, gfX p acc.2)) (x.1 ^^^ x'.1, x.2 ^^^ x'.2) =
      (let f := is.foldl (fun (acc : Byte × Byte) i => (if b.getLsbD i then acc.1 ^^^ acc.2 else acc.1, gfX p acc.2))
       ((f x).1 ^^^ (f x').1, (f x).2 ^^^ (f x').2)) := by
  induction is with
  | nil => intro x x'; rfl
  | cons i is ih =>
    intro x x'
    simp only [List.foldl_cons]
    rw [← ih, gfX_xor]
    congr 2
    split
    · show x.1 ^^^ x'.1 ^^^ (x.2 ^^^ x'.2) = x.1 ^^^ x.2 ^^^ (x'.1 ^^^ x'.2)
      ac_rfl
    · rfl

theorem gfMul_xor_left (p a a' b : Byte) : gfMul p (a ^^^ a') b = gfMul p a b ^^^ gfMul p a' b := by
  have h := congrArg Prod.fst (gfMul_fold_left p b (List.range 8) (0, a) (0, a'))
  simp only [BitVec.xor_self] at h
  exact h

theorem gfMul_fold_right (p b b' : Byte) (is : List Nat) : ∀ x x' y : Byte,
    is.foldl (fun (acc : Byte × Byte) i => (if (b ^^^ b').getLsbD i then acc.1 ^^^ acc.2 else acc.1, gfX p acc.2)) (x ^^^ x', y) =
      ((is.foldl (fun (acc : Byte × Byte) i => (if b.getLsbD i then acc.1 ^^^ acc.2 else acc.1, gfX p acc.2)) (x, y)).1 ^^^
        (is.foldl (fun (acc : Byte × Byte) i => (if b'.getLsbD i then acc.1 ^^^ acc.2 else acc.1, gfX p acc.2)) (x', y)).1,
       (is.foldl (fun (acc : Byte × Byte) i => (if b.getLsbD i then acc.1 ^^^ acc.2 else acc.1, gfX p acc.2)) (x, y)).2) := by
  induction is with
  | nil => intro x x' y; rfl
  | cons i is ih =>
    intro x x' y
    have h : (if (b ^^^ b').getLsbD i then (x ^^^ x') ^^^ y else x ^^^ x') =
        (if b.getLsbD i then x ^^^ y else x) ^^^ (if b'.getLsbD i then x' ^^^ y else x') := by
      rw [BitVec.getLsbD_xor]
      generalize b.getLsbD i = u
      generalize b'.getLsbD i = v
      cases u <;> cases v
      · rfl
      · exact BitVec.xor_assoc ..
      · show x ^^^ x' ^^^ y = x ^^^ y ^^^ x'
        ac_rfl
      · show x ^^^ x' = x ^^^ y ^^^ (x' ^^^ y)
        rw [show x ^^^ y ^^^ (x' ^^^ y) = x ^^^ x' ^^^ (y ^^^ y) by ac_rfl]
        simp
    simp only [List.foldl_cons, h]
    exact ih _ _ _

theorem gfMul_xor_right (p a b b' : Byte) : gfMul p a (b ^^^ b') = gfMul p a b ^^^ gfMul p a b' := by
  have h := congrArg Prod.fst (gfMul_fold_right p b b' (List.range 8) 0 0 a)
  simp only [BitVec.xor_self] at h
  exact h

/-- What holds of zero, of sums and of the eight powers of x holds of every byte. -/
theorem byte_ind {P : Byte → Prop} (zero : P 0) (add : ∀ x y, P x → P y → P (x ^^^ y))
    (basis : ∀ x ∈ ([1, 2, 4, 8, 16, 32, 64, 128] : List Byte), P x) (x : Byte) : P x := by
  have bit : ∀ i y, P y → P (if x.getLsbD i then y else 0) := fun i y h => by split <;> assumption
  have sum : ∀ x : Byte, x = (if x.getLsbD 0 then 1 else 0) ^^^ (if x.getLsbD 1 then 2 else 0) ^^^ (if x.getLsbD 2 then 4 else 0) ^^^
      (if x.getLsbD 3 then 8 else 0) ^^^ (if x.getLsbD 4 then 16 else 0) ^^^ (if x.getLsbD 5 then 32 else 0) ^^^
      (if x.getLsbD 6 then 64 else 0) ^^^ (if x.getLsbD 7 then 128 else 0) := by decide
  rw [sum x]
  simp only [List.forall_mem_cons] at basis
  exact add _ _ (add _ _ (add _ _ (add _ _ (add _ _ (add _ _ (add _ _ (bit _ _ basis.1) (bit _ _ basis.2.1)) (bit _ _ basis.2.2.1))
    (bit _ _ basis.2.2.2.1)) (bit _ _ basis.2.2.2.2.1)) (bit _ _ basis.2.2.2.2.2.1)) (bit _ _ basis.2.2.2.2.2.2.1))
    (bit _ _ basis.2.2.2.2.2.2.2.1)

theorem gfMul_zero_left (p b : Byte) : gfMul p 0 b = 0 := by
  have := gfMul_xor_left p 0 0 b
  simpa using this

theorem gfMul_zero_right (p a : Byte) : gfMul p a 0 = 0 := by
  have := gfMul_xor_right p a 0 0
  simpa using this

theorem gfMul_comm (a b : Byte) : gfMul aesPoly a b = gfMul aesPoly b a := by
  refine byte_ind (P := fun a => ∀ b, gfMul aesPoly a b = gfMul aesPoly b a) ?_ ?_ ?_ a b
  · intro b; rw [gfMul_zero_left, gfMul_zero_right]
  · intro x y hx hy b; rw [gfMul_xor_left, gfMul_xor_right, hx, hy]
  · intro x hx b
    refine byte_ind (P := fun b => gfMul aesPoly x b = gfMul aesPoly b x) ?_ ?_ ?_ b
    · rw [gfMul_zero_left, gfMul_zero_right]
    · intro y z hy hz; rw [gfMul_xor_left, gfMul_xor_right, hy, hz]
    · revert x; decide

theorem gfMul_assoc (a b c : Byte) : gfMul aesPoly (gfMul aesPoly a b) c = gfMul aesPoly a (gfMul aesPoly b c) := by
  refine byte_ind (P := fun a => gfMul aesPoly (gfMul aesPoly a b) c = gfMul aesPoly a (gfMul aesPoly b c)) ?_ ?_ ?_ a
  · simp only [gfMul_zero_left]
  · intro x y hx hy; simp only [gfMul_xor_left, hx, hy]
  intro x hx
  refine byte_ind (P := fun b => gfMul aesPoly (gfMul aesPoly x b) c = gfMul aesPoly x (gfMul aesPoly b c)) ?_ ?_ ?_ b
  · simp only [gfMul_zero_left, gfMul_zero_right]
  · intro y z hy hz; simp only [gfMul_xor_left, gfMul_xor_right, hy, hz]
  intro y hy
  refine byte_ind (P := fun c => gfMul aesPoly (gfMul aesPoly x y) c = gfMul aesPoly x (gfMul aesPoly y c)) ?_ ?_ ?_ c
  · simp only [gfMul_zero_right]
  · intro z w hz hw; simp only [gfMul_xor_right, hz, hw]
  intro z hz
  have h : ∀ x ∈ ([1, 2, 4, 8, 16, 32, 64, 128] : List Byte), ∀ y ∈ ([1, 2, 4, 8, 16, 32, 64, 128] : List Byte),
      ∀ z ∈ ([1, 2, 4, 8, 16, 32, 64, 128] : List Byte),
      gfMul aesPoly (gfMul aesPoly x y) z = gfMul aesPoly x (gfMul aesPoly y z) := by decide +kernel
  exact h x hx y hy z hz

theorem gfMul_one (a : Byte) : gfMul aesPoly 1 a = a := by
  refine byte_ind (P := fun a => gfMul aesPoly 1 a = a) ?_ ?_ ?_ a
  · exact gfMul_zero_right _ _
  · intro x y hx hy; rw [gfMul_xor_right, hx, hy]
  · decide

/-! ### Powers and inverses -/

theorem gfPow_add (a : Byte) (m n : Nat) : gfPow aesPoly a (m + n) = gfMul aesPoly (gfPow aesPoly a m) (gfPow aesPoly a n) := by
  induction m with
  | zero => rw [Nat.zero_add, gfPow, gfMul_one]
  | succ m ih => rw [Nat.succ_add, gfPow, ih, gfPow, gfMul_assoc]

theorem gfPow_mul (a : Byte) (m n : Nat) : gfPow aesPoly a (m * n) = gfPow aesPoly (gfPow aesPoly a m) n := by
  induction n with
  | zero => rfl
  | succ n ih => rw [Nat.mul_succ, Nat.add_comm, gfPow_add, ih, gfPow]

theorem gfPow_two (a : Byte) : gfPow aesPoly a 2 = gfMul aesPoly a a := by
  rw [gfPow, gfPow, gfPow, gfMul_comm a 1, gfMul_one]

theorem gfSq_xor (a b : Byte) : gfPow aesPoly (a ^^^ b) 2 = gfPow aesPoly a 2 ^^^ gfPow aesPoly b 2 := by
  simp only [gfPow_two, gfMul_xor_left, gfMul_xor_right]
  rw [gfMul_comm b a]
  ac_nf
  simp

/-- The 256th power of an element is the element. -/
theorem gfPow_256 (a : Byte) : gfPow aesPoly a 256 = a := by
  rw [show 256 = 2 * 2 * 2 * 2 * 2 * 2 * 2 * 2 from rfl]
  simp only [gfPow_mul]
  refine byte_ind (P := fun a => gfPow aesPoly (gfPow aesPoly (gfPow aesPoly (gfPow aesPoly (gfPow aesPoly (gfPow aesPoly (gfPow aesPoly
    (gfPow aesPoly a 2) 2) 2) 2) 2) 2) 2) 2 = a) ?_ ?_ ?_ a
  · decide
  · intro x y hx hy; simp only [gfSq_xor, hx, hy]
  · decide +kernel

theorem gfInv_gfInv (a : Byte) : gfInv aesPoly (gfInv aesPoly a) = a := by
  unfold gfInv
  rw [← gfPow_mul, show 254 * 254 = 256 * 252 + 4 from rfl, gfPow_add, gfPow_mul, gfPow_256, ← gfPow_add, gfPow_256]

theorem sboxInv_sbox (a : Byte) : sboxInv (sbox a) = a := by
  have h : ∀ b : Byte, let c := b ^^^ b.rotateLeft 1 ^^^ b.rotateLeft 2 ^^^ b.rotateLeft 3 ^^^ b.rotateLeft 4 ^^^ 0x63
      c.rotateLeft 1 ^^^ c.rotateLeft 3 ^^^ c.rotateLeft 6 ^^^ 0x05 = b := by decide +kernel
  unfold sboxInv sbox
  simp only [h]
  exact gfInv_gfInv a

/-! ### AES -/

theorem xor_left_self (x y : Byte) : x ^^^ (x ^^^ y) = y := by rw [← BitVec.xor_assoc, BitVec.xor_self, BitVec.zero_xor]

theorem xor_left_comm (x y z : Byte) : x ^^^ (y ^^^ z) = y ^^^ (x ^^^ z) := by ac_rfl

theorem mixColumn_eq (p q r u a b c d : Byte) : mixColumn [p, q, r, u] [a, b, c, d] =
    [gfMul aesPoly p a ^^^ gfMul aesPoly q b ^^^ gfMul aesPoly r c ^^^ gfMul aesPoly u d,
     gfMul aesPoly u a ^^^ gfMul aesPoly p b ^^^ gfMul aesPoly q c ^^^ gfMul aesPoly r d,
     gfMul aesPoly r a ^^^ gfMul aesPoly u b ^^^ gfMul aesPoly p c ^^^ gfMul aesPoly q d,
     gfMul aesPoly q a ^^^ gfMul aesPoly r b ^^^ gfMul aesPoly u c ^^^ gfMul aesPoly p d] := by
  simp [mixColumn, List.range, List.range.loop]

theorem mixColumn_xor (p q r u a b c d a' b' c' d' : Byte) :
    mixColumn [p, q, r, u] [a ^^^ a', b ^^^ b', c ^^^ c', d ^^^ d'] =
      xorBytes (mixColumn [p, q, r, u] [a, b, c, d]) (mixColumn [p, q, r, u] [a', b', c', d']) := by
  simp only [mixColumn_eq, gfMul_xor_right, xorBytes, List.zipWith]
  congr 1
  · ac_rfl
  congr 1
  · ac_rfl
  congr 1
  · ac_rfl
  congr 1
  ac_rfl

/-- MixColumns and its inverse, one after the other. -/
def mixBoth (col : List Byte) : List Byte := mixColumn [14, 11, 13, 9] (mixColumn [2, 3, 1, 1] col)

theorem mixBoth_xor (a b c d a' b' c' d' : Byte) : mixBoth [a ^^^ a', b ^^^ b', c ^^^ c', d ^^^ d'] =
    xorBytes (mixBoth [a, b, c, d]) (mixBoth [a', b', c', d']) := by
  unfold mixBoth
  rw [mixColumn_xor, mixColumn_eq 2, mixColumn_eq 2]
  exact mixColumn_xor ..

theorem mixBoth_eq (a b c d : Byte) : mixBoth [a, b, c, d] = [a, b, c, d] := by
  have z : ∀ x y : Byte, mixBoth [x ^^^ y, 0, 0, 0] = xorBytes (mixBoth [x, 0, 0, 0]) (mixBoth [y, 0, 0, 0]) := fun x y => by
    rw [← mixBoth_xor, BitVec.xor_self]; rfl
  have z1 : ∀ x y : Byte, mixBoth [0, x ^^^ y, 0, 0] = xorBytes (mixBoth [0, x, 0, 0]) (mixBoth [0, y, 0, 0]) := fun x y => by
    rw [← mixBoth_xor, BitVec.xor_self]; rfl
  have z2 : ∀ x y : Byte, mixBoth [0, 0, x ^^^ y, 0] = xorBytes (mixBoth [0, 0, x, 0]) (mixBoth [0, 0, y, 0]) := fun x y => by
    rw [← mixBoth_xor, BitVec.xor_self]; rfl
  have z3 : ∀ x y : Byte, mixBoth [0, 0, 0, x ^^^ y] = xorBytes (mixBoth [0, 0, 0, x]) (mixBoth [0, 0, 0, y]) := fun x y => by
    rw [← mixBoth_xor, BitVec.xor_self]; rfl
  have e0 : ∀ x, mixBoth [x, 0, 0, 0] = [x, 0, 0, 0] := byte_ind (by decide +kernel)
    (fun x y hx hy => by rw [z, hx, hy]; simp [xorBytes]) (by decide +kernel)
  have e1 : ∀ x, mixBoth [0, x, 0, 0] = [0, x, 0, 0] := byte_ind (by decide +kernel)
    (fun x y hx hy => by rw [z1, hx, hy]; simp [xorBytes]) (by decide +kernel)
  have e2 : ∀ x, mixBoth [0, 0, x, 0] = [0, 0, x, 0] := byte_ind (by decide +kernel)
    (fun x y hx hy => by rw [z2, hx, hy]; simp [xorBytes]) (by decide +kernel)
  have e3 : ∀ x, mixBoth [0, 0, 0, x] = [0, 0, 0, x] := byte_ind (by decide +kernel)
    (fun x y hx hy => by rw [z3, hx, hy]; simp [xorBytes]) (by decide +kernel)
  have h1 := mixBoth_xor a 0 0 0 0 b 0 0
  have h2 := mixBoth_xor 0 0 c 0 0 0 0 d
  have h := mixBoth_xor a b 0 0 0 0 c d
  rw [e0, e1] at h1
  rw [e2, e3] at h2
  have xz : ∀ x : Byte, x ^^^ 0 = x := fun x => by simp
  have zx : ∀ x : Byte, 0 ^^^ x = x := fun x => by simp
  simp only [xz, zx, xorBytes, List.zipWith] at h1 h2 h
  rw [h, h1, h2]
  simp [List.zipWith]

theorem shiftRows_inverse {st : List Byte} (h : st.length = 16) : shiftRowsInv (shiftRows st) = st := by
  obtain ⟨a, b, c, d, e, f, g, i, j, k, l, m, n, o, p, q, rfl⟩ : ∃ a b c d e f g i j k l m n o p q,
      st = [a, b, c, d, e, f, g, i, j, k, l, m, n, o, p, q] := by
    match st, h with
    | [a, b, c, d, e, f, g, i, j, k, l, m, n, o, p, q], _ => exact ⟨a, b, c, d, e, f, g, i, j, k, l, m, n, o, p, q, rfl⟩
  rfl

theorem mixColumns_inverse {st : List Byte} (h : st.length = 16) : mixColumns [14, 11, 13, 9] (mixColumns [2, 3, 1, 1] st) = st := by
  match st, h with
  | [a, b, c, d, e, f, g, i, j, k, l, m, n, o, p, q], _ =>
    have hb := mixBoth_eq
    unfold mixBoth at hb
    have h1 := hb a b c d
    have h2 := hb e f g i
    have h3 := hb j k l m
    have h4 := hb n o p q
    rw [mixColumn_eq 2] at h1 h2 h3 h4
    show mixColumns [14, 11, 13, 9] (mixColumn [2, 3, 1, 1] [a, b, c, d] ++ (mixColumn [2, 3, 1, 1] [e, f, g, i] ++
      (mixColumn [2, 3, 1, 1] [j, k, l, m] ++ (mixColumn [2, 3, 1, 1] [n, o, p, q] ++ [])))) = _
    simp only [mixColumn_eq 2]
    show mixColumn [14, 11, 13, 9] _ ++ (mixColumn [14, 11, 13, 9] _ ++ (mixColumn [14, 11, 13, 9] _ ++
      (mixColumn [14, 11, 13, 9] _ ++ []))) = _
    erw [h1, h2, h3, h4]
    rfl

/-! ### Encryption and decryption -/

@[simp] theorem length_xorBytes (a b : List Byte) : (xorBytes a b).length = min a.length b.length := by simp [xorBytes]

theorem xorBytes_cancel (a k : List Byte) (h : a.length ≤ k.length) : xorBytes (xorBytes a k) k = a := by
  induction a generalizing k with
  | nil => rfl
  | cons x a ih =>
    cases k with
    | nil => simp at h
    | cons y k =>
      show (x ^^^ y ^^^ y) :: xorBytes (xorBytes a k) k = x :: a
      rw [ih k (by simpa using h), BitVec.xor_assoc, BitVec.xor_self, BitVec.xor_zero]

@[simp] theorem length_shiftRows (st : List Byte) : (shiftRows st).length = 16 := by simp [shiftRows, pick]

theorem length_mixColumns {st : List Byte} (h : st.length = 16) (row : List Byte) : (mixColumns row st).length = 16 := by
  match st, h with
  | [a, b, c, d, e, f, g, i, j, k, l, m, n, o, p, q], _ => rfl

theorem map_sboxInv_map_sbox (st : List Byte) : (st.map sbox).map sboxInv = st := by
  simp [Function.comp_def, sboxInv_sbox]

theorem aesDec_aesEnc {key block : List Byte} (hb : block.length = 16) (hk : (aesRoundKeys key).length = 15)
    (hks : ∀ k ∈ aesRoundKeys key, k.length = 16) : aesDec key (aesEnc key block) = block := by
  have enc : ∀ (ks : List (List Byte)) (st : List Byte), (∀ k ∈ ks, k.length = 16) → st.length = 16 →
      (ks.foldl (fun st k => xorBytes (mixColumns [2, 3, 1, 1] (shiftRows (st.map sbox))) k) st).length = 16 ∧
      ks.reverse.foldl (fun st k => (shiftRowsInv (mixColumns [14, 11, 13, 9] (xorBytes st k))).map sboxInv)
        (ks.foldl (fun st k => xorBytes (mixColumns [2, 3, 1, 1] (shiftRows (st.map sbox))) k) st) = st := by
    intro ks
    induction ks with
    | nil => intro st _ h; exact ⟨h, rfl⟩
    | cons k ks ih =>
      intro st hl h
      have hk : k.length = 16 := hl k (by simp)
      have h1 : (mixColumns [2, 3, 1, 1] (shiftRows (st.map sbox))).length = 16 := length_mixColumns (by simp) _
      have h2 : (xorBytes (mixColumns [2, 3, 1, 1] (shiftRows (st.map sbox))) k).length = 16 := by rw [length_xorBytes, h1, hk]; rfl
      obtain ⟨h3, h4⟩ := ih _ (fun k hk => hl k (by simp [hk])) h2
      refine ⟨h3, ?_⟩
      rw [List.reverse_cons, List.foldl_append, List.foldl_cons (l := ks), h4]
      show (shiftRowsInv (mixColumns [14, 11, 13, 9] (xorBytes (xorBytes _ k) k))).map sboxInv = st
      rw [xorBytes_cancel _ _ (by rw [h1, hk]), mixColumns_inverse (length_shiftRows _), shiftRows_inverse (by simp [h]),
        map_sboxInv_map_sbox]
  match hr : aesRoundKeys key, hk with
  | k0 :: rest, hk =>
    rw [hr] at hks
    have hd : ∀ k ∈ rest.take 13, k.length = 16 := fun k h => hks k (by simp [List.mem_of_mem_take h])
    have h0 : (xorBytes block k0).length = 16 := by simp [hb, hks k0 (by simp)]
    obtain ⟨h1, h2⟩ := enc (rest.take 13) (xorBytes block k0) hd h0
    have h14 : ((k0 :: rest).getD 14 []).length = 16 := by
      have : 14 < (k0 :: rest).length := by rw [hk]; decide
      rw [List.getD_eq_getElem _ _ this]
      exact hks _ (List.getElem_mem _)
    unfold aesDec aesEnc
    simp only [hr, List.headD_cons, List.drop_succ_cons, List.drop_zero]
    rw [xorBytes_cancel _ _ (by rw [h14]; simp), shiftRows_inverse (by rw [List.length_map]; exact h1), map_sboxInv_map_sbox, h2,
      xorBytes_cancel _ _ (by rw [hb, hks k0 (by simp)])]

/-- Pieces of n of a list of n times m elements: m pieces of n. -/
theorem chunksAux_lengths {α : Type} {n : Nat} (hn : 0 < n) : ∀ (fuel m : Nat) (xs : List α), xs.length = n * m → m ≤ fuel →
    (chunksAux n fuel xs).map List.length = List.replicate m n := by
  intro fuel
  induction fuel with
  | zero => intro m xs _ h; obtain rfl : m = 0 := by omega
            rfl
  | succ fuel ih =>
    intro m xs hl hm
    match m with
    | 0 =>
      obtain rfl := List.length_eq_zero_iff.mp (hl.trans (Nat.mul_zero n))
      rfl
    | m + 1 =>
      have hl' : xs.length = n * m + n := hl
      have he : xs.isEmpty = false := by
        cases xs with
        | nil => simp at hl'; omega
        | cons => rfl
      rw [chunksAux, he]
      simp only [Bool.false_eq_true, if_false, List.map_cons]
      rw [ih m _ (by rw [List.length_drop]; omega) (by omega), List.replicate_succ, List.length_take, Nat.min_eq_left (by omega)]

theorem length_flatten_of {α : Type} (n : Nat) (xs : List (List α)) (h : ∀ x ∈ xs, x.length = n) : xs.flatten.length = n * xs.length := by
  induction xs with
  | nil => rfl
  | cons x xs ih =>
    rw [List.flatten_cons, List.length_append, ih fun y hy => h y (List.mem_cons_of_mem _ hy), h x (List.mem_cons_self ..), List.length_cons,
      Nat.mul_succ, Nat.add_comm]

theorem aesExpandAux_lengths : ∀ (f i : Nat) (ws : List (List Byte)), 8 ≤ ws.length → (∀ w ∈ ws, w.length = 4) →
    (aesExpandAux f i ws).length = f + ws.length ∧ ∀ w ∈ aesExpandAux f i ws, w.length = 4 := by
  intro f
  induction f with
  | zero => intro i ws _ h; exact ⟨(Nat.zero_add _).symm, h⟩
  | succ f ih =>
    intro i ws hl h
    match ws, hl, h with
    | a :: b :: c :: d :: e :: g :: j :: k :: rest, hl, h =>
      have ha : a.length = 4 := h a (by simp)
      have hk : k.length = 4 := h k (by simp)
      have h4 : ∀ t : List Byte, t.length = 4 → ∀ w ∈ xorBytes k t :: a :: b :: c :: d :: e :: g :: j :: k :: rest, w.length = 4 := by
        intro t ht w hw
        rcases List.mem_cons.mp hw with rfl | hw
        · rw [length_xorBytes, hk, ht]; rfl
        · exact h w hw
      have go : ∀ t : List Byte, t.length = 4 →
          (aesExpandAux f (i + 1) (xorBytes k t :: a :: b :: c :: d :: e :: g :: j :: k :: rest)).length =
            f + 1 + (a :: b :: c :: d :: e :: g :: j :: k :: rest).length ∧
          ∀ w ∈ aesExpandAux f (i + 1) (xorBytes k t :: a :: b :: c :: d :: e :: g :: j :: k :: rest), w.length = 4 := by
        intro t ht
        have := ih (i + 1) (xorBytes k t :: a :: b :: c :: d :: e :: g :: j :: k :: rest) (by simp) (h4 t ht)
        refine ⟨?_, this.2⟩
        rw [this.1, List.length_cons]
        omega
      rw [aesExpandAux]
      refine go _ ?_
      simp only [List.headD_cons]
      split
      · simp [ha]
      · split <;> simp [ha]

/-- A 256-bit key has fifteen round keys of sixteen bytes. -/
theorem aesRoundKeys_length {key : List Byte} (h : key.length = 32) :
    (aesRoundKeys key).map List.length = List.replicate 15 16 := by
  have hc : (chunks 4 key).map List.length = List.replicate 8 4 := chunksAux_lengths (by decide) _ 8 key (by rw [h]) (by omega)
  have hc1 : (chunks 4 key).length = 8 := by simpa using congrArg List.length hc
  have hc2 : ∀ w ∈ chunks 4 key, w.length = 4 := fun w hw => by
    have : w.length ∈ (chunks 4 key).map List.length := List.mem_map_of_mem hw
    rw [hc] at this
    exact (List.mem_replicate.mp this).2
  obtain ⟨h1, h2⟩ := aesExpandAux_lengths 52 8 (chunks 4 key).reverse (by simp [hc1]) (fun w hw => hc2 w (by simpa using hw))
  have hl : (aesExpandAux 52 8 (chunks 4 key).reverse).reverse.flatten.length = 16 * 15 := by
    rw [length_flatten_of 4 _ (fun w hw => h2 w (by simpa using hw)), List.length_reverse, h1, List.length_reverse, hc1]
  exact chunksAux_lengths (by decide) _ 15 _ hl (by rw [hl]; decide)

theorem aesDec_aesEnc_256 {key block : List Byte} (hk : key.length = 32) (hb : block.length = 16) :
    aesDec key (aesEnc key block) = block := by
  have h := aesRoundKeys_length hk
  refine aesDec_aesEnc hb ?_ fun k hk' => ?_
  · simpa using congrArg List.length h
  · have : k.length ∈ (aesRoundKeys key).map List.length := List.mem_map_of_mem hk'
    rw [h] at this
    exact (List.mem_replicate.mp this).2

theorem length_aesEnc {key block : List Byte} (hk : key.length = 32) : (aesEnc key block).length = 16 := by
  have h := aesRoundKeys_length hk
  have h14 : ((aesRoundKeys key).getD 14 []).length = 16 := by
    have hl : (aesRoundKeys key).length = 15 := by simpa using congrArg List.length h
    have : 14 < (aesRoundKeys key).length := by rw [hl]; decide
    rw [List.getD_eq_getElem _ _ this]
    have hm : (aesRoundKeys key)[14].length ∈ (aesRoundKeys key).map List.length := List.mem_map_of_mem (List.getElem_mem _)
    rw [h] at hm
    exact (List.mem_replicate.mp hm).2
  unfold aesEnc
  simp only [length_xorBytes, length_shiftRows, h14]
  rfl

/-! ### Key wrap -/

theorem kwUnwrapPass_append (key : List Byte) (xs ys : List (List Byte)) : ∀ (a : List Byte) (t : Nat) (out : List (List Byte)),
    kwUnwrapPass key (xs ++ ys) a t out =
      kwUnwrapPass key ys (kwUnwrapPass key xs a t out).1 (kwUnwrapPass key xs a t out).2.1 (kwUnwrapPass key xs a t out).2.2 := by
  induction xs with
  | nil => intro a t out; rfl
  | cons r xs ih => intro a t out; simp only [List.cons_append, kwUnwrapPass, ih]

@[simp] theorem length_toLe (n v : Nat) : (toLe n v).length = n := by
  induction n generalizing v with
  | zero => rfl
  | succ n ih => simp [toLe, ih]

/-- One pass of unwrapping undoes one pass of wrapping. -/
theorem kwPass {key : List Byte} (hk : key.length = 32) (rs : List (List Byte)) : ∀ (a : List Byte) (t : Nat) (out : List (List Byte)),
    a.length = 8 → (∀ r ∈ rs, r.length = 8) → 1 ≤ t → ∃ new a', kwWrapPass key rs a t out = (a', t + rs.length, out.reverse ++ new) ∧
      new.length = rs.length ∧ a'.length = 8 ∧ (∀ r ∈ new, r.length = 8) ∧
      ∀ acc, kwUnwrapPass key new.reverse a' (t + rs.length - 1) acc = (a, t - 1, rs ++ acc) := by
  induction rs with
  | nil => intro a t out ha _ _; exact ⟨[], a, by simp [kwWrapPass], rfl, ha, by simp, fun acc => rfl⟩
  | cons r rs ih =>
    intro a t out ha hr ht
    have hr8 : r.length = 8 := hr r (by simp)
    have hb : (a ++ r).length = 16 := by simp [ha, hr8]
    have he : (aesEnc key (a ++ r)).length = 16 := length_aesEnc hk
    have h8 : ((aesEnc key (a ++ r)).take 8).length = 8 := by simp [he]
    have ha1 : (xorBytes ((aesEnc key (a ++ r)).take 8) (toBe 8 t)).length = 8 := by
      rw [length_xorBytes, h8]; simp [toBe]
    obtain ⟨new, a', h1, h2, h3, h4, h5⟩ := ih _ (t + 1) ((aesEnc key (a ++ r)).drop 8 :: out) ha1
      (fun r hr' => hr r (by simp [hr'])) (by omega)
    rw [Nat.add_sub_cancel] at h5
    refine ⟨(aesEnc key (a ++ r)).drop 8 :: new, a', ?_, by simp [h2], h3, ?_, fun acc => ?_⟩
    · rw [kwWrapPass, h1]
      simp
      omega
    · intro x hx
      rcases List.mem_cons.mp hx with rfl | hx
      · simp [he]
      · exact h4 x hx
    · rw [List.reverse_cons, kwUnwrapPass_append, List.length_cons, show t + (rs.length + 1) - 1 = t + 1 + rs.length - 1 by omega, h5]
      show kwUnwrapPass key [] ((aesDec key (xorBytes (xorBytes _ (toBe 8 t)) (toBe 8 t) ++ _)).take 8) (t - 1) _ = _
      rw [xorBytes_cancel _ _ (by rw [h8]; simp [toBe]), List.take_append_drop, aesDec_aesEnc_256 hk hb]
      simp [kwUnwrapPass, ha]

theorem chunksAux_flatten {α : Type} (n : Nat) (hn : 0 < n) (xs : List (List α)) (h : ∀ x ∈ xs, x.length = n) :
    ∀ fuel, xs.flatten.length ≤ fuel → chunksAux n fuel xs.flatten = xs := by
  induction xs with
  | nil => intro fuel _; cases fuel <;> rfl
  | cons x xs ih =>
    intro fuel hf
    have hx : x.length = n := h x (by simp)
    match fuel with
    | 0 => simp [hx] at hf; omega
    | fuel + 1 =>
      have he : (x ++ xs.flatten).isEmpty = false := by
        cases x with
        | nil => simp at hx; omega
        | cons => rfl
      rw [List.flatten_cons, chunksAux, he]
      simp only [Bool.false_eq_true, if_false]
      rw [List.take_left' hx, List.drop_left' hx, ih (fun y hy => h y (by simp [hy]))]
      simp [hx] at hf
      simp only [List.length_flatten]
      omega

theorem chunks_flatten {α : Type} {n : Nat} (hn : 0 < n) {xs : List (List α)} (h : ∀ x ∈ xs, x.length = n) : chunks n xs.flatten = xs :=
  chunksAux_flatten n hn xs h _ (Nat.le_refl _)

/-- KW unwrapping undoes KW wrapping of whole half blocks under a 256-bit key, and the wrapping is one half block longer. -/
theorem kwUnwrap_kwWrap {key : List Byte} (hk : key.length = 32) (rs : List (List Byte)) (h : ∀ r ∈ rs, r.length = 8) :
    kwUnwrap key (kwWrap key rs.flatten) = some rs.flatten ∧ (kwWrap key rs.flatten).length = 8 * rs.length + 8 := by
  obtain ⟨n1, a1, w1, l1, s1, e1, u1⟩ := kwPass hk rs kwIv 1 [] rfl h (Nat.le_refl _)
  obtain ⟨n2, a2, w2, l2, s2, e2, u2⟩ := kwPass hk n1 a1 (1 + rs.length) [] s1 e1 (by omega)
  obtain ⟨n3, a3, w3, l3, s3, e3, u3⟩ := kwPass hk n2 a2 (1 + rs.length + n1.length) [] s2 e2 (by omega)
  obtain ⟨n4, a4, w4, l4, s4, e4, u4⟩ := kwPass hk n3 a3 (1 + rs.length + n1.length + n2.length) [] s3 e3 (by omega)
  obtain ⟨n5, a5, w5, l5, s5, e5, u5⟩ := kwPass hk n4 a4 (1 + rs.length + n1.length + n2.length + n3.length) [] s4 e4 (by omega)
  obtain ⟨n6, a6, w6, l6, s6, e6, u6⟩ :=
    kwPass hk n5 a5 (1 + rs.length + n1.length + n2.length + n3.length + n4.length) [] s5 e5 (by omega)
  simp only [List.reverse_nil, List.nil_append] at *
  have hw : kwWrap key rs.flatten = a6 ++ n6.flatten := by
    rw [kwWrap, chunks_flatten (by decide) h]
    simp only [List.range, List.range.loop, List.foldl, w1, w2, w3, w4, w5, w6]
  refine ⟨?_, by rw [hw, List.length_append, s6, length_flatten_of 8 _ e6]; omega⟩
  rw [hw, kwUnwrap, List.take_left' s6, List.drop_left' s6, chunks_flatten (by decide) e6]
  have ht : (a6 ++ n6.flatten).length / 8 - 1 = rs.length := by
    rw [List.length_append, length_flatten_of 8 _ e6, s6]; omega
  have v6 := u6 []
  have v5 := u5 []
  have v4 := u4 []
  have v3 := u3 []
  have v2 := u2 []
  have v1 := u1 []
  simp only [l1, l2, l3, l4, l5, List.append_nil] at v1 v2 v3 v4 v5 v6
  simp only [List.range, List.range.loop, List.foldl, ht]
  rw [show 6 * rs.length = 1 + rs.length + rs.length + rs.length + rs.length + rs.length + rs.length - 1 by omega]
  simp only [v6, v5, v4, v3, v2, v1, if_true]

/-- A blob unwraps under the key that wrapped it (R301, R302). -/
theorem unwrapBlob_make {b : Blob} {key wrapper : List Byte} (hw : wrapper.length = 32) (hl : key.length = b.keyLen)
    (hp : parseBlob (b.make key wrapper) = b) (hc : b.clear.length = 16) (n : Nat) (h8 : b.plainLen = 8 * n)
    (hlen : 16 + b.keyLen ≤ b.plainLen) : unwrapBlob (b.make key wrapper) wrapper = some key := by
  have hf : (fit b.plainLen 0 (b.clear ++ key)).length = b.plainLen := by
    simp only [fit, List.length_append, List.length_take, List.length_replicate, hc, hl]
    omega
  have hch : (chunks 8 (fit b.plainLen 0 (b.clear ++ key))).map List.length = List.replicate n 8 :=
    chunksAux_lengths (by decide) _ n _ (by rw [hf, h8]) (by rw [hf, h8]; omega)
  have hall : ∀ r ∈ chunks 8 (fit b.plainLen 0 (b.clear ++ key)), r.length = 8 := fun w hw => by
    have : w.length ∈ (chunks 8 (fit b.plainLen 0 (b.clear ++ key))).map List.length := List.mem_map_of_mem hw
    rw [hch] at this
    exact (List.mem_replicate.mp this).2
  have hfl : ∀ (m : Nat) (fuel : Nat) (xs : List Byte), xs.length ≤ fuel → (chunksAux 8 fuel xs).flatten = xs := by
    intro _ fuel
    induction fuel with
    | zero => intro xs h; rw [List.length_eq_zero_iff.mp (Nat.le_zero.mp h)]; rfl
    | succ fuel ih =>
      intro xs h
      cases xs with
      | nil => rfl
      | cons x xs =>
        rw [chunksAux]
        simp only [List.isEmpty_cons, Bool.false_eq_true, if_false, List.flatten_cons]
        rw [ih _ (by simp at h ⊢; omega), List.take_append_drop]
  have hfe : (chunks 8 (fit b.plainLen 0 (b.clear ++ key))).flatten = fit b.plainLen 0 (b.clear ++ key) := hfl 0 _ _ (Nat.le_refl _)
  have hcn : (chunks 8 (fit b.plainLen 0 (b.clear ++ key))).length = n := by simpa using congrArg List.length hch
  obtain ⟨h1, h2⟩ := kwUnwrap_kwWrap hw _ hall
  rw [hfe] at h1 h2
  rw [hcn, ← h8] at h2
  have hs : slice (b.make key wrapper) 16 (b.plainLen + 8) = kwWrap wrapper (fit b.plainLen 0 (b.clear ++ key)) := by
    rw [slice, Blob.make, List.drop_left' hc, List.take_of_length_le (by rw [h2])]
  have hfit : fit b.plainLen 0 (b.clear ++ key) = b.clear ++ key ++ List.replicate (b.plainLen - (16 + b.keyLen)) 0 := by
    rw [fit, List.take_of_length_le (by simp [hc, hl]; omega)]
    simp [hc, hl]
  rw [unwrapBlob, hp]
  simp only [hs, h1]
  rw [hf, hfit, show (b.make key wrapper).take 16 = b.clear by rw [Blob.make, List.take_left' hc], List.append_assoc, List.take_left' hc]
  have hd : (b.clear ++ (key ++ List.replicate (b.plainLen - (16 + b.keyLen)) 0)).drop (16 + b.keyLen) =
      List.replicate (b.plainLen - (16 + b.keyLen)) 0 := by
    rw [← List.append_assoc, List.drop_left' (by simp [hc, hl])]
  rw [hd]
  have hz : allZero (List.replicate (b.plainLen - (16 + b.keyLen)) 0) = true := by
    rw [allZero, List.all_eq_true]
    intro x hx
    rw [(List.mem_replicate.mp hx).2]; rfl
  simp only [hz, BEq.rfl, Bool.and_self, if_true]
  rw [slice, List.drop_left' hc, List.take_left' hl]

end Sys2Proof.Machine
end

