-- ==== Sys2Proof/Laws/Bytes.lean ====
section
/-! SUPPORT. Laws of bytes: pieces of byte strings, numbers written as bytes and read back, and bytes cut into flits. -/

-- One theorem at a time: each waiting task would hold a thread stack of its own.
set_option Elab.async false

namespace Sys2Proof.Machine

/-- A piece of a list that its neighbours' lengths place. -/
theorem slice_mid {α : Type} {pre mid post : List α} {n m : Nat} (h : pre.length = n) (hm : mid.length = m) :
    slice (pre ++ (mid ++ post)) n m = mid := by
  rw [slice, List.drop_left' h, List.take_left' hm]

/-- A piece of a list before its end is a piece of its beginning. -/
theorem slice_front {α : Type} {pre post : List α} {off len : Nat} (h : off + len ≤ pre.length) :
    slice (pre ++ post) off len = slice pre off len := by
  rw [slice, slice, List.drop_append_of_le_length (by omega), List.take_append_of_le_length (by rw [List.length_drop]; omega)]

/-- A piece of a list beyond its beginning is a piece of the rest. -/
theorem slice_back {α : Type} {pre post : List α} {off len n : Nat} (h : pre.length = n) (ho : n ≤ off) :
    slice (pre ++ post) off len = slice post (off - n) len := by
  rw [slice, slice, List.drop_append, h, List.drop_eq_nil_of_le (by omega), List.nil_append]

/-- A number written as bytes reads back. -/
theorem le_toLe (n v : Nat) : v < 256 ^ n → le (toLe n v) = v := by
  induction n generalizing v with
  | zero => intro h; simp at h; subst h; rfl
  | succ n ih =>
    intro h
    rw [toLe, le, ih _ (by rw [Nat.pow_succ] at h; omega)]
    simp
    omega

/-- A field of a byte string that starts with it. -/
theorem leAt_here {n v : Nat} (h : v < 256 ^ n) (post : List Byte) : leAt (toLe n v ++ post) 0 n = v := by
  rw [leAt, slice, List.drop_zero, List.take_left' (length_toLe n v), le_toLe n v h]

/-- A field of a byte string behind another. -/
theorem leAt_skip {m : Nat} (v : Nat) (post : List Byte) (off n : Nat) (h : m ≤ off) :
    leAt (toLe m v ++ post) off n = leAt post (off - m) n := by
  rw [leAt, slice_back (length_toLe m v) h, leAt]

/-- Cutting into pieces and joining gives the list back. -/
theorem flatten_chunksAux {α : Type} {n : Nat} (hn : 0 < n) : ∀ (fuel : Nat) (xs : List α), xs.length ≤ fuel → (chunksAux n fuel xs).flatten = xs := by
  intro fuel
  induction fuel with
  | zero => intro xs h; obtain rfl : xs = [] := List.length_eq_zero_iff.mp (by omega); rfl
  | succ fuel ih =>
    intro xs h
    cases xs with
    | nil => rfl
    | cons x xs =>
      rw [chunksAux]
      simp only [List.isEmpty_cons, Bool.false_eq_true, if_false, List.flatten_cons]
      rw [ih _ (by rw [List.length_drop]; simp at h ⊢; omega), List.take_append_drop]

/-- Cutting into pieces and joining gives the list back. -/
theorem flatten_chunks {α : Type} {n : Nat} (hn : 0 < n) (xs : List α) : (chunks n xs).flatten = xs :=
  flatten_chunksAux hn _ xs (Nat.le_refl _)

/-- The number of pieces. -/
theorem length_chunksAux {α : Type} {n : Nat} (hn : 0 < n) : ∀ (fuel : Nat) (xs : List α), xs.length ≤ fuel →
    (chunksAux n fuel xs).length = ceilDiv xs.length n := by
  intro fuel
  induction fuel with
  | zero =>
    intro xs h
    obtain rfl : xs = [] := List.length_eq_zero_iff.mp (by omega)
    simp [chunksAux, ceilDiv, Nat.div_eq_of_lt (by omega : n - 1 < n)]
  | succ fuel ih =>
    intro xs h
    cases xs with
    | nil => simp [chunksAux, ceilDiv, Nat.div_eq_of_lt (by omega : n - 1 < n)]
    | cons x xs =>
      rw [chunksAux]
      simp only [List.isEmpty_cons, Bool.false_eq_true, if_false, List.length_cons]
      rw [ih _ (by rw [List.length_drop]; simp at h ⊢; omega), List.length_drop, List.length_cons]
      simp only [ceilDiv]
      by_cases hl : xs.length + 1 ≤ n
      · rw [show xs.length + 1 - n + n - 1 = n - 1 by omega, Nat.div_eq_of_lt (by omega), show xs.length + 1 + n - 1 = n + xs.length by omega,
          Nat.add_div_left _ hn, Nat.div_eq_of_lt (by omega)]
      · rw [show xs.length + 1 + n - 1 = (xs.length + 1 - n + n - 1) + n by omega, Nat.add_div_right _ hn]

/-- The number of pieces. -/
theorem length_chunks {α : Type} {n : Nat} (hn : 0 < n) (xs : List α) : (chunks n xs).length = ceilDiv xs.length n :=
  length_chunksAux hn _ xs (Nat.le_refl _)

@[simp] theorem values_plain (bs : List Byte) : values (plain bs) = bs := by
  simp [values, plain, Function.comp_def]

@[simp] theorem length_plain (bs : List Byte) : (plain bs).length = bs.length := by simp [plain]

/-- The length of a key stream. -/
theorem length_gcmStream {key : List Byte} (hk : key.length = 32) (iv : List Byte) (n : Nat) : (gcmStream key iv n).length = 16 * n := by
  rw [gcmStream, length_flatten_of 16, List.length_map, List.length_range]
  intro x hx
  obtain ⟨i, -, rfl⟩ := List.mem_map.mp hx
  exact length_aesEnc hk

/-- A number of pieces holds the whole. -/
theorem le_mul_ceilDiv (n : Nat) {m : Nat} (hm : 0 < m) : n ≤ m * ceilDiv n m := by
  have h1 := Nat.div_add_mod (n + m - 1) m
  have h2 := Nat.mod_lt (n + m - 1) hm
  rw [ceilDiv]
  omega

/-- Ciphertext is as long as its text. -/
theorem length_gcmCrypt {key : List Byte} (hk : key.length = 32) (iv text : List Byte) : (gcmCrypt key iv text).length = text.length := by
  rw [gcmCrypt, length_xorBytes, length_gcmStream hk]
  exact Nat.min_eq_left (le_mul_ceilDiv _ (by decide))

/-- Decryption undoes encryption. -/
theorem gcmCrypt_gcmCrypt {key : List Byte} (hk : key.length = 32) (iv text : List Byte) :
    gcmCrypt key iv (gcmCrypt key iv text) = text := by
  conv_lhs => rw [gcmCrypt, length_gcmCrypt hk]
  rw [gcmCrypt, xorBytes_cancel]
  rw [length_gcmStream hk]
  exact le_mul_ceilDiv _ (by decide)

end Sys2Proof.Machine
end

