-- ==== Sys2Proof/Laws/State.lean ====
section
/-! SUPPORT. What each shared update leaves as it was, one lemma per field, and what the outcomes keep. -/

namespace Sys2Proof.Machine

/-! ### emit -/

@[simp] theorem State.emit_setup (o : Out) (s : State) : (s.emit o).setup = s.setup := rfl

@[simp] theorem State.emit_glob (o : Out) (s : State) : (s.emit o).glob = s.glob := rfl

@[simp] theorem State.emit_adm (o : Out) (s : State) : (s.emit o).adm = s.adm := rfl

@[simp] theorem State.emit_pen (o : Out) (s : State) : (s.emit o).pen = s.pen := rfl

@[simp] theorem State.emit_sqs (o : Out) (s : State) : (s.emit o).sqs = s.sqs := rfl

@[simp] theorem State.emit_cqs (o : Out) (s : State) : (s.emit o).cqs = s.cqs := rfl

@[simp] theorem State.emit_accepted (o : Out) (s : State) : (s.emit o).accepted = s.accepted := rfl

@[simp] theorem State.emit_fns (o : Out) (s : State) : (s.emit o).fns = s.fns := rfl

@[simp] theorem State.emit_hbInt (o : Out) (s : State) : (s.emit o).hbInt = s.hbInt := rfl

@[simp] theorem State.emit_eps (o : Out) (s : State) : (s.emit o).eps = s.eps := rfl

@[simp] theorem State.emit_lost (o : Out) (s : State) : (s.emit o).lost = s.lost := rfl

@[simp] theorem State.emit_rigs (o : Out) (s : State) : (s.emit o).rigs = s.rigs := rfl

@[simp] theorem State.emit_epochSeq (o : Out) (s : State) : (s.emit o).epochSeq = s.epochSeq := rfl

@[simp] theorem State.emit_jobs (o : Out) (s : State) : (s.emit o).jobs = s.jobs := rfl

@[simp] theorem State.emit_gens (o : Out) (s : State) : (s.emit o).gens = s.gens := rfl

@[simp] theorem State.emit_restores (o : Out) (s : State) : (s.emit o).restores = s.restores := rfl

@[simp] theorem State.emit_forks (o : Out) (s : State) : (s.emit o).forks = s.forks := rfl

@[simp] theorem State.emit_dir (o : Out) (s : State) : (s.emit o).dir = s.dir := rfl

@[simp] theorem State.emit_dirQ (o : Out) (s : State) : (s.emit o).dirQ = s.dirQ := rfl

@[simp] theorem State.emit_scrubs (o : Out) (s : State) : (s.emit o).scrubs = s.scrubs := rfl

@[simp] theorem State.emit_manStore (o : Out) (s : State) : (s.emit o).manStore = s.manStore := rfl

@[simp] theorem State.emit_sheets (o : Out) (s : State) : (s.emit o).sheets = s.sheets := rfl

@[simp] theorem State.emit_tackle (o : Out) (s : State) : (s.emit o).tackle = s.tackle := rfl

@[simp] theorem State.emit_cleats (o : Out) (s : State) : (s.emit o).cleats = s.cleats := rfl

@[simp] theorem State.emit_keys (o : Out) (s : State) : (s.emit o).keys = s.keys := rfl

@[simp] theorem State.emit_spdm (o : Out) (s : State) : (s.emit o).spdm = s.spdm := rfl

@[simp] theorem State.emit_tap (o : Out) (s : State) : (s.emit o).tap = s.tap := rfl

@[simp] theorem State.emit_links (o : Out) (s : State) : (s.emit o).links = s.links := rfl

@[simp] theorem State.emit_drainUp (o : Out) (s : State) : (s.emit o).drainUp = s.drainUp := rfl

@[simp] theorem State.emit_freqs (o : Out) (s : State) : (s.emit o).freqs = s.freqs := rfl

@[simp] theorem State.emit_waitPkts (o : Out) (s : State) : (s.emit o).waitPkts = s.waitPkts := rfl

@[simp] theorem State.emit_sreqs (o : Out) (s : State) : (s.emit o).sreqs = s.sreqs := rfl

@[simp] theorem State.emit_unknown (o : Out) (s : State) : (s.emit o).unknown = s.unknown := rfl

@[simp] theorem State.emit_hreqs (o : Out) (s : State) : (s.emit o).hreqs = s.hreqs := rfl

@[simp] theorem State.emit_xfers (o : Out) (s : State) : (s.emit o).xfers = s.xfers := rfl

@[simp] theorem State.emit_arbs (o : Out) (s : State) : (s.emit o).arbs = s.arbs := rfl

@[simp] theorem State.emit_pipeCtx (o : Out) (s : State) : (s.emit o).pipeCtx = s.pipeCtx := rfl

@[simp] theorem State.emit_rounds (o : Out) (s : State) : (s.emit o).rounds = s.rounds := rfl

@[simp] theorem State.emit_roundW (o : Out) (s : State) : (s.emit o).roundW = s.roundW := rfl

@[simp] theorem State.emit_yards (o : Out) (s : State) : (s.emit o).yards = s.yards := rfl

@[simp] theorem State.emit_tests (o : Out) (s : State) : (s.emit o).tests = s.tests := rfl

@[simp] theorem State.emit_procs (o : Out) (s : State) : (s.emit o).procs = s.procs := rfl

@[simp] theorem State.emit_waking (o : Out) (s : State) : (s.emit o).waking = s.waking := rfl

@[simp] theorem State.emit_mb (o : Out) (s : State) : (s.emit o).mb = s.mb := rfl

@[simp] theorem State.emit_sensors (o : Out) (s : State) : (s.emit o).sensors = s.sensors := rfl

@[simp] theorem State.emit_droopArmed (o : Out) (s : State) : (s.emit o).droopArmed = s.droopArmed := rfl

@[simp] theorem State.emit_idleSince (o : Out) (s : State) : (s.emit o).idleSince = s.idleSince := rfl

@[simp] theorem State.emit_timerAt (o : Out) (s : State) : (s.emit o).timerAt = s.timerAt := rfl

@[simp] theorem State.emit_tt (o : Out) (s : State) : (s.emit o).tt = s.tt := rfl

@[simp] theorem State.emit_log (o : Out) (s : State) : (s.emit o).log = s.log := rfl

@[simp] theorem State.emit_image (o : Out) (s : State) : (s.emit o).image = s.image := rfl

@[simp] theorem State.emit_fw (o : Out) (s : State) : (s.emit o).fw = s.fw := rfl

@[simp] theorem State.emit_ctr (o : Out) (s : State) : (s.emit o).ctr = s.ctr := rfl

@[simp] theorem State.emit_free (o : Out) (s : State) : (s.emit o).free = s.free := rfl

@[simp] theorem State.emit_laneCycle (o : Out) (s : State) : (s.emit o).laneCycle = s.laneCycle := rfl

@[simp] theorem State.emit_nextId (o : Out) (s : State) : (s.emit o).nextId = s.nextId := rfl

@[simp] theorem State.emit_pending (o : Out) (s : State) : (s.emit o).pending = s.pending := rfl

/-! ### count -/

@[simp] theorem State.count_setup (id n : Nat) (s : State) : (s.count id n).setup = s.setup := rfl

@[simp] theorem State.count_glob (id n : Nat) (s : State) : (s.count id n).glob = s.glob := rfl

@[simp] theorem State.count_adm (id n : Nat) (s : State) : (s.count id n).adm = s.adm := rfl

@[simp] theorem State.count_pen (id n : Nat) (s : State) : (s.count id n).pen = s.pen := rfl

@[simp] theorem State.count_sqs (id n : Nat) (s : State) : (s.count id n).sqs = s.sqs := rfl

@[simp] theorem State.count_cqs (id n : Nat) (s : State) : (s.count id n).cqs = s.cqs := rfl

@[simp] theorem State.count_accepted (id n : Nat) (s : State) : (s.count id n).accepted = s.accepted := rfl

@[simp] theorem State.count_fns (id n : Nat) (s : State) : (s.count id n).fns = s.fns := rfl

@[simp] theorem State.count_hbInt (id n : Nat) (s : State) : (s.count id n).hbInt = s.hbInt := rfl

@[simp] theorem State.count_eps (id n : Nat) (s : State) : (s.count id n).eps = s.eps := rfl

@[simp] theorem State.count_lost (id n : Nat) (s : State) : (s.count id n).lost = s.lost := rfl

@[simp] theorem State.count_rigs (id n : Nat) (s : State) : (s.count id n).rigs = s.rigs := rfl

@[simp] theorem State.count_epochSeq (id n : Nat) (s : State) : (s.count id n).epochSeq = s.epochSeq := rfl

@[simp] theorem State.count_jobs (id n : Nat) (s : State) : (s.count id n).jobs = s.jobs := rfl

@[simp] theorem State.count_gens (id n : Nat) (s : State) : (s.count id n).gens = s.gens := rfl

@[simp] theorem State.count_restores (id n : Nat) (s : State) : (s.count id n).restores = s.restores := rfl

@[simp] theorem State.count_forks (id n : Nat) (s : State) : (s.count id n).forks = s.forks := rfl

@[simp] theorem State.count_dir (id n : Nat) (s : State) : (s.count id n).dir = s.dir := rfl

@[simp] theorem State.count_dirQ (id n : Nat) (s : State) : (s.count id n).dirQ = s.dirQ := rfl

@[simp] theorem State.count_scrubs (id n : Nat) (s : State) : (s.count id n).scrubs = s.scrubs := rfl

@[simp] theorem State.count_manStore (id n : Nat) (s : State) : (s.count id n).manStore = s.manStore := rfl

@[simp] theorem State.count_sheets (id n : Nat) (s : State) : (s.count id n).sheets = s.sheets := rfl

@[simp] theorem State.count_tackle (id n : Nat) (s : State) : (s.count id n).tackle = s.tackle := rfl

@[simp] theorem State.count_cleats (id n : Nat) (s : State) : (s.count id n).cleats = s.cleats := rfl

@[simp] theorem State.count_keys (id n : Nat) (s : State) : (s.count id n).keys = s.keys := rfl

@[simp] theorem State.count_spdm (id n : Nat) (s : State) : (s.count id n).spdm = s.spdm := rfl

@[simp] theorem State.count_tap (id n : Nat) (s : State) : (s.count id n).tap = s.tap := rfl

@[simp] theorem State.count_links (id n : Nat) (s : State) : (s.count id n).links = s.links := rfl

@[simp] theorem State.count_drainUp (id n : Nat) (s : State) : (s.count id n).drainUp = s.drainUp := rfl

@[simp] theorem State.count_freqs (id n : Nat) (s : State) : (s.count id n).freqs = s.freqs := rfl

@[simp] theorem State.count_waitPkts (id n : Nat) (s : State) : (s.count id n).waitPkts = s.waitPkts := rfl

@[simp] theorem State.count_sreqs (id n : Nat) (s : State) : (s.count id n).sreqs = s.sreqs := rfl

@[simp] theorem State.count_unknown (id n : Nat) (s : State) : (s.count id n).unknown = s.unknown := rfl

@[simp] theorem State.count_hreqs (id n : Nat) (s : State) : (s.count id n).hreqs = s.hreqs := rfl

@[simp] theorem State.count_xfers (id n : Nat) (s : State) : (s.count id n).xfers = s.xfers := rfl

@[simp] theorem State.count_arbs (id n : Nat) (s : State) : (s.count id n).arbs = s.arbs := rfl

@[simp] theorem State.count_pipeCtx (id n : Nat) (s : State) : (s.count id n).pipeCtx = s.pipeCtx := rfl

@[simp] theorem State.count_rounds (id n : Nat) (s : State) : (s.count id n).rounds = s.rounds := rfl

@[simp] theorem State.count_roundW (id n : Nat) (s : State) : (s.count id n).roundW = s.roundW := rfl

@[simp] theorem State.count_yards (id n : Nat) (s : State) : (s.count id n).yards = s.yards := rfl

@[simp] theorem State.count_tests (id n : Nat) (s : State) : (s.count id n).tests = s.tests := rfl

@[simp] theorem State.count_procs (id n : Nat) (s : State) : (s.count id n).procs = s.procs := rfl

@[simp] theorem State.count_waking (id n : Nat) (s : State) : (s.count id n).waking = s.waking := rfl

@[simp] theorem State.count_mb (id n : Nat) (s : State) : (s.count id n).mb = s.mb := rfl

@[simp] theorem State.count_sensors (id n : Nat) (s : State) : (s.count id n).sensors = s.sensors := rfl

@[simp] theorem State.count_droopArmed (id n : Nat) (s : State) : (s.count id n).droopArmed = s.droopArmed := rfl

@[simp] theorem State.count_idleSince (id n : Nat) (s : State) : (s.count id n).idleSince = s.idleSince := rfl

@[simp] theorem State.count_timerAt (id n : Nat) (s : State) : (s.count id n).timerAt = s.timerAt := rfl

@[simp] theorem State.count_tt (id n : Nat) (s : State) : (s.count id n).tt = s.tt := rfl

@[simp] theorem State.count_log (id n : Nat) (s : State) : (s.count id n).log = s.log := rfl

@[simp] theorem State.count_image (id n : Nat) (s : State) : (s.count id n).image = s.image := rfl

@[simp] theorem State.count_fw (id n : Nat) (s : State) : (s.count id n).fw = s.fw := rfl

@[simp] theorem State.count_free (id n : Nat) (s : State) : (s.count id n).free = s.free := rfl

@[simp] theorem State.count_laneCycle (id n : Nat) (s : State) : (s.count id n).laneCycle = s.laneCycle := rfl

@[simp] theorem State.count_nextId (id n : Nat) (s : State) : (s.count id n).nextId = s.nextId := rfl

@[simp] theorem State.count_issued (id n : Nat) (s : State) : (s.count id n).issued = s.issued := rfl

@[simp] theorem State.count_pending (id n : Nat) (s : State) : (s.count id n).pending = s.pending := rfl

/-! ### bump -/

@[simp] theorem State.bump_setup (id : Nat) (s : State) : (s.bump id).setup = s.setup := rfl

@[simp] theorem State.bump_glob (id : Nat) (s : State) : (s.bump id).glob = s.glob := rfl

@[simp] theorem State.bump_adm (id : Nat) (s : State) : (s.bump id).adm = s.adm := rfl

@[simp] theorem State.bump_pen (id : Nat) (s : State) : (s.bump id).pen = s.pen := rfl

@[simp] theorem State.bump_sqs (id : Nat) (s : State) : (s.bump id).sqs = s.sqs := rfl

@[simp] theorem State.bump_cqs (id : Nat) (s : State) : (s.bump id).cqs = s.cqs := rfl

@[simp] theorem State.bump_accepted (id : Nat) (s : State) : (s.bump id).accepted = s.accepted := rfl

@[simp] theorem State.bump_fns (id : Nat) (s : State) : (s.bump id).fns = s.fns := rfl

@[simp] theorem State.bump_hbInt (id : Nat) (s : State) : (s.bump id).hbInt = s.hbInt := rfl

@[simp] theorem State.bump_eps (id : Nat) (s : State) : (s.bump id).eps = s.eps := rfl

@[simp] theorem State.bump_lost (id : Nat) (s : State) : (s.bump id).lost = s.lost := rfl

@[simp] theorem State.bump_rigs (id : Nat) (s : State) : (s.bump id).rigs = s.rigs := rfl

@[simp] theorem State.bump_epochSeq (id : Nat) (s : State) : (s.bump id).epochSeq = s.epochSeq := rfl

@[simp] theorem State.bump_jobs (id : Nat) (s : State) : (s.bump id).jobs = s.jobs := rfl

@[simp] theorem State.bump_gens (id : Nat) (s : State) : (s.bump id).gens = s.gens := rfl

@[simp] theorem State.bump_restores (id : Nat) (s : State) : (s.bump id).restores = s.restores := rfl

@[simp] theorem State.bump_forks (id : Nat) (s : State) : (s.bump id).forks = s.forks := rfl

@[simp] theorem State.bump_dir (id : Nat) (s : State) : (s.bump id).dir = s.dir := rfl

@[simp] theorem State.bump_dirQ (id : Nat) (s : State) : (s.bump id).dirQ = s.dirQ := rfl

@[simp] theorem State.bump_scrubs (id : Nat) (s : State) : (s.bump id).scrubs = s.scrubs := rfl

@[simp] theorem State.bump_manStore (id : Nat) (s : State) : (s.bump id).manStore = s.manStore := rfl

@[simp] theorem State.bump_sheets (id : Nat) (s : State) : (s.bump id).sheets = s.sheets := rfl

@[simp] theorem State.bump_tackle (id : Nat) (s : State) : (s.bump id).tackle = s.tackle := rfl

@[simp] theorem State.bump_cleats (id : Nat) (s : State) : (s.bump id).cleats = s.cleats := rfl

@[simp] theorem State.bump_keys (id : Nat) (s : State) : (s.bump id).keys = s.keys := rfl

@[simp] theorem State.bump_spdm (id : Nat) (s : State) : (s.bump id).spdm = s.spdm := rfl

@[simp] theorem State.bump_tap (id : Nat) (s : State) : (s.bump id).tap = s.tap := rfl

@[simp] theorem State.bump_links (id : Nat) (s : State) : (s.bump id).links = s.links := rfl

@[simp] theorem State.bump_drainUp (id : Nat) (s : State) : (s.bump id).drainUp = s.drainUp := rfl

@[simp] theorem State.bump_freqs (id : Nat) (s : State) : (s.bump id).freqs = s.freqs := rfl

@[simp] theorem State.bump_waitPkts (id : Nat) (s : State) : (s.bump id).waitPkts = s.waitPkts := rfl

@[simp] theorem State.bump_sreqs (id : Nat) (s : State) : (s.bump id).sreqs = s.sreqs := rfl

@[simp] theorem State.bump_unknown (id : Nat) (s : State) : (s.bump id).unknown = s.unknown := rfl

@[simp] theorem State.bump_hreqs (id : Nat) (s : State) : (s.bump id).hreqs = s.hreqs := rfl

@[simp] theorem State.bump_xfers (id : Nat) (s : State) : (s.bump id).xfers = s.xfers := rfl

@[simp] theorem State.bump_arbs (id : Nat) (s : State) : (s.bump id).arbs = s.arbs := rfl

@[simp] theorem State.bump_pipeCtx (id : Nat) (s : State) : (s.bump id).pipeCtx = s.pipeCtx := rfl

@[simp] theorem State.bump_rounds (id : Nat) (s : State) : (s.bump id).rounds = s.rounds := rfl

@[simp] theorem State.bump_roundW (id : Nat) (s : State) : (s.bump id).roundW = s.roundW := rfl

@[simp] theorem State.bump_yards (id : Nat) (s : State) : (s.bump id).yards = s.yards := rfl

@[simp] theorem State.bump_tests (id : Nat) (s : State) : (s.bump id).tests = s.tests := rfl

@[simp] theorem State.bump_procs (id : Nat) (s : State) : (s.bump id).procs = s.procs := rfl

@[simp] theorem State.bump_waking (id : Nat) (s : State) : (s.bump id).waking = s.waking := rfl

@[simp] theorem State.bump_mb (id : Nat) (s : State) : (s.bump id).mb = s.mb := rfl

@[simp] theorem State.bump_sensors (id : Nat) (s : State) : (s.bump id).sensors = s.sensors := rfl

@[simp] theorem State.bump_droopArmed (id : Nat) (s : State) : (s.bump id).droopArmed = s.droopArmed := rfl

@[simp] theorem State.bump_idleSince (id : Nat) (s : State) : (s.bump id).idleSince = s.idleSince := rfl

@[simp] theorem State.bump_timerAt (id : Nat) (s : State) : (s.bump id).timerAt = s.timerAt := rfl

@[simp] theorem State.bump_tt (id : Nat) (s : State) : (s.bump id).tt = s.tt := rfl

@[simp] theorem State.bump_log (id : Nat) (s : State) : (s.bump id).log = s.log := rfl

@[simp] theorem State.bump_image (id : Nat) (s : State) : (s.bump id).image = s.image := rfl

@[simp] theorem State.bump_fw (id : Nat) (s : State) : (s.bump id).fw = s.fw := rfl

@[simp] theorem State.bump_free (id : Nat) (s : State) : (s.bump id).free = s.free := rfl

@[simp] theorem State.bump_laneCycle (id : Nat) (s : State) : (s.bump id).laneCycle = s.laneCycle := rfl

@[simp] theorem State.bump_nextId (id : Nat) (s : State) : (s.bump id).nextId = s.nextId := rfl

@[simp] theorem State.bump_issued (id : Nat) (s : State) : (s.bump id).issued = s.issued := rfl

@[simp] theorem State.bump_pending (id : Nat) (s : State) : (s.bump id).pending = s.pending := rfl

/-! ### zeroCtr -/

@[simp] theorem State.zeroCtr_setup (scope inst : Nat) (s : State) : (s.zeroCtr scope inst).setup = s.setup := rfl

@[simp] theorem State.zeroCtr_glob (scope inst : Nat) (s : State) : (s.zeroCtr scope inst).glob = s.glob := rfl

@[simp] theorem State.zeroCtr_adm (scope inst : Nat) (s : State) : (s.zeroCtr scope inst).adm = s.adm := rfl

@[simp] theorem State.zeroCtr_pen (scope inst : Nat) (s : State) : (s.zeroCtr scope inst).pen = s.pen := rfl

@[simp] theorem State.zeroCtr_sqs (scope inst : Nat) (s : State) : (s.zeroCtr scope inst).sqs = s.sqs := rfl

@[simp] theorem State.zeroCtr_cqs (scope inst : Nat) (s : State) : (s.zeroCtr scope inst).cqs = s.cqs := rfl

@[simp] theorem State.zeroCtr_accepted (scope inst : Nat) (s : State) : (s.zeroCtr scope inst).accepted = s.accepted := rfl

@[simp] theorem State.zeroCtr_fns (scope inst : Nat) (s : State) : (s.zeroCtr scope inst).fns = s.fns := rfl

@[simp] theorem State.zeroCtr_hbInt (scope inst : Nat) (s : State) : (s.zeroCtr scope inst).hbInt = s.hbInt := rfl

@[simp] theorem State.zeroCtr_eps (scope inst : Nat) (s : State) : (s.zeroCtr scope inst).eps = s.eps := rfl

@[simp] theorem State.zeroCtr_lost (scope inst : Nat) (s : State) : (s.zeroCtr scope inst).lost = s.lost := rfl

@[simp] theorem State.zeroCtr_rigs (scope inst : Nat) (s : State) : (s.zeroCtr scope inst).rigs = s.rigs := rfl

@[simp] theorem State.zeroCtr_epochSeq (scope inst : Nat) (s : State) : (s.zeroCtr scope inst).epochSeq = s.epochSeq := rfl

@[simp] theorem State.zeroCtr_jobs (scope inst : Nat) (s : State) : (s.zeroCtr scope inst).jobs = s.jobs := rfl

@[simp] theorem State.zeroCtr_gens (scope inst : Nat) (s : State) : (s.zeroCtr scope inst).gens = s.gens := rfl

@[simp] theorem State.zeroCtr_restores (scope inst : Nat) (s : State) : (s.zeroCtr scope inst).restores = s.restores := rfl

@[simp] theorem State.zeroCtr_forks (scope inst : Nat) (s : State) : (s.zeroCtr scope inst).forks = s.forks := rfl

@[simp] theorem State.zeroCtr_dir (scope inst : Nat) (s : State) : (s.zeroCtr scope inst).dir = s.dir := rfl

@[simp] theorem State.zeroCtr_dirQ (scope inst : Nat) (s : State) : (s.zeroCtr scope inst).dirQ = s.dirQ := rfl

@[simp] theorem State.zeroCtr_scrubs (scope inst : Nat) (s : State) : (s.zeroCtr scope inst).scrubs = s.scrubs := rfl

@[simp] theorem State.zeroCtr_manStore (scope inst : Nat) (s : State) : (s.zeroCtr scope inst).manStore = s.manStore := rfl

@[simp] theorem State.zeroCtr_sheets (scope inst : Nat) (s : State) : (s.zeroCtr scope inst).sheets = s.sheets := rfl

@[simp] theorem State.zeroCtr_tackle (scope inst : Nat) (s : State) : (s.zeroCtr scope inst).tackle = s.tackle := rfl

@[simp] theorem State.zeroCtr_cleats (scope inst : Nat) (s : State) : (s.zeroCtr scope inst).cleats = s.cleats := rfl

@[simp] theorem State.zeroCtr_keys (scope inst : Nat) (s : State) : (s.zeroCtr scope inst).keys = s.keys := rfl

@[simp] theorem State.zeroCtr_spdm (scope inst : Nat) (s : State) : (s.zeroCtr scope inst).spdm = s.spdm := rfl

@[simp] theorem State.zeroCtr_tap (scope inst : Nat) (s : State) : (s.zeroCtr scope inst).tap = s.tap := rfl

@[simp] theorem State.zeroCtr_links (scope inst : Nat) (s : State) : (s.zeroCtr scope inst).links = s.links := rfl

@[simp] theorem State.zeroCtr_drainUp (scope inst : Nat) (s : State) : (s.zeroCtr scope inst).drainUp = s.drainUp := rfl

@[simp] theorem State.zeroCtr_freqs (scope inst : Nat) (s : State) : (s.zeroCtr scope inst).freqs = s.freqs := rfl

@[simp] theorem State.zeroCtr_waitPkts (scope inst : Nat) (s : State) : (s.zeroCtr scope inst).waitPkts = s.waitPkts := rfl

@[simp] theorem State.zeroCtr_sreqs (scope inst : Nat) (s : State) : (s.zeroCtr scope inst).sreqs = s.sreqs := rfl

@[simp] theorem State.zeroCtr_unknown (scope inst : Nat) (s : State) : (s.zeroCtr scope inst).unknown = s.unknown := rfl

@[simp] theorem State.zeroCtr_hreqs (scope inst : Nat) (s : State) : (s.zeroCtr scope inst).hreqs = s.hreqs := rfl

@[simp] theorem State.zeroCtr_xfers (scope inst : Nat) (s : State) : (s.zeroCtr scope inst).xfers = s.xfers := rfl

@[simp] theorem State.zeroCtr_arbs (scope inst : Nat) (s : State) : (s.zeroCtr scope inst).arbs = s.arbs := rfl

@[simp] theorem State.zeroCtr_pipeCtx (scope inst : Nat) (s : State) : (s.zeroCtr scope inst).pipeCtx = s.pipeCtx := rfl

@[simp] theorem State.zeroCtr_rounds (scope inst : Nat) (s : State) : (s.zeroCtr scope inst).rounds = s.rounds := rfl

@[simp] theorem State.zeroCtr_roundW (scope inst : Nat) (s : State) : (s.zeroCtr scope inst).roundW = s.roundW := rfl

@[simp] theorem State.zeroCtr_yards (scope inst : Nat) (s : State) : (s.zeroCtr scope inst).yards = s.yards := rfl

@[simp] theorem State.zeroCtr_tests (scope inst : Nat) (s : State) : (s.zeroCtr scope inst).tests = s.tests := rfl

@[simp] theorem State.zeroCtr_procs (scope inst : Nat) (s : State) : (s.zeroCtr scope inst).procs = s.procs := rfl

@[simp] theorem State.zeroCtr_waking (scope inst : Nat) (s : State) : (s.zeroCtr scope inst).waking = s.waking := rfl

@[simp] theorem State.zeroCtr_mb (scope inst : Nat) (s : State) : (s.zeroCtr scope inst).mb = s.mb := rfl

@[simp] theorem State.zeroCtr_sensors (scope inst : Nat) (s : State) : (s.zeroCtr scope inst).sensors = s.sensors := rfl

@[simp] theorem State.zeroCtr_droopArmed (scope inst : Nat) (s : State) : (s.zeroCtr scope inst).droopArmed = s.droopArmed := rfl

@[simp] theorem State.zeroCtr_idleSince (scope inst : Nat) (s : State) : (s.zeroCtr scope inst).idleSince = s.idleSince := rfl

@[simp] theorem State.zeroCtr_timerAt (scope inst : Nat) (s : State) : (s.zeroCtr scope inst).timerAt = s.timerAt := rfl

@[simp] theorem State.zeroCtr_tt (scope inst : Nat) (s : State) : (s.zeroCtr scope inst).tt = s.tt := rfl

@[simp] theorem State.zeroCtr_log (scope inst : Nat) (s : State) : (s.zeroCtr scope inst).log = s.log := rfl

@[simp] theorem State.zeroCtr_image (scope inst : Nat) (s : State) : (s.zeroCtr scope inst).image = s.image := rfl

@[simp] theorem State.zeroCtr_fw (scope inst : Nat) (s : State) : (s.zeroCtr scope inst).fw = s.fw := rfl

@[simp] theorem State.zeroCtr_free (scope inst : Nat) (s : State) : (s.zeroCtr scope inst).free = s.free := rfl

@[simp] theorem State.zeroCtr_laneCycle (scope inst : Nat) (s : State) : (s.zeroCtr scope inst).laneCycle = s.laneCycle := rfl

@[simp] theorem State.zeroCtr_nextId (scope inst : Nat) (s : State) : (s.zeroCtr scope inst).nextId = s.nextId := rfl

@[simp] theorem State.zeroCtr_issued (scope inst : Nat) (s : State) : (s.zeroCtr scope inst).issued = s.issued := rfl

@[simp] theorem State.zeroCtr_pending (scope inst : Nat) (s : State) : (s.zeroCtr scope inst).pending = s.pending := rfl

/-! ### modAcc -/

@[simp] theorem State.modAcc_setup (e : Nat) (g : Acc → Acc) (s : State) : (s.modAcc e g).setup = s.setup := rfl

@[simp] theorem State.modAcc_glob (e : Nat) (g : Acc → Acc) (s : State) : (s.modAcc e g).glob = s.glob := rfl

@[simp] theorem State.modAcc_adm (e : Nat) (g : Acc → Acc) (s : State) : (s.modAcc e g).adm = s.adm := rfl

@[simp] theorem State.modAcc_pen (e : Nat) (g : Acc → Acc) (s : State) : (s.modAcc e g).pen = s.pen := rfl

@[simp] theorem State.modAcc_sqs (e : Nat) (g : Acc → Acc) (s : State) : (s.modAcc e g).sqs = s.sqs := rfl

@[simp] theorem State.modAcc_cqs (e : Nat) (g : Acc → Acc) (s : State) : (s.modAcc e g).cqs = s.cqs := rfl

@[simp] theorem State.modAcc_fns (e : Nat) (g : Acc → Acc) (s : State) : (s.modAcc e g).fns = s.fns := rfl

@[simp] theorem State.modAcc_hbInt (e : Nat) (g : Acc → Acc) (s : State) : (s.modAcc e g).hbInt = s.hbInt := rfl

@[simp] theorem State.modAcc_eps (e : Nat) (g : Acc → Acc) (s : State) : (s.modAcc e g).eps = s.eps := rfl

@[simp] theorem State.modAcc_lost (e : Nat) (g : Acc → Acc) (s : State) : (s.modAcc e g).lost = s.lost := rfl

@[simp] theorem State.modAcc_rigs (e : Nat) (g : Acc → Acc) (s : State) : (s.modAcc e g).rigs = s.rigs := rfl

@[simp] theorem State.modAcc_epochSeq (e : Nat) (g : Acc → Acc) (s : State) : (s.modAcc e g).epochSeq = s.epochSeq := rfl

@[simp] theorem State.modAcc_jobs (e : Nat) (g : Acc → Acc) (s : State) : (s.modAcc e g).jobs = s.jobs := rfl

@[simp] theorem State.modAcc_gens (e : Nat) (g : Acc → Acc) (s : State) : (s.modAcc e g).gens = s.gens := rfl

@[simp] theorem State.modAcc_restores (e : Nat) (g : Acc → Acc) (s : State) : (s.modAcc e g).restores = s.restores := rfl

@[simp] theorem State.modAcc_forks (e : Nat) (g : Acc → Acc) (s : State) : (s.modAcc e g).forks = s.forks := rfl

@[simp] theorem State.modAcc_dir (e : Nat) (g : Acc → Acc) (s : State) : (s.modAcc e g).dir = s.dir := rfl

@[simp] theorem State.modAcc_dirQ (e : Nat) (g : Acc → Acc) (s : State) : (s.modAcc e g).dirQ = s.dirQ := rfl

@[simp] theorem State.modAcc_scrubs (e : Nat) (g : Acc → Acc) (s : State) : (s.modAcc e g).scrubs = s.scrubs := rfl

@[simp] theorem State.modAcc_manStore (e : Nat) (g : Acc → Acc) (s : State) : (s.modAcc e g).manStore = s.manStore := rfl

@[simp] theorem State.modAcc_sheets (e : Nat) (g : Acc → Acc) (s : State) : (s.modAcc e g).sheets = s.sheets := rfl

@[simp] theorem State.modAcc_tackle (e : Nat) (g : Acc → Acc) (s : State) : (s.modAcc e g).tackle = s.tackle := rfl

@[simp] theorem State.modAcc_cleats (e : Nat) (g : Acc → Acc) (s : State) : (s.modAcc e g).cleats = s.cleats := rfl

@[simp] theorem State.modAcc_keys (e : Nat) (g : Acc → Acc) (s : State) : (s.modAcc e g).keys = s.keys := rfl

@[simp] theorem State.modAcc_spdm (e : Nat) (g : Acc → Acc) (s : State) : (s.modAcc e g).spdm = s.spdm := rfl

@[simp] theorem State.modAcc_tap (e : Nat) (g : Acc → Acc) (s : State) : (s.modAcc e g).tap = s.tap := rfl

@[simp] theorem State.modAcc_links (e : Nat) (g : Acc → Acc) (s : State) : (s.modAcc e g).links = s.links := rfl

@[simp] theorem State.modAcc_drainUp (e : Nat) (g : Acc → Acc) (s : State) : (s.modAcc e g).drainUp = s.drainUp := rfl

@[simp] theorem State.modAcc_freqs (e : Nat) (g : Acc → Acc) (s : State) : (s.modAcc e g).freqs = s.freqs := rfl

@[simp] theorem State.modAcc_waitPkts (e : Nat) (g : Acc → Acc) (s : State) : (s.modAcc e g).waitPkts = s.waitPkts := rfl

@[simp] theorem State.modAcc_sreqs (e : Nat) (g : Acc → Acc) (s : State) : (s.modAcc e g).sreqs = s.sreqs := rfl

@[simp] theorem State.modAcc_unknown (e : Nat) (g : Acc → Acc) (s : State) : (s.modAcc e g).unknown = s.unknown := rfl

@[simp] theorem State.modAcc_hreqs (e : Nat) (g : Acc → Acc) (s : State) : (s.modAcc e g).hreqs = s.hreqs := rfl

@[simp] theorem State.modAcc_xfers (e : Nat) (g : Acc → Acc) (s : State) : (s.modAcc e g).xfers = s.xfers := rfl

@[simp] theorem State.modAcc_arbs (e : Nat) (g : Acc → Acc) (s : State) : (s.modAcc e g).arbs = s.arbs := rfl

@[simp] theorem State.modAcc_pipeCtx (e : Nat) (g : Acc → Acc) (s : State) : (s.modAcc e g).pipeCtx = s.pipeCtx := rfl

@[simp] theorem State.modAcc_rounds (e : Nat) (g : Acc → Acc) (s : State) : (s.modAcc e g).rounds = s.rounds := rfl

@[simp] theorem State.modAcc_roundW (e : Nat) (g : Acc → Acc) (s : State) : (s.modAcc e g).roundW = s.roundW := rfl

@[simp] theorem State.modAcc_yards (e : Nat) (g : Acc → Acc) (s : State) : (s.modAcc e g).yards = s.yards := rfl

@[simp] theorem State.modAcc_tests (e : Nat) (g : Acc → Acc) (s : State) : (s.modAcc e g).tests = s.tests := rfl

@[simp] theorem State.modAcc_procs (e : Nat) (g : Acc → Acc) (s : State) : (s.modAcc e g).procs = s.procs := rfl

@[simp] theorem State.modAcc_waking (e : Nat) (g : Acc → Acc) (s : State) : (s.modAcc e g).waking = s.waking := rfl

@[simp] theorem State.modAcc_mb (e : Nat) (g : Acc → Acc) (s : State) : (s.modAcc e g).mb = s.mb := rfl

@[simp] theorem State.modAcc_sensors (e : Nat) (g : Acc → Acc) (s : State) : (s.modAcc e g).sensors = s.sensors := rfl

@[simp] theorem State.modAcc_droopArmed (e : Nat) (g : Acc → Acc) (s : State) : (s.modAcc e g).droopArmed = s.droopArmed := rfl

@[simp] theorem State.modAcc_idleSince (e : Nat) (g : Acc → Acc) (s : State) : (s.modAcc e g).idleSince = s.idleSince := rfl

@[simp] theorem State.modAcc_timerAt (e : Nat) (g : Acc → Acc) (s : State) : (s.modAcc e g).timerAt = s.timerAt := rfl

@[simp] theorem State.modAcc_tt (e : Nat) (g : Acc → Acc) (s : State) : (s.modAcc e g).tt = s.tt := rfl

@[simp] theorem State.modAcc_log (e : Nat) (g : Acc → Acc) (s : State) : (s.modAcc e g).log = s.log := rfl

@[simp] theorem State.modAcc_image (e : Nat) (g : Acc → Acc) (s : State) : (s.modAcc e g).image = s.image := rfl

@[simp] theorem State.modAcc_fw (e : Nat) (g : Acc → Acc) (s : State) : (s.modAcc e g).fw = s.fw := rfl

@[simp] theorem State.modAcc_ctr (e : Nat) (g : Acc → Acc) (s : State) : (s.modAcc e g).ctr = s.ctr := rfl

@[simp] theorem State.modAcc_free (e : Nat) (g : Acc → Acc) (s : State) : (s.modAcc e g).free = s.free := rfl

@[simp] theorem State.modAcc_laneCycle (e : Nat) (g : Acc → Acc) (s : State) : (s.modAcc e g).laneCycle = s.laneCycle := rfl

@[simp] theorem State.modAcc_nextId (e : Nat) (g : Acc → Acc) (s : State) : (s.modAcc e g).nextId = s.nextId := rfl

@[simp] theorem State.modAcc_issued (e : Nat) (g : Acc → Acc) (s : State) : (s.modAcc e g).issued = s.issued := rfl

@[simp] theorem State.modAcc_pending (e : Nat) (g : Acc → Acc) (s : State) : (s.modAcc e g).pending = s.pending := rfl

/-! ### meet -/

@[simp] theorem State.meet_setup (e status info : Nat) (s : State) : (s.meet e status info).setup = s.setup := rfl

@[simp] theorem State.meet_glob (e status info : Nat) (s : State) : (s.meet e status info).glob = s.glob := rfl

@[simp] theorem State.meet_adm (e status info : Nat) (s : State) : (s.meet e status info).adm = s.adm := rfl

@[simp] theorem State.meet_pen (e status info : Nat) (s : State) : (s.meet e status info).pen = s.pen := rfl

@[simp] theorem State.meet_sqs (e status info : Nat) (s : State) : (s.meet e status info).sqs = s.sqs := rfl

@[simp] theorem State.meet_cqs (e status info : Nat) (s : State) : (s.meet e status info).cqs = s.cqs := rfl

@[simp] theorem State.meet_fns (e status info : Nat) (s : State) : (s.meet e status info).fns = s.fns := rfl

@[simp] theorem State.meet_hbInt (e status info : Nat) (s : State) : (s.meet e status info).hbInt = s.hbInt := rfl

@[simp] theorem State.meet_eps (e status info : Nat) (s : State) : (s.meet e status info).eps = s.eps := rfl

@[simp] theorem State.meet_lost (e status info : Nat) (s : State) : (s.meet e status info).lost = s.lost := rfl

@[simp] theorem State.meet_rigs (e status info : Nat) (s : State) : (s.meet e status info).rigs = s.rigs := rfl

@[simp] theorem State.meet_epochSeq (e status info : Nat) (s : State) : (s.meet e status info).epochSeq = s.epochSeq := rfl

@[simp] theorem State.meet_jobs (e status info : Nat) (s : State) : (s.meet e status info).jobs = s.jobs := rfl

@[simp] theorem State.meet_gens (e status info : Nat) (s : State) : (s.meet e status info).gens = s.gens := rfl

@[simp] theorem State.meet_restores (e status info : Nat) (s : State) : (s.meet e status info).restores = s.restores := rfl

@[simp] theorem State.meet_forks (e status info : Nat) (s : State) : (s.meet e status info).forks = s.forks := rfl

@[simp] theorem State.meet_dir (e status info : Nat) (s : State) : (s.meet e status info).dir = s.dir := rfl

@[simp] theorem State.meet_dirQ (e status info : Nat) (s : State) : (s.meet e status info).dirQ = s.dirQ := rfl

@[simp] theorem State.meet_scrubs (e status info : Nat) (s : State) : (s.meet e status info).scrubs = s.scrubs := rfl

@[simp] theorem State.meet_manStore (e status info : Nat) (s : State) : (s.meet e status info).manStore = s.manStore := rfl

@[simp] theorem State.meet_sheets (e status info : Nat) (s : State) : (s.meet e status info).sheets = s.sheets := rfl

@[simp] theorem State.meet_tackle (e status info : Nat) (s : State) : (s.meet e status info).tackle = s.tackle := rfl

@[simp] theorem State.meet_cleats (e status info : Nat) (s : State) : (s.meet e status info).cleats = s.cleats := rfl

@[simp] theorem State.meet_keys (e status info : Nat) (s : State) : (s.meet e status info).keys = s.keys := rfl

@[simp] theorem State.meet_spdm (e status info : Nat) (s : State) : (s.meet e status info).spdm = s.spdm := rfl

@[simp] theorem State.meet_tap (e status info : Nat) (s : State) : (s.meet e status info).tap = s.tap := rfl

@[simp] theorem State.meet_links (e status info : Nat) (s : State) : (s.meet e status info).links = s.links := rfl

@[simp] theorem State.meet_drainUp (e status info : Nat) (s : State) : (s.meet e status info).drainUp = s.drainUp := rfl

@[simp] theorem State.meet_freqs (e status info : Nat) (s : State) : (s.meet e status info).freqs = s.freqs := rfl

@[simp] theorem State.meet_waitPkts (e status info : Nat) (s : State) : (s.meet e status info).waitPkts = s.waitPkts := rfl

@[simp] theorem State.meet_sreqs (e status info : Nat) (s : State) : (s.meet e status info).sreqs = s.sreqs := rfl

@[simp] theorem State.meet_unknown (e status info : Nat) (s : State) : (s.meet e status info).unknown = s.unknown := rfl

@[simp] theorem State.meet_hreqs (e status info : Nat) (s : State) : (s.meet e status info).hreqs = s.hreqs := rfl

@[simp] theorem State.meet_xfers (e status info : Nat) (s : State) : (s.meet e status info).xfers = s.xfers := rfl

@[simp] theorem State.meet_arbs (e status info : Nat) (s : State) : (s.meet e status info).arbs = s.arbs := rfl

@[simp] theorem State.meet_pipeCtx (e status info : Nat) (s : State) : (s.meet e status info).pipeCtx = s.pipeCtx := rfl

@[simp] theorem State.meet_rounds (e status info : Nat) (s : State) : (s.meet e status info).rounds = s.rounds := rfl

@[simp] theorem State.meet_roundW (e status info : Nat) (s : State) : (s.meet e status info).roundW = s.roundW := rfl

@[simp] theorem State.meet_yards (e status info : Nat) (s : State) : (s.meet e status info).yards = s.yards := rfl

@[simp] theorem State.meet_tests (e status info : Nat) (s : State) : (s.meet e status info).tests = s.tests := rfl

@[simp] theorem State.meet_procs (e status info : Nat) (s : State) : (s.meet e status info).procs = s.procs := rfl

@[simp] theorem State.meet_waking (e status info : Nat) (s : State) : (s.meet e status info).waking = s.waking := rfl

@[simp] theorem State.meet_mb (e status info : Nat) (s : State) : (s.meet e status info).mb = s.mb := rfl

@[simp] theorem State.meet_sensors (e status info : Nat) (s : State) : (s.meet e status info).sensors = s.sensors := rfl

@[simp] theorem State.meet_droopArmed (e status info : Nat) (s : State) : (s.meet e status info).droopArmed = s.droopArmed := rfl

@[simp] theorem State.meet_idleSince (e status info : Nat) (s : State) : (s.meet e status info).idleSince = s.idleSince := rfl

@[simp] theorem State.meet_timerAt (e status info : Nat) (s : State) : (s.meet e status info).timerAt = s.timerAt := rfl

@[simp] theorem State.meet_tt (e status info : Nat) (s : State) : (s.meet e status info).tt = s.tt := rfl

@[simp] theorem State.meet_log (e status info : Nat) (s : State) : (s.meet e status info).log = s.log := rfl

@[simp] theorem State.meet_image (e status info : Nat) (s : State) : (s.meet e status info).image = s.image := rfl

@[simp] theorem State.meet_fw (e status info : Nat) (s : State) : (s.meet e status info).fw = s.fw := rfl

@[simp] theorem State.meet_ctr (e status info : Nat) (s : State) : (s.meet e status info).ctr = s.ctr := rfl

@[simp] theorem State.meet_free (e status info : Nat) (s : State) : (s.meet e status info).free = s.free := rfl

@[simp] theorem State.meet_laneCycle (e status info : Nat) (s : State) : (s.meet e status info).laneCycle = s.laneCycle := rfl

@[simp] theorem State.meet_nextId (e status info : Nat) (s : State) : (s.meet e status info).nextId = s.nextId := rfl

@[simp] theorem State.meet_issued (e status info : Nat) (s : State) : (s.meet e status info).issued = s.issued := rfl

@[simp] theorem State.meet_pending (e status info : Nat) (s : State) : (s.meet e status info).pending = s.pending := rfl

/-! ### endEntry -/

@[simp] theorem State.endEntry_setup (e info : Nat) (s : State) : (s.endEntry e info).setup = s.setup := rfl

@[simp] theorem State.endEntry_glob (e info : Nat) (s : State) : (s.endEntry e info).glob = s.glob := rfl

@[simp] theorem State.endEntry_adm (e info : Nat) (s : State) : (s.endEntry e info).adm = s.adm := rfl

@[simp] theorem State.endEntry_pen (e info : Nat) (s : State) : (s.endEntry e info).pen = s.pen := rfl

@[simp] theorem State.endEntry_sqs (e info : Nat) (s : State) : (s.endEntry e info).sqs = s.sqs := rfl

@[simp] theorem State.endEntry_cqs (e info : Nat) (s : State) : (s.endEntry e info).cqs = s.cqs := rfl

@[simp] theorem State.endEntry_fns (e info : Nat) (s : State) : (s.endEntry e info).fns = s.fns := rfl

@[simp] theorem State.endEntry_hbInt (e info : Nat) (s : State) : (s.endEntry e info).hbInt = s.hbInt := rfl

@[simp] theorem State.endEntry_eps (e info : Nat) (s : State) : (s.endEntry e info).eps = s.eps := rfl

@[simp] theorem State.endEntry_lost (e info : Nat) (s : State) : (s.endEntry e info).lost = s.lost := rfl

@[simp] theorem State.endEntry_rigs (e info : Nat) (s : State) : (s.endEntry e info).rigs = s.rigs := rfl

@[simp] theorem State.endEntry_epochSeq (e info : Nat) (s : State) : (s.endEntry e info).epochSeq = s.epochSeq := rfl

@[simp] theorem State.endEntry_jobs (e info : Nat) (s : State) : (s.endEntry e info).jobs = s.jobs := rfl

@[simp] theorem State.endEntry_gens (e info : Nat) (s : State) : (s.endEntry e info).gens = s.gens := rfl

@[simp] theorem State.endEntry_restores (e info : Nat) (s : State) : (s.endEntry e info).restores = s.restores := rfl

@[simp] theorem State.endEntry_forks (e info : Nat) (s : State) : (s.endEntry e info).forks = s.forks := rfl

@[simp] theorem State.endEntry_dir (e info : Nat) (s : State) : (s.endEntry e info).dir = s.dir := rfl

@[simp] theorem State.endEntry_dirQ (e info : Nat) (s : State) : (s.endEntry e info).dirQ = s.dirQ := rfl

@[simp] theorem State.endEntry_scrubs (e info : Nat) (s : State) : (s.endEntry e info).scrubs = s.scrubs := rfl

@[simp] theorem State.endEntry_manStore (e info : Nat) (s : State) : (s.endEntry e info).manStore = s.manStore := rfl

@[simp] theorem State.endEntry_sheets (e info : Nat) (s : State) : (s.endEntry e info).sheets = s.sheets := rfl

@[simp] theorem State.endEntry_tackle (e info : Nat) (s : State) : (s.endEntry e info).tackle = s.tackle := rfl

@[simp] theorem State.endEntry_cleats (e info : Nat) (s : State) : (s.endEntry e info).cleats = s.cleats := rfl

@[simp] theorem State.endEntry_keys (e info : Nat) (s : State) : (s.endEntry e info).keys = s.keys := rfl

@[simp] theorem State.endEntry_spdm (e info : Nat) (s : State) : (s.endEntry e info).spdm = s.spdm := rfl

@[simp] theorem State.endEntry_tap (e info : Nat) (s : State) : (s.endEntry e info).tap = s.tap := rfl

@[simp] theorem State.endEntry_links (e info : Nat) (s : State) : (s.endEntry e info).links = s.links := rfl

@[simp] theorem State.endEntry_drainUp (e info : Nat) (s : State) : (s.endEntry e info).drainUp = s.drainUp := rfl

@[simp] theorem State.endEntry_freqs (e info : Nat) (s : State) : (s.endEntry e info).freqs = s.freqs := rfl

@[simp] theorem State.endEntry_waitPkts (e info : Nat) (s : State) : (s.endEntry e info).waitPkts = s.waitPkts := rfl

@[simp] theorem State.endEntry_sreqs (e info : Nat) (s : State) : (s.endEntry e info).sreqs = s.sreqs := rfl

@[simp] theorem State.endEntry_unknown (e info : Nat) (s : State) : (s.endEntry e info).unknown = s.unknown := rfl

@[simp] theorem State.endEntry_hreqs (e info : Nat) (s : State) : (s.endEntry e info).hreqs = s.hreqs := rfl

@[simp] theorem State.endEntry_xfers (e info : Nat) (s : State) : (s.endEntry e info).xfers = s.xfers := rfl

@[simp] theorem State.endEntry_arbs (e info : Nat) (s : State) : (s.endEntry e info).arbs = s.arbs := rfl

@[simp] theorem State.endEntry_pipeCtx (e info : Nat) (s : State) : (s.endEntry e info).pipeCtx = s.pipeCtx := rfl

@[simp] theorem State.endEntry_rounds (e info : Nat) (s : State) : (s.endEntry e info).rounds = s.rounds := rfl

@[simp] theorem State.endEntry_roundW (e info : Nat) (s : State) : (s.endEntry e info).roundW = s.roundW := rfl

@[simp] theorem State.endEntry_yards (e info : Nat) (s : State) : (s.endEntry e info).yards = s.yards := rfl

@[simp] theorem State.endEntry_tests (e info : Nat) (s : State) : (s.endEntry e info).tests = s.tests := rfl

@[simp] theorem State.endEntry_procs (e info : Nat) (s : State) : (s.endEntry e info).procs = s.procs := rfl

@[simp] theorem State.endEntry_waking (e info : Nat) (s : State) : (s.endEntry e info).waking = s.waking := rfl

@[simp] theorem State.endEntry_mb (e info : Nat) (s : State) : (s.endEntry e info).mb = s.mb := rfl

@[simp] theorem State.endEntry_sensors (e info : Nat) (s : State) : (s.endEntry e info).sensors = s.sensors := rfl

@[simp] theorem State.endEntry_droopArmed (e info : Nat) (s : State) : (s.endEntry e info).droopArmed = s.droopArmed := rfl

@[simp] theorem State.endEntry_idleSince (e info : Nat) (s : State) : (s.endEntry e info).idleSince = s.idleSince := rfl

@[simp] theorem State.endEntry_timerAt (e info : Nat) (s : State) : (s.endEntry e info).timerAt = s.timerAt := rfl

@[simp] theorem State.endEntry_tt (e info : Nat) (s : State) : (s.endEntry e info).tt = s.tt := rfl

@[simp] theorem State.endEntry_log (e info : Nat) (s : State) : (s.endEntry e info).log = s.log := rfl

@[simp] theorem State.endEntry_image (e info : Nat) (s : State) : (s.endEntry e info).image = s.image := rfl

@[simp] theorem State.endEntry_fw (e info : Nat) (s : State) : (s.endEntry e info).fw = s.fw := rfl

@[simp] theorem State.endEntry_ctr (e info : Nat) (s : State) : (s.endEntry e info).ctr = s.ctr := rfl

@[simp] theorem State.endEntry_free (e info : Nat) (s : State) : (s.endEntry e info).free = s.free := rfl

@[simp] theorem State.endEntry_laneCycle (e info : Nat) (s : State) : (s.endEntry e info).laneCycle = s.laneCycle := rfl

@[simp] theorem State.endEntry_nextId (e info : Nat) (s : State) : (s.endEntry e info).nextId = s.nextId := rfl

@[simp] theorem State.endEntry_issued (e info : Nat) (s : State) : (s.endEntry e info).issued = s.issued := rfl

@[simp] theorem State.endEntry_pending (e info : Nat) (s : State) : (s.endEntry e info).pending = s.pending := rfl

/-! ### failEntry -/

@[simp] theorem State.failEntry_setup (e status info : Nat) (s : State) : (s.failEntry e status info).setup = s.setup := rfl

@[simp] theorem State.failEntry_glob (e status info : Nat) (s : State) : (s.failEntry e status info).glob = s.glob := rfl

@[simp] theorem State.failEntry_adm (e status info : Nat) (s : State) : (s.failEntry e status info).adm = s.adm := rfl

@[simp] theorem State.failEntry_pen (e status info : Nat) (s : State) : (s.failEntry e status info).pen = s.pen := rfl

@[simp] theorem State.failEntry_sqs (e status info : Nat) (s : State) : (s.failEntry e status info).sqs = s.sqs := rfl

@[simp] theorem State.failEntry_cqs (e status info : Nat) (s : State) : (s.failEntry e status info).cqs = s.cqs := rfl

@[simp] theorem State.failEntry_fns (e status info : Nat) (s : State) : (s.failEntry e status info).fns = s.fns := rfl

@[simp] theorem State.failEntry_hbInt (e status info : Nat) (s : State) : (s.failEntry e status info).hbInt = s.hbInt := rfl

@[simp] theorem State.failEntry_eps (e status info : Nat) (s : State) : (s.failEntry e status info).eps = s.eps := rfl

@[simp] theorem State.failEntry_lost (e status info : Nat) (s : State) : (s.failEntry e status info).lost = s.lost := rfl

@[simp] theorem State.failEntry_rigs (e status info : Nat) (s : State) : (s.failEntry e status info).rigs = s.rigs := rfl

@[simp] theorem State.failEntry_epochSeq (e status info : Nat) (s : State) : (s.failEntry e status info).epochSeq = s.epochSeq := rfl

@[simp] theorem State.failEntry_jobs (e status info : Nat) (s : State) : (s.failEntry e status info).jobs = s.jobs := rfl

@[simp] theorem State.failEntry_gens (e status info : Nat) (s : State) : (s.failEntry e status info).gens = s.gens := rfl

@[simp] theorem State.failEntry_restores (e status info : Nat) (s : State) : (s.failEntry e status info).restores = s.restores := rfl

@[simp] theorem State.failEntry_forks (e status info : Nat) (s : State) : (s.failEntry e status info).forks = s.forks := rfl

@[simp] theorem State.failEntry_dir (e status info : Nat) (s : State) : (s.failEntry e status info).dir = s.dir := rfl

@[simp] theorem State.failEntry_dirQ (e status info : Nat) (s : State) : (s.failEntry e status info).dirQ = s.dirQ := rfl

@[simp] theorem State.failEntry_scrubs (e status info : Nat) (s : State) : (s.failEntry e status info).scrubs = s.scrubs := rfl

@[simp] theorem State.failEntry_manStore (e status info : Nat) (s : State) : (s.failEntry e status info).manStore = s.manStore := rfl

@[simp] theorem State.failEntry_sheets (e status info : Nat) (s : State) : (s.failEntry e status info).sheets = s.sheets := rfl

@[simp] theorem State.failEntry_tackle (e status info : Nat) (s : State) : (s.failEntry e status info).tackle = s.tackle := rfl

@[simp] theorem State.failEntry_cleats (e status info : Nat) (s : State) : (s.failEntry e status info).cleats = s.cleats := rfl

@[simp] theorem State.failEntry_keys (e status info : Nat) (s : State) : (s.failEntry e status info).keys = s.keys := rfl

@[simp] theorem State.failEntry_spdm (e status info : Nat) (s : State) : (s.failEntry e status info).spdm = s.spdm := rfl

@[simp] theorem State.failEntry_tap (e status info : Nat) (s : State) : (s.failEntry e status info).tap = s.tap := rfl

@[simp] theorem State.failEntry_links (e status info : Nat) (s : State) : (s.failEntry e status info).links = s.links := rfl

@[simp] theorem State.failEntry_drainUp (e status info : Nat) (s : State) : (s.failEntry e status info).drainUp = s.drainUp := rfl

@[simp] theorem State.failEntry_freqs (e status info : Nat) (s : State) : (s.failEntry e status info).freqs = s.freqs := rfl

@[simp] theorem State.failEntry_waitPkts (e status info : Nat) (s : State) : (s.failEntry e status info).waitPkts = s.waitPkts := rfl

@[simp] theorem State.failEntry_sreqs (e status info : Nat) (s : State) : (s.failEntry e status info).sreqs = s.sreqs := rfl

@[simp] theorem State.failEntry_unknown (e status info : Nat) (s : State) : (s.failEntry e status info).unknown = s.unknown := rfl

@[simp] theorem State.failEntry_hreqs (e status info : Nat) (s : State) : (s.failEntry e status info).hreqs = s.hreqs := rfl

@[simp] theorem State.failEntry_xfers (e status info : Nat) (s : State) : (s.failEntry e status info).xfers = s.xfers := rfl

@[simp] theorem State.failEntry_arbs (e status info : Nat) (s : State) : (s.failEntry e status info).arbs = s.arbs := rfl

@[simp] theorem State.failEntry_pipeCtx (e status info : Nat) (s : State) : (s.failEntry e status info).pipeCtx = s.pipeCtx := rfl

@[simp] theorem State.failEntry_rounds (e status info : Nat) (s : State) : (s.failEntry e status info).rounds = s.rounds := rfl

@[simp] theorem State.failEntry_roundW (e status info : Nat) (s : State) : (s.failEntry e status info).roundW = s.roundW := rfl

@[simp] theorem State.failEntry_yards (e status info : Nat) (s : State) : (s.failEntry e status info).yards = s.yards := rfl

@[simp] theorem State.failEntry_tests (e status info : Nat) (s : State) : (s.failEntry e status info).tests = s.tests := rfl

@[simp] theorem State.failEntry_procs (e status info : Nat) (s : State) : (s.failEntry e status info).procs = s.procs := rfl

@[simp] theorem State.failEntry_waking (e status info : Nat) (s : State) : (s.failEntry e status info).waking = s.waking := rfl

@[simp] theorem State.failEntry_mb (e status info : Nat) (s : State) : (s.failEntry e status info).mb = s.mb := rfl

@[simp] theorem State.failEntry_sensors (e status info : Nat) (s : State) : (s.failEntry e status info).sensors = s.sensors := rfl

@[simp] theorem State.failEntry_droopArmed (e status info : Nat) (s : State) : (s.failEntry e status info).droopArmed = s.droopArmed := rfl

@[simp] theorem State.failEntry_idleSince (e status info : Nat) (s : State) : (s.failEntry e status info).idleSince = s.idleSince := rfl

@[simp] theorem State.failEntry_timerAt (e status info : Nat) (s : State) : (s.failEntry e status info).timerAt = s.timerAt := rfl

@[simp] theorem State.failEntry_tt (e status info : Nat) (s : State) : (s.failEntry e status info).tt = s.tt := rfl

@[simp] theorem State.failEntry_log (e status info : Nat) (s : State) : (s.failEntry e status info).log = s.log := rfl

@[simp] theorem State.failEntry_image (e status info : Nat) (s : State) : (s.failEntry e status info).image = s.image := rfl

@[simp] theorem State.failEntry_fw (e status info : Nat) (s : State) : (s.failEntry e status info).fw = s.fw := rfl

@[simp] theorem State.failEntry_ctr (e status info : Nat) (s : State) : (s.failEntry e status info).ctr = s.ctr := rfl

@[simp] theorem State.failEntry_free (e status info : Nat) (s : State) : (s.failEntry e status info).free = s.free := rfl

@[simp] theorem State.failEntry_laneCycle (e status info : Nat) (s : State) : (s.failEntry e status info).laneCycle = s.laneCycle := rfl

@[simp] theorem State.failEntry_nextId (e status info : Nat) (s : State) : (s.failEntry e status info).nextId = s.nextId := rfl

@[simp] theorem State.failEntry_issued (e status info : Nat) (s : State) : (s.failEntry e status info).issued = s.issued := rfl

@[simp] theorem State.failEntry_pending (e status info : Nat) (s : State) : (s.failEntry e status info).pending = s.pending := rfl

/-! ### setCleat -/

@[simp] theorem State.setCleat_setup (c n : Nat) (s : State) : (s.setCleat c n).setup = s.setup := rfl

@[simp] theorem State.setCleat_glob (c n : Nat) (s : State) : (s.setCleat c n).glob = s.glob := rfl

@[simp] theorem State.setCleat_adm (c n : Nat) (s : State) : (s.setCleat c n).adm = s.adm := rfl

@[simp] theorem State.setCleat_pen (c n : Nat) (s : State) : (s.setCleat c n).pen = s.pen := rfl

@[simp] theorem State.setCleat_sqs (c n : Nat) (s : State) : (s.setCleat c n).sqs = s.sqs := rfl

@[simp] theorem State.setCleat_cqs (c n : Nat) (s : State) : (s.setCleat c n).cqs = s.cqs := rfl

@[simp] theorem State.setCleat_accepted (c n : Nat) (s : State) : (s.setCleat c n).accepted = s.accepted := rfl

@[simp] theorem State.setCleat_fns (c n : Nat) (s : State) : (s.setCleat c n).fns = s.fns := rfl

@[simp] theorem State.setCleat_hbInt (c n : Nat) (s : State) : (s.setCleat c n).hbInt = s.hbInt := rfl

@[simp] theorem State.setCleat_eps (c n : Nat) (s : State) : (s.setCleat c n).eps = s.eps := rfl

@[simp] theorem State.setCleat_lost (c n : Nat) (s : State) : (s.setCleat c n).lost = s.lost := rfl

@[simp] theorem State.setCleat_rigs (c n : Nat) (s : State) : (s.setCleat c n).rigs = s.rigs := rfl

@[simp] theorem State.setCleat_epochSeq (c n : Nat) (s : State) : (s.setCleat c n).epochSeq = s.epochSeq := rfl

@[simp] theorem State.setCleat_jobs (c n : Nat) (s : State) : (s.setCleat c n).jobs = s.jobs := rfl

@[simp] theorem State.setCleat_gens (c n : Nat) (s : State) : (s.setCleat c n).gens = s.gens := rfl

@[simp] theorem State.setCleat_restores (c n : Nat) (s : State) : (s.setCleat c n).restores = s.restores := rfl

@[simp] theorem State.setCleat_forks (c n : Nat) (s : State) : (s.setCleat c n).forks = s.forks := rfl

@[simp] theorem State.setCleat_dir (c n : Nat) (s : State) : (s.setCleat c n).dir = s.dir := rfl

@[simp] theorem State.setCleat_dirQ (c n : Nat) (s : State) : (s.setCleat c n).dirQ = s.dirQ := rfl

@[simp] theorem State.setCleat_scrubs (c n : Nat) (s : State) : (s.setCleat c n).scrubs = s.scrubs := rfl

@[simp] theorem State.setCleat_manStore (c n : Nat) (s : State) : (s.setCleat c n).manStore = s.manStore := rfl

@[simp] theorem State.setCleat_sheets (c n : Nat) (s : State) : (s.setCleat c n).sheets = s.sheets := rfl

@[simp] theorem State.setCleat_tackle (c n : Nat) (s : State) : (s.setCleat c n).tackle = s.tackle := rfl

@[simp] theorem State.setCleat_keys (c n : Nat) (s : State) : (s.setCleat c n).keys = s.keys := rfl

@[simp] theorem State.setCleat_spdm (c n : Nat) (s : State) : (s.setCleat c n).spdm = s.spdm := rfl

@[simp] theorem State.setCleat_tap (c n : Nat) (s : State) : (s.setCleat c n).tap = s.tap := rfl

@[simp] theorem State.setCleat_links (c n : Nat) (s : State) : (s.setCleat c n).links = s.links := rfl

@[simp] theorem State.setCleat_drainUp (c n : Nat) (s : State) : (s.setCleat c n).drainUp = s.drainUp := rfl

@[simp] theorem State.setCleat_freqs (c n : Nat) (s : State) : (s.setCleat c n).freqs = s.freqs := rfl

@[simp] theorem State.setCleat_waitPkts (c n : Nat) (s : State) : (s.setCleat c n).waitPkts = s.waitPkts := rfl

@[simp] theorem State.setCleat_sreqs (c n : Nat) (s : State) : (s.setCleat c n).sreqs = s.sreqs := rfl

@[simp] theorem State.setCleat_unknown (c n : Nat) (s : State) : (s.setCleat c n).unknown = s.unknown := rfl

@[simp] theorem State.setCleat_hreqs (c n : Nat) (s : State) : (s.setCleat c n).hreqs = s.hreqs := rfl

@[simp] theorem State.setCleat_xfers (c n : Nat) (s : State) : (s.setCleat c n).xfers = s.xfers := rfl

@[simp] theorem State.setCleat_arbs (c n : Nat) (s : State) : (s.setCleat c n).arbs = s.arbs := rfl

@[simp] theorem State.setCleat_pipeCtx (c n : Nat) (s : State) : (s.setCleat c n).pipeCtx = s.pipeCtx := rfl

@[simp] theorem State.setCleat_rounds (c n : Nat) (s : State) : (s.setCleat c n).rounds = s.rounds := rfl

@[simp] theorem State.setCleat_roundW (c n : Nat) (s : State) : (s.setCleat c n).roundW = s.roundW := rfl

@[simp] theorem State.setCleat_yards (c n : Nat) (s : State) : (s.setCleat c n).yards = s.yards := rfl

@[simp] theorem State.setCleat_tests (c n : Nat) (s : State) : (s.setCleat c n).tests = s.tests := rfl

@[simp] theorem State.setCleat_procs (c n : Nat) (s : State) : (s.setCleat c n).procs = s.procs := rfl

@[simp] theorem State.setCleat_waking (c n : Nat) (s : State) : (s.setCleat c n).waking = s.waking := rfl

@[simp] theorem State.setCleat_mb (c n : Nat) (s : State) : (s.setCleat c n).mb = s.mb := rfl

@[simp] theorem State.setCleat_sensors (c n : Nat) (s : State) : (s.setCleat c n).sensors = s.sensors := rfl

@[simp] theorem State.setCleat_droopArmed (c n : Nat) (s : State) : (s.setCleat c n).droopArmed = s.droopArmed := rfl

@[simp] theorem State.setCleat_idleSince (c n : Nat) (s : State) : (s.setCleat c n).idleSince = s.idleSince := rfl

@[simp] theorem State.setCleat_timerAt (c n : Nat) (s : State) : (s.setCleat c n).timerAt = s.timerAt := rfl

@[simp] theorem State.setCleat_tt (c n : Nat) (s : State) : (s.setCleat c n).tt = s.tt := rfl

@[simp] theorem State.setCleat_log (c n : Nat) (s : State) : (s.setCleat c n).log = s.log := rfl

@[simp] theorem State.setCleat_image (c n : Nat) (s : State) : (s.setCleat c n).image = s.image := rfl

@[simp] theorem State.setCleat_fw (c n : Nat) (s : State) : (s.setCleat c n).fw = s.fw := rfl

@[simp] theorem State.setCleat_ctr (c n : Nat) (s : State) : (s.setCleat c n).ctr = s.ctr := rfl

@[simp] theorem State.setCleat_free (c n : Nat) (s : State) : (s.setCleat c n).free = s.free := rfl

@[simp] theorem State.setCleat_laneCycle (c n : Nat) (s : State) : (s.setCleat c n).laneCycle = s.laneCycle := rfl

@[simp] theorem State.setCleat_nextId (c n : Nat) (s : State) : (s.setCleat c n).nextId = s.nextId := rfl

@[simp] theorem State.setCleat_issued (c n : Nat) (s : State) : (s.setCleat c n).issued = s.issued := rfl

@[simp] theorem State.setCleat_pending (c n : Nat) (s : State) : (s.setCleat c n).pending = s.pending := rfl

/-! ### modFn -/

@[simp] theorem State.modFn_setup (f : Nat) (g : Fn → Fn) (s : State) : (s.modFn f g).setup = s.setup := rfl

@[simp] theorem State.modFn_glob (f : Nat) (g : Fn → Fn) (s : State) : (s.modFn f g).glob = s.glob := rfl

@[simp] theorem State.modFn_adm (f : Nat) (g : Fn → Fn) (s : State) : (s.modFn f g).adm = s.adm := rfl

@[simp] theorem State.modFn_pen (f : Nat) (g : Fn → Fn) (s : State) : (s.modFn f g).pen = s.pen := rfl

@[simp] theorem State.modFn_sqs (f : Nat) (g : Fn → Fn) (s : State) : (s.modFn f g).sqs = s.sqs := rfl

@[simp] theorem State.modFn_cqs (f : Nat) (g : Fn → Fn) (s : State) : (s.modFn f g).cqs = s.cqs := rfl

@[simp] theorem State.modFn_accepted (f : Nat) (g : Fn → Fn) (s : State) : (s.modFn f g).accepted = s.accepted := rfl

@[simp] theorem State.modFn_hbInt (f : Nat) (g : Fn → Fn) (s : State) : (s.modFn f g).hbInt = s.hbInt := rfl

@[simp] theorem State.modFn_eps (f : Nat) (g : Fn → Fn) (s : State) : (s.modFn f g).eps = s.eps := rfl

@[simp] theorem State.modFn_lost (f : Nat) (g : Fn → Fn) (s : State) : (s.modFn f g).lost = s.lost := rfl

@[simp] theorem State.modFn_rigs (f : Nat) (g : Fn → Fn) (s : State) : (s.modFn f g).rigs = s.rigs := rfl

@[simp] theorem State.modFn_epochSeq (f : Nat) (g : Fn → Fn) (s : State) : (s.modFn f g).epochSeq = s.epochSeq := rfl

@[simp] theorem State.modFn_jobs (f : Nat) (g : Fn → Fn) (s : State) : (s.modFn f g).jobs = s.jobs := rfl

@[simp] theorem State.modFn_gens (f : Nat) (g : Fn → Fn) (s : State) : (s.modFn f g).gens = s.gens := rfl

@[simp] theorem State.modFn_restores (f : Nat) (g : Fn → Fn) (s : State) : (s.modFn f g).restores = s.restores := rfl

@[simp] theorem State.modFn_forks (f : Nat) (g : Fn → Fn) (s : State) : (s.modFn f g).forks = s.forks := rfl

@[simp] theorem State.modFn_dir (f : Nat) (g : Fn → Fn) (s : State) : (s.modFn f g).dir = s.dir := rfl

@[simp] theorem State.modFn_dirQ (f : Nat) (g : Fn → Fn) (s : State) : (s.modFn f g).dirQ = s.dirQ := rfl

@[simp] theorem State.modFn_scrubs (f : Nat) (g : Fn → Fn) (s : State) : (s.modFn f g).scrubs = s.scrubs := rfl

@[simp] theorem State.modFn_manStore (f : Nat) (g : Fn → Fn) (s : State) : (s.modFn f g).manStore = s.manStore := rfl

@[simp] theorem State.modFn_sheets (f : Nat) (g : Fn → Fn) (s : State) : (s.modFn f g).sheets = s.sheets := rfl

@[simp] theorem State.modFn_tackle (f : Nat) (g : Fn → Fn) (s : State) : (s.modFn f g).tackle = s.tackle := rfl

@[simp] theorem State.modFn_cleats (f : Nat) (g : Fn → Fn) (s : State) : (s.modFn f g).cleats = s.cleats := rfl

@[simp] theorem State.modFn_keys (f : Nat) (g : Fn → Fn) (s : State) : (s.modFn f g).keys = s.keys := rfl

@[simp] theorem State.modFn_spdm (f : Nat) (g : Fn → Fn) (s : State) : (s.modFn f g).spdm = s.spdm := rfl

@[simp] theorem State.modFn_tap (f : Nat) (g : Fn → Fn) (s : State) : (s.modFn f g).tap = s.tap := rfl

@[simp] theorem State.modFn_links (f : Nat) (g : Fn → Fn) (s : State) : (s.modFn f g).links = s.links := rfl

@[simp] theorem State.modFn_drainUp (f : Nat) (g : Fn → Fn) (s : State) : (s.modFn f g).drainUp = s.drainUp := rfl

@[simp] theorem State.modFn_freqs (f : Nat) (g : Fn → Fn) (s : State) : (s.modFn f g).freqs = s.freqs := rfl

@[simp] theorem State.modFn_waitPkts (f : Nat) (g : Fn → Fn) (s : State) : (s.modFn f g).waitPkts = s.waitPkts := rfl

@[simp] theorem State.modFn_sreqs (f : Nat) (g : Fn → Fn) (s : State) : (s.modFn f g).sreqs = s.sreqs := rfl

@[simp] theorem State.modFn_unknown (f : Nat) (g : Fn → Fn) (s : State) : (s.modFn f g).unknown = s.unknown := rfl

@[simp] theorem State.modFn_hreqs (f : Nat) (g : Fn → Fn) (s : State) : (s.modFn f g).hreqs = s.hreqs := rfl

@[simp] theorem State.modFn_xfers (f : Nat) (g : Fn → Fn) (s : State) : (s.modFn f g).xfers = s.xfers := rfl

@[simp] theorem State.modFn_arbs (f : Nat) (g : Fn → Fn) (s : State) : (s.modFn f g).arbs = s.arbs := rfl

@[simp] theorem State.modFn_pipeCtx (f : Nat) (g : Fn → Fn) (s : State) : (s.modFn f g).pipeCtx = s.pipeCtx := rfl

@[simp] theorem State.modFn_rounds (f : Nat) (g : Fn → Fn) (s : State) : (s.modFn f g).rounds = s.rounds := rfl

@[simp] theorem State.modFn_roundW (f : Nat) (g : Fn → Fn) (s : State) : (s.modFn f g).roundW = s.roundW := rfl

@[simp] theorem State.modFn_yards (f : Nat) (g : Fn → Fn) (s : State) : (s.modFn f g).yards = s.yards := rfl

@[simp] theorem State.modFn_tests (f : Nat) (g : Fn → Fn) (s : State) : (s.modFn f g).tests = s.tests := rfl

@[simp] theorem State.modFn_procs (f : Nat) (g : Fn → Fn) (s : State) : (s.modFn f g).procs = s.procs := rfl

@[simp] theorem State.modFn_waking (f : Nat) (g : Fn → Fn) (s : State) : (s.modFn f g).waking = s.waking := rfl

@[simp] theorem State.modFn_mb (f : Nat) (g : Fn → Fn) (s : State) : (s.modFn f g).mb = s.mb := rfl

@[simp] theorem State.modFn_sensors (f : Nat) (g : Fn → Fn) (s : State) : (s.modFn f g).sensors = s.sensors := rfl

@[simp] theorem State.modFn_droopArmed (f : Nat) (g : Fn → Fn) (s : State) : (s.modFn f g).droopArmed = s.droopArmed := rfl

@[simp] theorem State.modFn_idleSince (f : Nat) (g : Fn → Fn) (s : State) : (s.modFn f g).idleSince = s.idleSince := rfl

@[simp] theorem State.modFn_timerAt (f : Nat) (g : Fn → Fn) (s : State) : (s.modFn f g).timerAt = s.timerAt := rfl

@[simp] theorem State.modFn_tt (f : Nat) (g : Fn → Fn) (s : State) : (s.modFn f g).tt = s.tt := rfl

@[simp] theorem State.modFn_log (f : Nat) (g : Fn → Fn) (s : State) : (s.modFn f g).log = s.log := rfl

@[simp] theorem State.modFn_image (f : Nat) (g : Fn → Fn) (s : State) : (s.modFn f g).image = s.image := rfl

@[simp] theorem State.modFn_fw (f : Nat) (g : Fn → Fn) (s : State) : (s.modFn f g).fw = s.fw := rfl

@[simp] theorem State.modFn_ctr (f : Nat) (g : Fn → Fn) (s : State) : (s.modFn f g).ctr = s.ctr := rfl

@[simp] theorem State.modFn_free (f : Nat) (g : Fn → Fn) (s : State) : (s.modFn f g).free = s.free := rfl

@[simp] theorem State.modFn_laneCycle (f : Nat) (g : Fn → Fn) (s : State) : (s.modFn f g).laneCycle = s.laneCycle := rfl

@[simp] theorem State.modFn_nextId (f : Nat) (g : Fn → Fn) (s : State) : (s.modFn f g).nextId = s.nextId := rfl

@[simp] theorem State.modFn_issued (f : Nat) (g : Fn → Fn) (s : State) : (s.modFn f g).issued = s.issued := rfl

@[simp] theorem State.modFn_pending (f : Nat) (g : Fn → Fn) (s : State) : (s.modFn f g).pending = s.pending := rfl

/-! ### restartBeat -/

@[simp] theorem State.restartBeat_setup (f : Nat) (s : State) : (s.restartBeat f).setup = s.setup := rfl

@[simp] theorem State.restartBeat_glob (f : Nat) (s : State) : (s.restartBeat f).glob = s.glob := rfl

@[simp] theorem State.restartBeat_adm (f : Nat) (s : State) : (s.restartBeat f).adm = s.adm := rfl

@[simp] theorem State.restartBeat_pen (f : Nat) (s : State) : (s.restartBeat f).pen = s.pen := rfl

@[simp] theorem State.restartBeat_sqs (f : Nat) (s : State) : (s.restartBeat f).sqs = s.sqs := rfl

@[simp] theorem State.restartBeat_cqs (f : Nat) (s : State) : (s.restartBeat f).cqs = s.cqs := rfl

@[simp] theorem State.restartBeat_accepted (f : Nat) (s : State) : (s.restartBeat f).accepted = s.accepted := rfl

@[simp] theorem State.restartBeat_hbInt (f : Nat) (s : State) : (s.restartBeat f).hbInt = s.hbInt := rfl

@[simp] theorem State.restartBeat_eps (f : Nat) (s : State) : (s.restartBeat f).eps = s.eps := rfl

@[simp] theorem State.restartBeat_lost (f : Nat) (s : State) : (s.restartBeat f).lost = s.lost := rfl

@[simp] theorem State.restartBeat_rigs (f : Nat) (s : State) : (s.restartBeat f).rigs = s.rigs := rfl

@[simp] theorem State.restartBeat_epochSeq (f : Nat) (s : State) : (s.restartBeat f).epochSeq = s.epochSeq := rfl

@[simp] theorem State.restartBeat_jobs (f : Nat) (s : State) : (s.restartBeat f).jobs = s.jobs := rfl

@[simp] theorem State.restartBeat_gens (f : Nat) (s : State) : (s.restartBeat f).gens = s.gens := rfl

@[simp] theorem State.restartBeat_restores (f : Nat) (s : State) : (s.restartBeat f).restores = s.restores := rfl

@[simp] theorem State.restartBeat_forks (f : Nat) (s : State) : (s.restartBeat f).forks = s.forks := rfl

@[simp] theorem State.restartBeat_dir (f : Nat) (s : State) : (s.restartBeat f).dir = s.dir := rfl

@[simp] theorem State.restartBeat_dirQ (f : Nat) (s : State) : (s.restartBeat f).dirQ = s.dirQ := rfl

@[simp] theorem State.restartBeat_scrubs (f : Nat) (s : State) : (s.restartBeat f).scrubs = s.scrubs := rfl

@[simp] theorem State.restartBeat_manStore (f : Nat) (s : State) : (s.restartBeat f).manStore = s.manStore := rfl

@[simp] theorem State.restartBeat_sheets (f : Nat) (s : State) : (s.restartBeat f).sheets = s.sheets := rfl

@[simp] theorem State.restartBeat_tackle (f : Nat) (s : State) : (s.restartBeat f).tackle = s.tackle := rfl

@[simp] theorem State.restartBeat_cleats (f : Nat) (s : State) : (s.restartBeat f).cleats = s.cleats := rfl

@[simp] theorem State.restartBeat_keys (f : Nat) (s : State) : (s.restartBeat f).keys = s.keys := rfl

@[simp] theorem State.restartBeat_spdm (f : Nat) (s : State) : (s.restartBeat f).spdm = s.spdm := rfl

@[simp] theorem State.restartBeat_tap (f : Nat) (s : State) : (s.restartBeat f).tap = s.tap := rfl

@[simp] theorem State.restartBeat_links (f : Nat) (s : State) : (s.restartBeat f).links = s.links := rfl

@[simp] theorem State.restartBeat_drainUp (f : Nat) (s : State) : (s.restartBeat f).drainUp = s.drainUp := rfl

@[simp] theorem State.restartBeat_freqs (f : Nat) (s : State) : (s.restartBeat f).freqs = s.freqs := rfl

@[simp] theorem State.restartBeat_waitPkts (f : Nat) (s : State) : (s.restartBeat f).waitPkts = s.waitPkts := rfl

@[simp] theorem State.restartBeat_sreqs (f : Nat) (s : State) : (s.restartBeat f).sreqs = s.sreqs := rfl

@[simp] theorem State.restartBeat_unknown (f : Nat) (s : State) : (s.restartBeat f).unknown = s.unknown := rfl

@[simp] theorem State.restartBeat_hreqs (f : Nat) (s : State) : (s.restartBeat f).hreqs = s.hreqs := rfl

@[simp] theorem State.restartBeat_xfers (f : Nat) (s : State) : (s.restartBeat f).xfers = s.xfers := rfl

@[simp] theorem State.restartBeat_arbs (f : Nat) (s : State) : (s.restartBeat f).arbs = s.arbs := rfl

@[simp] theorem State.restartBeat_pipeCtx (f : Nat) (s : State) : (s.restartBeat f).pipeCtx = s.pipeCtx := rfl

@[simp] theorem State.restartBeat_rounds (f : Nat) (s : State) : (s.restartBeat f).rounds = s.rounds := rfl

@[simp] theorem State.restartBeat_roundW (f : Nat) (s : State) : (s.restartBeat f).roundW = s.roundW := rfl

@[simp] theorem State.restartBeat_yards (f : Nat) (s : State) : (s.restartBeat f).yards = s.yards := rfl

@[simp] theorem State.restartBeat_tests (f : Nat) (s : State) : (s.restartBeat f).tests = s.tests := rfl

@[simp] theorem State.restartBeat_procs (f : Nat) (s : State) : (s.restartBeat f).procs = s.procs := rfl

@[simp] theorem State.restartBeat_waking (f : Nat) (s : State) : (s.restartBeat f).waking = s.waking := rfl

@[simp] theorem State.restartBeat_mb (f : Nat) (s : State) : (s.restartBeat f).mb = s.mb := rfl

@[simp] theorem State.restartBeat_sensors (f : Nat) (s : State) : (s.restartBeat f).sensors = s.sensors := rfl

@[simp] theorem State.restartBeat_droopArmed (f : Nat) (s : State) : (s.restartBeat f).droopArmed = s.droopArmed := rfl

@[simp] theorem State.restartBeat_idleSince (f : Nat) (s : State) : (s.restartBeat f).idleSince = s.idleSince := rfl

@[simp] theorem State.restartBeat_timerAt (f : Nat) (s : State) : (s.restartBeat f).timerAt = s.timerAt := rfl

@[simp] theorem State.restartBeat_tt (f : Nat) (s : State) : (s.restartBeat f).tt = s.tt := rfl

@[simp] theorem State.restartBeat_log (f : Nat) (s : State) : (s.restartBeat f).log = s.log := rfl

@[simp] theorem State.restartBeat_image (f : Nat) (s : State) : (s.restartBeat f).image = s.image := rfl

@[simp] theorem State.restartBeat_fw (f : Nat) (s : State) : (s.restartBeat f).fw = s.fw := rfl

@[simp] theorem State.restartBeat_ctr (f : Nat) (s : State) : (s.restartBeat f).ctr = s.ctr := rfl

@[simp] theorem State.restartBeat_free (f : Nat) (s : State) : (s.restartBeat f).free = s.free := rfl

@[simp] theorem State.restartBeat_laneCycle (f : Nat) (s : State) : (s.restartBeat f).laneCycle = s.laneCycle := rfl

@[simp] theorem State.restartBeat_nextId (f : Nat) (s : State) : (s.restartBeat f).nextId = s.nextId := rfl

@[simp] theorem State.restartBeat_issued (f : Nat) (s : State) : (s.restartBeat f).issued = s.issued := rfl

@[simp] theorem State.restartBeat_pending (f : Nat) (s : State) : (s.restartBeat f).pending = s.pending := rfl

/-! ### modLink -/

@[simp] theorem State.modLink_setup (p : Nat) (g : Link → Link) (s : State) : (s.modLink p g).setup = s.setup := rfl

@[simp] theorem State.modLink_glob (p : Nat) (g : Link → Link) (s : State) : (s.modLink p g).glob = s.glob := rfl

@[simp] theorem State.modLink_adm (p : Nat) (g : Link → Link) (s : State) : (s.modLink p g).adm = s.adm := rfl

@[simp] theorem State.modLink_pen (p : Nat) (g : Link → Link) (s : State) : (s.modLink p g).pen = s.pen := rfl

@[simp] theorem State.modLink_sqs (p : Nat) (g : Link → Link) (s : State) : (s.modLink p g).sqs = s.sqs := rfl

@[simp] theorem State.modLink_cqs (p : Nat) (g : Link → Link) (s : State) : (s.modLink p g).cqs = s.cqs := rfl

@[simp] theorem State.modLink_accepted (p : Nat) (g : Link → Link) (s : State) : (s.modLink p g).accepted = s.accepted := rfl

@[simp] theorem State.modLink_fns (p : Nat) (g : Link → Link) (s : State) : (s.modLink p g).fns = s.fns := rfl

@[simp] theorem State.modLink_hbInt (p : Nat) (g : Link → Link) (s : State) : (s.modLink p g).hbInt = s.hbInt := rfl

@[simp] theorem State.modLink_eps (p : Nat) (g : Link → Link) (s : State) : (s.modLink p g).eps = s.eps := rfl

@[simp] theorem State.modLink_lost (p : Nat) (g : Link → Link) (s : State) : (s.modLink p g).lost = s.lost := rfl

@[simp] theorem State.modLink_rigs (p : Nat) (g : Link → Link) (s : State) : (s.modLink p g).rigs = s.rigs := rfl

@[simp] theorem State.modLink_epochSeq (p : Nat) (g : Link → Link) (s : State) : (s.modLink p g).epochSeq = s.epochSeq := rfl

@[simp] theorem State.modLink_jobs (p : Nat) (g : Link → Link) (s : State) : (s.modLink p g).jobs = s.jobs := rfl

@[simp] theorem State.modLink_gens (p : Nat) (g : Link → Link) (s : State) : (s.modLink p g).gens = s.gens := rfl

@[simp] theorem State.modLink_restores (p : Nat) (g : Link → Link) (s : State) : (s.modLink p g).restores = s.restores := rfl

@[simp] theorem State.modLink_forks (p : Nat) (g : Link → Link) (s : State) : (s.modLink p g).forks = s.forks := rfl

@[simp] theorem State.modLink_dir (p : Nat) (g : Link → Link) (s : State) : (s.modLink p g).dir = s.dir := rfl

@[simp] theorem State.modLink_dirQ (p : Nat) (g : Link → Link) (s : State) : (s.modLink p g).dirQ = s.dirQ := rfl

@[simp] theorem State.modLink_scrubs (p : Nat) (g : Link → Link) (s : State) : (s.modLink p g).scrubs = s.scrubs := rfl

@[simp] theorem State.modLink_manStore (p : Nat) (g : Link → Link) (s : State) : (s.modLink p g).manStore = s.manStore := rfl

@[simp] theorem State.modLink_sheets (p : Nat) (g : Link → Link) (s : State) : (s.modLink p g).sheets = s.sheets := rfl

@[simp] theorem State.modLink_tackle (p : Nat) (g : Link → Link) (s : State) : (s.modLink p g).tackle = s.tackle := rfl

@[simp] theorem State.modLink_cleats (p : Nat) (g : Link → Link) (s : State) : (s.modLink p g).cleats = s.cleats := rfl

@[simp] theorem State.modLink_keys (p : Nat) (g : Link → Link) (s : State) : (s.modLink p g).keys = s.keys := rfl

@[simp] theorem State.modLink_spdm (p : Nat) (g : Link → Link) (s : State) : (s.modLink p g).spdm = s.spdm := rfl

@[simp] theorem State.modLink_tap (p : Nat) (g : Link → Link) (s : State) : (s.modLink p g).tap = s.tap := rfl

@[simp] theorem State.modLink_drainUp (p : Nat) (g : Link → Link) (s : State) : (s.modLink p g).drainUp = s.drainUp := rfl

@[simp] theorem State.modLink_freqs (p : Nat) (g : Link → Link) (s : State) : (s.modLink p g).freqs = s.freqs := rfl

@[simp] theorem State.modLink_waitPkts (p : Nat) (g : Link → Link) (s : State) : (s.modLink p g).waitPkts = s.waitPkts := rfl

@[simp] theorem State.modLink_sreqs (p : Nat) (g : Link → Link) (s : State) : (s.modLink p g).sreqs = s.sreqs := rfl

@[simp] theorem State.modLink_unknown (p : Nat) (g : Link → Link) (s : State) : (s.modLink p g).unknown = s.unknown := rfl

@[simp] theorem State.modLink_hreqs (p : Nat) (g : Link → Link) (s : State) : (s.modLink p g).hreqs = s.hreqs := rfl

@[simp] theorem State.modLink_xfers (p : Nat) (g : Link → Link) (s : State) : (s.modLink p g).xfers = s.xfers := rfl

@[simp] theorem State.modLink_arbs (p : Nat) (g : Link → Link) (s : State) : (s.modLink p g).arbs = s.arbs := rfl

@[simp] theorem State.modLink_pipeCtx (p : Nat) (g : Link → Link) (s : State) : (s.modLink p g).pipeCtx = s.pipeCtx := rfl

@[simp] theorem State.modLink_rounds (p : Nat) (g : Link → Link) (s : State) : (s.modLink p g).rounds = s.rounds := rfl

@[simp] theorem State.modLink_roundW (p : Nat) (g : Link → Link) (s : State) : (s.modLink p g).roundW = s.roundW := rfl

@[simp] theorem State.modLink_yards (p : Nat) (g : Link → Link) (s : State) : (s.modLink p g).yards = s.yards := rfl

@[simp] theorem State.modLink_tests (p : Nat) (g : Link → Link) (s : State) : (s.modLink p g).tests = s.tests := rfl

@[simp] theorem State.modLink_procs (p : Nat) (g : Link → Link) (s : State) : (s.modLink p g).procs = s.procs := rfl

@[simp] theorem State.modLink_waking (p : Nat) (g : Link → Link) (s : State) : (s.modLink p g).waking = s.waking := rfl

@[simp] theorem State.modLink_mb (p : Nat) (g : Link → Link) (s : State) : (s.modLink p g).mb = s.mb := rfl

@[simp] theorem State.modLink_sensors (p : Nat) (g : Link → Link) (s : State) : (s.modLink p g).sensors = s.sensors := rfl

@[simp] theorem State.modLink_droopArmed (p : Nat) (g : Link → Link) (s : State) : (s.modLink p g).droopArmed = s.droopArmed := rfl

@[simp] theorem State.modLink_idleSince (p : Nat) (g : Link → Link) (s : State) : (s.modLink p g).idleSince = s.idleSince := rfl

@[simp] theorem State.modLink_timerAt (p : Nat) (g : Link → Link) (s : State) : (s.modLink p g).timerAt = s.timerAt := rfl

@[simp] theorem State.modLink_tt (p : Nat) (g : Link → Link) (s : State) : (s.modLink p g).tt = s.tt := rfl

@[simp] theorem State.modLink_log (p : Nat) (g : Link → Link) (s : State) : (s.modLink p g).log = s.log := rfl

@[simp] theorem State.modLink_image (p : Nat) (g : Link → Link) (s : State) : (s.modLink p g).image = s.image := rfl

@[simp] theorem State.modLink_fw (p : Nat) (g : Link → Link) (s : State) : (s.modLink p g).fw = s.fw := rfl

@[simp] theorem State.modLink_ctr (p : Nat) (g : Link → Link) (s : State) : (s.modLink p g).ctr = s.ctr := rfl

@[simp] theorem State.modLink_free (p : Nat) (g : Link → Link) (s : State) : (s.modLink p g).free = s.free := rfl

@[simp] theorem State.modLink_laneCycle (p : Nat) (g : Link → Link) (s : State) : (s.modLink p g).laneCycle = s.laneCycle := rfl

@[simp] theorem State.modLink_nextId (p : Nat) (g : Link → Link) (s : State) : (s.modLink p g).nextId = s.nextId := rfl

@[simp] theorem State.modLink_issued (p : Nat) (g : Link → Link) (s : State) : (s.modLink p g).issued = s.issued := rfl

@[simp] theorem State.modLink_pending (p : Nat) (g : Link → Link) (s : State) : (s.modLink p g).pending = s.pending := rfl

/-! ### setFault -/

@[simp] theorem State.setFault_setup (b : Nat) (s : State) : (s.setFault b).setup = s.setup := rfl

@[simp] theorem State.setFault_adm (b : Nat) (s : State) : (s.setFault b).adm = s.adm := rfl

@[simp] theorem State.setFault_pen (b : Nat) (s : State) : (s.setFault b).pen = s.pen := rfl

@[simp] theorem State.setFault_sqs (b : Nat) (s : State) : (s.setFault b).sqs = s.sqs := rfl

@[simp] theorem State.setFault_cqs (b : Nat) (s : State) : (s.setFault b).cqs = s.cqs := rfl

@[simp] theorem State.setFault_accepted (b : Nat) (s : State) : (s.setFault b).accepted = s.accepted := rfl

@[simp] theorem State.setFault_fns (b : Nat) (s : State) : (s.setFault b).fns = s.fns := rfl

@[simp] theorem State.setFault_hbInt (b : Nat) (s : State) : (s.setFault b).hbInt = s.hbInt := rfl

@[simp] theorem State.setFault_eps (b : Nat) (s : State) : (s.setFault b).eps = s.eps := rfl

@[simp] theorem State.setFault_lost (b : Nat) (s : State) : (s.setFault b).lost = s.lost := rfl

@[simp] theorem State.setFault_rigs (b : Nat) (s : State) : (s.setFault b).rigs = s.rigs := rfl

@[simp] theorem State.setFault_epochSeq (b : Nat) (s : State) : (s.setFault b).epochSeq = s.epochSeq := rfl

@[simp] theorem State.setFault_jobs (b : Nat) (s : State) : (s.setFault b).jobs = s.jobs := rfl

@[simp] theorem State.setFault_gens (b : Nat) (s : State) : (s.setFault b).gens = s.gens := rfl

@[simp] theorem State.setFault_restores (b : Nat) (s : State) : (s.setFault b).restores = s.restores := rfl

@[simp] theorem State.setFault_forks (b : Nat) (s : State) : (s.setFault b).forks = s.forks := rfl

@[simp] theorem State.setFault_dir (b : Nat) (s : State) : (s.setFault b).dir = s.dir := rfl

@[simp] theorem State.setFault_dirQ (b : Nat) (s : State) : (s.setFault b).dirQ = s.dirQ := rfl

@[simp] theorem State.setFault_scrubs (b : Nat) (s : State) : (s.setFault b).scrubs = s.scrubs := rfl

@[simp] theorem State.setFault_manStore (b : Nat) (s : State) : (s.setFault b).manStore = s.manStore := rfl

@[simp] theorem State.setFault_sheets (b : Nat) (s : State) : (s.setFault b).sheets = s.sheets := rfl

@[simp] theorem State.setFault_tackle (b : Nat) (s : State) : (s.setFault b).tackle = s.tackle := rfl

@[simp] theorem State.setFault_cleats (b : Nat) (s : State) : (s.setFault b).cleats = s.cleats := rfl

@[simp] theorem State.setFault_keys (b : Nat) (s : State) : (s.setFault b).keys = s.keys := rfl

@[simp] theorem State.setFault_spdm (b : Nat) (s : State) : (s.setFault b).spdm = s.spdm := rfl

@[simp] theorem State.setFault_tap (b : Nat) (s : State) : (s.setFault b).tap = s.tap := rfl

@[simp] theorem State.setFault_links (b : Nat) (s : State) : (s.setFault b).links = s.links := rfl

@[simp] theorem State.setFault_drainUp (b : Nat) (s : State) : (s.setFault b).drainUp = s.drainUp := rfl

@[simp] theorem State.setFault_freqs (b : Nat) (s : State) : (s.setFault b).freqs = s.freqs := rfl

@[simp] theorem State.setFault_waitPkts (b : Nat) (s : State) : (s.setFault b).waitPkts = s.waitPkts := rfl

@[simp] theorem State.setFault_sreqs (b : Nat) (s : State) : (s.setFault b).sreqs = s.sreqs := rfl

@[simp] theorem State.setFault_unknown (b : Nat) (s : State) : (s.setFault b).unknown = s.unknown := rfl

@[simp] theorem State.setFault_hreqs (b : Nat) (s : State) : (s.setFault b).hreqs = s.hreqs := rfl

@[simp] theorem State.setFault_xfers (b : Nat) (s : State) : (s.setFault b).xfers = s.xfers := rfl

@[simp] theorem State.setFault_arbs (b : Nat) (s : State) : (s.setFault b).arbs = s.arbs := rfl

@[simp] theorem State.setFault_pipeCtx (b : Nat) (s : State) : (s.setFault b).pipeCtx = s.pipeCtx := rfl

@[simp] theorem State.setFault_rounds (b : Nat) (s : State) : (s.setFault b).rounds = s.rounds := rfl

@[simp] theorem State.setFault_roundW (b : Nat) (s : State) : (s.setFault b).roundW = s.roundW := rfl

@[simp] theorem State.setFault_yards (b : Nat) (s : State) : (s.setFault b).yards = s.yards := rfl

@[simp] theorem State.setFault_tests (b : Nat) (s : State) : (s.setFault b).tests = s.tests := rfl

@[simp] theorem State.setFault_procs (b : Nat) (s : State) : (s.setFault b).procs = s.procs := rfl

@[simp] theorem State.setFault_waking (b : Nat) (s : State) : (s.setFault b).waking = s.waking := rfl

@[simp] theorem State.setFault_mb (b : Nat) (s : State) : (s.setFault b).mb = s.mb := rfl

@[simp] theorem State.setFault_sensors (b : Nat) (s : State) : (s.setFault b).sensors = s.sensors := rfl

@[simp] theorem State.setFault_droopArmed (b : Nat) (s : State) : (s.setFault b).droopArmed = s.droopArmed := rfl

@[simp] theorem State.setFault_idleSince (b : Nat) (s : State) : (s.setFault b).idleSince = s.idleSince := rfl

@[simp] theorem State.setFault_timerAt (b : Nat) (s : State) : (s.setFault b).timerAt = s.timerAt := rfl

@[simp] theorem State.setFault_tt (b : Nat) (s : State) : (s.setFault b).tt = s.tt := rfl

@[simp] theorem State.setFault_log (b : Nat) (s : State) : (s.setFault b).log = s.log := rfl

@[simp] theorem State.setFault_image (b : Nat) (s : State) : (s.setFault b).image = s.image := rfl

@[simp] theorem State.setFault_fw (b : Nat) (s : State) : (s.setFault b).fw = s.fw := rfl

@[simp] theorem State.setFault_ctr (b : Nat) (s : State) : (s.setFault b).ctr = s.ctr := rfl

@[simp] theorem State.setFault_free (b : Nat) (s : State) : (s.setFault b).free = s.free := rfl

@[simp] theorem State.setFault_laneCycle (b : Nat) (s : State) : (s.setFault b).laneCycle = s.laneCycle := rfl

@[simp] theorem State.setFault_nextId (b : Nat) (s : State) : (s.setFault b).nextId = s.nextId := rfl

@[simp] theorem State.setFault_issued (b : Nat) (s : State) : (s.setFault b).issued = s.issued := rfl

@[simp] theorem State.setFault_pending (b : Nat) (s : State) : (s.setFault b).pending = s.pending := rfl

/-! ### wake -/

@[simp] theorem State.wake_setup (s : State) : s.wake.setup = s.setup := by
  unfold State.wake; split
  · split <;> rfl
  · rfl

@[simp] theorem State.wake_adm (s : State) : s.wake.adm = s.adm := by
  unfold State.wake; split
  · split <;> rfl
  · rfl

@[simp] theorem State.wake_pen (s : State) : s.wake.pen = s.pen := by
  unfold State.wake; split
  · split <;> rfl
  · rfl

@[simp] theorem State.wake_sqs (s : State) : s.wake.sqs = s.sqs := by
  unfold State.wake; split
  · split <;> rfl
  · rfl

@[simp] theorem State.wake_cqs (s : State) : s.wake.cqs = s.cqs := by
  unfold State.wake; split
  · split <;> rfl
  · rfl

@[simp] theorem State.wake_accepted (s : State) : s.wake.accepted = s.accepted := by
  unfold State.wake; split
  · split <;> rfl
  · rfl

@[simp] theorem State.wake_fns (s : State) : s.wake.fns = s.fns := by
  unfold State.wake; split
  · split <;> rfl
  · rfl

@[simp] theorem State.wake_hbInt (s : State) : s.wake.hbInt = s.hbInt := by
  unfold State.wake; split
  · split <;> rfl
  · rfl

@[simp] theorem State.wake_eps (s : State) : s.wake.eps = s.eps := by
  unfold State.wake; split
  · split <;> rfl
  · rfl

@[simp] theorem State.wake_lost (s : State) : s.wake.lost = s.lost := by
  unfold State.wake; split
  · split <;> rfl
  · rfl

@[simp] theorem State.wake_rigs (s : State) : s.wake.rigs = s.rigs := by
  unfold State.wake; split
  · split <;> rfl
  · rfl

@[simp] theorem State.wake_epochSeq (s : State) : s.wake.epochSeq = s.epochSeq := by
  unfold State.wake; split
  · split <;> rfl
  · rfl

@[simp] theorem State.wake_jobs (s : State) : s.wake.jobs = s.jobs := by
  unfold State.wake; split
  · split <;> rfl
  · rfl

@[simp] theorem State.wake_gens (s : State) : s.wake.gens = s.gens := by
  unfold State.wake; split
  · split <;> rfl
  · rfl

@[simp] theorem State.wake_restores (s : State) : s.wake.restores = s.restores := by
  unfold State.wake; split
  · split <;> rfl
  · rfl

@[simp] theorem State.wake_forks (s : State) : s.wake.forks = s.forks := by
  unfold State.wake; split
  · split <;> rfl
  · rfl

@[simp] theorem State.wake_dir (s : State) : s.wake.dir = s.dir := by
  unfold State.wake; split
  · split <;> rfl
  · rfl

@[simp] theorem State.wake_dirQ (s : State) : s.wake.dirQ = s.dirQ := by
  unfold State.wake; split
  · split <;> rfl
  · rfl

@[simp] theorem State.wake_scrubs (s : State) : s.wake.scrubs = s.scrubs := by
  unfold State.wake; split
  · split <;> rfl
  · rfl

@[simp] theorem State.wake_manStore (s : State) : s.wake.manStore = s.manStore := by
  unfold State.wake; split
  · split <;> rfl
  · rfl

@[simp] theorem State.wake_sheets (s : State) : s.wake.sheets = s.sheets := by
  unfold State.wake; split
  · split <;> rfl
  · rfl

@[simp] theorem State.wake_tackle (s : State) : s.wake.tackle = s.tackle := by
  unfold State.wake; split
  · split <;> rfl
  · rfl

@[simp] theorem State.wake_cleats (s : State) : s.wake.cleats = s.cleats := by
  unfold State.wake; split
  · split <;> rfl
  · rfl

@[simp] theorem State.wake_keys (s : State) : s.wake.keys = s.keys := by
  unfold State.wake; split
  · split <;> rfl
  · rfl

@[simp] theorem State.wake_spdm (s : State) : s.wake.spdm = s.spdm := by
  unfold State.wake; split
  · split <;> rfl
  · rfl

@[simp] theorem State.wake_tap (s : State) : s.wake.tap = s.tap := by
  unfold State.wake; split
  · split <;> rfl
  · rfl

@[simp] theorem State.wake_links (s : State) : s.wake.links = s.links := by
  unfold State.wake; split
  · split <;> rfl
  · rfl

@[simp] theorem State.wake_drainUp (s : State) : s.wake.drainUp = s.drainUp := by
  unfold State.wake; split
  · split <;> rfl
  · rfl

@[simp] theorem State.wake_freqs (s : State) : s.wake.freqs = s.freqs := by
  unfold State.wake; split
  · split <;> rfl
  · rfl

@[simp] theorem State.wake_waitPkts (s : State) : s.wake.waitPkts = s.waitPkts := by
  unfold State.wake; split
  · split <;> rfl
  · rfl

@[simp] theorem State.wake_sreqs (s : State) : s.wake.sreqs = s.sreqs := by
  unfold State.wake; split
  · split <;> rfl
  · rfl

@[simp] theorem State.wake_unknown (s : State) : s.wake.unknown = s.unknown := by
  unfold State.wake; split
  · split <;> rfl
  · rfl

@[simp] theorem State.wake_hreqs (s : State) : s.wake.hreqs = s.hreqs := by
  unfold State.wake; split
  · split <;> rfl
  · rfl

@[simp] theorem State.wake_xfers (s : State) : s.wake.xfers = s.xfers := by
  unfold State.wake; split
  · split <;> rfl
  · rfl

@[simp] theorem State.wake_arbs (s : State) : s.wake.arbs = s.arbs := by
  unfold State.wake; split
  · split <;> rfl
  · rfl

@[simp] theorem State.wake_pipeCtx (s : State) : s.wake.pipeCtx = s.pipeCtx := by
  unfold State.wake; split
  · split <;> rfl
  · rfl

@[simp] theorem State.wake_rounds (s : State) : s.wake.rounds = s.rounds := by
  unfold State.wake; split
  · split <;> rfl
  · rfl

@[simp] theorem State.wake_roundW (s : State) : s.wake.roundW = s.roundW := by
  unfold State.wake; split
  · split <;> rfl
  · rfl

@[simp] theorem State.wake_yards (s : State) : s.wake.yards = s.yards := by
  unfold State.wake; split
  · split <;> rfl
  · rfl

@[simp] theorem State.wake_tests (s : State) : s.wake.tests = s.tests := by
  unfold State.wake; split
  · split <;> rfl
  · rfl

@[simp] theorem State.wake_procs (s : State) : s.wake.procs = s.procs := by
  unfold State.wake; split
  · split <;> rfl
  · rfl

@[simp] theorem State.wake_mb (s : State) : s.wake.mb = s.mb := by
  unfold State.wake; split
  · split <;> rfl
  · rfl

@[simp] theorem State.wake_sensors (s : State) : s.wake.sensors = s.sensors := by
  unfold State.wake; split
  · split <;> rfl
  · rfl

@[simp] theorem State.wake_droopArmed (s : State) : s.wake.droopArmed = s.droopArmed := by
  unfold State.wake; split
  · split <;> rfl
  · rfl

@[simp] theorem State.wake_idleSince (s : State) : s.wake.idleSince = s.idleSince := by
  unfold State.wake; split
  · split <;> rfl
  · rfl

@[simp] theorem State.wake_timerAt (s : State) : s.wake.timerAt = s.timerAt := by
  unfold State.wake; split
  · split <;> rfl
  · rfl

@[simp] theorem State.wake_tt (s : State) : s.wake.tt = s.tt := by
  unfold State.wake; split
  · split <;> rfl
  · rfl

@[simp] theorem State.wake_log (s : State) : s.wake.log = s.log := by
  unfold State.wake; split
  · split <;> rfl
  · rfl

@[simp] theorem State.wake_image (s : State) : s.wake.image = s.image := by
  unfold State.wake; split
  · split <;> rfl
  · rfl

@[simp] theorem State.wake_fw (s : State) : s.wake.fw = s.fw := by
  unfold State.wake; split
  · split <;> rfl
  · rfl

@[simp] theorem State.wake_ctr (s : State) : s.wake.ctr = s.ctr := by
  unfold State.wake; split
  · split <;> rfl
  · rfl

@[simp] theorem State.wake_free (s : State) : s.wake.free = s.free := by
  unfold State.wake; split
  · split <;> rfl
  · rfl

@[simp] theorem State.wake_laneCycle (s : State) : s.wake.laneCycle = s.laneCycle := by
  unfold State.wake; split
  · split <;> rfl
  · rfl

@[simp] theorem State.wake_nextId (s : State) : s.wake.nextId = s.nextId := by
  unfold State.wake; split
  · split <;> rfl
  · rfl

@[simp] theorem State.wake_issued (s : State) : s.wake.issued = s.issued := by
  unfold State.wake; split
  · split <;> rfl
  · rfl

@[simp] theorem State.wake_pending (s : State) : s.wake.pending = s.pending := by
  unfold State.wake; split
  · split <;> rfl
  · rfl

/-! ### writeSetup -/

@[simp] theorem State.writeSetup_glob (off : Nat) (v : Word) (s : State) : (s.writeSetup off v).glob = s.glob := rfl

@[simp] theorem State.writeSetup_adm (off : Nat) (v : Word) (s : State) : (s.writeSetup off v).adm = s.adm := rfl

@[simp] theorem State.writeSetup_pen (off : Nat) (v : Word) (s : State) : (s.writeSetup off v).pen = s.pen := rfl

@[simp] theorem State.writeSetup_sqs (off : Nat) (v : Word) (s : State) : (s.writeSetup off v).sqs = s.sqs := rfl

@[simp] theorem State.writeSetup_cqs (off : Nat) (v : Word) (s : State) : (s.writeSetup off v).cqs = s.cqs := rfl

@[simp] theorem State.writeSetup_accepted (off : Nat) (v : Word) (s : State) : (s.writeSetup off v).accepted = s.accepted := rfl

@[simp] theorem State.writeSetup_fns (off : Nat) (v : Word) (s : State) : (s.writeSetup off v).fns = s.fns := rfl

@[simp] theorem State.writeSetup_hbInt (off : Nat) (v : Word) (s : State) : (s.writeSetup off v).hbInt = s.hbInt := rfl

@[simp] theorem State.writeSetup_eps (off : Nat) (v : Word) (s : State) : (s.writeSetup off v).eps = s.eps := rfl

@[simp] theorem State.writeSetup_lost (off : Nat) (v : Word) (s : State) : (s.writeSetup off v).lost = s.lost := rfl

@[simp] theorem State.writeSetup_rigs (off : Nat) (v : Word) (s : State) : (s.writeSetup off v).rigs = s.rigs := rfl

@[simp] theorem State.writeSetup_epochSeq (off : Nat) (v : Word) (s : State) : (s.writeSetup off v).epochSeq = s.epochSeq := rfl

@[simp] theorem State.writeSetup_jobs (off : Nat) (v : Word) (s : State) : (s.writeSetup off v).jobs = s.jobs := rfl

@[simp] theorem State.writeSetup_gens (off : Nat) (v : Word) (s : State) : (s.writeSetup off v).gens = s.gens := rfl

@[simp] theorem State.writeSetup_restores (off : Nat) (v : Word) (s : State) : (s.writeSetup off v).restores = s.restores := rfl

@[simp] theorem State.writeSetup_forks (off : Nat) (v : Word) (s : State) : (s.writeSetup off v).forks = s.forks := rfl

@[simp] theorem State.writeSetup_dir (off : Nat) (v : Word) (s : State) : (s.writeSetup off v).dir = s.dir := rfl

@[simp] theorem State.writeSetup_dirQ (off : Nat) (v : Word) (s : State) : (s.writeSetup off v).dirQ = s.dirQ := rfl

@[simp] theorem State.writeSetup_scrubs (off : Nat) (v : Word) (s : State) : (s.writeSetup off v).scrubs = s.scrubs := rfl

@[simp] theorem State.writeSetup_manStore (off : Nat) (v : Word) (s : State) : (s.writeSetup off v).manStore = s.manStore := rfl

@[simp] theorem State.writeSetup_sheets (off : Nat) (v : Word) (s : State) : (s.writeSetup off v).sheets = s.sheets := rfl

@[simp] theorem State.writeSetup_tackle (off : Nat) (v : Word) (s : State) : (s.writeSetup off v).tackle = s.tackle := rfl

@[simp] theorem State.writeSetup_cleats (off : Nat) (v : Word) (s : State) : (s.writeSetup off v).cleats = s.cleats := rfl

@[simp] theorem State.writeSetup_keys (off : Nat) (v : Word) (s : State) : (s.writeSetup off v).keys = s.keys := rfl

@[simp] theorem State.writeSetup_spdm (off : Nat) (v : Word) (s : State) : (s.writeSetup off v).spdm = s.spdm := rfl

@[simp] theorem State.writeSetup_tap (off : Nat) (v : Word) (s : State) : (s.writeSetup off v).tap = s.tap := rfl

@[simp] theorem State.writeSetup_links (off : Nat) (v : Word) (s : State) : (s.writeSetup off v).links = s.links := rfl

@[simp] theorem State.writeSetup_drainUp (off : Nat) (v : Word) (s : State) : (s.writeSetup off v).drainUp = s.drainUp := rfl

@[simp] theorem State.writeSetup_freqs (off : Nat) (v : Word) (s : State) : (s.writeSetup off v).freqs = s.freqs := rfl

@[simp] theorem State.writeSetup_waitPkts (off : Nat) (v : Word) (s : State) : (s.writeSetup off v).waitPkts = s.waitPkts := rfl

@[simp] theorem State.writeSetup_sreqs (off : Nat) (v : Word) (s : State) : (s.writeSetup off v).sreqs = s.sreqs := rfl

@[simp] theorem State.writeSetup_unknown (off : Nat) (v : Word) (s : State) : (s.writeSetup off v).unknown = s.unknown := rfl

@[simp] theorem State.writeSetup_hreqs (off : Nat) (v : Word) (s : State) : (s.writeSetup off v).hreqs = s.hreqs := rfl

@[simp] theorem State.writeSetup_xfers (off : Nat) (v : Word) (s : State) : (s.writeSetup off v).xfers = s.xfers := rfl

@[simp] theorem State.writeSetup_arbs (off : Nat) (v : Word) (s : State) : (s.writeSetup off v).arbs = s.arbs := rfl

@[simp] theorem State.writeSetup_pipeCtx (off : Nat) (v : Word) (s : State) : (s.writeSetup off v).pipeCtx = s.pipeCtx := rfl

@[simp] theorem State.writeSetup_rounds (off : Nat) (v : Word) (s : State) : (s.writeSetup off v).rounds = s.rounds := rfl

@[simp] theorem State.writeSetup_roundW (off : Nat) (v : Word) (s : State) : (s.writeSetup off v).roundW = s.roundW := rfl

@[simp] theorem State.writeSetup_yards (off : Nat) (v : Word) (s : State) : (s.writeSetup off v).yards = s.yards := rfl

@[simp] theorem State.writeSetup_tests (off : Nat) (v : Word) (s : State) : (s.writeSetup off v).tests = s.tests := rfl

@[simp] theorem State.writeSetup_procs (off : Nat) (v : Word) (s : State) : (s.writeSetup off v).procs = s.procs := rfl

@[simp] theorem State.writeSetup_waking (off : Nat) (v : Word) (s : State) : (s.writeSetup off v).waking = s.waking := rfl

@[simp] theorem State.writeSetup_mb (off : Nat) (v : Word) (s : State) : (s.writeSetup off v).mb = s.mb := rfl

@[simp] theorem State.writeSetup_sensors (off : Nat) (v : Word) (s : State) : (s.writeSetup off v).sensors = s.sensors := rfl

@[simp] theorem State.writeSetup_droopArmed (off : Nat) (v : Word) (s : State) : (s.writeSetup off v).droopArmed = s.droopArmed := rfl

@[simp] theorem State.writeSetup_idleSince (off : Nat) (v : Word) (s : State) : (s.writeSetup off v).idleSince = s.idleSince := rfl

@[simp] theorem State.writeSetup_timerAt (off : Nat) (v : Word) (s : State) : (s.writeSetup off v).timerAt = s.timerAt := rfl

@[simp] theorem State.writeSetup_tt (off : Nat) (v : Word) (s : State) : (s.writeSetup off v).tt = s.tt := rfl

@[simp] theorem State.writeSetup_log (off : Nat) (v : Word) (s : State) : (s.writeSetup off v).log = s.log := rfl

@[simp] theorem State.writeSetup_image (off : Nat) (v : Word) (s : State) : (s.writeSetup off v).image = s.image := rfl

@[simp] theorem State.writeSetup_fw (off : Nat) (v : Word) (s : State) : (s.writeSetup off v).fw = s.fw := rfl

@[simp] theorem State.writeSetup_ctr (off : Nat) (v : Word) (s : State) : (s.writeSetup off v).ctr = s.ctr := rfl

@[simp] theorem State.writeSetup_free (off : Nat) (v : Word) (s : State) : (s.writeSetup off v).free = s.free := rfl

@[simp] theorem State.writeSetup_laneCycle (off : Nat) (v : Word) (s : State) : (s.writeSetup off v).laneCycle = s.laneCycle := rfl

@[simp] theorem State.writeSetup_nextId (off : Nat) (v : Word) (s : State) : (s.writeSetup off v).nextId = s.nextId := rfl

@[simp] theorem State.writeSetup_issued (off : Nat) (v : Word) (s : State) : (s.writeSetup off v).issued = s.issued := rfl

@[simp] theorem State.writeSetup_pending (off : Nat) (v : Word) (s : State) : (s.writeSetup off v).pending = s.pending := rfl

/-! ### logEntry -/

@[simp] theorem State.logEntry_setup (e : LogEnt) (s : State) : (s.logEntry e).setup = s.setup := by
  unfold State.logEntry; split
  · split <;> rfl
  · rfl

@[simp] theorem State.logEntry_glob (e : LogEnt) (s : State) : (s.logEntry e).glob = s.glob := by
  unfold State.logEntry; split
  · split <;> rfl
  · rfl

@[simp] theorem State.logEntry_adm (e : LogEnt) (s : State) : (s.logEntry e).adm = s.adm := by
  unfold State.logEntry; split
  · split <;> rfl
  · rfl

@[simp] theorem State.logEntry_pen (e : LogEnt) (s : State) : (s.logEntry e).pen = s.pen := by
  unfold State.logEntry; split
  · split <;> rfl
  · rfl

@[simp] theorem State.logEntry_sqs (e : LogEnt) (s : State) : (s.logEntry e).sqs = s.sqs := by
  unfold State.logEntry; split
  · split <;> rfl
  · rfl

@[simp] theorem State.logEntry_cqs (e : LogEnt) (s : State) : (s.logEntry e).cqs = s.cqs := by
  unfold State.logEntry; split
  · split <;> rfl
  · rfl

@[simp] theorem State.logEntry_accepted (e : LogEnt) (s : State) : (s.logEntry e).accepted = s.accepted := by
  unfold State.logEntry; split
  · split <;> rfl
  · rfl

@[simp] theorem State.logEntry_fns (e : LogEnt) (s : State) : (s.logEntry e).fns = s.fns := by
  unfold State.logEntry; split
  · split <;> rfl
  · rfl

@[simp] theorem State.logEntry_hbInt (e : LogEnt) (s : State) : (s.logEntry e).hbInt = s.hbInt := by
  unfold State.logEntry; split
  · split <;> rfl
  · rfl

@[simp] theorem State.logEntry_eps (e : LogEnt) (s : State) : (s.logEntry e).eps = s.eps := by
  unfold State.logEntry; split
  · split <;> rfl
  · rfl

@[simp] theorem State.logEntry_lost (e : LogEnt) (s : State) : (s.logEntry e).lost = s.lost := by
  unfold State.logEntry; split
  · split <;> rfl
  · rfl

@[simp] theorem State.logEntry_rigs (e : LogEnt) (s : State) : (s.logEntry e).rigs = s.rigs := by
  unfold State.logEntry; split
  · split <;> rfl
  · rfl

@[simp] theorem State.logEntry_epochSeq (e : LogEnt) (s : State) : (s.logEntry e).epochSeq = s.epochSeq := by
  unfold State.logEntry; split
  · split <;> rfl
  · rfl

@[simp] theorem State.logEntry_jobs (e : LogEnt) (s : State) : (s.logEntry e).jobs = s.jobs := by
  unfold State.logEntry; split
  · split <;> rfl
  · rfl

@[simp] theorem State.logEntry_gens (e : LogEnt) (s : State) : (s.logEntry e).gens = s.gens := by
  unfold State.logEntry; split
  · split <;> rfl
  · rfl

@[simp] theorem State.logEntry_restores (e : LogEnt) (s : State) : (s.logEntry e).restores = s.restores := by
  unfold State.logEntry; split
  · split <;> rfl
  · rfl

@[simp] theorem State.logEntry_forks (e : LogEnt) (s : State) : (s.logEntry e).forks = s.forks := by
  unfold State.logEntry; split
  · split <;> rfl
  · rfl

@[simp] theorem State.logEntry_dir (e : LogEnt) (s : State) : (s.logEntry e).dir = s.dir := by
  unfold State.logEntry; split
  · split <;> rfl
  · rfl

@[simp] theorem State.logEntry_dirQ (e : LogEnt) (s : State) : (s.logEntry e).dirQ = s.dirQ := by
  unfold State.logEntry; split
  · split <;> rfl
  · rfl

@[simp] theorem State.logEntry_scrubs (e : LogEnt) (s : State) : (s.logEntry e).scrubs = s.scrubs := by
  unfold State.logEntry; split
  · split <;> rfl
  · rfl

@[simp] theorem State.logEntry_manStore (e : LogEnt) (s : State) : (s.logEntry e).manStore = s.manStore := by
  unfold State.logEntry; split
  · split <;> rfl
  · rfl

@[simp] theorem State.logEntry_sheets (e : LogEnt) (s : State) : (s.logEntry e).sheets = s.sheets := by
  unfold State.logEntry; split
  · split <;> rfl
  · rfl

@[simp] theorem State.logEntry_tackle (e : LogEnt) (s : State) : (s.logEntry e).tackle = s.tackle := by
  unfold State.logEntry; split
  · split <;> rfl
  · rfl

@[simp] theorem State.logEntry_cleats (e : LogEnt) (s : State) : (s.logEntry e).cleats = s.cleats := by
  unfold State.logEntry; split
  · split <;> rfl
  · rfl

@[simp] theorem State.logEntry_keys (e : LogEnt) (s : State) : (s.logEntry e).keys = s.keys := by
  unfold State.logEntry; split
  · split <;> rfl
  · rfl

@[simp] theorem State.logEntry_spdm (e : LogEnt) (s : State) : (s.logEntry e).spdm = s.spdm := by
  unfold State.logEntry; split
  · split <;> rfl
  · rfl

@[simp] theorem State.logEntry_tap (e : LogEnt) (s : State) : (s.logEntry e).tap = s.tap := by
  unfold State.logEntry; split
  · split <;> rfl
  · rfl

@[simp] theorem State.logEntry_links (e : LogEnt) (s : State) : (s.logEntry e).links = s.links := by
  unfold State.logEntry; split
  · split <;> rfl
  · rfl

@[simp] theorem State.logEntry_drainUp (e : LogEnt) (s : State) : (s.logEntry e).drainUp = s.drainUp := by
  unfold State.logEntry; split
  · split <;> rfl
  · rfl

@[simp] theorem State.logEntry_freqs (e : LogEnt) (s : State) : (s.logEntry e).freqs = s.freqs := by
  unfold State.logEntry; split
  · split <;> rfl
  · rfl

@[simp] theorem State.logEntry_waitPkts (e : LogEnt) (s : State) : (s.logEntry e).waitPkts = s.waitPkts := by
  unfold State.logEntry; split
  · split <;> rfl
  · rfl

@[simp] theorem State.logEntry_sreqs (e : LogEnt) (s : State) : (s.logEntry e).sreqs = s.sreqs := by
  unfold State.logEntry; split
  · split <;> rfl
  · rfl

@[simp] theorem State.logEntry_unknown (e : LogEnt) (s : State) : (s.logEntry e).unknown = s.unknown := by
  unfold State.logEntry; split
  · split <;> rfl
  · rfl

@[simp] theorem State.logEntry_hreqs (e : LogEnt) (s : State) : (s.logEntry e).hreqs = s.hreqs := by
  unfold State.logEntry; split
  · split <;> rfl
  · rfl

@[simp] theorem State.logEntry_xfers (e : LogEnt) (s : State) : (s.logEntry e).xfers = s.xfers := by
  unfold State.logEntry; split
  · split <;> rfl
  · rfl

@[simp] theorem State.logEntry_arbs (e : LogEnt) (s : State) : (s.logEntry e).arbs = s.arbs := by
  unfold State.logEntry; split
  · split <;> rfl
  · rfl

@[simp] theorem State.logEntry_pipeCtx (e : LogEnt) (s : State) : (s.logEntry e).pipeCtx = s.pipeCtx := by
  unfold State.logEntry; split
  · split <;> rfl
  · rfl

@[simp] theorem State.logEntry_rounds (e : LogEnt) (s : State) : (s.logEntry e).rounds = s.rounds := by
  unfold State.logEntry; split
  · split <;> rfl
  · rfl

@[simp] theorem State.logEntry_roundW (e : LogEnt) (s : State) : (s.logEntry e).roundW = s.roundW := by
  unfold State.logEntry; split
  · split <;> rfl
  · rfl

@[simp] theorem State.logEntry_yards (e : LogEnt) (s : State) : (s.logEntry e).yards = s.yards := by
  unfold State.logEntry; split
  · split <;> rfl
  · rfl

@[simp] theorem State.logEntry_tests (e : LogEnt) (s : State) : (s.logEntry e).tests = s.tests := by
  unfold State.logEntry; split
  · split <;> rfl
  · rfl

@[simp] theorem State.logEntry_procs (e : LogEnt) (s : State) : (s.logEntry e).procs = s.procs := by
  unfold State.logEntry; split
  · split <;> rfl
  · rfl

@[simp] theorem State.logEntry_waking (e : LogEnt) (s : State) : (s.logEntry e).waking = s.waking := by
  unfold State.logEntry; split
  · split <;> rfl
  · rfl

@[simp] theorem State.logEntry_mb (e : LogEnt) (s : State) : (s.logEntry e).mb = s.mb := by
  unfold State.logEntry; split
  · split <;> rfl
  · rfl

@[simp] theorem State.logEntry_sensors (e : LogEnt) (s : State) : (s.logEntry e).sensors = s.sensors := by
  unfold State.logEntry; split
  · split <;> rfl
  · rfl

@[simp] theorem State.logEntry_droopArmed (e : LogEnt) (s : State) : (s.logEntry e).droopArmed = s.droopArmed := by
  unfold State.logEntry; split
  · split <;> rfl
  · rfl

@[simp] theorem State.logEntry_idleSince (e : LogEnt) (s : State) : (s.logEntry e).idleSince = s.idleSince := by
  unfold State.logEntry; split
  · split <;> rfl
  · rfl

@[simp] theorem State.logEntry_timerAt (e : LogEnt) (s : State) : (s.logEntry e).timerAt = s.timerAt := by
  unfold State.logEntry; split
  · split <;> rfl
  · rfl

@[simp] theorem State.logEntry_tt (e : LogEnt) (s : State) : (s.logEntry e).tt = s.tt := by
  unfold State.logEntry; split
  · split <;> rfl
  · rfl

@[simp] theorem State.logEntry_image (e : LogEnt) (s : State) : (s.logEntry e).image = s.image := by
  unfold State.logEntry; split
  · split <;> rfl
  · rfl

@[simp] theorem State.logEntry_fw (e : LogEnt) (s : State) : (s.logEntry e).fw = s.fw := by
  unfold State.logEntry; split
  · split <;> rfl
  · rfl

@[simp] theorem State.logEntry_free (e : LogEnt) (s : State) : (s.logEntry e).free = s.free := by
  unfold State.logEntry; split
  · split <;> rfl
  · rfl

@[simp] theorem State.logEntry_laneCycle (e : LogEnt) (s : State) : (s.logEntry e).laneCycle = s.laneCycle := by
  unfold State.logEntry; split
  · split <;> rfl
  · rfl

@[simp] theorem State.logEntry_nextId (e : LogEnt) (s : State) : (s.logEntry e).nextId = s.nextId := by
  unfold State.logEntry; split
  · split <;> rfl
  · rfl

@[simp] theorem State.logEntry_issued (e : LogEnt) (s : State) : (s.logEntry e).issued = s.issued := by
  unfold State.logEntry; split
  · split <;> rfl
  · rfl

@[simp] theorem State.logEntry_pending (e : LogEnt) (s : State) : (s.logEntry e).pending = s.pending := by
  unfold State.logEntry; split
  · split <;> rfl
  · rfl

/-! ### logWith -/

@[simp] theorem State.logWith_setup (code sev src mast : Nat) (func : Option Nat) (d : List Nat) (s : State) : (s.logWith code sev src mast func d).setup = s.setup := State.logEntry_setup _ s

@[simp] theorem State.logWith_glob (code sev src mast : Nat) (func : Option Nat) (d : List Nat) (s : State) : (s.logWith code sev src mast func d).glob = s.glob := State.logEntry_glob _ s

@[simp] theorem State.logWith_adm (code sev src mast : Nat) (func : Option Nat) (d : List Nat) (s : State) : (s.logWith code sev src mast func d).adm = s.adm := State.logEntry_adm _ s

@[simp] theorem State.logWith_pen (code sev src mast : Nat) (func : Option Nat) (d : List Nat) (s : State) : (s.logWith code sev src mast func d).pen = s.pen := State.logEntry_pen _ s

@[simp] theorem State.logWith_sqs (code sev src mast : Nat) (func : Option Nat) (d : List Nat) (s : State) : (s.logWith code sev src mast func d).sqs = s.sqs := State.logEntry_sqs _ s

@[simp] theorem State.logWith_cqs (code sev src mast : Nat) (func : Option Nat) (d : List Nat) (s : State) : (s.logWith code sev src mast func d).cqs = s.cqs := State.logEntry_cqs _ s

@[simp] theorem State.logWith_accepted (code sev src mast : Nat) (func : Option Nat) (d : List Nat) (s : State) : (s.logWith code sev src mast func d).accepted = s.accepted := State.logEntry_accepted _ s

@[simp] theorem State.logWith_fns (code sev src mast : Nat) (func : Option Nat) (d : List Nat) (s : State) : (s.logWith code sev src mast func d).fns = s.fns := State.logEntry_fns _ s

@[simp] theorem State.logWith_hbInt (code sev src mast : Nat) (func : Option Nat) (d : List Nat) (s : State) : (s.logWith code sev src mast func d).hbInt = s.hbInt := State.logEntry_hbInt _ s

@[simp] theorem State.logWith_eps (code sev src mast : Nat) (func : Option Nat) (d : List Nat) (s : State) : (s.logWith code sev src mast func d).eps = s.eps := State.logEntry_eps _ s

@[simp] theorem State.logWith_lost (code sev src mast : Nat) (func : Option Nat) (d : List Nat) (s : State) : (s.logWith code sev src mast func d).lost = s.lost := State.logEntry_lost _ s

@[simp] theorem State.logWith_rigs (code sev src mast : Nat) (func : Option Nat) (d : List Nat) (s : State) : (s.logWith code sev src mast func d).rigs = s.rigs := State.logEntry_rigs _ s

@[simp] theorem State.logWith_epochSeq (code sev src mast : Nat) (func : Option Nat) (d : List Nat) (s : State) : (s.logWith code sev src mast func d).epochSeq = s.epochSeq := State.logEntry_epochSeq _ s

@[simp] theorem State.logWith_jobs (code sev src mast : Nat) (func : Option Nat) (d : List Nat) (s : State) : (s.logWith code sev src mast func d).jobs = s.jobs := State.logEntry_jobs _ s

@[simp] theorem State.logWith_gens (code sev src mast : Nat) (func : Option Nat) (d : List Nat) (s : State) : (s.logWith code sev src mast func d).gens = s.gens := State.logEntry_gens _ s

@[simp] theorem State.logWith_restores (code sev src mast : Nat) (func : Option Nat) (d : List Nat) (s : State) : (s.logWith code sev src mast func d).restores = s.restores := State.logEntry_restores _ s

@[simp] theorem State.logWith_forks (code sev src mast : Nat) (func : Option Nat) (d : List Nat) (s : State) : (s.logWith code sev src mast func d).forks = s.forks := State.logEntry_forks _ s

@[simp] theorem State.logWith_dir (code sev src mast : Nat) (func : Option Nat) (d : List Nat) (s : State) : (s.logWith code sev src mast func d).dir = s.dir := State.logEntry_dir _ s

@[simp] theorem State.logWith_dirQ (code sev src mast : Nat) (func : Option Nat) (d : List Nat) (s : State) : (s.logWith code sev src mast func d).dirQ = s.dirQ := State.logEntry_dirQ _ s

@[simp] theorem State.logWith_scrubs (code sev src mast : Nat) (func : Option Nat) (d : List Nat) (s : State) : (s.logWith code sev src mast func d).scrubs = s.scrubs := State.logEntry_scrubs _ s

@[simp] theorem State.logWith_manStore (code sev src mast : Nat) (func : Option Nat) (d : List Nat) (s : State) : (s.logWith code sev src mast func d).manStore = s.manStore := State.logEntry_manStore _ s

@[simp] theorem State.logWith_sheets (code sev src mast : Nat) (func : Option Nat) (d : List Nat) (s : State) : (s.logWith code sev src mast func d).sheets = s.sheets := State.logEntry_sheets _ s

@[simp] theorem State.logWith_tackle (code sev src mast : Nat) (func : Option Nat) (d : List Nat) (s : State) : (s.logWith code sev src mast func d).tackle = s.tackle := State.logEntry_tackle _ s

@[simp] theorem State.logWith_cleats (code sev src mast : Nat) (func : Option Nat) (d : List Nat) (s : State) : (s.logWith code sev src mast func d).cleats = s.cleats := State.logEntry_cleats _ s

@[simp] theorem State.logWith_keys (code sev src mast : Nat) (func : Option Nat) (d : List Nat) (s : State) : (s.logWith code sev src mast func d).keys = s.keys := State.logEntry_keys _ s

@[simp] theorem State.logWith_spdm (code sev src mast : Nat) (func : Option Nat) (d : List Nat) (s : State) : (s.logWith code sev src mast func d).spdm = s.spdm := State.logEntry_spdm _ s

@[simp] theorem State.logWith_tap (code sev src mast : Nat) (func : Option Nat) (d : List Nat) (s : State) : (s.logWith code sev src mast func d).tap = s.tap := State.logEntry_tap _ s

@[simp] theorem State.logWith_links (code sev src mast : Nat) (func : Option Nat) (d : List Nat) (s : State) : (s.logWith code sev src mast func d).links = s.links := State.logEntry_links _ s

@[simp] theorem State.logWith_drainUp (code sev src mast : Nat) (func : Option Nat) (d : List Nat) (s : State) : (s.logWith code sev src mast func d).drainUp = s.drainUp := State.logEntry_drainUp _ s

@[simp] theorem State.logWith_freqs (code sev src mast : Nat) (func : Option Nat) (d : List Nat) (s : State) : (s.logWith code sev src mast func d).freqs = s.freqs := State.logEntry_freqs _ s

@[simp] theorem State.logWith_waitPkts (code sev src mast : Nat) (func : Option Nat) (d : List Nat) (s : State) : (s.logWith code sev src mast func d).waitPkts = s.waitPkts := State.logEntry_waitPkts _ s

@[simp] theorem State.logWith_sreqs (code sev src mast : Nat) (func : Option Nat) (d : List Nat) (s : State) : (s.logWith code sev src mast func d).sreqs = s.sreqs := State.logEntry_sreqs _ s

@[simp] theorem State.logWith_unknown (code sev src mast : Nat) (func : Option Nat) (d : List Nat) (s : State) : (s.logWith code sev src mast func d).unknown = s.unknown := State.logEntry_unknown _ s

@[simp] theorem State.logWith_hreqs (code sev src mast : Nat) (func : Option Nat) (d : List Nat) (s : State) : (s.logWith code sev src mast func d).hreqs = s.hreqs := State.logEntry_hreqs _ s

@[simp] theorem State.logWith_xfers (code sev src mast : Nat) (func : Option Nat) (d : List Nat) (s : State) : (s.logWith code sev src mast func d).xfers = s.xfers := State.logEntry_xfers _ s

@[simp] theorem State.logWith_arbs (code sev src mast : Nat) (func : Option Nat) (d : List Nat) (s : State) : (s.logWith code sev src mast func d).arbs = s.arbs := State.logEntry_arbs _ s

@[simp] theorem State.logWith_pipeCtx (code sev src mast : Nat) (func : Option Nat) (d : List Nat) (s : State) : (s.logWith code sev src mast func d).pipeCtx = s.pipeCtx := State.logEntry_pipeCtx _ s

@[simp] theorem State.logWith_rounds (code sev src mast : Nat) (func : Option Nat) (d : List Nat) (s : State) : (s.logWith code sev src mast func d).rounds = s.rounds := State.logEntry_rounds _ s

@[simp] theorem State.logWith_roundW (code sev src mast : Nat) (func : Option Nat) (d : List Nat) (s : State) : (s.logWith code sev src mast func d).roundW = s.roundW := State.logEntry_roundW _ s

@[simp] theorem State.logWith_yards (code sev src mast : Nat) (func : Option Nat) (d : List Nat) (s : State) : (s.logWith code sev src mast func d).yards = s.yards := State.logEntry_yards _ s

@[simp] theorem State.logWith_tests (code sev src mast : Nat) (func : Option Nat) (d : List Nat) (s : State) : (s.logWith code sev src mast func d).tests = s.tests := State.logEntry_tests _ s

@[simp] theorem State.logWith_procs (code sev src mast : Nat) (func : Option Nat) (d : List Nat) (s : State) : (s.logWith code sev src mast func d).procs = s.procs := State.logEntry_procs _ s

@[simp] theorem State.logWith_waking (code sev src mast : Nat) (func : Option Nat) (d : List Nat) (s : State) : (s.logWith code sev src mast func d).waking = s.waking := State.logEntry_waking _ s

@[simp] theorem State.logWith_mb (code sev src mast : Nat) (func : Option Nat) (d : List Nat) (s : State) : (s.logWith code sev src mast func d).mb = s.mb := State.logEntry_mb _ s

@[simp] theorem State.logWith_sensors (code sev src mast : Nat) (func : Option Nat) (d : List Nat) (s : State) : (s.logWith code sev src mast func d).sensors = s.sensors := State.logEntry_sensors _ s

@[simp] theorem State.logWith_droopArmed (code sev src mast : Nat) (func : Option Nat) (d : List Nat) (s : State) : (s.logWith code sev src mast func d).droopArmed = s.droopArmed := State.logEntry_droopArmed _ s

@[simp] theorem State.logWith_idleSince (code sev src mast : Nat) (func : Option Nat) (d : List Nat) (s : State) : (s.logWith code sev src mast func d).idleSince = s.idleSince := State.logEntry_idleSince _ s

@[simp] theorem State.logWith_timerAt (code sev src mast : Nat) (func : Option Nat) (d : List Nat) (s : State) : (s.logWith code sev src mast func d).timerAt = s.timerAt := State.logEntry_timerAt _ s

@[simp] theorem State.logWith_tt (code sev src mast : Nat) (func : Option Nat) (d : List Nat) (s : State) : (s.logWith code sev src mast func d).tt = s.tt := State.logEntry_tt _ s

@[simp] theorem State.logWith_image (code sev src mast : Nat) (func : Option Nat) (d : List Nat) (s : State) : (s.logWith code sev src mast func d).image = s.image := State.logEntry_image _ s

@[simp] theorem State.logWith_fw (code sev src mast : Nat) (func : Option Nat) (d : List Nat) (s : State) : (s.logWith code sev src mast func d).fw = s.fw := State.logEntry_fw _ s

@[simp] theorem State.logWith_free (code sev src mast : Nat) (func : Option Nat) (d : List Nat) (s : State) : (s.logWith code sev src mast func d).free = s.free := State.logEntry_free _ s

@[simp] theorem State.logWith_laneCycle (code sev src mast : Nat) (func : Option Nat) (d : List Nat) (s : State) : (s.logWith code sev src mast func d).laneCycle = s.laneCycle := State.logEntry_laneCycle _ s

@[simp] theorem State.logWith_nextId (code sev src mast : Nat) (func : Option Nat) (d : List Nat) (s : State) : (s.logWith code sev src mast func d).nextId = s.nextId := State.logEntry_nextId _ s

@[simp] theorem State.logWith_issued (code sev src mast : Nat) (func : Option Nat) (d : List Nat) (s : State) : (s.logWith code sev src mast func d).issued = s.issued := State.logEntry_issued _ s

@[simp] theorem State.logWith_pending (code sev src mast : Nat) (func : Option Nat) (d : List Nat) (s : State) : (s.logWith code sev src mast func d).pending = s.pending := State.logEntry_pending _ s

/-! ### logEvent -/

@[simp] theorem State.logEvent_setup (code : Nat) (d : List Nat) (s : State) : (s.logEvent code d).setup = s.setup := State.logEntry_setup _ s

@[simp] theorem State.logEvent_glob (code : Nat) (d : List Nat) (s : State) : (s.logEvent code d).glob = s.glob := State.logEntry_glob _ s

@[simp] theorem State.logEvent_adm (code : Nat) (d : List Nat) (s : State) : (s.logEvent code d).adm = s.adm := State.logEntry_adm _ s

@[simp] theorem State.logEvent_pen (code : Nat) (d : List Nat) (s : State) : (s.logEvent code d).pen = s.pen := State.logEntry_pen _ s

@[simp] theorem State.logEvent_sqs (code : Nat) (d : List Nat) (s : State) : (s.logEvent code d).sqs = s.sqs := State.logEntry_sqs _ s

@[simp] theorem State.logEvent_cqs (code : Nat) (d : List Nat) (s : State) : (s.logEvent code d).cqs = s.cqs := State.logEntry_cqs _ s

@[simp] theorem State.logEvent_accepted (code : Nat) (d : List Nat) (s : State) : (s.logEvent code d).accepted = s.accepted := State.logEntry_accepted _ s

@[simp] theorem State.logEvent_fns (code : Nat) (d : List Nat) (s : State) : (s.logEvent code d).fns = s.fns := State.logEntry_fns _ s

@[simp] theorem State.logEvent_hbInt (code : Nat) (d : List Nat) (s : State) : (s.logEvent code d).hbInt = s.hbInt := State.logEntry_hbInt _ s

@[simp] theorem State.logEvent_eps (code : Nat) (d : List Nat) (s : State) : (s.logEvent code d).eps = s.eps := State.logEntry_eps _ s

@[simp] theorem State.logEvent_lost (code : Nat) (d : List Nat) (s : State) : (s.logEvent code d).lost = s.lost := State.logEntry_lost _ s

@[simp] theorem State.logEvent_rigs (code : Nat) (d : List Nat) (s : State) : (s.logEvent code d).rigs = s.rigs := State.logEntry_rigs _ s

@[simp] theorem State.logEvent_epochSeq (code : Nat) (d : List Nat) (s : State) : (s.logEvent code d).epochSeq = s.epochSeq := State.logEntry_epochSeq _ s

@[simp] theorem State.logEvent_jobs (code : Nat) (d : List Nat) (s : State) : (s.logEvent code d).jobs = s.jobs := State.logEntry_jobs _ s

@[simp] theorem State.logEvent_gens (code : Nat) (d : List Nat) (s : State) : (s.logEvent code d).gens = s.gens := State.logEntry_gens _ s

@[simp] theorem State.logEvent_restores (code : Nat) (d : List Nat) (s : State) : (s.logEvent code d).restores = s.restores := State.logEntry_restores _ s

@[simp] theorem State.logEvent_forks (code : Nat) (d : List Nat) (s : State) : (s.logEvent code d).forks = s.forks := State.logEntry_forks _ s

@[simp] theorem State.logEvent_dir (code : Nat) (d : List Nat) (s : State) : (s.logEvent code d).dir = s.dir := State.logEntry_dir _ s

@[simp] theorem State.logEvent_dirQ (code : Nat) (d : List Nat) (s : State) : (s.logEvent code d).dirQ = s.dirQ := State.logEntry_dirQ _ s

@[simp] theorem State.logEvent_scrubs (code : Nat) (d : List Nat) (s : State) : (s.logEvent code d).scrubs = s.scrubs := State.logEntry_scrubs _ s

@[simp] theorem State.logEvent_manStore (code : Nat) (d : List Nat) (s : State) : (s.logEvent code d).manStore = s.manStore := State.logEntry_manStore _ s

@[simp] theorem State.logEvent_sheets (code : Nat) (d : List Nat) (s : State) : (s.logEvent code d).sheets = s.sheets := State.logEntry_sheets _ s

@[simp] theorem State.logEvent_tackle (code : Nat) (d : List Nat) (s : State) : (s.logEvent code d).tackle = s.tackle := State.logEntry_tackle _ s

@[simp] theorem State.logEvent_cleats (code : Nat) (d : List Nat) (s : State) : (s.logEvent code d).cleats = s.cleats := State.logEntry_cleats _ s

@[simp] theorem State.logEvent_keys (code : Nat) (d : List Nat) (s : State) : (s.logEvent code d).keys = s.keys := State.logEntry_keys _ s

@[simp] theorem State.logEvent_spdm (code : Nat) (d : List Nat) (s : State) : (s.logEvent code d).spdm = s.spdm := State.logEntry_spdm _ s

@[simp] theorem State.logEvent_tap (code : Nat) (d : List Nat) (s : State) : (s.logEvent code d).tap = s.tap := State.logEntry_tap _ s

@[simp] theorem State.logEvent_links (code : Nat) (d : List Nat) (s : State) : (s.logEvent code d).links = s.links := State.logEntry_links _ s

@[simp] theorem State.logEvent_drainUp (code : Nat) (d : List Nat) (s : State) : (s.logEvent code d).drainUp = s.drainUp := State.logEntry_drainUp _ s

@[simp] theorem State.logEvent_freqs (code : Nat) (d : List Nat) (s : State) : (s.logEvent code d).freqs = s.freqs := State.logEntry_freqs _ s

@[simp] theorem State.logEvent_waitPkts (code : Nat) (d : List Nat) (s : State) : (s.logEvent code d).waitPkts = s.waitPkts := State.logEntry_waitPkts _ s

@[simp] theorem State.logEvent_sreqs (code : Nat) (d : List Nat) (s : State) : (s.logEvent code d).sreqs = s.sreqs := State.logEntry_sreqs _ s

@[simp] theorem State.logEvent_unknown (code : Nat) (d : List Nat) (s : State) : (s.logEvent code d).unknown = s.unknown := State.logEntry_unknown _ s

@[simp] theorem State.logEvent_hreqs (code : Nat) (d : List Nat) (s : State) : (s.logEvent code d).hreqs = s.hreqs := State.logEntry_hreqs _ s

@[simp] theorem State.logEvent_xfers (code : Nat) (d : List Nat) (s : State) : (s.logEvent code d).xfers = s.xfers := State.logEntry_xfers _ s

@[simp] theorem State.logEvent_arbs (code : Nat) (d : List Nat) (s : State) : (s.logEvent code d).arbs = s.arbs := State.logEntry_arbs _ s

@[simp] theorem State.logEvent_pipeCtx (code : Nat) (d : List Nat) (s : State) : (s.logEvent code d).pipeCtx = s.pipeCtx := State.logEntry_pipeCtx _ s

@[simp] theorem State.logEvent_rounds (code : Nat) (d : List Nat) (s : State) : (s.logEvent code d).rounds = s.rounds := State.logEntry_rounds _ s

@[simp] theorem State.logEvent_roundW (code : Nat) (d : List Nat) (s : State) : (s.logEvent code d).roundW = s.roundW := State.logEntry_roundW _ s

@[simp] theorem State.logEvent_yards (code : Nat) (d : List Nat) (s : State) : (s.logEvent code d).yards = s.yards := State.logEntry_yards _ s

@[simp] theorem State.logEvent_tests (code : Nat) (d : List Nat) (s : State) : (s.logEvent code d).tests = s.tests := State.logEntry_tests _ s

@[simp] theorem State.logEvent_procs (code : Nat) (d : List Nat) (s : State) : (s.logEvent code d).procs = s.procs := State.logEntry_procs _ s

@[simp] theorem State.logEvent_waking (code : Nat) (d : List Nat) (s : State) : (s.logEvent code d).waking = s.waking := State.logEntry_waking _ s

@[simp] theorem State.logEvent_mb (code : Nat) (d : List Nat) (s : State) : (s.logEvent code d).mb = s.mb := State.logEntry_mb _ s

@[simp] theorem State.logEvent_sensors (code : Nat) (d : List Nat) (s : State) : (s.logEvent code d).sensors = s.sensors := State.logEntry_sensors _ s

@[simp] theorem State.logEvent_droopArmed (code : Nat) (d : List Nat) (s : State) : (s.logEvent code d).droopArmed = s.droopArmed := State.logEntry_droopArmed _ s

@[simp] theorem State.logEvent_idleSince (code : Nat) (d : List Nat) (s : State) : (s.logEvent code d).idleSince = s.idleSince := State.logEntry_idleSince _ s

@[simp] theorem State.logEvent_timerAt (code : Nat) (d : List Nat) (s : State) : (s.logEvent code d).timerAt = s.timerAt := State.logEntry_timerAt _ s

@[simp] theorem State.logEvent_tt (code : Nat) (d : List Nat) (s : State) : (s.logEvent code d).tt = s.tt := State.logEntry_tt _ s

@[simp] theorem State.logEvent_image (code : Nat) (d : List Nat) (s : State) : (s.logEvent code d).image = s.image := State.logEntry_image _ s

@[simp] theorem State.logEvent_fw (code : Nat) (d : List Nat) (s : State) : (s.logEvent code d).fw = s.fw := State.logEntry_fw _ s

@[simp] theorem State.logEvent_free (code : Nat) (d : List Nat) (s : State) : (s.logEvent code d).free = s.free := State.logEntry_free _ s

@[simp] theorem State.logEvent_laneCycle (code : Nat) (d : List Nat) (s : State) : (s.logEvent code d).laneCycle = s.laneCycle := State.logEntry_laneCycle _ s

@[simp] theorem State.logEvent_nextId (code : Nat) (d : List Nat) (s : State) : (s.logEvent code d).nextId = s.nextId := State.logEntry_nextId _ s

@[simp] theorem State.logEvent_issued (code : Nat) (d : List Nat) (s : State) : (s.logEvent code d).issued = s.issued := State.logEntry_issued _ s

@[simp] theorem State.logEvent_pending (code : Nat) (d : List Nat) (s : State) : (s.logEvent code d).pending = s.pending := State.logEntry_pending _ s

/-! ### logFn -/

@[simp] theorem State.logFn_setup (code f : Nat) (d : List Nat) (s : State) : (s.logFn code f d).setup = s.setup := State.logEntry_setup _ s

@[simp] theorem State.logFn_glob (code f : Nat) (d : List Nat) (s : State) : (s.logFn code f d).glob = s.glob := State.logEntry_glob _ s

@[simp] theorem State.logFn_adm (code f : Nat) (d : List Nat) (s : State) : (s.logFn code f d).adm = s.adm := State.logEntry_adm _ s

@[simp] theorem State.logFn_pen (code f : Nat) (d : List Nat) (s : State) : (s.logFn code f d).pen = s.pen := State.logEntry_pen _ s

@[simp] theorem State.logFn_sqs (code f : Nat) (d : List Nat) (s : State) : (s.logFn code f d).sqs = s.sqs := State.logEntry_sqs _ s

@[simp] theorem State.logFn_cqs (code f : Nat) (d : List Nat) (s : State) : (s.logFn code f d).cqs = s.cqs := State.logEntry_cqs _ s

@[simp] theorem State.logFn_accepted (code f : Nat) (d : List Nat) (s : State) : (s.logFn code f d).accepted = s.accepted := State.logEntry_accepted _ s

@[simp] theorem State.logFn_fns (code f : Nat) (d : List Nat) (s : State) : (s.logFn code f d).fns = s.fns := State.logEntry_fns _ s

@[simp] theorem State.logFn_hbInt (code f : Nat) (d : List Nat) (s : State) : (s.logFn code f d).hbInt = s.hbInt := State.logEntry_hbInt _ s

@[simp] theorem State.logFn_eps (code f : Nat) (d : List Nat) (s : State) : (s.logFn code f d).eps = s.eps := State.logEntry_eps _ s

@[simp] theorem State.logFn_lost (code f : Nat) (d : List Nat) (s : State) : (s.logFn code f d).lost = s.lost := State.logEntry_lost _ s

@[simp] theorem State.logFn_rigs (code f : Nat) (d : List Nat) (s : State) : (s.logFn code f d).rigs = s.rigs := State.logEntry_rigs _ s

@[simp] theorem State.logFn_epochSeq (code f : Nat) (d : List Nat) (s : State) : (s.logFn code f d).epochSeq = s.epochSeq := State.logEntry_epochSeq _ s

@[simp] theorem State.logFn_jobs (code f : Nat) (d : List Nat) (s : State) : (s.logFn code f d).jobs = s.jobs := State.logEntry_jobs _ s

@[simp] theorem State.logFn_gens (code f : Nat) (d : List Nat) (s : State) : (s.logFn code f d).gens = s.gens := State.logEntry_gens _ s

@[simp] theorem State.logFn_restores (code f : Nat) (d : List Nat) (s : State) : (s.logFn code f d).restores = s.restores := State.logEntry_restores _ s

@[simp] theorem State.logFn_forks (code f : Nat) (d : List Nat) (s : State) : (s.logFn code f d).forks = s.forks := State.logEntry_forks _ s

@[simp] theorem State.logFn_dir (code f : Nat) (d : List Nat) (s : State) : (s.logFn code f d).dir = s.dir := State.logEntry_dir _ s

@[simp] theorem State.logFn_dirQ (code f : Nat) (d : List Nat) (s : State) : (s.logFn code f d).dirQ = s.dirQ := State.logEntry_dirQ _ s

@[simp] theorem State.logFn_scrubs (code f : Nat) (d : List Nat) (s : State) : (s.logFn code f d).scrubs = s.scrubs := State.logEntry_scrubs _ s

@[simp] theorem State.logFn_manStore (code f : Nat) (d : List Nat) (s : State) : (s.logFn code f d).manStore = s.manStore := State.logEntry_manStore _ s

@[simp] theorem State.logFn_sheets (code f : Nat) (d : List Nat) (s : State) : (s.logFn code f d).sheets = s.sheets := State.logEntry_sheets _ s

@[simp] theorem State.logFn_tackle (code f : Nat) (d : List Nat) (s : State) : (s.logFn code f d).tackle = s.tackle := State.logEntry_tackle _ s

@[simp] theorem State.logFn_cleats (code f : Nat) (d : List Nat) (s : State) : (s.logFn code f d).cleats = s.cleats := State.logEntry_cleats _ s

@[simp] theorem State.logFn_keys (code f : Nat) (d : List Nat) (s : State) : (s.logFn code f d).keys = s.keys := State.logEntry_keys _ s

@[simp] theorem State.logFn_spdm (code f : Nat) (d : List Nat) (s : State) : (s.logFn code f d).spdm = s.spdm := State.logEntry_spdm _ s

@[simp] theorem State.logFn_tap (code f : Nat) (d : List Nat) (s : State) : (s.logFn code f d).tap = s.tap := State.logEntry_tap _ s

@[simp] theorem State.logFn_links (code f : Nat) (d : List Nat) (s : State) : (s.logFn code f d).links = s.links := State.logEntry_links _ s

@[simp] theorem State.logFn_drainUp (code f : Nat) (d : List Nat) (s : State) : (s.logFn code f d).drainUp = s.drainUp := State.logEntry_drainUp _ s

@[simp] theorem State.logFn_freqs (code f : Nat) (d : List Nat) (s : State) : (s.logFn code f d).freqs = s.freqs := State.logEntry_freqs _ s

@[simp] theorem State.logFn_waitPkts (code f : Nat) (d : List Nat) (s : State) : (s.logFn code f d).waitPkts = s.waitPkts := State.logEntry_waitPkts _ s

@[simp] theorem State.logFn_sreqs (code f : Nat) (d : List Nat) (s : State) : (s.logFn code f d).sreqs = s.sreqs := State.logEntry_sreqs _ s

@[simp] theorem State.logFn_unknown (code f : Nat) (d : List Nat) (s : State) : (s.logFn code f d).unknown = s.unknown := State.logEntry_unknown _ s

@[simp] theorem State.logFn_hreqs (code f : Nat) (d : List Nat) (s : State) : (s.logFn code f d).hreqs = s.hreqs := State.logEntry_hreqs _ s

@[simp] theorem State.logFn_xfers (code f : Nat) (d : List Nat) (s : State) : (s.logFn code f d).xfers = s.xfers := State.logEntry_xfers _ s

@[simp] theorem State.logFn_arbs (code f : Nat) (d : List Nat) (s : State) : (s.logFn code f d).arbs = s.arbs := State.logEntry_arbs _ s

@[simp] theorem State.logFn_pipeCtx (code f : Nat) (d : List Nat) (s : State) : (s.logFn code f d).pipeCtx = s.pipeCtx := State.logEntry_pipeCtx _ s

@[simp] theorem State.logFn_rounds (code f : Nat) (d : List Nat) (s : State) : (s.logFn code f d).rounds = s.rounds := State.logEntry_rounds _ s

@[simp] theorem State.logFn_roundW (code f : Nat) (d : List Nat) (s : State) : (s.logFn code f d).roundW = s.roundW := State.logEntry_roundW _ s

@[simp] theorem State.logFn_yards (code f : Nat) (d : List Nat) (s : State) : (s.logFn code f d).yards = s.yards := State.logEntry_yards _ s

@[simp] theorem State.logFn_tests (code f : Nat) (d : List Nat) (s : State) : (s.logFn code f d).tests = s.tests := State.logEntry_tests _ s

@[simp] theorem State.logFn_procs (code f : Nat) (d : List Nat) (s : State) : (s.logFn code f d).procs = s.procs := State.logEntry_procs _ s

@[simp] theorem State.logFn_waking (code f : Nat) (d : List Nat) (s : State) : (s.logFn code f d).waking = s.waking := State.logEntry_waking _ s

@[simp] theorem State.logFn_mb (code f : Nat) (d : List Nat) (s : State) : (s.logFn code f d).mb = s.mb := State.logEntry_mb _ s

@[simp] theorem State.logFn_sensors (code f : Nat) (d : List Nat) (s : State) : (s.logFn code f d).sensors = s.sensors := State.logEntry_sensors _ s

@[simp] theorem State.logFn_droopArmed (code f : Nat) (d : List Nat) (s : State) : (s.logFn code f d).droopArmed = s.droopArmed := State.logEntry_droopArmed _ s

@[simp] theorem State.logFn_idleSince (code f : Nat) (d : List Nat) (s : State) : (s.logFn code f d).idleSince = s.idleSince := State.logEntry_idleSince _ s

@[simp] theorem State.logFn_timerAt (code f : Nat) (d : List Nat) (s : State) : (s.logFn code f d).timerAt = s.timerAt := State.logEntry_timerAt _ s

@[simp] theorem State.logFn_tt (code f : Nat) (d : List Nat) (s : State) : (s.logFn code f d).tt = s.tt := State.logEntry_tt _ s

@[simp] theorem State.logFn_image (code f : Nat) (d : List Nat) (s : State) : (s.logFn code f d).image = s.image := State.logEntry_image _ s

@[simp] theorem State.logFn_fw (code f : Nat) (d : List Nat) (s : State) : (s.logFn code f d).fw = s.fw := State.logEntry_fw _ s

@[simp] theorem State.logFn_free (code f : Nat) (d : List Nat) (s : State) : (s.logFn code f d).free = s.free := State.logEntry_free _ s

@[simp] theorem State.logFn_laneCycle (code f : Nat) (d : List Nat) (s : State) : (s.logFn code f d).laneCycle = s.laneCycle := State.logEntry_laneCycle _ s

@[simp] theorem State.logFn_nextId (code f : Nat) (d : List Nat) (s : State) : (s.logFn code f d).nextId = s.nextId := State.logEntry_nextId _ s

@[simp] theorem State.logFn_issued (code f : Nat) (d : List Nat) (s : State) : (s.logFn code f d).issued = s.issued := State.logEntry_issued _ s

@[simp] theorem State.logFn_pending (code f : Nat) (d : List Nat) (s : State) : (s.logFn code f d).pending = s.pending := State.logEntry_pending _ s

/-! ### logBadAccess -/

@[simp] theorem State.logBadAccess_setup (offset size : Nat) (s : State) : (s.logBadAccess offset size).setup = s.setup := State.logEntry_setup _ s

@[simp] theorem State.logBadAccess_glob (offset size : Nat) (s : State) : (s.logBadAccess offset size).glob = s.glob := State.logEntry_glob _ s

@[simp] theorem State.logBadAccess_adm (offset size : Nat) (s : State) : (s.logBadAccess offset size).adm = s.adm := State.logEntry_adm _ s

@[simp] theorem State.logBadAccess_pen (offset size : Nat) (s : State) : (s.logBadAccess offset size).pen = s.pen := State.logEntry_pen _ s

@[simp] theorem State.logBadAccess_sqs (offset size : Nat) (s : State) : (s.logBadAccess offset size).sqs = s.sqs := State.logEntry_sqs _ s

@[simp] theorem State.logBadAccess_cqs (offset size : Nat) (s : State) : (s.logBadAccess offset size).cqs = s.cqs := State.logEntry_cqs _ s

@[simp] theorem State.logBadAccess_accepted (offset size : Nat) (s : State) : (s.logBadAccess offset size).accepted = s.accepted := State.logEntry_accepted _ s

@[simp] theorem State.logBadAccess_fns (offset size : Nat) (s : State) : (s.logBadAccess offset size).fns = s.fns := State.logEntry_fns _ s

@[simp] theorem State.logBadAccess_hbInt (offset size : Nat) (s : State) : (s.logBadAccess offset size).hbInt = s.hbInt := State.logEntry_hbInt _ s

@[simp] theorem State.logBadAccess_eps (offset size : Nat) (s : State) : (s.logBadAccess offset size).eps = s.eps := State.logEntry_eps _ s

@[simp] theorem State.logBadAccess_lost (offset size : Nat) (s : State) : (s.logBadAccess offset size).lost = s.lost := State.logEntry_lost _ s

@[simp] theorem State.logBadAccess_rigs (offset size : Nat) (s : State) : (s.logBadAccess offset size).rigs = s.rigs := State.logEntry_rigs _ s

@[simp] theorem State.logBadAccess_epochSeq (offset size : Nat) (s : State) : (s.logBadAccess offset size).epochSeq = s.epochSeq := State.logEntry_epochSeq _ s

@[simp] theorem State.logBadAccess_jobs (offset size : Nat) (s : State) : (s.logBadAccess offset size).jobs = s.jobs := State.logEntry_jobs _ s

@[simp] theorem State.logBadAccess_gens (offset size : Nat) (s : State) : (s.logBadAccess offset size).gens = s.gens := State.logEntry_gens _ s

@[simp] theorem State.logBadAccess_restores (offset size : Nat) (s : State) : (s.logBadAccess offset size).restores = s.restores := State.logEntry_restores _ s

@[simp] theorem State.logBadAccess_forks (offset size : Nat) (s : State) : (s.logBadAccess offset size).forks = s.forks := State.logEntry_forks _ s

@[simp] theorem State.logBadAccess_dir (offset size : Nat) (s : State) : (s.logBadAccess offset size).dir = s.dir := State.logEntry_dir _ s

@[simp] theorem State.logBadAccess_dirQ (offset size : Nat) (s : State) : (s.logBadAccess offset size).dirQ = s.dirQ := State.logEntry_dirQ _ s

@[simp] theorem State.logBadAccess_scrubs (offset size : Nat) (s : State) : (s.logBadAccess offset size).scrubs = s.scrubs := State.logEntry_scrubs _ s

@[simp] theorem State.logBadAccess_manStore (offset size : Nat) (s : State) : (s.logBadAccess offset size).manStore = s.manStore := State.logEntry_manStore _ s

@[simp] theorem State.logBadAccess_sheets (offset size : Nat) (s : State) : (s.logBadAccess offset size).sheets = s.sheets := State.logEntry_sheets _ s

@[simp] theorem State.logBadAccess_tackle (offset size : Nat) (s : State) : (s.logBadAccess offset size).tackle = s.tackle := State.logEntry_tackle _ s

@[simp] theorem State.logBadAccess_cleats (offset size : Nat) (s : State) : (s.logBadAccess offset size).cleats = s.cleats := State.logEntry_cleats _ s

@[simp] theorem State.logBadAccess_keys (offset size : Nat) (s : State) : (s.logBadAccess offset size).keys = s.keys := State.logEntry_keys _ s

@[simp] theorem State.logBadAccess_spdm (offset size : Nat) (s : State) : (s.logBadAccess offset size).spdm = s.spdm := State.logEntry_spdm _ s

@[simp] theorem State.logBadAccess_tap (offset size : Nat) (s : State) : (s.logBadAccess offset size).tap = s.tap := State.logEntry_tap _ s

@[simp] theorem State.logBadAccess_links (offset size : Nat) (s : State) : (s.logBadAccess offset size).links = s.links := State.logEntry_links _ s

@[simp] theorem State.logBadAccess_drainUp (offset size : Nat) (s : State) : (s.logBadAccess offset size).drainUp = s.drainUp := State.logEntry_drainUp _ s

@[simp] theorem State.logBadAccess_freqs (offset size : Nat) (s : State) : (s.logBadAccess offset size).freqs = s.freqs := State.logEntry_freqs _ s

@[simp] theorem State.logBadAccess_waitPkts (offset size : Nat) (s : State) : (s.logBadAccess offset size).waitPkts = s.waitPkts := State.logEntry_waitPkts _ s

@[simp] theorem State.logBadAccess_sreqs (offset size : Nat) (s : State) : (s.logBadAccess offset size).sreqs = s.sreqs := State.logEntry_sreqs _ s

@[simp] theorem State.logBadAccess_unknown (offset size : Nat) (s : State) : (s.logBadAccess offset size).unknown = s.unknown := State.logEntry_unknown _ s

@[simp] theorem State.logBadAccess_hreqs (offset size : Nat) (s : State) : (s.logBadAccess offset size).hreqs = s.hreqs := State.logEntry_hreqs _ s

@[simp] theorem State.logBadAccess_xfers (offset size : Nat) (s : State) : (s.logBadAccess offset size).xfers = s.xfers := State.logEntry_xfers _ s

@[simp] theorem State.logBadAccess_arbs (offset size : Nat) (s : State) : (s.logBadAccess offset size).arbs = s.arbs := State.logEntry_arbs _ s

@[simp] theorem State.logBadAccess_pipeCtx (offset size : Nat) (s : State) : (s.logBadAccess offset size).pipeCtx = s.pipeCtx := State.logEntry_pipeCtx _ s

@[simp] theorem State.logBadAccess_rounds (offset size : Nat) (s : State) : (s.logBadAccess offset size).rounds = s.rounds := State.logEntry_rounds _ s

@[simp] theorem State.logBadAccess_roundW (offset size : Nat) (s : State) : (s.logBadAccess offset size).roundW = s.roundW := State.logEntry_roundW _ s

@[simp] theorem State.logBadAccess_yards (offset size : Nat) (s : State) : (s.logBadAccess offset size).yards = s.yards := State.logEntry_yards _ s

@[simp] theorem State.logBadAccess_tests (offset size : Nat) (s : State) : (s.logBadAccess offset size).tests = s.tests := State.logEntry_tests _ s

@[simp] theorem State.logBadAccess_procs (offset size : Nat) (s : State) : (s.logBadAccess offset size).procs = s.procs := State.logEntry_procs _ s

@[simp] theorem State.logBadAccess_waking (offset size : Nat) (s : State) : (s.logBadAccess offset size).waking = s.waking := State.logEntry_waking _ s

@[simp] theorem State.logBadAccess_mb (offset size : Nat) (s : State) : (s.logBadAccess offset size).mb = s.mb := State.logEntry_mb _ s

@[simp] theorem State.logBadAccess_sensors (offset size : Nat) (s : State) : (s.logBadAccess offset size).sensors = s.sensors := State.logEntry_sensors _ s

@[simp] theorem State.logBadAccess_droopArmed (offset size : Nat) (s : State) : (s.logBadAccess offset size).droopArmed = s.droopArmed := State.logEntry_droopArmed _ s

@[simp] theorem State.logBadAccess_idleSince (offset size : Nat) (s : State) : (s.logBadAccess offset size).idleSince = s.idleSince := State.logEntry_idleSince _ s

@[simp] theorem State.logBadAccess_timerAt (offset size : Nat) (s : State) : (s.logBadAccess offset size).timerAt = s.timerAt := State.logEntry_timerAt _ s

@[simp] theorem State.logBadAccess_tt (offset size : Nat) (s : State) : (s.logBadAccess offset size).tt = s.tt := State.logEntry_tt _ s

@[simp] theorem State.logBadAccess_image (offset size : Nat) (s : State) : (s.logBadAccess offset size).image = s.image := State.logEntry_image _ s

@[simp] theorem State.logBadAccess_fw (offset size : Nat) (s : State) : (s.logBadAccess offset size).fw = s.fw := State.logEntry_fw _ s

@[simp] theorem State.logBadAccess_free (offset size : Nat) (s : State) : (s.logBadAccess offset size).free = s.free := State.logEntry_free _ s

@[simp] theorem State.logBadAccess_laneCycle (offset size : Nat) (s : State) : (s.logBadAccess offset size).laneCycle = s.laneCycle := State.logEntry_laneCycle _ s

@[simp] theorem State.logBadAccess_nextId (offset size : Nat) (s : State) : (s.logBadAccess offset size).nextId = s.nextId := State.logEntry_nextId _ s

@[simp] theorem State.logBadAccess_issued (offset size : Nat) (s : State) : (s.logBadAccess offset size).issued = s.issued := State.logEntry_issued _ s

@[simp] theorem State.logBadAccess_pending (offset size : Nat) (s : State) : (s.logBadAccess offset size).pending = s.pending := State.logEntry_pending _ s

/-! ### settle -/

@[simp] theorem State.settle_pending (s : State) : s.settle.pending = s.pending := rfl

@[simp] theorem State.settle_setup (s : State) : s.settle.setup = s.setup := rfl

@[simp] theorem State.settle_pen (s : State) : s.settle.pen = s.pen := rfl

@[simp] theorem State.settle_rigs (s : State) : s.settle.rigs = s.rigs := rfl

@[simp] theorem State.settle_spdm (s : State) : s.settle.spdm = s.spdm := rfl

@[simp] theorem State.settle_hbInt (s : State) : s.settle.hbInt = s.hbInt := rfl

@[simp] theorem State.settle_sensors (s : State) : s.settle.sensors = s.sensors := rfl

@[simp] theorem State.settle_droopArmed (s : State) : s.settle.droopArmed = s.droopArmed := rfl

@[simp] theorem State.settle_epochSeq (s : State) : s.settle.epochSeq = s.epochSeq := rfl

@[simp] theorem State.settle_drainUp (s : State) : s.settle.drainUp = s.drainUp := rfl

@[simp] theorem State.settle_waking (s : State) : s.settle.waking = s.waking := rfl

@[simp] theorem State.settle_laneCycle (s : State) : s.settle.laneCycle = s.laneCycle := rfl

/-! ### The outcomes -/

@[simp] theorem State.settle_glob_power (s : State) : s.settle.glob.power = s.glob.power := rfl

@[simp] theorem State.settle_glob_porstLow (s : State) : s.settle.glob.porstLow = s.glob.porstLow := rfl

@[simp] theorem State.settle_glob_blkRstLow (s : State) : s.settle.glob.blkRstLow = s.glob.blkRstLow := rfl

@[simp] theorem State.settle_glob_afterPorst (s : State) : s.settle.glob.afterPorst = s.glob.afterPorst := rfl

@[simp] theorem State.settle_glob_ready (s : State) : s.settle.glob.ready = s.glob.ready := rfl

@[simp] theorem State.settle_glob_recovery (s : State) : s.settle.glob.recovery = s.glob.recovery := rfl

@[simp] theorem State.settle_glob_debugUnlocked (s : State) : s.settle.glob.debugUnlocked = s.glob.debugUnlocked := rfl

@[simp] theorem State.settle_glob_pfPasid (s : State) : s.settle.glob.pfPasid = s.glob.pfPasid := rfl

@[simp] theorem State.settle_glob_fabTimeout (s : State) : s.settle.glob.fabTimeout = s.glob.fabTimeout := rfl

@[simp] theorem State.settle_glob_held (s : State) : s.settle.glob.held = s.glob.held := rfl

@[simp] theorem State.settle_glob_preemptHigh (s : State) : s.settle.glob.preemptHigh = s.glob.preemptHigh := rfl

@[simp] theorem State.settle_glob_wakeHigh (s : State) : s.settle.glob.wakeHigh = s.glob.wakeHigh := rfl

@[simp] theorem State.settle_glob_pmbHigh (s : State) : s.settle.glob.pmbHigh = s.glob.pmbHigh := rfl

@[simp] theorem State.settle_glob_sbHigh (s : State) : s.settle.glob.sbHigh = s.glob.sbHigh := rfl

@[simp] theorem State.keepFixed_setup (s t : State) : (s.keepFixed t).setup = s.setup := rfl

@[simp] theorem State.keepFixed_glob (s t : State) : (s.keepFixed t).glob = t.glob := rfl

@[simp] theorem State.keepFixed_adm (s t : State) : (s.keepFixed t).adm = t.adm := rfl

@[simp] theorem State.keepFixed_pen (s t : State) : (s.keepFixed t).pen = s.pen := rfl

@[simp] theorem State.keepFixed_sqs (s t : State) : (s.keepFixed t).sqs = t.sqs := rfl

@[simp] theorem State.keepFixed_cqs (s t : State) : (s.keepFixed t).cqs = t.cqs := rfl

@[simp] theorem State.keepFixed_accepted (s t : State) : (s.keepFixed t).accepted = t.accepted := rfl

@[simp] theorem State.keepFixed_fns (s t : State) : (s.keepFixed t).fns = t.fns := rfl

@[simp] theorem State.keepFixed_hbInt (s t : State) : (s.keepFixed t).hbInt = s.hbInt := rfl

@[simp] theorem State.keepFixed_eps (s t : State) : (s.keepFixed t).eps = t.eps := rfl

@[simp] theorem State.keepFixed_lost (s t : State) : (s.keepFixed t).lost = t.lost := rfl

@[simp] theorem State.keepFixed_rigs (s t : State) : (s.keepFixed t).rigs = s.rigs := rfl

@[simp] theorem State.keepFixed_epochSeq (s t : State) : (s.keepFixed t).epochSeq = t.epochSeq := rfl

@[simp] theorem State.keepFixed_jobs (s t : State) : (s.keepFixed t).jobs = t.jobs := rfl

@[simp] theorem State.keepFixed_gens (s t : State) : (s.keepFixed t).gens = t.gens := rfl

@[simp] theorem State.keepFixed_restores (s t : State) : (s.keepFixed t).restores = t.restores := rfl

@[simp] theorem State.keepFixed_forks (s t : State) : (s.keepFixed t).forks = t.forks := rfl

@[simp] theorem State.keepFixed_dir (s t : State) : (s.keepFixed t).dir = t.dir := rfl

@[simp] theorem State.keepFixed_dirQ (s t : State) : (s.keepFixed t).dirQ = t.dirQ := rfl

@[simp] theorem State.keepFixed_scrubs (s t : State) : (s.keepFixed t).scrubs = t.scrubs := rfl

@[simp] theorem State.keepFixed_manStore (s t : State) : (s.keepFixed t).manStore = t.manStore := rfl

@[simp] theorem State.keepFixed_sheets (s t : State) : (s.keepFixed t).sheets = t.sheets := rfl

@[simp] theorem State.keepFixed_tackle (s t : State) : (s.keepFixed t).tackle = t.tackle := rfl

@[simp] theorem State.keepFixed_cleats (s t : State) : (s.keepFixed t).cleats = t.cleats := rfl

@[simp] theorem State.keepFixed_keys (s t : State) : (s.keepFixed t).keys = t.keys := rfl

@[simp] theorem State.keepFixed_spdm (s t : State) : (s.keepFixed t).spdm = s.spdm := rfl

@[simp] theorem State.keepFixed_tap (s t : State) : (s.keepFixed t).tap = t.tap := rfl

@[simp] theorem State.keepFixed_links (s t : State) : (s.keepFixed t).links = t.links := rfl

@[simp] theorem State.keepFixed_drainUp (s t : State) : (s.keepFixed t).drainUp = t.drainUp := rfl

@[simp] theorem State.keepFixed_freqs (s t : State) : (s.keepFixed t).freqs = t.freqs := rfl

@[simp] theorem State.keepFixed_waitPkts (s t : State) : (s.keepFixed t).waitPkts = t.waitPkts := rfl

@[simp] theorem State.keepFixed_sreqs (s t : State) : (s.keepFixed t).sreqs = t.sreqs := rfl

@[simp] theorem State.keepFixed_unknown (s t : State) : (s.keepFixed t).unknown = t.unknown := rfl

@[simp] theorem State.keepFixed_hreqs (s t : State) : (s.keepFixed t).hreqs = t.hreqs := rfl

@[simp] theorem State.keepFixed_xfers (s t : State) : (s.keepFixed t).xfers = t.xfers := rfl

@[simp] theorem State.keepFixed_arbs (s t : State) : (s.keepFixed t).arbs = t.arbs := rfl

@[simp] theorem State.keepFixed_pipeCtx (s t : State) : (s.keepFixed t).pipeCtx = t.pipeCtx := rfl

@[simp] theorem State.keepFixed_rounds (s t : State) : (s.keepFixed t).rounds = t.rounds := rfl

@[simp] theorem State.keepFixed_roundW (s t : State) : (s.keepFixed t).roundW = t.roundW := rfl

@[simp] theorem State.keepFixed_yards (s t : State) : (s.keepFixed t).yards = t.yards := rfl

@[simp] theorem State.keepFixed_tests (s t : State) : (s.keepFixed t).tests = t.tests := rfl

@[simp] theorem State.keepFixed_procs (s t : State) : (s.keepFixed t).procs = t.procs := rfl

@[simp] theorem State.keepFixed_waking (s t : State) : (s.keepFixed t).waking = t.waking := rfl

@[simp] theorem State.keepFixed_mb (s t : State) : (s.keepFixed t).mb = t.mb := rfl

@[simp] theorem State.keepFixed_sensors (s t : State) : (s.keepFixed t).sensors = t.sensors := rfl

@[simp] theorem State.keepFixed_droopArmed (s t : State) : (s.keepFixed t).droopArmed = t.droopArmed := rfl

@[simp] theorem State.keepFixed_idleSince (s t : State) : (s.keepFixed t).idleSince = t.idleSince := rfl

@[simp] theorem State.keepFixed_timerAt (s t : State) : (s.keepFixed t).timerAt = t.timerAt := rfl

@[simp] theorem State.keepFixed_tt (s t : State) : (s.keepFixed t).tt = t.tt := rfl

@[simp] theorem State.keepFixed_log (s t : State) : (s.keepFixed t).log = t.log := rfl

@[simp] theorem State.keepFixed_image (s t : State) : (s.keepFixed t).image = t.image := rfl

@[simp] theorem State.keepFixed_fw (s t : State) : (s.keepFixed t).fw = s.fw := rfl

@[simp] theorem State.keepFixed_ctr (s t : State) : (s.keepFixed t).ctr = t.ctr := rfl

@[simp] theorem State.keepFixed_free (s t : State) : (s.keepFixed t).free = t.free := rfl

@[simp] theorem State.keepFixed_laneCycle (s t : State) : (s.keepFixed t).laneCycle = t.laneCycle := rfl

@[simp] theorem State.keepFixed_nextId (s t : State) : (s.keepFixed t).nextId = t.nextId := rfl

@[simp] theorem State.keepFixed_issued (s t : State) : (s.keepFixed t).issued = t.issued := rfl

@[simp] theorem State.keepFixed_pending (s t : State) : (s.keepFixed t).pending = s.pending := rfl

@[simp] theorem State.keepSetup_setup (s t : State) : (s.keepSetup t).setup = s.setup := rfl

@[simp] theorem State.keepSetup_pending (s t : State) : (s.keepSetup t).pending = s.pending := rfl

@[simp] theorem State.keepSetup_records (s t : State) (n : Nat) :
    (s.keepSetup t).pen.records n = s.pen.records n := rfl

@[simp] theorem State.keepTimed_setup (s t : State) : (s.keepTimed t).setup = s.setup := rfl

@[simp] theorem State.keepTimed_pending (s t : State) : (s.keepTimed t).pending = s.pending := rfl

@[simp] theorem State.keepTimed_records (s t : State) (n : Nat) :
    (s.keepTimed t).pen.records n = s.pen.records n := rfl

end Sys2Proof.Machine
end

