-- ==== Sys2Proof/Laws/Clock.lean ====
section
/-! SUPPORT. What the passing of time leaves alone: lane cycles count and gain tokens, and a tick moves the always-on clocks. -/

namespace Sys2Proof.Machine

/-- Counting along a list changes counters only. -/
theorem State.foldl_count {α : Type} (l : List α) (id n : α → Nat) (s : State) :
    ∃ c, l.foldl (fun s a => s.count (id a) (n a)) s = { s with ctr := c } := by
  induction l generalizing s with
  | nil => exact ⟨s.ctr, rfl⟩
  | cons a l ih =>
    obtain ⟨c, hc⟩ := ih (s.count (id a) (n a))
    exact ⟨c, by simp only [List.foldl_cons, hc]; rfl⟩

/-- As above, where the counter may depend on the state. -/
theorem State.foldl_count' {α : Type} (l : List α) (id : State → α → Nat) (n : Nat) (s : State) :
    ∃ c, l.foldl (fun s a => s.count (id s a) n) s = { s with ctr := c } := by
  induction l generalizing s with
  | nil => exact ⟨s.ctr, rfl⟩
  | cons a l ih =>
    obtain ⟨c, hc⟩ := ih (s.count (id s a) n)
    exact ⟨c, by simp only [List.foldl_cons, hc]; rfl⟩

/-- What lane cycles change: counters, the shortfalls of restores, the cycle number and token buckets. -/
theorem State.laneCycles_eq (n : Nat) (s : State) :
    ∃ c re sh fn, s.laneCycles n =
      { s with ctr := c, restores := re, laneCycle := s.laneCycle + n, sheets := sh, fns := fn } := by
  unfold State.laneCycles
  simp only
  obtain ⟨c0, h0⟩ := State.foldl_count (s.count (ctrId 0 0 0) n).busy id (fun _ => n) (s.count (ctrId 0 0 0) n)
  simp only [id] at h0
  rw [h0]
  obtain ⟨c1, h1⟩ := State.foldl_count' (({ s.count (ctrId 0 0 0) n with ctr := c0 } : State).sheets.filter fun p => p.2.dry)
    (fun s p => ctrId 0xA p.1 (s.stallOf p.1 p.2)) n ({ s.count (ctrId 0 0 0) n with ctr := c0 } : State)
  rw [h1]
  obtain ⟨c2, h2⟩ := State.foldl_count (({ s.count (ctrId 0 0 0) n with ctr := c1 } : State).cqs.filter fun p => p.2.full)
    (fun p => ctrId 9 p.1 0) (fun _ => n) ({ s.count (ctrId 0 0 0) n with ctr := c1 } : State)
  rw [h2]
  exact ⟨_, _, _, _, rfl⟩

/-- What a port's flits change: counters and its link. -/
theorem State.flitsTaken_eq (d n p : Nat) (s : State) : ∃ c l, s.flitsTaken d n p = { s with ctr := c, links := l } := by
  unfold State.flitsTaken
  split
  · exact ⟨_, _, rfl⟩
  · exact ⟨_, _, rfl⟩

/-- As above, over ports. -/
theorem State.foldl_flitsTaken (l : List Nat) (d n : Nat) (s : State) :
    ∃ c k, l.foldl (fun s p => s.flitsTaken d n p) s = { s with ctr := c, links := k } := by
  induction l generalizing s with
  | nil => exact ⟨_, _, rfl⟩
  | cons a l ih =>
    obtain ⟨c, k, h⟩ := State.flitsTaken_eq d n a s
    obtain ⟨c', k', h'⟩ := ih (s.flitsTaken d n a)
    exact ⟨c', k', by rw [List.foldl_cons, h', h]⟩

/-- What the open counts change: counters and the flits that links offer. -/
theorem State.openCounts_eq (n : Nat) (s : State) : ∃ c l, s.openCounts n = { s with ctr := c, links := l } := by
  unfold State.openCounts
  simp only
  obtain ⟨c1, l1, h1⟩ := State.foldl_flitsTaken (List.range 32) s.free (n * 5 / 4 + 1) s
  rw [h1]
  obtain ⟨c2, h2⟩ := State.foldl_count firmwareMemories (fun i => ctrId 0xD i 0) (Config.firmwareWords s.free)
    ({ s with ctr := c1, links := l1 } : State)
  rw [h2]
  exact ⟨_, _, rfl⟩

/-- What ticks change: the always-on clocks, the free-value counter, what links offer, and what lane cycles change. -/
theorem State.ticks_eq (n : Nat) (s : State) :
    ∃ c li re sh fn fr lc, s.ticks n =
      { s with pen := s.pen.advance n, free := fr, ctr := c, links := li, restores := re, laneCycle := lc, sheets := sh, fns := fn } := by
  unfold State.ticks
  simp only
  by_cases h : s.glob.power = .run
  · rw [if_pos h]
    obtain ⟨c0, l0, h0⟩ := State.openCounts_eq (Config.laneCycles s.free) ({ s with pen := s.pen.advance n } : State)
    rw [h0]
    obtain ⟨c, re, sh, fn, hc⟩ := State.laneCycles_eq (Config.laneCycles s.free)
      ({ s with pen := s.pen.advance n, ctr := c0, links := l0 } : State)
    rw [hc]
    exact ⟨_, _, _, _, _, _, _, rfl⟩
  · rw [if_neg h]
    exact ⟨_, _, _, _, _, _, _, rfl⟩

end Sys2Proof.Machine
end

