-- ==== Sys2Proof/Laws/Map.lean ====
section
/-! SUPPORT. Laws of finite maps: what a look-up finds after a change, and that every change keeps the canonical form. -/

namespace Sys2Proof.Machine

variable {α : Type}

@[simp] theorem FMap.find_nil (n : Nat) : FMap.find ([] : FMap α) n = none := rfl

@[simp] theorem FMap.find_put_self (m : FMap α) (n : Nat) (a : α) : FMap.find (FMap.put m n a) n = some a := by
  induction m with
  | nil => simp [FMap.put, FMap.find]
  | cons p m ih =>
    obtain ⟨k, v⟩ := p
    simp only [FMap.put]
    split
    · simp [FMap.find]
    · split
      · simp [FMap.find]
      · rename_i h1 h2
        simp [FMap.find, Ne.symm h2, ih]

theorem FMap.find_put_ne (m : FMap α) {n k : Nat} (a : α) (h : k ≠ n) :
    FMap.find (FMap.put m n a) k = FMap.find m k := by
  induction m with
  | nil => simp [FMap.put, FMap.find, Ne.symm h]
  | cons p m ih =>
    obtain ⟨q, v⟩ := p
    simp only [FMap.put]
    split
    · simp [FMap.find, Ne.symm h]
    · split
      · rename_i h1 h2
        subst h2
        simp [FMap.find, Ne.symm h]
      · simp only [FMap.find]
        split
        · rfl
        · exact ih

theorem FMap.find_del_ne (m : FMap α) {n k : Nat} (h : k ≠ n) : FMap.find (FMap.del m n) k = FMap.find m k := by
  induction m with
  | nil => rfl
  | cons p m ih =>
    obtain ⟨q, v⟩ := p
    simp only [FMap.del]
    split
    · rename_i h1
      subst h1
      simp [FMap.find, Ne.symm h]
    · simp only [FMap.find]
      split
      · rfl
      · exact ih

@[simp] theorem FMap.find_mapV (m : FMap α) (f : Nat → α → α) (n : Nat) :
    FMap.find (FMap.mapV m f) n = (FMap.find m n).map (f n) := by
  induction m with
  | nil => rfl
  | cons p m ih =>
    obtain ⟨k, v⟩ := p
    simp only [FMap.mapV, List.map_cons, FMap.find]
    split
    · rename_i h
      subst h
      rfl
    · exact ih

theorem FMap.find_modify_self (m : FMap α) (n : Nat) (f : α → α) :
    FMap.find (FMap.modify m n f) n = (FMap.find m n).map f := by
  unfold FMap.modify
  cases h : FMap.find m n with
  | none => simp [h]
  | some v => simp

theorem FMap.find_modify_ne (m : FMap α) {n k : Nat} (f : α → α) (h : k ≠ n) :
    FMap.find (FMap.modify m n f) k = FMap.find m k := by
  unfold FMap.modify
  cases FMap.find m n with
  | none => rfl
  | some v => exact FMap.find_put_ne m _ h

/-- Every key of a map. -/
def FMap.keys (m : FMap α) : List Nat := m.map Prod.fst

/-- The keys rise strictly, as a relation on the whole list. -/
theorem FMap.sorted_iff (m : FMap α) : FMap.Sorted m ↔ (FMap.keys m).Pairwise (· < ·) := by
  induction m with
  | nil => simp [FMap.Sorted, FMap.keys]
  | cons p m ih =>
    cases m with
    | nil => simp [FMap.Sorted, FMap.keys]
    | cons q m =>
      simp only [FMap.Sorted, ih, FMap.keys, List.map_cons, List.pairwise_cons]
      constructor
      · rintro ⟨h1, h2, h3⟩
        refine ⟨?_, h2, h3⟩
        intro k hk
        rcases List.mem_cons.mp hk with rfl | hk
        · exact h1
        · exact lt_trans h1 (h2 k hk)
      · rintro ⟨h1, h2, h3⟩
        exact ⟨h1 _ (List.mem_cons_self), h2, h3⟩

theorem FMap.keys_put (m : FMap α) (n : Nat) (a : α) (k : Nat) (h : k ∈ FMap.keys (FMap.put m n a)) :
    k = n ∨ k ∈ FMap.keys m := by
  induction m with
  | nil => simpa [FMap.put, FMap.keys] using h
  | cons p m ih =>
    obtain ⟨q, v⟩ := p
    simp only [FMap.put] at h
    split at h
    · simpa [FMap.keys] using h
    · split at h
      · rename_i _ h2
        subst h2
        right
        simpa [FMap.keys] using h
      · simp only [FMap.keys, List.map_cons, List.mem_cons] at h ih ⊢
        rcases h with h | h
        · exact .inr (.inl h)
        · rcases ih h with h | h
          · exact .inl h
          · exact .inr (.inr h)

/-- A change of one entry keeps the canonical form. -/
theorem FMap.sorted_put (m : FMap α) (n : Nat) (a : α) (h : FMap.Sorted m) : FMap.Sorted (FMap.put m n a) := by
  rw [FMap.sorted_iff] at h ⊢
  induction m with
  | nil => simp [FMap.put, FMap.keys]
  | cons p m ih =>
    obtain ⟨q, v⟩ := p
    simp only [FMap.keys, List.map_cons, List.pairwise_cons] at h
    simp only [FMap.put]
    split
    · rename_i h1
      simp only [FMap.keys, List.map_cons, List.pairwise_cons, List.mem_cons]
      refine ⟨?_, h.1, h.2⟩
      rintro k (rfl | hk)
      · exact h1
      · exact lt_trans h1 (h.1 k hk)
    · split
      · rename_i _ h2
        subst h2
        simpa [FMap.keys, List.pairwise_cons] using h
      · rename_i h1 h2
        simp only [FMap.keys, List.map_cons, List.pairwise_cons]
        refine ⟨?_, ih h.2⟩
        intro k hk
        rcases FMap.keys_put m n a k hk with rfl | hk
        · omega
        · exact h.1 k hk

theorem FMap.keys_del (m : FMap α) (n k : Nat) (h : k ∈ FMap.keys (FMap.del m n)) : k ∈ FMap.keys m := by
  induction m with
  | nil => simpa [FMap.del] using h
  | cons p m ih =>
    obtain ⟨q, v⟩ := p
    simp only [FMap.del] at h
    split at h
    · simp only [FMap.keys, List.map_cons, List.mem_cons]
      exact .inr h
    · simp only [FMap.keys, List.map_cons, List.mem_cons] at h ⊢
      rcases h with h | h
      · exact .inl h
      · exact .inr (ih h)

/-- Removing an entry keeps the canonical form. -/
theorem FMap.sorted_del (m : FMap α) (n : Nat) (h : FMap.Sorted m) : FMap.Sorted (FMap.del m n) := by
  rw [FMap.sorted_iff] at h ⊢
  induction m with
  | nil => simp [FMap.del, FMap.keys]
  | cons p m ih =>
    obtain ⟨q, v⟩ := p
    simp only [FMap.keys, List.map_cons, List.pairwise_cons] at h
    simp only [FMap.del]
    split
    · exact h.2
    · simp only [FMap.keys, List.map_cons, List.pairwise_cons]
      exact ⟨fun k hk => h.1 k (FMap.keys_del m n k hk), ih h.2⟩

/-- In the canonical form a removed key is not found. -/
theorem FMap.find_del_self (m : FMap α) (n : Nat) (h : FMap.Sorted m) : FMap.find (FMap.del m n) n = none := by
  rw [FMap.sorted_iff] at h
  induction m with
  | nil => rfl
  | cons p m ih =>
    obtain ⟨q, v⟩ := p
    simp only [FMap.keys, List.map_cons, List.pairwise_cons] at h
    have aux : ∀ (m : FMap α), (∀ k ∈ FMap.keys m, n ≠ k) → FMap.find m n = none := by
      intro m
      induction m with
      | nil => intro _; rfl
      | cons p m ih =>
        intro hk
        simp only [FMap.keys, List.map_cons, List.mem_cons] at hk
        simp only [FMap.find]
        rw [if_neg (fun e => hk p.1 (.inl rfl) e.symm)]
        exact ih fun k hk' => hk k (.inr hk')
    simp only [FMap.del]
    split
    · rename_i h1
      subst h1
      exact aux m fun k hk => (h.1 k hk).ne
    · rename_i h1
      simp only [FMap.find, if_neg h1]
      exact ih h.2

/-- Setting a count keeps the canonical form. -/
theorem NMap.sorted_set (m : FMap Nat) (k v : Nat) (h : FMap.Sorted m) : FMap.Sorted (NMap.set m k v) := by
  unfold NMap.set
  split
  · exact FMap.sorted_del m k h
  · exact FMap.sorted_put m k v h

/-- What a count reads after it is set. -/
theorem NMap.get_set (m : FMap Nat) (k v : Nat) (h : FMap.Sorted m) : NMap.get (NMap.set m k v) k = v := by
  unfold NMap.get NMap.set FMap.getD
  split
  · rename_i hv
    rw [FMap.find_del_self m k h, hv]
    rfl
  · rw [FMap.find_put_self]
    rfl

/-- Setting a count leaves the others. -/
theorem NMap.get_set_ne (m : FMap Nat) {k j : Nat} (v : Nat) (h : j ≠ k) :
    NMap.get (NMap.set m k v) j = NMap.get m j := by
  unfold NMap.get NMap.set FMap.getD
  split
  · rw [FMap.find_del_ne m h]
  · rw [FMap.find_put_ne m v h]

end Sys2Proof.Machine
end

