-- ==== Sys2Proof/Laws/Ops.lean ====
section
/-! SUPPORT. Laws of the shared operations: what an accepted entry holds after it is changed, ended or refused, and what a
Cleat's count reads after it is set. -/

namespace Sys2Proof.Machine

/-- A change that keeps every entry's number is seen at the entry it names. -/
theorem State.acc_modAcc (s : State) (e : Nat) (g : Acc → Acc) (h : ∀ a, (g a).id = a.id) :
    (s.modAcc e g).acc e = (s.acc e).map g := by
  unfold State.modAcc State.acc
  simp only
  induction s.accepted with
  | nil => rfl
  | cons a l ih =>
    simp only [List.map_cons, List.find?_cons]
    by_cases ha : a.id = e
    · simp [ha, h]
    · have h2 : (a.id == e) = false := by simp [ha]
      simp [ha, h2, ih]

/-- Another entry is not changed. -/
theorem State.acc_modAcc_ne (s : State) {e d : Nat} (g : Acc → Acc) (h : ∀ a, (g a).id = a.id) (hd : d ≠ e) :
    (s.modAcc e g).acc d = s.acc d := by
  unfold State.modAcc State.acc
  simp only
  induction s.accepted with
  | nil => rfl
  | cons a l ih =>
    simp only [List.map_cons, List.find?_cons]
    by_cases ha : a.id = e
    · have h2 : (e == d) = false := by simp [Ne.symm hd]
      simp [ha, h, h2, ih]
    · simp only [if_neg ha, ih]

/-- The number of an entry that is found. -/
theorem State.acc_id (s : State) {e : Nat} {a : Acc} (h : s.acc e = some a) : a.id = e := by
  unfold State.acc at h
  have := List.find?_some h
  simpa using this

/-- Ending an entry that has not ended. -/
theorem State.acc_endEntry (s : State) (e info : Nat) :
    (s.endEntry e info).acc e = (s.acc e).map fun a => if a.fin.isNone then { a with fin := some info } else a := by
  unfold State.endEntry
  apply State.acc_modAcc
  intro a
  split <;> rfl

/-- Meeting a condition. -/
theorem State.acc_meet (s : State) (e status info : Nat) :
    (s.meet e status info).acc e = (s.acc e).map fun a =>
      if a.fin.isNone && !(countedOnce status && a.conds.contains ⟨status, info⟩) then { a with conds := a.conds ++ [⟨status, info⟩] } else a := by
  unfold State.meet
  apply State.acc_modAcc
  intro a
  split <;> rfl

/-- A Cleat's count after it is set. -/
theorem State.cleat_setCleat (s : State) (c n : Nat) (h : FMap.Sorted s.cleats) : (s.setCleat c n).cleat c = n :=
  NMap.get_set s.cleats c n h

/-- The other Cleats keep their counts. -/
theorem State.cleat_setCleat_ne (s : State) {c d : Nat} (n : Nat) (h : d ≠ c) : (s.setCleat c n).cleat d = s.cleat d :=
  NMap.get_set_ne s.cleats n h

/-- Setting a count keeps the Cleats' canonical form. -/
theorem State.sorted_setCleat (s : State) (c n : Nat) (h : FMap.Sorted s.cleats) : FMap.Sorted (s.setCleat c n).cleats :=
  NMap.sorted_set s.cleats c n h

end Sys2Proof.Machine
end

