-- ==== Sys2Proof/Laws/Entries.lean ====
section
/-! SUPPORT. What the operations that every entry's row goes through do: the start of an entry, its refusals, its end. -/

namespace Sys2Proof.Machine

/-! ### Lists of refusals -/

@[simp] theorem refuse_false (status info : Nat) : refuse false status info = none := rfl

@[simp] theorem refuse_true (status info : Nat) : refuse true status info = some ⟨status, info⟩ := rfl

@[simp] theorem firstCond_nil : firstCond [] = none := rfl

@[simp] theorem firstCond_cons_none (cs : List (Option Cond)) : firstCond (none :: cs) = firstCond cs := rfl

@[simp] theorem firstCond_cons_some (c : Cond) (cs : List (Option Cond)) : firstCond (some c :: cs) = some c := rfl

@[simp] theorem State.orRefuse_none (s : State) (e : EntryId) (f : State → State) : s.orRefuse e none f = f s := rfl

@[simp] theorem State.orRefuse_some (s : State) (e : EntryId) (c : Cond) (f : State → State) :
    s.orRefuse e (some c) f = s.failEntry e c.status c.info := rfl

/-- An entry that asks for no signal is not refused for one (R82). -/
theorem State.signalRefusal_none (s : State) (f : Nat) (h : Hdr) (hs : h.sig = false) : s.signalRefusal f h = none := by
  simp [State.signalRefusal, hs]

/-! ### The start and the end of an entry -/

/-- An entry that is accepted and not acted on runs its row, after which the block settles (R80). -/
theorem State.started_accepted {s : State} {a : Acc} (h : s.acc a.id = some a) (hp : a.phase = .accepted) (hf : a.fin = none)
    (k : Acc → State → State) : s.started a.id k = (k a s).settle := by
  simp [State.started, h, hp, hf]

/-- A change of an accepted entry that keeps its number. -/
theorem State.acc_modAcc_some {s : State} {e : Nat} {a : Acc} (g : Acc → Acc) (hg : ∀ a, (g a).id = a.id) (h : s.acc e = some a) :
    (s.modAcc e g).acc e = some (g a) := by
  rw [State.acc_modAcc _ _ _ hg, h]
  rfl

/-- An entry that has not ended ends with its INFO. -/
theorem State.acc_endEntry_some {s : State} {a : Acc} (h : s.acc a.id = some a) (hf : a.fin = none) (info : Nat) :
    (s.endEntry a.id info).acc a.id = some { a with fin := some info } := by
  simp [State.acc_endEntry, h, hf]

/-- A refused entry ends with its condition, and INFO 0 beside it. -/
theorem State.acc_failEntry_some {s : State} {a : Acc} (h : s.acc a.id = some a) (hf : a.fin = none) (hc : a.conds = []) (status info : Nat) :
    (s.failEntry a.id status info).acc a.id = some { a with conds := [⟨status, info⟩], fin := some 0 } := by
  simp [State.failEntry, State.acc_endEntry, State.acc_meet, h, hf, hc]

/-! ### Entries are the accepted ones, whatever else changes -/

@[simp] theorem State.acc_with_glob (s : State) (x : Glob) (e : Nat) : ({ s with glob := x } : State).acc e = s.acc e := rfl

@[simp] theorem State.acc_with_sqs (s : State) (x : FMap Sq) (e : Nat) : ({ s with sqs := x } : State).acc e = s.acc e := rfl

@[simp] theorem State.acc_with_cqs (s : State) (x : FMap Cq) (e : Nat) : ({ s with cqs := x } : State).acc e = s.acc e := rfl

@[simp] theorem State.acc_with_fns (s : State) (x : FMap Fn) (e : Nat) : ({ s with fns := x } : State).acc e = s.acc e := rfl

@[simp] theorem State.acc_with_ctr (s : State) (x : Counters) (e : Nat) : ({ s with ctr := x } : State).acc e = s.acc e := rfl

@[simp] theorem State.acc_with_jobs (s : State) (x : FMap Job) (e : Nat) : ({ s with jobs := x } : State).acc e = s.acc e := rfl

@[simp] theorem State.acc_with_gens (s : State) (x : List Gen) (e : Nat) : ({ s with gens := x } : State).acc e = s.acc e := rfl

@[simp] theorem State.acc_with_xfers (s : State) (x : FMap Xfer) (e : Nat) : ({ s with xfers := x } : State).acc e = s.acc e := rfl

@[simp] theorem State.acc_with_sheets (s : State) (x : FMap Sheet) (e : Nat) : ({ s with sheets := x } : State).acc e = s.acc e := rfl

@[simp] theorem State.acc_with_cleats (s : State) (x : FMap Nat) (e : Nat) : ({ s with cleats := x } : State).acc e = s.acc e := rfl

@[simp] theorem State.acc_with_log (s : State) (x : Log) (e : Nat) : ({ s with log := x } : State).acc e = s.acc e := rfl

@[simp] theorem State.acc_with_keys (s : State) (x : Keys) (e : Nat) : ({ s with keys := x } : State).acc e = s.acc e := rfl

end Sys2Proof.Machine
end

