-- ==== Sys2Proof/Laws/Exec.lean ====
section
/-! SUPPORT. What a command can answer, by its kind: the next state is built from an effect by the kind's own frame, and only
register accesses can stop. Later proofs cite these and unfold no meaning. -/

namespace Sys2Proof.Machine

/-- An ordinary command. -/
theorem exec_ordinary {c : Instr} {s t : State} (hc : ordinary c = true) (h : exec c s = .next t) :
    ∃ u, t = s.keepFixed u := by
  cases c
  case loRead =>
    simp only [exec, execLoRead] at h
    split at h
    · cases h
    · exact ⟨_, (Host.Outcome.next.inj h).symm⟩
  all_goals first
    | (exfalso; cases hc; done)
    | exact ⟨_, (Host.Outcome.next.inj h).symm⟩

/-- An expiry, or a command on the calendar. -/
theorem exec_timed {c : Instr} {s t : State} (hc : isTimed c = true) (h : exec c s = .next t) :
    ∃ u, t = s.keepTimed u := by
  cases c <;> first
    | (exfalso; cases hc; done)
    | exact ⟨_, (Host.Outcome.next.inj h).symm⟩

/-- An SPDM request. -/
theorem exec_spdm {c : Instr} {s t : State} (hc : isSpdm c = true) (h : exec c s = .next t) :
    ∃ u, t = { s.keepFixed u with spdm := u.spdm } := by
  cases c <;> first
    | (exfalso; cases hc; done)
    | exact ⟨_, (Host.Outcome.next.inj h).symm⟩

/-- A rig-set entry. -/
theorem exec_rig {c : Instr} {s t : State} (hc : isRig c = true) (h : exec c s = .next t) :
    ∃ u, t = { s.keepFixed u with rigs := u.rigs } := by
  cases c <;> first
    | (exfalso; cases hc; done)
    | exact ⟨_, (Host.Outcome.next.inj h).symm⟩

/-- A firmware command. -/
theorem exec_fw {c : Instr} {s t : State} (hc : isFw c = true) (h : exec c s = .next t) :
    ∃ u, t = { s.keepFixed u with fw := u.fw } := by
  cases c <;> first
    | (exfalso; cases hc; done)
    | exact ⟨_, (Host.Outcome.next.inj h).symm⟩

/-- The set-up after a command that answers a next state. -/
def State.setupBy (s : State) : Instr → Setup
  | .fabLock => s.setupAfter 0x1C 1
  | .drainLock => s.setupAfter 0x1C 2
  | .sensorLock => s.setupAfter 0x1C 4
  | .registerWrite off v => s.setupAfter off v
  | .porstAssertion => Setup.reset
  | .alwaysOnSupplyLoss _ => Setup.reset
  | .porstDeassertion p z _ => s.sampled p z
  | _ => s.setup

/-- The tally records after a command that answers a next state. -/
def State.tallyBy (s : State) : Instr → List TallyRec
  | .tallyBurn => (s.mbCmd 0x51 State.mbTallyBurn).pen.tally
  | .alwaysOnSupplyLoss torn => s.tallyTorn torn
  | _ => s.pen.tally

/-- Every command: the queue stays, and the set-up and the tally records are given by the command alone. -/
theorem exec_commit {c : Instr} {s t : State} (h : exec c s = .next t) :
    t.pending = s.pending ∧ t.setup = s.setupBy c ∧ t.pen.tally = s.tallyBy c := by
  cases c
  case loRead =>
    simp only [exec, execLoRead] at h
    split at h
    · cases h
    · rw [← Host.Outcome.next.inj h]
      exact ⟨rfl, rfl, rfl⟩
  case registerWrite =>
    simp only [exec, execRegisterWrite] at h
    split at h
    · cases h
    · rw [← Host.Outcome.next.inj h]
      exact ⟨rfl, rfl, rfl⟩
  all_goals
    rw [← Host.Outcome.next.inj h]
    exact ⟨rfl, rfl, rfl⟩

/-- No command but a register access stops, and those stop in the unlocked debug region only (R458). -/
theorem exec_total (c : Instr) (s : State) :
    (∃ t, exec c s = .next t) ∨
    (∃ off, ((c = .loRead off) ∨ ∃ v, c = .registerWrite off v) ∧ s.debugOpen off = true ∧
      exec c s = .fault (.debugRegion off)) := by
  cases c <;> first
    | exact .inl ⟨_, rfl⟩
    | (rename_i off
       by_cases h : s.debugOpen off = true
       · exact .inr ⟨off, .inl rfl, h, by simp [exec, execLoRead, h]⟩
       · exact .inl ⟨_, by simp only [exec, execLoRead, if_neg h]; rfl⟩)
    | (rename_i off v
       by_cases h : s.debugOpen off = true
       · exact .inr ⟨off, .inr ⟨v, rfl⟩, h, by simp [exec, execRegisterWrite, h]⟩
       · exact .inl ⟨_, by simp only [exec, execRegisterWrite, if_neg h]; rfl⟩)

end Sys2Proof.Machine
end

