-- ==== Sys2Proof/Laws/Packets.lean ====
section
/-! SUPPORT. Laws of packets: a header flit reads back as the packet that it spells, a sealed packet opens, and a proper packet that
arrives acts. -/

-- One theorem at a time: each waiting task would hold a thread stack of its own.
set_option Elab.async false

namespace Sys2Proof.Machine

/-- The header is 48 B; the ICV follows it. -/
@[simp] theorem length_header (p : Pkt) : p.header.length = 48 := by simp [Pkt.header]

theorem flags_lt (a b c : Bool) : 4 * b2n a + 2 * b2n b + b2n c < 256 := by
  cases a <;> cases b <;> cases c <;> decide

/-- What a header flit spells, field by field. -/
theorem header_fields {p : Pkt} (h : p.Fits) (post : List Byte) :
    leAt (p.header ++ post) 0 1 = 0x10 + p.cls ∧ leAt (p.header ++ post) 1 1 = p.op ∧ leAt (p.header ++ post) 2 2 = p.src ∧
    leAt (p.header ++ post) 4 2 = p.dst ∧ leAt (p.header ++ post) 6 2 = p.len ∧ leAt (p.header ++ post) 8 8 = p.addr ∧
    leAt (p.header ++ post) 16 4 = p.tag ∧ leAt (p.header ++ post) 20 1 = 4 * b2n p.err + 2 * b2n p.ackReq + b2n p.last ∧
    leAt (p.header ++ post) 21 1 = p.slice ∧ leAt (p.header ++ post) 22 2 = 0 ∧
    leAt (p.header ++ post) 24 4 = 2 ^ 31 * b2n p.sig + 2 ^ 16 * p.sigCount + p.cleat ∧
    leAt (p.header ++ post) 28 4 = p.arg32 ∧ leAt (p.header ++ post) 32 8 = p.argA ∧ leAt (p.header ++ post) 40 8 = p.argB := by
  obtain ⟨h1, h2, h3, h4, h5, h6, h7, h8, h9, h10, h11, h12, h13⟩ := h
  have hf := flags_lt p.err p.ackReq p.last
  have hs : b2n p.sig ≤ 1 := by cases p.sig <;> decide
  simp only [Pkt.header, List.append_assoc]
  refine ⟨?_, ?_, ?_, ?_, ?_, ?_, ?_, ?_, ?_, ?_, ?_, ?_, ?_, ?_⟩ <;>
    (repeat rw [leAt_skip _ _ _ _ (by decide)]) <;> (try simp only [Nat.reduceSub]) <;> rw [leAt_here (by omega)]

theorem toLe_append (m n v : Nat) : toLe (m + n) v = toLe m v ++ toLe n (v / 256 ^ m) := by
  induction m generalizing v with
  | zero => simp [toLe]
  | succ m ih =>
    rw [show m + 1 + n = m + n + 1 by omega, toLe, toLe, ih, List.cons_append, Nat.div_div_eq_div_mul, Nat.pow_succ, Nat.mul_comm 256]

/-- Only the low bytes of a number are read from its field. -/
theorem toLe_mod (n v : Nat) : toLe n (v % 256 ^ n) = toLe n v := by
  induction n generalizing v with
  | zero => rfl
  | succ n ih =>
    rw [toLe, toLe]
    congr 1
    · apply BitVec.eq_of_toNat_eq
      simp only [BitVec.toNat_ofNat]
      rw [Nat.pow_succ, show (2 : Nat) ^ 8 = 256 by decide, Nat.mod_mul_left_mod]
    · rw [← ih (v / 256)]
      congr 1
      rw [Nat.pow_succ, Nat.mul_comm, Nat.mod_mul_right_div_self]

/-- The Cleat of a header flit. -/
theorem header_cleat {p : Pkt} (h : p.Fits) (post : List Byte) : leAt (p.header ++ post) 24 2 = p.cleat := by
  have hc := h.cleat
  have hs := h.sigCount
  simp only [Pkt.header, List.append_assoc]
  repeat rw [leAt_skip _ _ _ _ (by decide)]
  simp only [Nat.reduceSub]
  rw [show (4 : Nat) = 2 + 2 from rfl, toLe_append, List.append_assoc, ← toLe_mod, leAt_here (Nat.mod_lt _ (by decide))]
  cases p.sig <;> simp only [b2n, if_true, if_false, Bool.false_eq_true] <;> omega

/-- The bits of byte 20. -/
theorem flags_bits (a b c : Bool) : bitOf (4 * b2n a + 2 * b2n b + b2n c) 2 = a ∧ bitOf (4 * b2n a + 2 * b2n b + b2n c) 1 = b ∧
    bitOf (4 * b2n a + 2 * b2n b + b2n c) 0 = c := by
  cases a <;> cases b <;> cases c <;> decide

/-- The fields of the signal word. -/
theorem signal_bits (sig : Bool) {n c : Nat} (hn : n < 256) (hc : c < 65536) :
    bitOf (2 ^ 31 * b2n sig + 2 ^ 16 * n + c) 31 = sig ∧ bits (2 ^ 31 * b2n sig + 2 ^ 16 * n + c) 23 16 = n ∧
    bits (2 ^ 31 * b2n sig + 2 ^ 16 * n + c) 30 24 = 0 := by
  have h0 : b2n sig ≤ 1 := by cases sig <;> decide
  refine ⟨?_, ?_, ?_⟩
  · rw [bitOf, show (2 ^ 31 * b2n sig + 2 ^ 16 * n + c) / 2 ^ 31 % 2 = b2n sig by omega]
    cases sig <;> rfl
  · rw [bits, show 2 ^ (23 + 1 - 16) = 256 from rfl]
    omega
  · rw [bits, show 2 ^ (30 + 1 - 24) = 128 from rfl]
    omega

/-- A header flit reads back as the packet that it spells. -/
theorem parsePkt_header {p : Pkt} (h : p.Fits) (post : List Byte) : parsePkt (p.header ++ post) = p := by
  obtain ⟨f1, f2, f3, f4, f5, f6, f7, f8, f9, -, f11, f12, f13, f14⟩ := header_fields h post
  obtain ⟨g1, g2, g3⟩ := flags_bits p.err p.ackReq p.last
  obtain ⟨w1, w2, -⟩ := signal_bits p.sig h.sigCount h.cleat
  have hc : (0x10 + p.cls) % 16 = p.cls := by have := h.cls; omega
  rw [parsePkt, f1, f2, f3, f4, f5, f6, f7, f8, f9, f11, f12, f13, f14, header_cleat h post, g1, g2, g3, w1, w2, hc,
    Nat.mod_eq_of_lt h.src, Nat.mod_eq_of_lt h.dst, Nat.mod_eq_of_lt h.len]

/-- The reserved bits of a header flit are zero. -/
theorem reservedZero_header {p : Pkt} (h : p.Fits) (post : List Byte) : reservedZero (p.header ++ post) = true := by
  obtain ⟨f1, f2, f3, f4, f5, f6, f7, f8, f9, f10, f11, f12, f13, f14⟩ := header_fields h post
  have hc := h.cleat
  have hs := h.sigCount
  have hf : 4 * b2n p.err + 2 * b2n p.ackReq + b2n p.last < 8 := by cases p.err <;> cases p.ackReq <;> cases p.last <;> decide
  rw [reservedZero, f3, f4, f5, f8, f10, f11, (signal_bits p.sig h.sigCount h.cleat).2.2]
  simp [h.src, h.dst, h.len, hf]

/-- A proper packet's header flit breaks no rule of Table 2-3. -/
theorem headerOk_proper {p : Pkt} {fab : Nat} {bs : List Byte} (h : p.Proper fab bs) (post : List Byte) :
    headerOk (p.header ++ post) (ceilDiv bs.length 64) = true := by
  have hn : p.dataFlits = ceilDiv bs.length 64 := by
    rw [Pkt.dataFlits]
    split
    · rename_i hd
      rw [h.len hd]
    · rename_i hd
      rw [h.data (by simpa using hd)]
      rfl
  have hm : (!carriesPayload p || decide (p.len ≤ 512)) = true := by
    cases hc : carriesPayload p with
    | false => rfl
    | true => simp [h.len hc, h.short]
  have hv : leAt (p.header ++ post) 0 1 / 16 = 1 := by
    rw [(header_fields h.fits post).1]
    have := h.fits.cls
    omega
  have hs : (!p.sig || (p.cls == 2 && p.op == 1) || p.cls == 5) = true := by
    cases hp : p.sig with
    | false => rfl
    | true =>
      rcases h.sig hp with ⟨h1, h2⟩ | h1
      · simp [h1, h2]
      · simp [h1]
  simp only [headerOk, parsePkt_header h.fits, hv, h.opcode, reservedZero_header h.fits, hn, hs, hm, beq_self_eq_true, Bool.and_self]

/-! ### A sealed packet opens -/

/-- Padding keeps unmarked bytes unmarked. -/
theorem padFlits_plain (bs : List Byte) : padFlits (plain bs) = plain (fit (64 * ceilDiv bs.length 64) 0 bs) := by
  simp [padFlits, plain, fit, PByte.zero]

/-- A padded payload is as long as its flits. -/
theorem length_fit {α : Type} (n : Nat) (d : α) (xs : List α) : (fit n d xs).length = n := by
  simp [fit]
  omega

/-- What a padded payload starts with. -/
theorem take_fit {α : Type} {n : Nat} (d : α) {xs : List α} (h : xs.length ≤ n) : (fit n d xs).take xs.length = xs := by
  rw [fit, List.take_of_length_le h, List.take_left]

/-- The data flits that carry ciphertext without poison. -/
def cleanFlits (ct : List Byte) : List Flit := (chunks 64 ct).map fun c => ⟨c, false⟩

/-- What clean flits hold. -/
theorem bodyOf_cleanFlits (ct : List Byte) : bodyOf (cleanFlits ct) = ct := by
  rw [bodyOf, cleanFlits, List.flatMap_map]
  exact List.flatMap_id'.trans (flatten_chunks (by decide) ct)

/-- No clean flit is poisoned. -/
theorem poison_cleanFlits (ct : List Byte) : (cleanFlits ct).filter (·.poison) = [] := by
  rw [List.filter_eq_nil_iff]
  intro f hf
  obtain ⟨c, -, rfl⟩ := List.mem_map.mp hf
  simp

/-- Pieces of unmarked bytes are unmarked. -/
theorem chunks_plain (bs : List Byte) : chunks 64 (plain bs) = (chunks 64 bs).map plain := by
  have h : ∀ fuel (xs : List Byte), chunksAux 64 fuel (plain xs) = (chunksAux 64 fuel xs).map plain := by
    intro fuel
    induction fuel with
    | zero => intro xs; rfl
    | succ fuel ih =>
      intro xs
      cases xs with
      | nil => rfl
      | cons x xs =>
        have h1 : (plain (x :: xs)).take 64 = plain ((x :: xs).take 64) := List.map_take.symm
        have h2 : (plain (x :: xs)).drop 64 = plain ((x :: xs).drop 64) := List.map_drop.symm
        have h3 : (plain (x :: xs)).isEmpty = false := rfl
        have h4 : (x :: xs).isEmpty = false := rfl
        rw [chunksAux, chunksAux, h3, h4, h1, h2, ih]
        rfl
  rw [chunks, length_plain]
  exact h _ _

/-- Pairing two lists of one length and keeping the second's element. -/
theorem zipWith_snd {α β γ : Type} (f : β → γ) : ∀ (xs : List α) (ys : List β), xs.length = ys.length → List.zipWith (fun _ y => f y) xs ys = ys.map f
  | [], [], _ => rfl
  | x :: xs, y :: ys, h => by
    rw [List.zipWith_cons_cons, List.map_cons, zipWith_snd f xs ys (by simpa using h)]

/-- What clean flits carry. -/
theorem payload_cleanFlits (text ct : List Byte) (h : ct.length = text.length) :
    (List.zipWith (fun (f : Flit) c => if false || f.poison then List.replicate 64 PByte.bad else plain c) (cleanFlits ct)
      (chunks 64 text)).flatten = plain text := by
  rw [cleanFlits, List.zipWith_map_left]
  simp only [Bool.or_self, Bool.false_eq_true, if_false]
  rw [zipWith_snd plain _ _ (by rw [length_chunks (by decide), length_chunks (by decide), h]), ← chunks_plain,
    flatten_chunks (by decide)]

/-- The flits of a packet whose payload is unmarked, where sealing keeps its length. -/
theorem peerFlits_eq {s : State} {port : Nat} (p : Pkt) (bs : List Byte)
    (hk : ((s.rxSeal port).crypt (fit (64 * ceilDiv bs.length 64) 0 bs)).length = 64 * ceilDiv bs.length 64) :
    s.peerFlits port p bs =
      ⟨p.header ++ (s.rxSeal port).icv p.header ((s.rxSeal port).crypt (fit (64 * ceilDiv bs.length 64) 0 bs)), false⟩ ::
        cleanFlits ((s.rxSeal port).crypt (fit (64 * ceilDiv bs.length 64) 0 bs)) := by
  rw [State.peerFlits, Pkt.flits, padFlits_plain, values_plain]
  congr 1
  rw [chunks_plain, List.zipWith_map_right, cleanFlits]
  have hl : (chunks 64 ((s.rxSeal port).crypt (fit (64 * ceilDiv bs.length 64) 0 bs))).length =
      (chunks 64 (fit (64 * ceilDiv bs.length 64) 0 bs)).length := by
    rw [length_chunks (by decide), length_chunks (by decide), hk, length_fit]
  have ha : ∀ c : List Byte, anyPoison (plain c) = false := by
    intro c
    simp [anyPoison, plain]
  simp only [ha]
  generalize chunks 64 ((s.rxSeal port).crypt (fit (64 * ceilDiv bs.length 64) 0 bs)) = xs at hl ⊢
  generalize chunks 64 (fit (64 * ceilDiv bs.length 64) 0 bs) = ys at hl ⊢
  apply List.ext_getElem
  · simp [hl]
  · intro i h1 h2
    simp

/-- Sealing keeps the length of a payload, and opening undoes it. -/
theorem crypt_crypt {s : State} {port : Nat} (hk : s.keyed port) (text : List Byte) :
    ((s.rxSeal port).crypt text).length = text.length ∧ (s.rxSeal port).crypt ((s.rxSeal port).crypt text) = text := by
  rw [State.rxSeal]
  split
  · rename_i h
    simp only [Bool.and_eq_true, decide_eq_true_eq] at h
    have h32 : ((s.link port).rxKey.take 32).length = 32 := by rw [List.length_take, hk h.1 h.2]; rfl
    exact ⟨length_gcmCrypt h32 _ _, gcmCrypt_gcmCrypt h32 _ _⟩
  · exact ⟨rfl, rfl⟩

/-- A packet that its peer sealed opens to its payload, and acts where it is proper (R43 to R45, R48, R53). -/
theorem State.openPacket_proper {s t : State} {port : Nat} {p : Pkt} {bs : List Byte} (hk : s.keyed port)
    (hp : p.Proper t.setup.fabEp bs) :
    ∃ h data, s.peerFlits port p bs = h :: data ∧ data.length = ceilDiv bs.length 64 ∧ parsePkt h.bytes = p ∧ h.poison = false ∧
      t.openPacket port (s.rxSeal port) h data = (t.countPoison port 0).actOn port p (plain bs) := by
  obtain ⟨hl, hc⟩ := crypt_crypt hk (fit (64 * ceilDiv bs.length 64) 0 bs)
  rw [length_fit] at hl
  refine ⟨_, _, peerFlits_eq p bs hl, ?_, parsePkt_header hp.fits _, rfl, ?_⟩
  · rw [cleanFlits, List.length_map, length_chunks (by decide), hl, ceilDiv, ceilDiv]
    omega
  · have hv : (s.rxSeal port).verifies
        ⟨p.header ++ (s.rxSeal port).icv p.header ((s.rxSeal port).crypt (fit (64 * ceilDiv bs.length 64) 0 bs)), false⟩
        (cleanFlits ((s.rxSeal port).crypt (fit (64 * ceilDiv bs.length 64) 0 bs))) = true := by
      simp only [Sealing.verifies, List.take_left' (length_header p), List.drop_left' (length_header p), bodyOf_cleanFlits,
        beq_self_eq_true, Bool.or_true]
    have hd : (cleanFlits ((s.rxSeal port).crypt (fit (64 * ceilDiv bs.length 64) 0 bs))).length = ceilDiv bs.length 64 := by
      rw [cleanFlits, List.length_map, length_chunks (by decide), hl, ceilDiv, ceilDiv]
      omega
    have hb : (s.rxSeal port).payload false (cleanFlits ((s.rxSeal port).crypt (fit (64 * ceilDiv bs.length 64) 0 bs))) =
        plain (fit (64 * ceilDiv bs.length 64) 0 bs) := by
      rw [Sealing.payload, bodyOf_cleanFlits, hc]
      exact payload_cleanFlits _ _ (by rw [hl, length_fit])
    have ht : (plain (fit (64 * ceilDiv bs.length 64) 0 bs)).take p.len = plain bs := by
      cases hq : carriesPayload p with
      | true => rw [hp.len hq, plain, ← List.map_take, take_fit 0 (le_mul_ceilDiv _ (by decide)), plain]
      | false => rw [hp.data hq]; exact List.take_nil
    have he : (!p.isLocal && p.dst != (t.countPoison port 0).setup.fabEp) = false := by
      have hs : (t.countPoison port 0).setup = t.setup := by unfold State.countPoison; split <;> rfl
      rw [hs]
      rcases hp.here with h | h <;> simp [h]
    simp only [State.openPacket, hv, poison_cleanFlits, List.length_nil, Bool.false_eq_true, if_false, if_true, hb, State.admitPacket,
      hd, headerOk_proper hp, parsePkt_header hp.fits, hp.ends, Bool.not_true, Bool.false_or, he, ht]

/-- What the arrival of a packet of so many flits at a fabric port with a running session counts, before the packet acts: its flits, and
the packet on the session's counter. -/
def State.heard (port n : Nat) (s : State) : State :=
  ((s.count (ctrId 4 port 1) n).modLink port fun l => { l with rx := l.rx + 1 }).countPoison port 0

/-- A proper packet that arrives at a fabric port with a running session acts (R43 to R45, R52 to R54). -/
theorem State.arrive_proper {s : State} {port : Nat} {p : Pkt} {bs : List Byte} (hr : s.glob.power = .run) (hport : port < 32)
    (hu : (s.link port).running = true) (hk : s.keyed port) (hp : p.Proper s.setup.fabEp bs) :
    s.arrive port (s.peerFlits port p bs) = (s.heard port (1 + ceilDiv bs.length 64)).actOn port p (plain bs) := by
  obtain ⟨h, data, hf, hd, hq, hz, hg⟩ := State.openPacket_proper (t := (s.count (ctrId 4 port 1) (1 + ceilDiv bs.length 64)).modLink port
    fun l => { l with rx := l.rx + 1 }) hk hp
  have hs : (s.link port).state ≠ .hello := by
    intro h
    rw [Link.running, h] at hu
    exact absurd hu (by decide)
  have hn : (h :: data).length = 1 + ceilDiv bs.length 64 := by rw [List.length_cons, hd]; omega
  have hu' : ((s.count (ctrId 4 port 1) (1 + ceilDiv bs.length 64)).link port).running = true := hu
  rw [hf, State.arrive]
  simp only [hr, hn, hs, hu, ne_eq, not_true, if_false, if_true, Nat.not_le.mpr hport]
  exact hg

end Sys2Proof.Machine
end

