-- ==== Sys2Proof/WellFormed.lean ====
section
/-! DEFINITION. Well-formed commands: those whose operands lie in the ranges that the block's ports, rings and registers give
them (R5, R43 to R46, R57 to R61, R73 to R78, R354, R387, R434, R443). A command with an operand outside them names something that the
block does not have. -/

namespace Sys2Proof

/-- A fabric port is 0 to 31; ports 32 to 35 are the drain ports (R41, R461). -/
def portOk (p : Nat) : Bool := decide (p < 36)

/-- A fabric port, not a drain port. -/
def fabricPortOk (p : Nat) : Bool := decide (p < 32)

/-- A 12-bit endpoint identifier (R44). -/
def epOk (ep : Nat) : Bool := decide (ep < 4096)

/-- A 64-bit address or epoch. -/
def word64Ok (a : Nat) : Bool := decide (a < 2 ^ 64)

/-- A staging port (R36). -/
def stagingPortOk (p : Nat) : Bool := decide (p < 8)

/-- A register offset in the control window: 32-bit, aligned, inside 16 MiB (R61). -/
def offsetOk (off : Nat) : Bool := off % 4 == 0 && decide (off < 0x1000000)

/-- A function: 0 is the physical function (R76). -/
def functionOk (f : Nat) : Bool := decide (f < 256)

/-- A queue or ring identifier (R73). -/
def queueOk (q : Nat) : Bool := decide (q < 4096)

/-- A physical lane of the block: 64 Yards of 34 (R17, R18). -/
def laneOk (l : Nat) : Bool := decide (l < 2176)

/-- A Yard (R16). -/
def yardOk (y : Nat) : Bool := decide (y < 64)

/-- A packet as a channel delivers it: one flit or more, each of 64 bytes (Table 2-2). -/
def flitsOk (fs : List Flit) : Bool := !fs.isEmpty && fs.all fun f => f.bytes.length == 64

/-- A byte of a packet's header flit. -/
def headByte (fs : List Flit) (i : Nat) : Nat := ((fs.head?.bind fun f => f.bytes[i]?).getD 0).toNat

/-- A packet whose header flit names a class and an opcode (Table 2-3, Table 2-4). -/
def packetOk (fs : List Flit) (cls op : Nat) : Bool := flitsOk fs && headByte fs 0 % 16 == cls && headByte fs 1 == op

/-- A BELAY_HIT whose low ARG32 bits are among those given: FORK, ARMED, WATCHED from bit 0 (Table 4-4). -/
def hitOk (fs : List Flit) (arg : List Nat) : Bool := packetOk fs 4 2 && arg.contains (headByte fs 28 % 8)

/-- Granules of the generation directory and of the 3,072 units of the manifest store (R58, R160, R194). -/
def BootReads.ok (r : BootReads) : Bool :=
  r.granules.all fun g => decide (g.unit < 32768 + 3072 * 1024) && match g.answer with
    | some (_, data, check) => data.length == 64 && check.length == 8
    | none => true

/-- A processor that exists: Masts 0 to 7 (R16). -/
def Proc.ok : Proc → Bool
  | .dispatch m => decide (m < 8)
  | .service m c => decide (m < 8) && decide (c < 2)
  | _ => true

/-- The operands of a command lie in their ranges. -/
def Instr.wf : Instr → Bool
  | .queueCreate _ => true
  | .queueDestroy _ => true
  | .sliceCreate _ => true
  | .sliceResize _ => true
  | .sliceReset _ => true
  | .sliceFreeze _ => true
  | .sliceSave _ => true
  | .sliceLoad _ _ => true
  | .rigStage _ _ => true
  | .rigCommit _ => true
  | .rigRollback _ => true
  | .attachEndpoint _ => true
  | .keyLoad _ _ => true
  | .fwStage _ _ => true
  | .fwActivate _ => true
  | .copy _ => true
  | .fill _ => true
  | .genOpen _ _ _ => true
  | .cut _ => true
  | .stamp _ => true
  | .protect _ _ => true
  | .drain _ => true
  | .restore _ _ => true
  | .restoreSpare _ => true
  | .sheetArm _ _ _ _ => true
  | .sheetRearm _ _ _ _ => true
  | .sheetStop _ => true
  | .cleatSignal _ => true
  | .cleatWait _ => true
  | .digest _ => true
  | .kuBlock _ => true
  | .snapLatch _ => true
  | .sensorRead => true
  | .sensorLimits => true
  | .logRead => true
  | .clockRead => true
  | .calSet => true
  | .dueSet => true
  | .counterRead => true
  | .jobLookup => true
  | .tallyRead => true
  | .tallyBurn => true
  | .imageBegin => true
  | .imageData => true
  | .imageEnd => true
  | .telltaleInput => true
  | .telltaleRead => true
  | .getVersion => true
  | .getCapabilities => true
  | .negotiateAlgorithms => true
  | .getDigests => true
  | .getCertificate => true
  | .challenge => true
  | .getMeasurements => true
  | .setCertificate => true
  | .unsupportedRequest => true
  | .sqDoorbell f slot _ => functionOk f && functionOk slot
  | .inv f slot _ => functionOk f && functionOk slot
  | .cqDoorbell f slot _ => functionOk f && functionOk slot
  | .blkReset _ fails stored => fails.all laneOk && stored.ok
  | .pwrDown _ => true
  | .globalFaultW1c _ => true
  | .fabLock => true
  | .drainLock => true
  | .sensorLock => true
  | .hostHeartbeat f _ => functionOk f
  | .hbInterval f _ => functionOk f
  | .asqCtrl _ => true
  | .acqCtrl _ => true
  | .loRead off => offsetOk off
  | .hiWrite off _ => offsetOk off
  | .registerWrite off _ => offsetOk off
  | .ctlBadAccess off size => size != 4 || off % 4 != 0
  | .porstAssertion => true
  | .porstDeassertion _ _ fails => fails.all laneOk
  | .blkRstAssertion => true
  | .blkRstDeassertion fails stored => fails.all laneOk && stored.ok
  | .preemptN => true
  | .wakeN _ fails stored => fails.all laneOk && stored.ok
  | .sbFallingEdge line => decide (line < 4)
  | .pmbAlertN _ => true
  | .linkUpRise port => portOk port
  | .linkUpFall port => portOk port
  | .linkHello port fs => fabricPortOk port && packetOk fs 3 0x20
  | .rekey port => fabricPortOk port
  | .keyRollAck port fs => fabricPortOk port && packetOk fs 3 0x22
  | .linkStopLimit port => fabricPortOk port
  | .rdRsp port fs => portOk port && packetOk fs 1 2
  | .wrAck port fs => portOk port && packetOk fs 2 2
  | .rdReqToBlock port fs => portOk port && packetOk fs 1 1
  | .wrToBlock port fs => portOk port && packetOk fs 2 1
  | .cleatSignalPacket port fs => portOk port && packetOk fs 5 1
  | .malformedPacket port fs => portOk port && flitsOk fs
  | .preemptNotice port fs => portOk port && packetOk fs 3 0x10
  | .quiesceDone port fs => portOk port && packetOk fs 3 2
  | .exportMap port fs => portOk port && packetOk fs 3 4
  | .resumeDone port fs => portOk port && packetOk fs 3 6
  | .armed port fs => portOk port && hitOk fs [2, 3, 6, 7]
  | .watchHit port fs => portOk port && hitOk fs [4, 5]
  | .holdRequest port fs => portOk port && hitOk fs [0]
  | .forkRequest port fs => portOk port && hitOk fs [1]
  | .readComplete _ => true
  | .stagingResponse port tag _ data check => stagingPortOk port && decide (tag < 1024) && data.length == 64 && check.length == 8
  | .stagingResponseTimeout port tag => stagingPortOk port && decide (tag < 1024)
  | .hostResponse _ _ => true
  | .sensorTransaction i _ => decide (i < 128)
  | .inBandInterrupt t _ => decide (t < 16)
  | .fabricResponseTimeout port tag => portOk port && decide (tag < 2 ^ 32)
  | .usablePortTimeout _ => true
  | .entryAccept q _ => queueOk q
  | .queuedEntryStart _ _ => true
  | .transferDispatch _ y lane port => yardOk y && decide (lane < 32) && portOk port
  | .sheetWorkUnitStart y lane => yardOk y && decide (lane < 32)
  | .armingEnd n => decide (n < 512)
  | .coalTicksExpiry q => queueOk q
  | .waitTimeout _ => true
  | .cutTimeout _ => true
  | .resumeLate ep => epOk ep
  | .sliceResetTimeout _ => true
  | .heartbeatMiss f => functionOk f
  | .telltaleSample => true
  | .sensorPoll i _ => decide (i < 128)
  | .spareSelfTest fails => fails.all fun f => laneOk f.1
  | .yardBist fails => fails.all fun f => decide (1 ≤ f.part) && decide (f.part ≤ 7)
  | .dueEntry n => decide (n < 32)
  | .lifeRecordWrite => true
  | .idleEntry => true
  | .yardGate y => yardOk y
  | .powerGoodTimeout rail _ fails stored => decide (rail < 16) && fails.all laneOk && stored.ok
  | .lockstepMismatch p _ => p.ok
  | .watchdogExpiry p _ => p.ok
  | .trap p _ _ => p.ok
  | .processorRestartComplete p _ => p.ok
  | .datapathParityFault lane _ => laneOk lane
  | .laneStall lane _ => laneOk lane
  | .clockFault _ _ => true
  | .voltageFault m _ => decide (m < 8)
  | .thermalTrip d => decide (d < 16)
  | .keyUnitParityMismatch => true
  | .entropyHealthFailure => true
  | .debugUnlock => true
  | .alwaysOnSupplyLoss _ => true
  | .mainSupplyRemoval => true
  | .keyUnitRequestDone => true
  | .mainstayUnpairedTimeout => true

end Sys2Proof
end

