-- ==== Sys2Proof/Tests/Slice0.lean ====
section
/-! SUPPORT. Tests: ill-formed commands that the checks refuse, commands on small states with outcomes worked out from the spec, and,
for each statement with hypotheses, a witness that meets them all together. -/

-- One theorem at a time: each waiting task would hold a thread stack of its own.
set_option Elab.async false

namespace Sys2Proof.Tests

open Sys2Proof.Machine Sys2Proof.Claims

/-! ### WellFormed: each check refuses a command outside its range, and takes one at its edge -/

theorem test_wf_fabric_port : (Instr.rekey 32).wf = false ∧ (Instr.rekey 31).wf = true := by decide

theorem test_wf_port : (Instr.linkUpRise 36).wf = false ∧ (Instr.linkUpRise 35).wf = true := by decide

theorem test_wf_endpoint : (Instr.resumeLate 4096).wf = false ∧ (Instr.resumeLate 4095).wf = true := by decide

/-- A header flit that begins with these bytes (Table 2-3). -/
def headFlit (bs : List Byte) : Flit := ⟨fit 64 0 bs, false⟩

theorem test_wf_flits : (Instr.malformedPacket 0 []).wf = false ∧ (Instr.malformedPacket 0 [⟨List.replicate 63 0, false⟩]).wf = false ∧
    (Instr.malformedPacket 0 [headFlit []]).wf = true := by decide

theorem test_wf_opcode : (Instr.wrAck 0 [headFlit [0x12, 1]]).wf = false ∧ (Instr.wrAck 0 [headFlit [0x11, 2]]).wf = false ∧
    (Instr.wrAck 0 [headFlit [0x12, 2]]).wf = true := by decide

theorem test_wf_packet_port : (Instr.linkHello 32 [headFlit [0x13, 0x20]]).wf = false ∧
    (Instr.linkHello 31 [headFlit [0x13, 0x20]]).wf = true ∧ (Instr.rdRsp 36 [headFlit [0x11, 2]]).wf = false ∧
    (Instr.rdRsp 35 [headFlit [0x11, 2]]).wf = true := by decide

theorem test_wf_hit : ∀ n : Fin 8,
    (Instr.armed 0 [headFlit ([0x14, 2] ++ List.replicate 26 0 ++ [BitVec.ofNat 8 n.val])]).wf = decide (n.val = 2 ∨ n.val = 3 ∨ n.val = 6 ∨ n.val = 7) := by
  decide

theorem test_wf_staging : (Instr.stagingResponseTimeout 8 0).wf = false ∧ (Instr.stagingResponseTimeout 0 1024).wf = false ∧
    (Instr.stagingResponseTimeout 7 1023).wf = true := by decide

theorem test_wf_staging_data : (Instr.stagingResponse 0 0 false (List.replicate 63 0) (List.replicate 8 0)).wf = false ∧
    (Instr.stagingResponse 0 0 false (List.replicate 64 0) (List.replicate 8 0)).wf = true := by decide

theorem test_wf_offset : (Instr.loRead 2).wf = false ∧ (Instr.loRead 0x1000000).wf = false ∧ (Instr.loRead 0xFFFFFC).wf = true := by
  decide

theorem test_wf_bad_access : (Instr.ctlBadAccess 4 4).wf = false ∧ (Instr.ctlBadAccess 4 2).wf = true := by decide

theorem test_wf_function : (Instr.hbInterval 256 0).wf = false ∧ (Instr.hbInterval 255 0).wf = true := by decide

theorem test_wf_queue : (Instr.coalTicksExpiry 4096).wf = false ∧ (Instr.coalTicksExpiry 4095).wf = true := by decide

theorem test_wf_lane : (Instr.laneStall 2176 []).wf = false ∧ (Instr.laneStall 2175 []).wf = true := by decide

theorem test_wf_yard : (Instr.yardGate 64).wf = false ∧ (Instr.yardGate 63).wf = true := by decide

theorem test_wf_yard_lane : (Instr.sheetWorkUnitStart 0 32).wf = false ∧ (Instr.transferDispatch 1 63 31 36).wf = false ∧
    (Instr.transferDispatch 1 63 31 35).wf = true := by decide

theorem test_wf_processor : (Instr.watchdogExpiry (.dispatch 8) 0).wf = false ∧ (Instr.watchdogExpiry (.service 7 2) 0).wf = false ∧
    (Instr.watchdogExpiry (.service 7 1) 0).wf = true := by decide

/-- The last granule of the manifest store: 2 MiB of directory, then 3,072 units of 64 KiB. -/
theorem test_wf_stored : (Instr.blkRstDeassertion [] ⟨[⟨3178496, none⟩]⟩).wf = false ∧
    (Instr.blkRstDeassertion [] ⟨[⟨0, some (false, [], [])⟩]⟩).wf = false ∧
    (Instr.blkRstDeassertion [] ⟨[⟨3178495, some (false, List.replicate 64 0, List.replicate 8 0)⟩]⟩).wf = true := by decide

theorem test_wf_sensor : (Instr.sensorPoll 128 0).wf = false ∧ (Instr.sensorPoll 127 0).wf = true := by decide

theorem test_wf_target : (Instr.inBandInterrupt 16 0).wf = false ∧ (Instr.inBandInterrupt 15 0).wf = true := by decide

theorem test_wf_sheet : (Instr.armingEnd 512).wf = false ∧ (Instr.armingEnd 511).wf = true := by decide

theorem test_wf_due : (Instr.dueEntry 32).wf = false ∧ (Instr.dueEntry 31).wf = true := by decide

theorem test_wf_pin : (Instr.sbFallingEdge 4).wf = false ∧ (Instr.sbFallingEdge 3).wf = true := by decide

theorem test_wf_rail : (Instr.powerGoodTimeout 16 true [] {}).wf = false ∧ (Instr.powerGoodTimeout 15 true [] {}).wf = true := by decide

theorem test_wf_monitor : (Instr.voltageFault 8 0).wf = false ∧ (Instr.voltageFault 7 0).wf = true := by decide

theorem test_wf_diode : (Instr.thermalTrip 16).wf = false ∧ (Instr.thermalTrip 15).wf = true := by decide

theorem test_wf_bist : (Instr.yardBist [⟨8, 0⟩]).wf = false ∧ (Instr.yardBist [⟨0, 0⟩]).wf = false ∧ (Instr.yardBist [⟨7, 0⟩]).wf = true := by
  decide

/-! ### Small states -/

/-- In RUN after a boot, with function 0 and slice 5. -/
def live : State :=
  { State.reset with
    glob := { Glob.reset with power := .run, porstLow := false, afterPorst := false, ready := true }
    fns := [(0, { state := .active, pasid := 0 }), (5, { state := .active, pasid := 7, lanes := 64, queues := 4, sheets := 2 })]
    mb := { notReady := false } }

/-- In IDLE. -/
def idle : State := { live with glob := { live.glob with power := .idle } }

/-- In PENNANT. -/
def pennant : State := { live with glob := { live.glob with power := .pennant, ready := false } }

/-- No test of the maintenance calendar is due. -/
def calm (s : State) : State := { s with pen := { s.pen with spareDue := 2 ^ 31, bistDue := 2 ^ 31 } }

/-- An entry's header without a signal. -/
def hdr : Hdr := ⟨0x30, false, false, false, 9, 0, 0, 0⟩

/-- Entry 1, of function 0 on queue 1. -/
def ent (op : Op) : Acc := { id := 1, sq := 1, idx := 0, fn := 0, hdr := hdr, op := op }

/-- Entry 1 on the admin queue. -/
def adm (op : Op) : Acc := { ent op with sq := 0 }

/-- A state with one accepted entry. -/
def one (s : State) (a : Acc) : State := { s with accepted := [a], nextId := 2 }

/-- The mailbox holds a request. -/
def asked (s : State) (cmd len : Nat) (payload : List Byte) : State :=
  { s with mb := { s.mb with outstanding := some ⟨cmd, 0, len, 7, payload⟩, notReady := false } }

/-- A RUNNING queue 1 of function 0 with completion ring 1. -/
def ringed : State :=
  { live with
    sqs := [(1, { state := .running, fn := 0, slot := 1, log2 := 4, base := 0x1000, cq := 1, maxOut := 8 })]
    cqs := [(1, { state := .running, fn := 0, slot := 1, log2 := 4, base := 0x2000, intAddr := 0, intData := 0, coalCount := 0,
                  coalTicks := 0 })] }

/-- A link whose session runs, with its keys. -/
def running : Link := { state := .up, linkUp := true, txKey := List.replicate 36 1, rxKey := List.replicate 36 2 }

/-- Fabric port 3 up, the block at endpoint 0x21, and endpoint 0x12 attached to function 0. -/
def linked : State :=
  { live with
    setup := { live.setup with fabEp := 0x21 }
    links := [(3, running)]
    eps := [(0x12, { fn := 0, belay := 0, quiesce := true, winBase := 0, winLen := 0x100000, forkBase := 0, forkSegs := 0 })] }

/-! ### Witnesses: the step, frames, locks -/

theorem witness_step : ({ live with pending := [.snapLatch 1] } : State).pending = Instr.snapLatch 1 :: [] := rfl

theorem witness_idle_tick : ∃ s : State, s.pending = [] ∧ s.pen.powered = true ∧ s.pen.lifeTick < 32768 ∧ s.pen.lifeTick = 32767 :=
  ⟨{ live with pen := { live.pen with lifeTick := 32767 } }, rfl, rfl, by decide, rfl⟩

theorem witness_frames :
    (ordinary (.rekey 3) = true ∧ ∃ t, exec (.rekey 3) live = .next t) ∧ (isSpdm .getVersion = true ∧ ∃ t, exec .getVersion live = .next t) ∧
    (isRig (.rigCommit 1) = true ∧ ∃ t, exec (.rigCommit 1) live = .next t) ∧
    (isFw (.fwActivate 1) = true ∧ ∃ t, exec (.fwActivate 1) live = .next t) ∧
    (isTimed .idleEntry = true ∧ ∃ t, exec .idleEntry live = .next t) :=
  ⟨⟨rfl, _, rfl⟩, ⟨rfl, _, rfl⟩, ⟨rfl, _, rfl⟩, ⟨rfl, _, rfl⟩, ⟨rfl, _, rfl⟩⟩

/-- Endpoint 1 locked in, and one drain endpoint next to it. -/
def locked : State :=
  { live with setup := { live.setup with fabLock := true, fabEp := 1, drainLock := true, drainPresent := 1, drainBase := 2, drainCount := 1 }
              pending := [.sensorLock] }

theorem witness_lawful : locked.setup.Lawful ∧ ∃ t, step locked = .next t :=
  ⟨⟨by decide, by decide, by decide⟩, _, rfl⟩

theorem witness_fuses : State.reset.pen.FusesLawful ∧ ∃ t, step { State.reset with pending := [.tallyBurn] } = .next t :=
  ⟨fun _ => Nat.zero_le _, _, rfl⟩

/-- The mailbox's ring and queue 0 at their last index, an entry and a request at work, and a Cleat at its maximum. -/
def formed : State :=
  { live with
    sqs := [(0, { state := .running, fn := 0, slot := 0, log2 := 4, base := 0, cq := 0, maxOut := 1, head := 15, tail := 15 })]
    adm := { live.adm with asqLog2 := 4, asqEnable := true }
    accepted := [{ id := 1, sq := 0, idx := 0, fn := 0, hdr := ⟨0, false, false, false, 0, 0, 0, 0⟩, op := .snapLatch }]
    freqs := [⟨3, 2, 9, 0, 0, 64, true, 0x12, 0, 0, 0x21, 2⟩], nextId := 3, cleats := [(65535, cleatMax)]
    ctr := { live := [(ctrId 0 0 1, 2 ^ 48 - 1), (ctrId 1 0 0, 2 ^ 64 - 1)] } }

theorem witness_forms : formed.Canonical ∧ ∃ t, step formed = .next t :=
  ⟨⟨by simp [formed, FMap.Sorted], by decide, by simp [formed, FMap.Sorted], by simp [formed, live, State.reset, FMap.Sorted],
    by decide, by decide, by decide, by simp [formed, live, FMap.Sorted], by simp [formed, live, State.reset, FMap.Sorted],
    by simp [formed, live, State.reset, FMap.Sorted], by simp [formed, live, State.reset, FMap.Sorted],
    by simp [formed, live, State.reset, FMap.Sorted], by simp [formed, live, State.reset, Pen.reset, FMap.Sorted],
    by decide, by decide, by decide, by decide, by decide, by decide, by decide,
    by simp [formed, FMap.Sorted, ctrId], by decide⟩, _, rfl⟩

theorem witness_locks : (assertsPorst (.registerWrite 0x20 5) = false ∧ ∃ t, exec (.registerWrite 0x20 5) locked = .next t) ∧
    live.ctlReady = true := ⟨⟨rfl, _, rfl⟩, by decide⟩

theorem witness_tieoffs : State.reset.glob.porstLow = true ∧ assertsPorst (.blkRstDeassertion [] {}) = false ∧
    (∀ p z l, Instr.blkRstDeassertion [] {} ≠ .porstDeassertion p z l) ∧ ∃ t, exec (.blkRstDeassertion [] {}) State.reset = .next t :=
  ⟨rfl, rfl, by simp, _, rfl⟩

/-! ### Witnesses: registers -/

/-- Queue 1 of the function in a state of Table 3-8, with queue 2 RUNNING beside it. -/
def beside (st : SqState) : State :=
  { ringed with sqs := [(1, { state := st, fn := 0, slot := 1, log2 := 4, base := 0x1000, cq := 1, maxOut := 8 }),
    (2, { state := .running, fn := 0, slot := 2, log2 := 4, base := 0x3000, cq := 1, maxOut := 8 })] }

theorem witness_doorbell : ∀ st ∈ [SqState.running, .disabled, .halted, .destroying], (beside st).ctlReady = true ∧
    FMap.has (beside st).fns 0 = true ∧ (beside st).queuesHalted 0 = false ∧
    (((beside st).sqAt 0 1).map fun p => (p.2.state, decide ((15#16).toNat < ringSize p.2.log2))) = some (st, true) ∧
    (beside st).sqAt 0 3 = none := by decide

theorem witness_doorbell_range : ((ringed.sqAt 0 1).map fun p => (p.2.state, decide (ringSize p.2.log2 ≤ (16#16).toNat))) = some (.running, true) ∧
    ringed.ctlReady = true ∧ FMap.has ringed.fns 0 = true ∧ ringed.doorbellsOff 0 = false := by decide

/-- Function 0 halted with its queues, and the admin queue RUNNING. -/
def haltedBeside : State :=
  { ringed with fns := [(0, { state := .halted, pasid := 0 })]
                sqs := (0, { state := .running, fn := 0, slot := 0, log2 := 4, base := 0, cq := 0, maxOut := 1 }) :: ringed.sqs }

theorem witness_doorbell_halted : haltedBeside.queuesHalted 0 = true ∧ haltedBeside.ctlReady = true ∧ haltedBeside.doorbellsOff 0 = false ∧
    FMap.has haltedBeside.fns 0 = true ∧ ((haltedBeside.sqAt 0 0).map fun p => (p.1, p.2.state)) = some (0, .running) ∧
    (let s : State := { live with fns := [(5, { state := .halted, pasid := 7 })] }
     s.queuesHalted 5 = true) := by decide

theorem witness_ring_doorbell : ((ringed.cqAt 0 1).map fun p => (p.1, p.2.state, p.2.held, decide ((15#16).toNat < ringSize p.2.log2))) =
    some (1, .running, [], true) := by decide

theorem witness_pair_reads : live.ctlReady = true ∧ ∀ off ∈ [0x38, 0x10000, 0x10010, 0x10020, 0x300020, 0x3FF020, 0x300028, 0x3FF028,
    0x300060, 0x3FF060], (pairValue live off).isSome = true := by decide

theorem witness_pair_writes : live.ctlReady = true ∧ live.admWritable = true ∧ live.adm.asqEnable = false ∧ live.adm.acqEnable = false ∧
    ∀ off ∈ [0x10000, 0x10010, 0x10020], FMap.find ({ live with glob := { live.glob with held := [(off, 0xFFFFFFFC)] } } : State).glob.held off =
      some 0xFFFFFFFC := by decide

theorem witness_register_reads : live.ctlReady = true ∧ ∀ off ∈ [0, 0x10000, 0x7FFFFC, 0x800000, 0xFFFFFC], off % 4 = 0 ∧ live.debugOpen off = false := by
  decide

theorem witness_debug : ({ live with glob := { live.glob with debugUnlocked := true } } : State).ctlReady = true ∧
    ∀ off ∈ [0x800000, 0xFFFFFC], ({ live with glob := { live.glob with debugUnlocked := true } } : State).debugOpen off = true := by decide

theorem witness_bad_access : ∀ p ∈ [(0, 2), (2, 4), (1, 1), (0, 8)], ¬(p.2 = 4 ∧ p.1 % 4 = 0) := by decide

theorem witness_single_writes : live.ctlReady = true ∧ live.adm.asqEnable = false ∧ live.adm.acqEnable = false ∧ live.glob.halted = false ∧
    (∀ x ∈ live.slices, x.2.pasid ≠ (0xFFF00006#32).toNat % 2 ^ 20) ∧ (∃ x ∈ live.slices, x.2.pasid = (7#32).toNat % 2 ^ 20) ∧
    live.admWritable = true ∧ ({ live with glob := { live.glob with halted := true } } : State).admWritable = false ∧
    (0x20000000#32).toNat / 2 ^ 28 % 8 ≤ 2 ∧ 2 < (0x30000000#32).toNat / 2 ^ 28 % 8 ∧ live.mb.outstanding = none ∧ live.mb.notReady = false ∧
    leAt (live.mb.bytes) 0 1 ∉ mailboxRows.map (·.1) ∧ (asked live 0x10 2 [0, 1]).mb.outstanding ≠ none ∧
    leAt ({ live with mb := { live.mb with req := [(0, 0x10)] } } : State).mb.bytes 0 1 ∈ mailboxRows.map (·.1) ∧
    ({ live with mb := { live.mb with notReady := true } } : State).mb.notReady = true := by decide +kernel

theorem witness_global_ctrl : live.ctlReady = true ∧ (0x01000001#32).extractLsb' 24 8 ≠ 0xA5#8 ∧
    ((0xA5000001#32).extractLsb' 24 8 = 0xA5#8 ∧ (0xA5000001#32).getLsbD 0 = true) := by decide

theorem witness_power_down : (0xA5000002#32).extractLsb' 24 8 = 0xA5#8 ∧ (0xA5000002#32).getLsbD 0 = false ∧ (0xA5000002#32).getLsbD 1 = true ∧
    (let s : State := { idle with fns := [(0, { state := .active, pasid := 0 })] }
     s.ctlReady = true ∧ s.restarting .trim = false ∧ s.glob.power = .idle ∧ s.slices = [] ∧ s.accepted.any Acc.isWait = false ∧
     s.tests.trials = [] ∧ (one s (ent (.cleatWait 0 1 1))).accepted.any Acc.isWait = true) ∧
    idle.slices ≠ [] ∧ live.glob.power ≠ .idle ∧
    (let s : State := { idle with procs := { idle.procs with restarting := [.trim], pwrWait := true } }
     s.ctlReady = true ∧ s.restarting .trim = true ∧ s.procs.pwrWait = true ∧ s.accepted = []) := by decide

theorem witness_admin_rings : live.ctlReady = true ∧ live.admWritable = true ∧ live.glob.ready = true ∧ live.adm.acqEnable = false ∧
    live.adm.acqBase % 4096 = 0 ∧
    (let s : State := { live with adm := { live.adm with acqEnable := true, asqLog2 := 16 } }
     s.adm.asqEnable = false ∧ s.adm.acqStopping = false ∧ s.adm.asqBase % 4096 = 0 ∧ s.admWritable = true) ∧
    (let s : State := { ringed with adm := { live.adm with acqEnable := true, asqEnable := true }
                                    sqs := [(0, { state := .running, fn := 0, slot := 0, log2 := 4, base := 0, cq := 0, maxOut := 1 })] }
     (FMap.find s.sqs 0).map (·.state) = some .running ∧ s.admWritable = true) := by decide

/-! ### Witnesses: the mailbox and SPDM -/

theorem witness_mailbox_response : (255 : Nat) < 256 ∧ (2 ^ 32 - 1 : Nat) < 2 ^ 32 ∧ (List.replicate 4088 (0 : Byte)).length ≤ 4088 :=
  ⟨by decide, by decide, List.length_replicate.le⟩

theorem holds_asked (cmd len : Nat) (p : List Byte) (h : len ≤ 4088) : Holds (asked live cmd len p) ⟨cmd, 0, len, 7, p⟩ :=
  ⟨rfl, rfl, rfl, rfl, h⟩

theorem witness_sensor_mailbox :
    (Holds (asked live 0x10 2 [0x7F, 1]) ⟨0x10, 0, 2, 7, [0x7F, 1]⟩ ∧ leAt ([0x7F, 1] : List Byte) 0 1 + leAt ([0x7F, 1] : List Byte) 1 1 ≤ 128) ∧
    (let p : List Byte := [24, 0, 0, 0] ++ List.replicate 16 1
     Holds (asked live 0x11 20 p) ⟨0x11, 0, 20, 7, p⟩ ∧ p.length = 20 ∧ leAt p 0 1 = 24 ∧ leAt p 1 3 = 0 ∧ sensorListed 24 = true) ∧
    live.setup.declared 0 = true ∧ live.setup.declared 16 = true ∧ live.setup.declared 127 = false :=
  ⟨⟨holds_asked _ _ _ (by decide), by decide⟩, ⟨holds_asked _ _ _ (by decide), by decide⟩, by decide⟩

/-- A log entry. -/
def entry (n : Nat) : LogEnt := ⟨BitVec.ofNat 32 n, 1, 0, 0, 0, 0, 0, 0x0101, none, []⟩

/-- A state whose log holds entries 4 and 5, with a request for one from a SEQ on. -/
def logged (start : Byte) : State := asked { live with log := { live.log with next := 6, always := [entry 4, entry 5] } } 0x20 7 [start, 0, 0, 0, 1, 0, 0]

theorem witness_mailbox_reads :
    Holds (asked live 0x30 0 []) ⟨0x30, 0, 0, 7, []⟩ ∧ Holds (asked live 0x71 0 []) ⟨0x71, 0, 0, 7, []⟩ ∧
    (Holds (logged 4) ⟨0x20, 0, 7, 7, [4, 0, 0, 0, 1, 0, 0]⟩ ∧ (logged 4).log.always = [entry 4] ++ [entry 5] ∧
      (entry 4).seq = BitVec.ofNat 32 (leAt ([4, 0, 0, 0, 1, 0, 0] : List Byte) 0 4)) ∧
    ((∀ x ∈ (logged 9).log.always, x.seq ≠ BitVec.ofNat 32 9) ∧ serialGt 9 (entry 5).seq = true) ∧
    ((∀ x ∈ (logged 3).log.always, x.seq ≠ BitVec.ofNat 32 3) ∧ serialGt 3 (entry 5).seq = false) ∧
    (let p : List Byte := toLe 4 1 ++ [0x80000000].flatMap (toLe 4)
     Holds (asked live 0x40 8 p) ⟨0x40, 0, 8, 7, p⟩ ∧ p.length = 8 ∧
     ∀ w ∈ [0x80000000], w < 2 ^ 32 ∧ w / 2 ^ 24 % 128 = 0 ∧ ctrClass (w % 2 ^ 24) ≠ none) ∧
    Holds (asked live 0x41 8 (List.replicate 8 0)) ⟨0x41, 0, 8, 7, List.replicate 8 0⟩ ∧
    (Holds (asked live 0x50 0 []) ⟨0x50, 0, 0, 7, []⟩ ∧ live.pen.FusesLawful ∧ live.pen.tallyValue 1 < 2 ^ 32 ∧ live.pen.tallyValue 4 < 2 ^ 32) :=
  ⟨holds_asked _ _ _ (by decide), holds_asked _ _ _ (by decide), ⟨⟨rfl, rfl, rfl, rfl, by decide⟩, rfl, by decide⟩, by decide, by decide,
    ⟨holds_asked _ _ _ (by decide), by decide, by decide⟩, holds_asked _ _ _ (by decide),
    holds_asked _ _ _ (by decide), fun _ => Nat.zero_le _, by decide, by decide⟩

theorem witness_mailbox_writes :
    Holds (asked live 0x31 8 (List.replicate 8 1)) ⟨0x31, 0, 8, 7, List.replicate 8 1⟩ ∧
    (∀ k ∈ ([[31, 1, 0, 0, 9, 0, 0, 0, 0, 0, 0, 0], [0, 0, 0, 0, 0, 0, 0, 0, 0, 0, 0, 0]] : List (List Byte)),
      Holds (asked live 0x32 12 k) ⟨0x32, 0, 12, 7, k⟩ ∧ leAt k 2 2 = 0 ∧ leAt k 0 1 ≤ 31 ∧ leAt k 1 1 ≤ 1) ∧
    FMap.Sorted live.pen.dues ∧
    (let p : List Byte := [31, 0, 0, 0, 5, 0, 0, 0]
     Holds (asked live 0x70 8 p) ⟨0x70, 0, 8, 7, p⟩ ∧ leAt p 1 3 = 0 ∧ leAt p 0 1 ≤ 31) :=
  ⟨holds_asked _ _ _ (by decide), fun k hk => ⟨holds_asked _ _ _ (by decide), by revert k; decide⟩, trivial, holds_asked _ _ _ (by decide), by decide⟩

/-- An image header: IMAGE 4, MIN_REV 0x0201, 4 KiB of code. -/
def image : List Byte := fit (128 + 4096 + sigBlockLen) 0 (ascii "ZHORAXFW" ++ [4, 0, 1, 2] ++ toLe 4 0 ++ toLe 4 0 ++ toLe 4 4096)

theorem witness_mailbox_images :
    (let p : List Byte := [4, 0, 0, 0] ++ toLe 4 (128 + 4096 + sigBlockLen)
     Holds (asked live 0x60 8 p) ⟨0x60, 0, 8, 7, p⟩ ∧ p.length = 8 ∧ leAt p 1 3 = 0 ∧ (live.fwCode 4).pending = false ∧
     128 + sigBlockLen ≤ leAt p 4 4 ∧ codeLenOk 4 (leAt p 4 4 - 128 - sigBlockLen) = true) ∧
    (let p : List Byte := toLe 4 0 ++ List.replicate 64 0
     Holds (asked { live with image := some ⟨4, 64, []⟩ } 0x61 68 p) ⟨0x61, 0, 68, 7, p⟩ ∧ leAt p 0 4 + (p.length - 4) ≤ 64) :=
  ⟨⟨holds_asked _ _ _ (by decide), by decide⟩, ⟨⟨rfl, rfl, rfl, rfl, by decide⟩, by decide⟩⟩

/-- In RECOVERY the boot ROM takes an image, and answers CLOCK_READ. -/
theorem witness_rom : ∀ rec ∈ [false, true],
    let u : State := { live with glob := { live.glob with recovery := rec } }
    Presents (asked u 0x30 0 []) ⟨0x30, 0, 0, 7, []⟩ ∧ (asked u 0x30 0 []).glob.recovery = rec ∧
    (let p : List Byte := [4, 0, 0, 0] ++ toLe 4 (128 + 4096 + sigBlockLen)
     Presents (asked u 0x60 8 p) ⟨0x60, 0, 8, 7, p⟩ ∧ (asked u 0x60 8 p).accepted = []) ∧
    (let p : List Byte := toLe 4 0 ++ List.replicate 64 0
     Presents (asked { u with image := some ⟨4, 64, []⟩ } 0x61 68 p) ⟨0x61, 0, 68, 7, p⟩ ∧ leAt p 0 4 % 64 = 0 ∧ 4 ≤ (68 : Nat)) :=
  fun _ _ => ⟨⟨rfl, rfl, rfl, by decide⟩, rfl, ⟨⟨rfl, rfl, rfl, by decide⟩, rfl⟩, ⟨rfl, rfl, rfl, by decide⟩, by decide, by decide⟩

theorem witness_tally_burn :
    let p : List Byte := [2, 0, 0, 0, 1, 0, 0, 0, 0xFE, 0xFF, 0xFF, 0xFF]
    Holds (asked live 0x51 12 p) ⟨0x51, 0, 12, 7, p⟩ ∧ p.length = 12 ∧ leAt p 1 3 = 0 ∧ leAt p 8 4 = 2 ^ 32 - 1 - leAt p 4 4 ∧
    live.glob.ready = true ∧ live.tallyOk 2 1 = true ∧ (live.pen.records 2).length < tallyMax 2 :=
  ⟨holds_asked _ _ _ (by decide), by decide⟩

theorem witness_mailbox_refusals :
    (∃ r, (asked live 0x10 4089 []).mb.outstanding = some r ∧ r.cmd = 0x10 ∧ 4088 < r.len) ∧
    (∃ r, ({ asked live 0x10 0 [] with glob := { live.glob with recovery := true } } : State).mb.outstanding = some r ∧ r.cmd = 0x10) ∧
    live.mb.outstanding = none ∧ (0x10, Instr.sensorRead) ∈ mailboxRows :=
  ⟨⟨_, rfl, rfl, by decide⟩, ⟨_, rfl, rfl⟩, rfl, by decide⟩

/-- An SPDM request in the mailbox of a block whose slot 0 holds a chain, or none. -/
def spdmAsked (chain p : List Byte) : State := asked { live with spdm := { chain := chain } } 0x01 p.length p

theorem holds_spdm (chain p : List Byte) (h : p.length ≤ 4088) : Holds (spdmAsked chain p) ⟨0x01, 0, p.length, 7, p⟩ ∧
    (spdmAsked chain p).restarting .shroud = false := ⟨⟨rfl, rfl, rfl, rfl, h⟩, rfl⟩

theorem witness_spdm : ∀ p ∈ ([([0x10, 0x84, 0, 0], .getVersion, .getVersion), ([0x12, 0xE3, 0, 0], .negotiateAlgorithms, .negotiateAlgorithms),
      ([0x12, 0xFF, 0, 0], .unsupported, .unsupportedRequest), ([0x12, 0x81, 0, 0], .getDigests, .getDigests),
      ([0x12, 0x82, 0, 0, 0, 0, 4, 0], .getCertificate, .getCertificate), ([0x13, 0xE0, 0, 9], .getMeasurements, .getMeasurements),
      ([0x13, 0xE0, 0, 0], .getMeasurements, .getMeasurements), ([0x13, 0xE0, 1, 0], .getMeasurements, .getMeasurements),
      ([0x12, 0xEE, 0, 0, 1], .setCertificate, .setCertificate)] : List (List Byte × SpdmReq × Instr)),
    Holds (spdmAsked [1, 2, 3] p.1) ⟨0x01, 0, p.1.length, 7, p.1⟩ ∧ (p.2.1, p.2.2) ∈ spdmRows ∧
    (⟨0x01, 0, p.1.length, 7, p.1⟩ : MbReq).spdm = p.2.1 :=
  fun p hp => ⟨(holds_spdm _ _ (by revert p; decide)).1, by revert p; decide⟩

theorem witness_measurements : live.measuresFor 0 = some [] ∧ live.measuresFor 9 = none ∧
    (⟨0x01, 0, 4, 7, [0x13, 0xE0, 0, 0]⟩ : MbReq).wantsSignature = false ∧
    (⟨0x01, 0, 4, 7, [0x13, 0xE0, 1, 0]⟩ : MbReq).wantsSignature = true := ⟨rfl, rfl, by decide, by decide⟩

theorem witness_certificates : ([1, 2, 3] : List Byte) ≠ [] ∧ leAt ([0x12, 0x82, 0, 0, 2, 0, 4, 0] : List Byte) 4 2 < ([1, 2, 3] : List Byte).length := by
  decide

/-! ### Witnesses: resets, supplies and pins -/

/-- Both resets low, or one of them. -/
def resetting (porst blk : Bool) : State :=
  { live with glob := { live.glob with power := .held, porstLow := porst, blkRstLow := blk, ready := false } }

/-- Two staging ports, a reserved area, and boot writes not done since PORST_N. -/
def unwritten (s : State) : State :=
  { s with setup := { s.setup with stagePresent := 3, stageSize := 0 }, glob := { s.glob with areaStale := true } }

theorem witness_boot : (resetting false true).glob.afterPorst = false ∧ (resetting false true).mustWrite = false ∧
    (unwritten (resetting false true)).mustWrite = true ∧ (resetting true true).glob.porstLow = true ∧
    (resetting true true).glob.blkRstLow = true ∧ (resetting true false).glob.blkRstLow = false ∧
    (let s := resetting false true
     imagesGood { s with glob := { s.glob with blkRstLow := false } } = true ∧
     imagesGood { s with fw := [], glob := { s.glob with blkRstLow := false } } = false) ∧
    (let s : State := { resetting true false with glob := { (resetting true false).glob with afterPorst := true }
                                                  pen := { live.pen with lostSupply := true } }
     s.glob.afterPorst = true ∧ s.pen.lostSupply = true ∧ s.glob.porstLow = true ∧
     imagesGood { s with setup := { s.setup with stagePresent := 0, stageSize := 0 }, glob := { s.glob with porstLow := false }
                         pen := { s.pen with powered := true } } = true) := by decide

/-- The main supplies may go under BLK_RST_N alone. -/
theorem witness_supplies : ((resetting false true).glob.blkRstLow = true ∧ (resetting false true).glob.porstLow = false) ∧
    live.glob.blkRstLow = false ∧ (resetting true true).glob.porstLow = true := by decide

/-- A PMBus device on each of the first two entries, the second a main rail at address 0x21. -/
def railed (s : State) : State :=
  { s with setup := { s.setup with pmbDev := [0x80000020, 0xC0000021], sensorLock := true } }

theorem witness_wake : (idle.glob.power = .idle ∧ idle.restarting .trim = false) ∧
    (pennant.glob.power = .pennant ∧ pennant.waking.waiting = false ∧ pennant.glob.blkRstLow = false ∧ pennant.glob.porstLow = false ∧
      pennant.setup.mainRails = [] ∧ (railed pennant).setup.mainRails ≠ []) ∧ live.glob.power = .run := by decide

theorem witness_power_good : ∀ n ∈ [0, 1],
    (let s : State := { railed pennant with waking := { railsTried := n, waiting := true } }
     s.glob.power = .pennant ∧ s.waking.waiting = true ∧ s.waking.railsTried = n ∧ s.setup.mainRails ≠ []) := by decide

/-- A boot that waits for one write of staging, the last one or not. -/
def booting (more : List Scrub) : State :=
  { live with glob := { live.glob with power := .boot, ready := false, areaStale := true }, scrubs := more
              sreqs := [{ port := 1, tag := 5, xfer := 0, part := 0, off := 0, unitAddr := 9, write := true }] }

theorem witness_boot_completes : (booting []).glob.power = .boot ∧ live.glob.power ≠ .boot ∧
    ((live.stgAnswer 1 5 (some (false, [], []))).settle).glob.power = .run ∧
    ((booting []).stgAnswer 1 5 (some (false, [], []))).settle.glob.power = .boot ∧
    ((booting []).stgAnswer 1 5 (some (false, [], []))).settle.scrubs = [] ∧
    ((unwritten (booting [{ entry := 0, base := 0, len := 64 }])).stgAnswer 1 5 (some (false, [], []))).settle.glob.power = .boot ∧
    ((unwritten (booting [{ entry := 0, base := 0, len := 64 }])).stgAnswer 1 5 (some (false, [], []))).settle.scrubs ≠ [] := by
  refine ⟨rfl, by decide, rfl, rfl, by decide +kernel, rfl, by decide +kernel⟩

/-- PREEMPT_N and SB[3] name the job 9 of function 5, and SB[2] counts edges for a sampling Telltale. -/
def pinned : State :=
  { live with rigs := { live.rigs with cur := { live.rigs.cur with sb := [0, 0, 3, 1] } }
              jobs := [(9, { fn := 5, idx := some 0, cad := ⟨[0, 0, 0, 0], [0, 0, 0, 0], 0x11, 33, 100⟩ })]
              tt := { live.tt with sampling := true } }

theorem witness_pins : (pinned.mainOn = true ∧ pinned.restarting .trim = false ∧ pinned.gens = [] ∧
      (FMap.find pinned.jobs 9).map (fun j => (j.fn, bitOf j.cad.pin 0, bitOf j.cad.pin 4)) = some (5, true, true) ∧
      (FMap.find pinned.fns 5).map (·.state) = some .active ∧ pinned.cutsPending 9 = [] ∧ (one pinned (ent (.cut 9 1))).cutsPending 9 = [1]) ∧
    pennant.mainOn = false ∧ pinned.rigs.cur.sb.getD 3 0 = 1 ∧ pinned.rigs.cur.sb.getD 2 0 = 3 ∧ pinned.tt.sampling = true ∧
    pinned.rigs.cur.sb.getD 0 0 = 0 ∧
    (let s := { railed live with sensors := [(24, { reading := 48000 })] }
     s.mainOn = true ∧ s.restarting .masthead = false ∧ s.setup.declared 24 = true ∧ s.droopLimits.1 ≤ (s.sensor 24).reading.toInt ∧
     s.ctr.value (ctrId 0 0 2) < 2 ^ 48 - 1) ∧ live.setup.declared 24 = false ∧
    (let s : State := { live with procs := { live.procs with restarting := [.masthead] } }
     s.mainOn = true ∧ s.restarting .masthead = true) := by decide

/-- Yards 62 and 63 ungated, with a transfer at work in Yard 62. -/
def gates : State :=
  { live with yards := [(62, { gated := false }), (63, { gated := false })]
              xfers := [(1, { id := 1, fn := 0, work := .fill 1, srcs := [], dsts := [], phase := .writing, yard := 62 })] }

theorem witness_idle_gates :
    (∀ u ∈ [live, idle], let s : State := { u with idleSince := some 5, pen := { u.pen with timer := 5 + live.rigs.cur.spare.idleDelay } }
      s.idleSince = some 5 ∧ 5 + s.rigs.cur.spare.idleDelay ≤ s.pen.timer ∧ s.mayIdle = u.mayIdle) ∧ live.idleSince = none ∧
    live.mayIdle = true ∧ idle.mayIdle = false ∧
    (gates.glob.power = .run ∧ gates.restarting .trim = false ∧ gates.yardBusy 63 = false ∧
      8 * (63 / 8) + 6 ≠ 63 ∧ (gates.yard (8 * (63 / 8) + 6)).gated = false) ∧
    (∀ i, i < 8 → 8 * (63 / 8) + i ≠ 63 → (live.yard (8 * (63 / 8) + i)).gated = true) ∧ gates.yardBusy 62 = true := by decide

/-! ### Witnesses: links and packets -/

theorem witness_link_levels : linked.waitPkts = [] ∧ linked.freqs = [] ∧ (3 : Nat) < 32 ∧ (32 : Nat) ≤ 32 ∧ (35 : Nat) < 36 := by decide

/-- The link of port 3 in a state. -/
def link (l : Link) : State := { linked with links := [(3, l)] }

/-- A packet from endpoint 0x12 to the block, LAST set. -/
def from12 (cls op : Nat) : Pkt := { cls := cls, op := op, src := 0x12, dst := 0x21, last := true }

theorem fits (p : Pkt) (h : p.cls < 16 ∧ p.op < 256 ∧ p.src < 4096 ∧ p.dst < 4096 ∧ p.len < 8192 ∧ p.addr < 2 ^ 64 ∧ p.tag < 2 ^ 32 ∧
    p.slice < 256 ∧ p.sigCount < 256 ∧ p.cleat < 65536 ∧ p.arg32 < 2 ^ 32 ∧ p.argA < 2 ^ 64 ∧ p.argB < 2 ^ 64) : p.Fits := by
  obtain ⟨h1, h2, h3, h4, h5, h6, h7, h8, h9, ha, hb, hc, hd⟩ := h
  exact ⟨h1, h2, h3, h4, h5, h6, h7, h8, h9, ha, hb, hc, hd⟩

/-- A packet of at most 512 B that the block takes. -/
theorem proper (p : Pkt) (bs : List Byte) (h : p.Fits) (h1 : opcodes.contains (p.cls, p.op) = true) (h2 : p.endpointsOk = true)
    (h3 : p.isLocal = true ∨ p.dst = 0x21) (h4 : p.sig = true → (p.cls = 2 ∧ p.op = 1) ∨ p.cls = 5) (h5 : bs.length ≤ 512)
    (h6 : carriesPayload p = true → p.len = bs.length) (h7 : carriesPayload p = false → bs = []) : p.Proper 0x21 bs :=
  ⟨h, h1, h2, h3, h4, h5, h6, h7⟩

theorem hears_link (l : Link) (h : l.running = true) (hk : l.rxKey.length = 36) : Hears (link l) 3 := ⟨rfl, by decide, h, fun _ _ => hk⟩

theorem hears : Hears linked 3 := hears_link running rfl rfl

theorem witness_link_hello : linked.glob.power = .run ∧ linked.waitPkts = [] ∧
    (∀ sent, ((link { state := .hello, linkUp := true, helloSent := sent }).link 3).state = .hello) ∧
    ((linked.link 3).running = true) ∧ ((link {}).link 3).state = .down ∧ ((link { state := .stopped }).link 3).state = .stopped ∧
    Comes linked 3 { cls := 3, op := 0x20, src := 0x12, dst := 0, argA := 2 ^ 64 - 1 } [] :=
  ⟨rfl, rfl, by decide, by decide, by decide, by decide, hears, proper _ _ (fits _ (by decide)) (by decide) (by decide)
    (.inl rfl) (by decide) (by decide) (by decide) (by decide)⟩

theorem witness_rekeying :
    (∀ p ∈ ([(2 ^ 48, 0), (0, 2 ^ 48), (2 ^ 48 - 1, 2 ^ 48 - 1)] : List (Nat × Nat)),
      ((link { state := .up, tx := p.1, rx := p.2 }).link 3).state = .up ∧ ((link { state := .up, tx := p.1, rx := p.2 }).link 3).tx = p.1) ∧
    (Comes (link { running with state := .roll, rollSent := true, newHalf := some 5 }) 3
        { cls := 3, op := 0x22, src := 0x12, dst := 0, argA := 2 ^ 64 - 1 } [] ∧
      ((link { running with state := .roll, rollSent := true, newHalf := some 5 }).link 3).newHalf = some 5) ∧
    (((link { state := .roll, tx := 2 ^ 48 + 2 ^ 20 }).link 3).state = .roll ∧
      2 ^ 48 + 2 ^ 20 ≤ ((link { state := .roll, tx := 2 ^ 48 + 2 ^ 20 }).link 3).tx ∧ (link {}).freqs = []) ∧
    ((link { state := .roll, tx := 2 ^ 48 + 2 ^ 20 - 1 }).link 3).tx < 2 ^ 48 + 2 ^ 20 :=
  ⟨by decide, ⟨⟨hears_link _ rfl rfl, proper _ _ (fits _ (by decide)) (by decide) (by decide) (.inl rfl) (by decide) (by decide) (by decide)
    (by decide)⟩, rfl⟩, by decide, by decide⟩

/-- Every packet of an attached accelerator that carries no payload, and one that none of them answers. -/
theorem comes (p : Pkt) (h : p ∈ [from12 1 1, { from12 1 1 with addr := 2 ^ 64 - 1, tag := 2 ^ 32 - 1 }, from12 2 2, from12 3 2, from12 3 6,
    from12 3 0x10, from12 4 2, { from12 4 2 with arg32 := 4, argA := 1, argB := 0x12 * 2 ^ 52 },
    { from12 4 2 with arg32 := 4, argA := 9 }, { from12 4 2 with arg32 := 2, argA := 1 }, { from12 4 2 with arg32 := 1, argA := 9 },
    { from12 4 2 with arg32 := 1, argA := 1, argB := 0x12 * 2 ^ 52 }, { from12 3 2 with argA := 1 }, { from12 3 0x10 with arg32 := 5 },
    { from12 3 0x10 with arg32 := 6, argA := 9 }, { from12 5 1 with sig := true, sigCount := 255, cleat := 65535 },
    { from12 5 1 with sig := true, cleat := 65535 }, { from12 5 1 with src := 0x13, sig := true, sigCount := 1 },
    { from12 3 6 with src := 0x13 }, { from12 2 2 with tag := 1 }, { from12 2 2 with src := 0x13, tag := 1 }]) (s : State) (hs : Hears s 3)
    (hf : s.setup.fabEp = 0x21) : Comes s 3 p [] := by
  have hp : p.cls < 16 ∧ p.op < 256 ∧ p.src < 4096 ∧ p.dst < 4096 ∧ p.len < 8192 ∧ p.addr < 2 ^ 64 ∧ p.tag < 2 ^ 32 ∧ p.slice < 256 ∧
      p.sigCount < 256 ∧ p.cleat < 65536 ∧ p.arg32 < 2 ^ 32 ∧ p.argA < 2 ^ 64 ∧ p.argB < 2 ^ 64 := by
    revert p
    decide
  have hq : opcodes.contains (p.cls, p.op) = true ∧ p.endpointsOk = true ∧ p.dst = 0x21 ∧ (p.sig = true → (p.cls = 2 ∧ p.op = 1) ∨ p.cls = 5) ∧
      carriesPayload p = false := by
    revert p
    decide
  refine ⟨hs, ?_⟩
  rw [hf]
  exact proper _ _ (fits _ hp) hq.1 hq.2.1 (.inr hq.2.2.1) hq.2.2.2.1 (Nat.zero_le _) (by rw [hq.2.2.2.2]; simp) fun _ => rfl

/-- A packet with 64 B of payload from endpoint 0x12. -/
def data12 (cls op : Nat) : Pkt := { from12 cls op with len := 64 }

theorem comes_data (p : Pkt) (h : p ∈ [data12 1 2, { data12 1 2 with addr := 0x12 * 2 ^ 52, tag := 2 }, data12 2 1,
    { data12 2 1 with sig := true, sigCount := 255, cleat := 65535 }, { data12 3 4 with arg32 := 4 },
    { data12 3 4 with arg32 := 4, last := false }]) (s : State)
    (hs : Hears s 3) (hf : s.setup.fabEp = 0x21) (bs : List Byte) (hb : bs.length = 64) : Comes s 3 p bs := by
  have hp : p.cls < 16 ∧ p.op < 256 ∧ p.src < 4096 ∧ p.dst < 4096 ∧ p.len < 8192 ∧ p.addr < 2 ^ 64 ∧ p.tag < 2 ^ 32 ∧ p.slice < 256 ∧
      p.sigCount < 256 ∧ p.cleat < 65536 ∧ p.arg32 < 2 ^ 32 ∧ p.argA < 2 ^ 64 ∧ p.argB < 2 ^ 64 := by
    revert p
    decide
  have hq : opcodes.contains (p.cls, p.op) = true ∧ p.endpointsOk = true ∧ p.dst = 0x21 ∧ (p.sig = true → (p.cls = 2 ∧ p.op = 1) ∨ p.cls = 5) ∧
      carriesPayload p = true ∧ p.len = 64 := by
    revert p
    decide
  refine ⟨hs, ?_⟩
  rw [hf]
  exact proper _ _ (fits _ hp) hq.1 hq.2.1 (.inr hq.2.2.1) hq.2.2.2.1 (by omega) (fun _ => by rw [hq.2.2.2.2.2, hb])
    (by rw [hq.2.2.2.2.1]; simp)

/-- Of two header flits that differ in their ICV alone, one does not verify under a running session. -/
theorem some_icv_fails : ∃ h : Flit, h.poison = false ∧ (linked.rxSeal 3).verifies h [] = false := by
  have hv : ∀ b : Byte, (linked.rxSeal 3).verifies ⟨List.replicate 63 0 ++ [b], false⟩ [] =
      ((linked.rxSeal 3).icv (List.replicate 48 0) [] == List.replicate 15 0 ++ [b]) := by
    intro b
    have h1 : (List.replicate 63 (0 : Byte) ++ [b]).take 48 = List.replicate 48 0 := rfl
    have h2 : (List.replicate 63 (0 : Byte) ++ [b]).drop 48 = List.replicate 15 0 ++ [b] := rfl
    have h3 : (linked.rxSeal 3).isNone = false := rfl
    simp only [Sealing.verifies, h1, h2, h3, bodyOf, List.flatMap_nil, Bool.false_or]
  generalize (linked.rxSeal 3).icv (List.replicate 48 0) [] = c at hv
  by_cases h0 : c = List.replicate 15 0 ++ [0]
  · exact ⟨⟨List.replicate 63 0 ++ [1], false⟩, rfl, by rw [hv, h0]; decide⟩
  · exact ⟨⟨List.replicate 63 0 ++ [0], false⟩, rfl, by rw [hv]; simpa using h0⟩

/-- A sealed packet that the block may not take: its destination is another endpoint. -/
theorem witness_wrong_packet : let p : Pkt := { from12 1 1 with dst := 0x22 }
    ∃ h data, linked.peerFlits 3 p [] = h :: data ∧ h.poison = false ∧ (linked.rxSeal 3).verifies h data = true ∧
      (parsePkt h.bytes).isLocal = false ∧ (parsePkt h.bytes).dst ≠ linked.setup.fabEp := by
  intro p
  have hp := parsePkt_header (p := p) (fits _ (by decide))
  refine ⟨_, [], peerFlits_eq p [] (by rw [(crypt_crypt hears.2.2.2 _).1]; rfl), rfl, ?_, ?_, ?_⟩
  · simp only [Sealing.verifies, List.take_left' (length_header p), List.drop_left' (length_header p)]
    rw [show bodyOf [] = (linked.rxSeal 3).crypt (fit (64 * ceilDiv ([] : List Byte).length 64) 0 []) from
      (List.eq_nil_of_length_eq_zero (by rw [(crypt_crypt hears.2.2.2 _).1]; rfl)).symm]
    simp
  · simp only [hp]
    decide
  · simp only [hp]
    decide

theorem witness_packets : flitsAt (.resumeDone 3 [headFlit [0x13, 6]]) = some (3, headFlit [0x13, 6] :: []) ∧ idle.glob.power ≠ .run ∧
    ((live.link 3).state = .down) ∧ 32 ∉ live.drainPorts ∧ linked.freqs = [] ∧ (⟨[], true⟩ : Flit).poison = true ∧
    linked.reqFor 3 0 true = none ∧ linked.reqFor 3 0 false = none := by decide

/-- A write and a read are owed at port 3. -/
def owed : State :=
  { linked with freqs := [⟨3, 1, 9, 0, 0, 64, true, 0x12, 0, 0, 0x21, 1⟩, ⟨3, 2, 8, 0, 0, 64, false, 0x12, 0, 0, 0x21, 1⟩]
                xfers := [(8, { id := 8, fn := 0, work := .tier1 1 1 0, srcs := [Part.at (.fabric (0x12 * 2 ^ 52)) 64], dsts := [],
                                phase := .reading })] }

theorem witness_responses : Comes owed 3 { from12 2 2 with tag := 1 } [] ∧
    Comes owed 3 { data12 1 2 with addr := 0x12 * 2 ^ 52, tag := 2 } (List.replicate 64 7) ∧ owed.freqs.Nodup ∧
    owed.reqFor 3 1 true = some ⟨3, 1, 9, 0, 0, 64, true, 0x12, 0, 0, 0x21, 1⟩ ∧
    owed.reqFor 3 2 false = some ⟨3, 2, 8, 0, 0, 64, false, 0x12, 0, 0, 0x21, 1⟩ ∧
    (∃ x part, FMap.find owed.xfers 8 = some x ∧ x.id = 8 ∧ x.srcs[0]? = some part ∧ part.loc = .fabric (0x12 * 2 ^ 52) ∧
      epOf (0x12 * 2 ^ 52) = 0x12 ∧ part.len = 64 ∧ owed.ownerOf x = none) ∧
    Comes owed 3 { from12 2 2 with src := 0x13, tag := 1 } [] :=
  ⟨comes _ (by decide) _ ⟨rfl, by decide, rfl, fun _ _ => rfl⟩ rfl,
    comes_data _ (by decide) _ ⟨rfl, by decide, rfl, fun _ _ => rfl⟩ rfl _ List.length_replicate, by decide, by decide, by decide,
    ⟨_, _, rfl, rfl, rfl, rfl, by decide, rfl, rfl⟩, comes _ (by decide) _ ⟨rfl, by decide, rfl, fun _ _ => rfl⟩ rfl⟩

theorem plain_cleat (s : State) (c : Nat) (h1 : s.cleatOwner c = 0) (h2 : s.sheets = []) (h3 : s.accepted = [])
    (h4 : s.fns = live.fns) : PlainCleat s c 0 := by
  refine ⟨h1, by simp [State.boundSheet, h2], by simp [State.waitsOf, h3], ?_⟩
  intro x hx
  rw [h4] at hx
  obtain rfl : _ = x := Option.some.inj hx
  rfl

theorem witness_signals :
    (∀ p ∈ ([{ from12 5 1 with sig := true, sigCount := 255, cleat := 65535 }, { from12 5 1 with sig := true, cleat := 65535 },
        { from12 5 1 with src := 0x13, sig := true, sigCount := 1 }] : List Pkt), Comes linked 3 p [] ∧ Pkt.Is p 5 1) ∧
    (∀ p ∈ ([data12 2 1, { data12 2 1 with sig := true, sigCount := 255, cleat := 65535 }] : List Pkt),
      Comes linked 3 p (List.replicate 64 0) ∧ Pkt.Is p 2 1) ∧
    PlainCleat linked 65535 0 ∧ linked.attachedTo 0x12 0 = true ∧ linked.cleat 65535 + 255 ≤ cleatMax ∧
    (let s : State := { linked with cleats := [(65535, cleatMax - 254)] }
     cleatMax < s.cleat 65535 + 255 ∧ s.attachedTo 0x12 0 = true) ∧ linked.attachedTo 0x13 0 = false := by
  refine ⟨fun p hp => ⟨comes p (by revert p; decide) _ hears rfl, by revert p; unfold Pkt.Is; decide⟩,
    fun p hp => ⟨comes_data p (by revert p; decide) _ hears rfl _ List.length_replicate, by revert p; unfold Pkt.Is; decide⟩,
    plain_cleat _ _ rfl rfl rfl rfl, by decide, by decide, by decide, by decide⟩

/-- A generation of one 64 KiB region at endpoint 0x12, epoch 1 of job 9. -/
def gen1 : Gen :=
  { job := 9, epoch := 1, fn := 0, fullImage := false, tiers := 1, lookahead := 0, regions := [⟨0x12 * 2 ^ 52, 65536, 0, 1, false, false⟩],
    pauseSig := false, pauseCleat := 0, pauseEp := 0, manAddr := 0, manMax := 0, digests := false, tensors := [], pieces := [],
    segs := [{ region := 0, n := 0 }] }

/-- A state with that generation as one wants it. -/
def withGen (g : Gen) : State := { linked with gens := [g], jobs := [(9, { fn := 0, idx := some 0, base := some (0, 0) })] }

/-- A cut of `gen1` that awaits endpoint 0x12 and another. -/
def awaiting (st : CutStage) : Gen :=
  { gen1 with cutting := some { entry := 1, step := 1, stage := st, await := [0x12, 0x13], since := 0 } }

/-- One range of 64 B at endpoint 0x12, four times over in a map of four entries that do not overlap. -/
def mapBytes : List Byte := (List.range 4).flatMap fun i => toLe 8 (0x12 * 2 ^ 52 + 64 * i) ++ toLe 8 64

theorem hears_gen (g : Gen) : Hears (withGen g) 3 := ⟨rfl, by decide, rfl, fun _ _ => rfl⟩

theorem witness_protocol : (FMap.find linked.eps 0x12).isSome = true ∧ FMap.find linked.eps 0x13 = none ∧
    (∀ p ∈ ([from12 3 2, from12 3 6, from12 4 2, { from12 4 2 with arg32 := 4, argA := 1, argB := 0x12 * 2 ^ 52 },
        { from12 4 2 with arg32 := 4, argA := 9 }, { from12 4 2 with arg32 := 2, argA := 1 }, { from12 4 2 with arg32 := 1, argA := 9 },
        { from12 4 2 with arg32 := 1, argA := 1, argB := 0x12 * 2 ^ 52 }, { from12 3 2 with argA := 1 },
        { from12 3 6 with src := 0x13 }] : List Pkt), ∀ g, Comes (withGen g) 3 p []) ∧
    ((withGen gen1).gen 1 = some gen1 ∧ gen1.state = .opened ∧ gen1.segAt (0x12 * 2 ^ 52) = some 0 ∧ (gen1.segs[0]?).map (·.state) = some .idle) ∧
    (let g := awaiting .quiesce
     (withGen g).gen 1 = some g ∧ (∃ k ∈ [0x12, 0x13], k ≠ 0x12) ∧ (withGen g).restores = [] ∧ g.segAt (0x12 * 2 ^ 52) = some 0) ∧
    linked.gen 1 = none ∧ (withGen gen1).gen 9 = none ∧ linked.waitPkts = [] ∧
    (withGen gen1).protoPort { (withGen gen1).pkt 4 5 0x12 with argA := 9 } = some 3 ∧
    (let g : Gen := { gen1 with batches := [(0x12, true, [0])] }
     (withGen g).gen 1 = some g ∧ g.batches = [(0x12, true, [0])]) :=
  ⟨by decide, by decide, fun p hp g => comes p (by revert p; decide) _ (hears_gen g) rfl, by decide, by decide, by decide, by decide,
    by decide, by decide, by decide⟩

theorem witness_export_map : ((withGen (awaiting .mapping)).gens.find? (mapsFor 0x12)) = some (awaiting .mapping) ∧
    (withGen (awaiting .mapping)).gen 1 = some (awaiting .mapping) ∧ linked.gens.find? (mapsFor 0x12) = none ∧ mapBytes.length = 16 * 4 ∧
    (∀ last, Comes (withGen (awaiting .mapping)) 3 { data12 3 4 with arg32 := 4, last := last } mapBytes) ∧
    badMap 0x12 4 (mapGiven mapBytes.length (plain mapBytes)) = false ∧
    ((namedRanges (mapGiven mapBytes.length (plain mapBytes))).map (·.len)).foldl (· + ·) 0 ≤
      ((gen1.regions.filter fun r => gen1.regionEp r == 0x12).map (·.len)).foldl (· + ·) 0 :=
  ⟨by decide, by decide, by decide, by decide, fun last => comes_data _ (by cases last <;> decide) _ (hears_gen _) rfl _ (by decide),
    by decide +kernel, by decide +kernel⟩

theorem witness_preempt_notice :
    (∀ p ∈ ([{ from12 3 0x10 with arg32 := 5 }, { from12 3 0x10 with arg32 := 6, argA := 9 }] : List Pkt), Comes linked 3 p [] ∧ Pkt.Is p 3 0x10) ∧
    linked.gens = [] ∧ FMap.Sorted linked.jobs ∧  ((FMap.find linked.fns 5).map (·.state)) = some .active ∧ FMap.find linked.fns 6 = none :=
  ⟨fun p hp => ⟨comes p (by revert p; decide) _ hears rfl, by revert p; unfold Pkt.Is; decide⟩, rfl, trivial, by decide, by decide⟩

/-! ### Witnesses: expiries -/

/-- Entry 1 waits. -/
def waiter (s : State) (a : Acc) : State := one s { a with phase := .waiting }

/-- Trim restarts. -/
def trimDown (s : State) : State := { s with procs := { s.procs with restarting := [.trim] } }

theorem witness_wait_timeouts :
    (∀ s ∈ [live, idle, trimDown idle], (waiter s (ent (.cleatWait 65535 7 0xFFFFFFFF))).acc 1 =
      some { ent (.cleatWait 65535 7 0xFFFFFFFF) with phase := .waiting }) ∧ idle.glob.power = .idle ∧ idle.restarting .trim = false ∧
    (trimDown idle).restarting .trim = true ∧
    (one live (ent (.cleatWait 65535 7 0xFFFFFFFF))).acc 1 = some (ent (.cleatWait 65535 7 0xFFFFFFFF)) ∧ live.pen.powered = true := by decide

theorem witness_heartbeats :
    (∀ s ∈ [calm live, calm idle, calm (one live (adm (.sliceFreeze 5)))], (FMap.find s.fns 5).map (·.state) = some .active ∧ s.hbTicks 5 ≠ 0 ∧
      ((FMap.find s.fns 5).map fun x => s.timerTurn 4 (x.beat + s.hbTicks 5)) = some true) ∧
    (calm live).namedNow 5 = false ∧ (calm idle).namedNow 5 = false ∧ (calm (one live (adm (.sliceFreeze 5)))).namedNow 5 = true ∧
    ({ live with hbInt := [(5, 0)] } : State).hbTicks 5 = 0 ∧ 
    (let s : State := { live with tt := { live.tt with sampling := true, next := 10 } }
     s.hbTicks 5 ≠ 0 ∧ ((FMap.find s.fns 5).map fun x => s.timerTurn 4 (x.beat + s.hbTicks 5)) = some false) := by decide +kernel

/-- Queue 1 with a completion ring of this kind. -/
def withRing (r : Cq) : State := { ringed with cqs := [(1, r)] }

/-- A ring of function 0 that interrupts. -/
def coal : Cq :=
  { state := .running, fn := 0, slot := 1, log2 := 4, base := 0x2000, intAddr := 0xFEE00000, intData := 1, coalCount := 4, coalTicks := 9, unsig := 1,
    firstUnsig := some 3 }

theorem witness_coalescing : FMap.find (withRing coal).cqs 1 = some coal ∧ coal.firstUnsig = some 3 ∧ coal.coalTicks ≠ 0 ∧ coal.intAddr ≠ 0 ∧
    (∀ s ∈ [({ withRing coal with glob := idle.glob } : State), trimDown { withRing coal with glob := idle.glob }],
      FMap.find s.cqs 1 = some coal ∧ s.glob.power = .idle) ∧
    FMap.find (withRing { coal with intAddr := 0 }).cqs 1 = some { coal with intAddr := 0 } := by decide

/-- A cut of `gen1` that waits at a stage for the endpoints 0x12 and 0x13. -/
def cutAt (st : CutStage) : Cutting := { entry := 1, step := 1, stage := st, await := [0x13, 0x12], since := 0 }

theorem witness_cut_timeouts : ∀ st ∈ [CutStage.quiesce, .arm, .mapping],
    (let g : Gen := { gen1 with cutting := some (cutAt st) }
     let s : State := waiter (withGen g) (ent (.cut 9 1))
     s.gens = [g] ∧ g.cutting = some (cutAt st) ∧ (cutAt st).entry = 1 ∧ s.acc 1 = some { ent (.cut 9 1) with phase := .waiting } ∧
     (cutAt st).await ≠ [] ∧ g.armedEps = [] ∧ g.state = .opened ∧ s.xfers = [] ∧ (∀ p ∈ s.eps, p.2.quiesced = none) ∧
     (FMap.find s.jobs g.job).isSome = true) := by decide

theorem witness_resumes_late : (FMap.find linked.eps 0x12).map (·.owesResume) = some none ∧
    (FMap.find ({ linked with eps := linked.eps.map fun p => (p.1, { p.2 with owesResume := some 4 }) } : State).eps 0x12).map (·.owesResume) =
      some (some 4) := by decide

theorem witness_reset_timeouts :
    (let s : State := one live { adm (.sliceReset 5 false 1) with phase := .waiting, step := 1 }
     s.xfers = [] ∧ s.gens = [] ∧ s.sheets = [] ∧ s.restores = [] ∧ s.freqs = [] ∧ s.sreqs = [] ∧ s.hreqs = [] ∧ s.waitPkts = [] ∧
     s.acc 1 = some { adm (.sliceReset 5 false 1) with phase := .waiting, step := 1 } ∧ (FMap.find s.fns 5).map (·.state) = some .active ∧
     (∀ p ∈ s.fns, p.2.resize = none) ∧ s.accepted = [{ adm (.sliceReset 5 false 1) with phase := .waiting, step := 1 }] ∧
     (∀ r ∈ s.cqs, r.2.fn ≠ 5)) ∧ FMap.Sorted live.fns := ⟨by decide, by simp [live, FMap.Sorted]⟩

/-- A FILL that owes a write at port 31. -/
def fillOwed : State :=
  { one linked { ent (.fill ⟨0x12 * 2 ^ 52, 64, .fabric, 7⟩) with phase := .running } with
    xfers := [(8, { id := 8, fn := 0, work := .fill 1, srcs := [], dsts := [Part.at (.fabric (0x12 * 2 ^ 52)) 64], phase := .writing })]
    freqs := [⟨31, 4294967295, 8, 0, 0, 64, true, 0x12, 0, 0, 0x21, 1⟩] }

theorem witness_fabric_timeouts : ∃ r x a, fillOwed.freqs = [r] ∧ r.port = 31 ∧ r.tag = 4294967295 ∧ r.write = true ∧
    FMap.find fillOwed.xfers r.xfer = some x ∧ x.id = r.xfer ∧ x.work = .fill 1 ∧ r.part < x.dsts.length ∧ fillOwed.acc 1 = some a ∧
    a.fin = none ∧ a.conds = [] := ⟨_, _, _, rfl, rfl, rfl, rfl, rfl, rfl, rfl, by decide, rfl, rfl, rfl⟩

theorem witness_port_timeouts :
    (one live { ent (.cleatSignal 0 1 0x12) with phase := .running, sigWait := true }).acc 1 =
      some { ent (.cleatSignal 0 1 0x12) with phase := .running, sigWait := true } ∧
    (one live (ent (.cleatSignal 0 1 0x12))).acc 1 = some (ent (.cleatSignal 0 1 0x12)) ∧ FMap.find live.xfers 3 = none := by decide

theorem witness_unpaired : ∀ safety ∈ [0, 1],
    (let s : State := { live with procs := { unpairedSince := some 5 }
                                  pen := { live.pen with timer := 1644, inForce := { safety := safety } } }
     s.procs.unpairedSince = some 5 ∧ s.gens = [] ∧ 5 + 1639 ≤ s.pen.timer ∧ s.pen.inForce.safety = safety) := by decide

/-! ### Witnesses: the calendar, sensors and the Telltale -/

theorem witness_calendar :
    (∀ next ∈ [false, true],
      (let s : State := { live with pen := { live.pen with lifeS := 64, recNext := next } }
       s.pen.powered = true ∧ s.pen.lastRec.lifeS + 64 ≤ s.pen.lifeS ∧ s.pen.recNext = next)) ∧
    (let s : State := calm { live with pen := { live.pen with lifeS := 9, dues := [(31, ⟨true, 9, 5⟩)] } }
     FMap.find s.pen.dues 31 = some ⟨true, 9, 5⟩ ∧ s.glob.power = .run ∧ s.glob.recovery = false ∧ s.restarting .masthead = false ∧
     (9 : Nat) ≤ s.pen.lifeS ∧ s.timerTurn 3 s.pen.timer = true ∧
     (let s : State := { s with tt := { s.tt with sampling := true } }
      s.timerTurn 3 (s.tickOfLife 9) = false)) ∧ FMap.Sorted ([(31, ⟨true, 9, 5⟩)] : FMap Due) ∧ FMap.find live.pen.dues 0 = none :=
  ⟨by decide +kernel, by decide +kernel, by simp [FMap.Sorted], by decide⟩

theorem witness_alive : Alive live ∧ Alive idle ∧ live.restarting .masthead = false ∧ live.restarting .trim = false ∧ Quiet live :=
  ⟨⟨.inl rfl, rfl⟩, ⟨.inr rfl, rfl⟩, by decide, by decide, rfl, rfl, rfl, rfl, rfl, rfl, rfl, rfl⟩

/-- Every PMBus and I3C device is set up. -/
def wired : State :=
  { live with setup := { live.setup with pmbDev := List.replicate 16 0x80000020, i3cDev := List.replicate 16 0x80000030, sensorLock := true } }

theorem witness_sensors : wired.setup.declared 0 = true ∧ wired.setup.declared 24 = true ∧ wired.setup.declared 80 = true ∧
    wired.setup.declared 95 = true ∧ wired.setup.declared 127 = false ∧ (wired.sensor 24).retried = false ∧
    (({ wired with sensors := [(24, { retried := true })] } : State).sensor 24).retried = true ∧ wired.glob = live.glob ∧
    wired.procs = live.procs := by decide

theorem witness_flags : ∀ f ∈ [false, true],
    (let x : Sensor := { reading := 100, low := 0, warnAt := 100, critAt := 101, hyst := 1, warn := f, crit := f }
     x.low ≠ limitOff ∧ x.warnAt ≠ limitOff ∧ x.critAt ≠ limitOff ∧ x.hyst ≠ limitOff ∧ x.warn = f ∧ x.crit = f) := by decide

theorem witness_telltale :
    (∀ u ∈ [live, idle],
      let s : State := calm { u with tt := { u.tt with sampling := true, next := 10 }, pen := { u.pen with timer := 3286 } }
      s.tt.sampling = true ∧ s.tt.next ≤ s.pen.timer ∧ s.timerAt ≤ s.pen.timer ∧ s.timerTurn 2 s.tt.next = true ∧
      s.pen.timer < s.tt.next + 3277 ∧ s.glob = u.glob ∧ s.procs = u.procs ∧ s.restarting .trim = false) ∧ live.tt.sampling = false ∧
    (let s : State := { live with tt := { live.tt with sampling := true, next := 10 }
                                  rigs := { live.rigs with cur := { live.rigs.cur with prec := { live.rigs.cur.prec with timer := [1, 3, 2, 4] } } } }
     s.timerTurn 2 s.tt.next = false) := by decide +kernel

theorem witness_latent :
    (∀ u ∈ [live, trimDown idle, idle], ∀ due ∈ [4, 5],
      let s : State := { u with pen := { u.pen with lifeS := 5, spareDue := due, bistDue := due } }
      s.glob.ready = true ∧ s.pen.powered = true ∧ s.procs = u.procs ∧ s.pen.spareDue ≤ s.pen.lifeS ∧ s.pen.bistDue ≤ s.pen.lifeS ∧
      s.pen.inForce.safety ≠ 1 ∧ s.glob = u.glob ∧ s.timerAt ≤ s.pen.timer ∧ s.timerTurn 3 s.pen.timer = true ∧ s.tests.trials = [] ∧
      s.tests.bist = none ∧ s.buffersFit s.pen.bistPtr none 1 = true ∧ s.yardIdle s.pen.bistPtr = true ∧ s.restarting .masthead = false) ∧
    live.procs.restarting = [] ∧ (trimDown idle).procs.restarting = [.trim] ∧
    (33 ∈ live.sparesFree 63 ∧ (live.yard 63).servesAs (live.spareMap 63) 33 = none ∧ 63 / 8 ∉ live.procs.orphanMasts) ∧
    (let s : State := { gates with pen := { gates.pen with bistPtr := 62 } }
     s.yardIdle s.pen.bistPtr = false ∧ s.buffersFit s.pen.bistPtr none 1 = true) ∧
    (let s : State := { gates with pen := { gates.pen with lifeS := 1354 }, tests := { bist := some ⟨62, 4, [], false⟩ } }
     s.tests.bist = some ⟨62, 4, [], false⟩ ∧ s.yardIdle 62 = false ∧ 4 + 1350 ≤ s.pen.lifeS) ∧
    ({ live with procs := { live.procs with restarting := [.service 0 1] } } : State).restarting (.service 0 1) = true := by
  decide +kernel

/-! ### Witnesses: faults -/

theorem witness_crashes :
    (∀ p ∈ [Proc.mainstay, .masthead, .trim, .shroud, .dispatch 0, .dispatch 7, .service 0 0, .service 7 1], procExists p = true ∧
      live.restarting p = false ∧
      (let s : State := { live with procs := { live.procs with restarting := [p] } }
       s.restarting p = true ∧ s.activationOf p = none ∧ s.gens = [] ∧ s.glob = live.glob)) ∧ live.procs.alert = none ∧
    live.log.held.length < 256 := by decide

theorem witness_lanes :
    (∀ n ∈ [1, 2],
      (let s : State := { live with rigs := { live.rigs with cur := { live.rigs.cur with spare := { strikes := n } } } }
       (s.yard 63).fenced = [] ∧ s.xfers = [] ∧ (s.yard 63).strikes = [] ∧ s.rigs.cur.spare.strikes = n ∧ s.tests.trials = [] ∧
       63 / 8 ∉ s.procs.orphanMasts ∧
       (s.yard 63).servesAs (s.spareMap 63) 0 = some 0 ∧ (s.sparesFree 63).head? ≠ none ∧ (s.sparesFree 63).head? ≠ some 0)) ∧
    63 / 8 ∈ ({ live with procs := { live.procs with orphanMasts := [7] } } : State).procs.orphanMasts ∧
    (∀ o ∈ [[], [7]],
      (let x : Xfer := { id := 8, fn := 0, work := .copy 1, srcs := [Part.at (.fabric (0x12 * 2 ^ 52)) 64], dsts := [], phase := .reading, yard := 63, lane := 31 }
       let s : State := { live with xfers := [(8, x)], freqs := [⟨31, 1, 8, 0, 0, 64, false, 0x12, 0, 0, 0x21, 1⟩]
                                    procs := { live.procs with orphanMasts := o } }
       s.xfers = [(x.id, x)] ∧ s.owes x.id = true ∧ x.srcs ≠ [] ∧ x.work.isSheet = false ∧ s.procs.orphanMasts = o ∧ s.tests.trials = [] ∧
       (s.yard 63).servesAs (s.spareMap 63) 31 = some 31 ∧
       (s.sparesFree 63).head? ≠ none ∧ (s.sparesFree 63).head? ≠ some 31 ∧ (s.yard 63).fenced = [])) := by decide

theorem witness_clocks : live.links = [] ∧ live.keys.queue = [] ∧ live.restarting .trim = false ∧
    ({ live with procs := { live.procs with restarting := [.trim] } } : State).restarting .trim = true ∧ live.pen.inForce.keyFault ≠ 1 ∧
    (let s : State := { live with setup := { live.setup with vmon := List.replicate 8 0x80010002, sensorLock := true } }
     s.windowOn 7 = true ∧ s.windowOn 0 = true) ∧ live.windowOn 7 = false ∧ live.gens = [] := by decide

/-- The block logs with room and without, at work and while Masthead restarts. -/
theorem witness_event_log :
    (let s : State := { live with setup := { live.setup with stagePresent := 3 }
                                  log := { live.log with always := List.replicate 16384 (entry 4), slot := 524287 } }
     s.restarting .masthead = false ∧ s.log.always.length = 16384 ∧ s.setup.hasStaging = true ∧ s.glob.power ≠ .pennant ∧
     s.log.persist.length < 524288) ∧ live.log.always.length < 16384 ∧ live.setup.hasStaging = false ∧ pennant.glob.power = .pennant ∧
    (∀ n ∈ [255, 256], (let s : State := { live with procs := { live.procs with restarting := [.masthead] }
                                                     log := { live.log with held := List.replicate n (entry 4) } }
      s.restarting .masthead = true ∧ s.log.held.length = n ∧ s.ctr.value (ctrId 0 0 1) < 2 ^ 48 - 1)) ∧
    (∀ lost ∈ [0, 7], (let s : State := { live with log := { live.log with held := List.replicate 256 (entry 4), lost := lost } }
      s.restarting .masthead = false ∧ s.log.lost = lost ∧ s.log.always.length + s.log.held.length ≤ 16384)) :=
  ⟨⟨rfl, List.length_replicate, by decide, by decide, by decide⟩, by decide, by decide, rfl,
    by decide +kernel, by decide +kernel⟩

/-- A persistent store that is full. -/
theorem witness_store_full : (List.replicate 524288 (entry 4)).length = 524288 := List.length_replicate

theorem witness_counters : ctrClass (ctrId 0 0 1) = some .event ∧ ctrClass (ctrId 4 31 1) = some .activity ∧ FMap.Sorted live.ctr.live ∧
    FMap.Sorted live.ctr.rem := ⟨by decide, by decide, trivial, trivial⟩

/-- One rail has Shroud's monitor, so another has not. -/
theorem witness_other_rail : ∃ m, m < 8 ∧ m ≠ Config.shroudRail := by
  by_cases h : Config.shroudRail = 0
  · exact ⟨1, by decide, by simp [h]⟩
  · exact ⟨0, by decide, Ne.symm h⟩

/-- Two requests wait for the Key Unit. -/
def keyed : State :=
  { waiter live (ent (.kuBlock 0 false [] 0)) with keys := { live.keys with queue := [⟨1, 0, []⟩, ⟨2, 0, []⟩] } }

theorem witness_alarms : live.pen.inForce.keyFault ≠ 1 ∧ live.keys.queue = [] ∧ keyed.keys.queue = ⟨1, 0, []⟩ :: [⟨2, 0, []⟩] ∧
    keyed.acc 1 = some { ent (.kuBlock 0 false [] 0) with phase := .waiting } ∧ (Op.kuBlock 0 false [] 0).takesKeyFault = true ∧ keyed.links = [] ∧
    ({ live with pen := { live.pen with inForce := { keyFault := 1 } } } : State).pen.inForce.keyFault = 1 := by decide

theorem witness_alarms_quiet : Alive keyed ∧ Quiet keyed := ⟨⟨.inl rfl, rfl⟩, rfl, rfl, rfl, rfl, rfl, rfl, rfl, rfl⟩

/-! ### Witnesses: the Key Unit -/

/-- A migration-key blob that the device's root wraps. -/
def blob : Blob := ⟨2, 0, false, false, 7, 0, 32, 0⟩

/-- The key of that blob, and a wrapping key. -/
def key32 (b : Byte) : List Byte := List.replicate 32 b

/-- A KEY_LOAD of slot 3 that waits for the Key Unit with a blob. -/
def loading (note : List Byte) : State :=
  { one live { adm (.keyLoad 3 2 0x1000 80) with phase := .waiting, note := note } with
    keys := { live.keys with queue := [⟨1, 0, key32 5⟩] } }

theorem witness_key_unit : unwrapBlob (blob.make (key32 9) (key32 5)) (key32 5) = some (key32 9) ∧
    (parseBlob (blob.make (key32 9) (key32 5))).typ = 2 ∧ unwrapBlob [] (key32 5) = none ∧
    ∀ note, (loading note).keys.queue = ⟨1, 0, key32 5⟩ :: [] ∧ (loading note).restarting .shroud = false ∧
      (loading note).acc 1 = some { adm (.keyLoad 3 2 0x1000 80) with phase := .waiting, note := note } := by
  have hp : parseBlob (blob.make (key32 9) (key32 5)) = blob := by decide +kernel
  refine ⟨unwrapBlob_make rfl rfl hp rfl 7 rfl (by decide), by rw [hp]; rfl, by decide, fun note => ⟨rfl, rfl, rfl⟩⟩

/-- A drain seals with slot 3 while the KEY_LOAD waits. -/
def sealing (note : List Byte) : State :=
  { loading note with
    keys := { (loading note).keys with store := [(3, ⟨key32 1, 0, 9, false, false, 0, 0, 0, 0, [], []⟩)] }
    gens := [{ gen1 with drainBy := some 2, t3Draft := some ⟨0, 3, 9, 0, 0, 0⟩ }] }

theorem witness_seals : ∀ note, (sealing note).sealsWith 3 (2 == 1) = true ∧ (loading note).sealsWith 3 false = false ∧
    (sealing note).keys.queue = (loading note).keys.queue ∧ (sealing note).accepted = (loading note).accepted :=
  fun _ => ⟨rfl, rfl, rfl, rfl⟩

/-- The Key Unit rests while Shroud restarts, and while its generator is stopped. -/
theorem witness_key_unit_rests : ∀ note,
    ({ loading note with keys := { (loading note).keys with drbgStopped := true } } : State).keys.drbgStopped = true ∧
    ({ loading note with procs := { live.procs with restarting := [.shroud] } } : State).restarting .shroud = true ∧
    (loading note).keys.drbgStopped = false ∧ live.keys.queue = [] := fun _ => ⟨rfl, rfl, rfl, rfl⟩

/-! ### Witnesses: entries -/

theorem witness_act_once : entryOf (.snapLatch 1) = some 1 ∧ live.acc 1 = none ∧
    ((waiter live (ent .snapLatch)).acc 1).map (·.phase) = some .waiting := by decide

/-- As many host reads are outstanding as the port may have. -/
def crowded : State := { live with hreqs := List.replicate 512 ⟨5, .data 8 0 0 4096 false⟩ }

/-- The port has room where nothing is outstanding, and where only writes are. -/
theorem witness_room : (∀ s : State, s.hreqs = [] → s.readRoom = true) ∧ crowded.readRoom = false ∧
    ({ live with hreqs := List.replicate 512 ⟨5, .data 8 0 0 4096 true⟩ } : State).readRoom = true ∧
    entryOf (.protect 1 .error) = some 1 ∧ entryOf (.genOpen 1 .error .error) = some 1 := by
  refine ⟨fun s h => ?_, by decide +kernel, by decide +kernel, rfl, rfl⟩
  rw [State.readRoom, State.hostReads, h]
  rfl

/-- Queue 1 with this cache. -/
def caching (c : List HostRead) : State :=
  { ringed with sqs := [(1, { state := .running, fn := 0, slot := 1, log2 := 4, base := 0x1000, cq := 1, maxOut := 8, head := 15, tail := 0,
                              cache := c })] }

/-- Queue 1 with one posted entry, which the block has fetched. -/
def posted (bs : List Byte) : State := caching [.data bs]

/-- A SNAP_LATCH entry, with one byte of the reserved ones set or not. -/
def raw (b : Byte) : List Byte := fit 64 0 ([0x30, 0, 0, 0, 9, 0, 0, 0] ++ List.replicate 12 0 ++ [b])

theorem witness_accepted :
    (∀ b ∈ ([0, 1] : List Byte), ∀ s ∈ [posted (raw b), { posted (raw b) with glob := idle.glob }],
      (s.glob.power = .run ∨ s.glob.power = .idle ∧ s.restarting .trim = false) ∧
      ((FMap.find s.sqs 1).map fun q => (q.state, (q.fetch []).cache)) = some (.running, .data (raw b) :: []) ∧
      ((FMap.find s.sqs 1).map fun q => (({ s with sqs := FMap.put s.sqs 1 (q.fetch []) } : State).hasNext 1 (q.fetch []),
        ({ s with sqs := FMap.put s.sqs 1 (q.fetch []) } : State).hasTurn 1)) = some (true, true) ∧
      (∀ a ∈ s.accepted, a.id ≠ s.nextId) ∧ (FMap.find s.fns 0).map (·.state) = some .active) ∧
    entryBreach false (fit 64 0 (raw 0)) = none ∧ entryBreach false (fit 64 0 (raw 1)) = some (20, 2) ∧
    (let s : State := { caching [] with cqs := [] }
     ((FMap.find s.sqs 1).map fun q =>
      ({ s with sqs := FMap.put s.sqs 1 (q.fetch [.data (raw 0)]) } : State).hasNext 1 (q.fetch [.data (raw 0)])) = some false) ∧
    (let q : Sq := { state := .running, fn := 0, slot := 0, log2 := 4, base := 0x3000, cq := 1, maxOut := 8, tail := 1, cache := [.data (raw 0)] }
     ({ posted (raw 0) with sqs := (0, q) :: (posted (raw 0)).sqs } : State).hasTurn 1 = false) := by decide

theorem witness_completions : ∀ no ∈ [false, true],
    (let a : Acc := { ent .snapLatch with hdr := { hdr with noCqe := no }, fin := some 7 }
     a.conds = [] ∧ a.fin = some 7 ∧ a.sq ≠ 0 ∧ a.hdr.noCqe = no ∧ (FMap.find ringed.sqs a.sq).map (·.cq) = some 1 ∧
     ((FMap.find ringed.cqs 1).map fun r => (r.state, r.full, r.held, r.intAddr)) = some (.running, false, [], 0) ∧
     ({ coal with head := 1 } : Cq).full = true) := by decide

/-- A fresh entry on a state that holds no other. -/
theorem fresh_one (s : State) (a : Acc) (h1 : a.phase = .accepted) (h2 : a.fin = none) : Fresh (one s a) a :=
  ⟨by simp [one, State.acc], h1, h2⟩

theorem witness_refused :
    (one live (ent (.cleatSignal 5 1 7))).cleatRefusal (ent (.cleatSignal 5 1 7)) 5 7 = some ⟨0x40, 20⟩ ∧
    (one live { ent (.cleatWait 5 1 0) with fn := 5 }).waitRefusal { ent (.cleatWait 5 1 0) with fn := 5 } 5 = some ⟨0x40, 16⟩ ∧
    (one live (ent (.copy ⟨0, 0, 64, .staging, .staging⟩))).copyRefusal (ent .snapLatch) ⟨0, 0, 64, .staging, .staging⟩ = some ⟨0x41, 40⟩ ∧
    (one live (ent .snapLatch)).fillRefusal (ent .snapLatch) ⟨0, 64, .staging, 7⟩ = some ⟨0x41, 32⟩ ∧
    ((one live (ent .snapLatch)).drainRefusal (ent .snapLatch) ⟨9, 0, 0, 0, false, 0⟩).isSome = true ∧
    (one live (adm .snapLatch)).createRefusal (adm .snapLatch) ⟨5, true, false, 9, 4, 1, 0x1000, 0, 0, 0, 0, 0, 0⟩ = some ⟨0x40, 20⟩ ∧
    (one live (adm .snapLatch)).destroyRefusal (adm .snapLatch) 7 true false = some ⟨0x40, 16⟩ ∧
    (one live (adm .snapLatch)).sliceRefusal 9 7 ⟨0, 1, 0, 0⟩ = some ⟨0x40, 16⟩ ∧
    (one live (ent .snapLatch)).digestRefusal 0 ⟨3, 0, false, 1, 0, 0, 0, 0⟩ = some ⟨0x40, 16⟩ ∧
    (one live (ent .snapLatch)).digestBehind (ent .snapLatch) ⟨3, 0, false, 1, 0, 0, 0, 0⟩ = false ∧
    live.queuesHalted 9 = false ∧ ({ ent .snapLatch with fn := 5 } : Acc).fn ≠ 0 ∧ (ent .snapLatch).hdr.sig = false := by decide

/-! ### Witnesses: queues and slices -/

theorem witness_plain (op : Op) : Plain (ent op) ∧ Plain (adm op) := ⟨⟨rfl, rfl⟩, rfl, rfl⟩

theorem witness_fresh (s : State) (op : Op) : Fresh (one s (ent op)) (ent op) ∧ Fresh (one s (adm op)) (adm op) :=
  ⟨fresh_one _ _ rfl rfl, fresh_one _ _ rfl rfl⟩

/-- A queue or ring to create. -/
def newQ (qid : Nat) (ring : Bool) : QCreate := ⟨qid, ring, false, 0, 16, 15, 0x4000, 1, 64, 0, 0, 0, 0⟩

theorem witness_queues :
    (one ringed (adm (.queueCreate (newQ 4095 false)))).createRefusal (adm (.queueCreate (newQ 4095 false))) (newQ 4095 false) = none ∧
    (one ringed (adm (.queueCreate (newQ 4095 true)))).createRefusal (adm (.queueCreate (newQ 4095 true))) (newQ 4095 true) = none ∧
    ((FMap.find (beside .disabled).sqs 1).map fun q => (q.state, (beside .disabled).queuesHalted q.fn)) = some (.disabled, false) ∧
    ((FMap.find (beside .disabled).fns 0).map (·.state)) = some .active := by decide

theorem witness_queue_ends :
    (let s : State := { ringed with sqs := [] }
     (FMap.find s.cqs 1).map (fun r => (r.fn, r.state, r.held)) = some (0, .running, []) ∧ s.queuesHalted 0 = false ∧
     (∀ p ∈ s.sqs, p.2.cq = 1 → p.2.state = .absent)) ∧
    (withRing { coal with head := 1, held := [⟨7, 9, 0, 1, false, 0⟩] }).queuesHalted 0 = false ∧
    (FMap.find ringed.sqs 1).map (·.state) = some .running ∧ ringed.queuesHalted 0 = false := by decide

theorem witness_rings_sorted : FMap.Sorted ({ ringed with sqs := [] } : State).cqs := by simp [ringed, FMap.Sorted]

/-- Functions 5 and 9 have partitions, eight buffers of each Yard are kept for captures, and staging port 0 has a stack. -/
def parted : State :=
  { live with setup := { live.setup with stagePresent := 1, stageSize := 2 }
              rigs := { live.rigs with cur := { live.rigs.cur with ckptFloor := 8, part := [(5, ⟨8, 128, 4, 0x1000000, 0, 0, 0, 0, 0, 0, 0, 0⟩),
                (9, ⟨8, 64, 4, 0x1000000, 64, 64, 8, 8, 4, 4, 0, 0⟩)] } } }

theorem witness_slice_create : ∀ staging ∈ [0, 0x1000000],
    (∀ g ∈ parted.gens, g.fn ≠ 9) ∧ parted.queuesHalted 9 = false ∧ parted.sliceRefusal 9 77 ⟨64, 8, 4, staging⟩ = none := by decide

theorem witness_slice_owners : parted.keyOwner 15 false = 9 ∧ parted.keyOwner 16 false ≠ 9 ∧ parted.cleatOwner 63 ≠ 9 ∧
    parted.cleatOwner 64 = 9 := by decide

/-- Function 5 holds this much staging, with a generation or without. -/
def quotaed (gs : List Gen) (len : Nat) : State :=
  { parted with fns := [(0, { state := .active, pasid := 0 }),
      (5, { state := .active, pasid := 7, lanes := 64, queues := 4, sheets := 2, quotaBase := 65536, quotaLen := len })]
                gens := gs }

theorem witness_slice_resize : ∀ p ∈ ([([], 65536), ([{ gen1 with fn := 5 }], 65536), ([], 131072)] : List (List Gen × Nat)),
    (let s := quotaed p.1 p.2
     s.resizeRefusal 5 ⟨128, 8, 4, 65536⟩ = none ∧ s.queuesHalted 5 = false ∧ s.scrubsFor 1 = false ∧
     (FMap.find s.fns 5).map (·.quotaLen) = some p.2 ∧ s.hasOpen 5 = !p.1.isEmpty) := by decide

theorem witness_slice_stops :
    ((FMap.find live.fns 5).map fun x => (x.state, live.freezeBusy 5 x)) = some (.active, false) ∧
    (let s : State := { live with sqs := [(7, { state := .halted, fn := 5, slot := 1, log2 := 4, base := 0x1000, cq := 1, maxOut := 8 })] }
     s.eps = [] ∧ (∀ p ∈ s.fns, p.2.resize = none) ∧ (∀ r ∈ s.cqs, r.2.fn ≠ 5) ∧ (FMap.find s.fns 5).map (·.state) = some .active ∧
     (one s (adm (.sliceReset 5 true 0))).accepted = [adm (.sliceReset 5 true 0)] ∧
     (FMap.find s.sqs 7).map (fun q => (q.fn, q.state)) = some (5, .halted)) := by decide

/-- A migration key in slot 0, and function 5 frozen. -/
def migrating : State :=
  { parted with keys := { parted.keys with store := [(0, ⟨key32 1, 2, 9, false, false, 0, 0, 0, 0, [], []⟩)] }
                fns := [(0, { state := .active, pasid := 0 }), (5, { state := .frozen, pasid := 7, lanes := 64, queues := 4, sheets := 2 })] }

/-- A key record of store index 0 whose blob is meant for a migration key. -/
def imageRecord : List Byte := fit 192 0 (toLe 2 0 ++ toLe 2 80 ++ toLe 12 0 ++ (⟨2, 2, true, false, 7, 0, 32, 0⟩ : Blob).clear)

/-- A slice image of n key records without its tag: 64 lanes, 4 queues, 2 Sheets, no staging, key 9. -/
def imageClear (n : Nat) : List Byte :=
  fit 128 0 (ascii "ZSLICE01" ++ toLe 2 1 ++ toLe 2 0x0201 ++ toLe 4 (128 + 192 * n) ++ [5] ++ List.replicate 7 0 ++ toLe 2 64 ++ toLe 2 4 ++
    toLe 2 2 ++ List.replicate 14 0 ++ toLe 4 n ++ toLe 4 9) ++ (List.replicate n imageRecord).flatten

/-- Its tag under the migration key. -/
def imageTag (n : Nat) : List Byte :=
  gcmTag (key32 1) (slice (imageClear n) 52 12) (overlay (imageClear n) 64 (List.replicate 16 0)) []

/-- That image under a tag. -/
def imageWith (n : Nat) (tag : List Byte) : List Byte := overlay (imageClear n) 64 tag

theorem length_imageTag (n : Nat) (h : n ∈ [0, 1]) : (imageTag n).length = 16 := by
  revert n
  decide +kernel

theorem witness_slice_image : ∀ n ∈ [0, 1], (imageWith n (imageTag n)).length = 128 + 192 * n ∧
    leAt (imageWith n (imageTag n)) 12 4 = 128 + 192 * n ∧ sliceImageOk (imageWith n (imageTag n)) = true ∧
    (imageRecords (imageWith n (imageTag n))).length = n ∧ migrating.loadRefusal 9 77 (imageWith n (imageTag n)) = none := by
  decide +kernel

/-- Bytes laid over 16 of a list's: they can be read back, and the rest is as it was. -/
theorem overlay_sixteen {α : Type} (xs tag other : List α) (h : tag.length = 16) (ho : other.length = 16) (hx : 80 ≤ xs.length) :
    slice (overlay xs 64 tag) 64 16 = tag ∧ slice (overlay xs 64 tag) 52 12 = slice xs 52 12 ∧
    overlay (overlay xs 64 tag) 64 other = overlay xs 64 other := by
  have ht : ∀ ys t : List α, 80 ≤ ys.length → t.length = 16 → overlay ys 64 t = ys.take 64 ++ (t ++ ys.drop 80) := fun ys t hy ht => by
    rw [overlay, List.take_of_length_le (l := t) (by omega), ht, List.append_assoc]
  have h64 : (xs.take 64).length = 64 := by rw [List.length_take]; omega
  have h80 : (xs.take 64 ++ tag).length = 80 := by rw [List.length_append, h64, h]
  have hy := ht xs tag hx h
  refine ⟨?_, ?_, ?_⟩
  · rw [hy, slice, List.drop_left' h64, List.take_left' h]
  · rw [hy, slice, slice, List.drop_append_of_le_length (by omega),
      List.take_append_of_le_length (by rw [List.length_drop, h64]), List.drop_take, List.take_take]
    rfl
  · rw [ht (overlay xs 64 tag) other (by rw [hy, ← List.append_assoc, List.length_append, h80]; omega) ho, ht xs other hx ho, hy,
      List.take_left' h64, ← List.append_assoc (xs.take 64) tag, List.drop_left' h80]

/-- What the authentication of such an image compares. -/
theorem image_parts (n : Nat) (tag : List Byte) (h : n ∈ [0, 1]) (ht : tag.length = 16) (hl : leAt (imageWith n tag) 12 4 = 128 + 192 * n) :
    slice (imageWith n tag) 64 16 = tag ∧ gcmTag (key32 1) (slice (imageWith n tag) 52 12)
      (overlay ((imageWith n tag).take (leAt (imageWith n tag) 12 4)) 64 (List.replicate 16 0)) [] = imageTag n ∧
    (imageWith n tag).length = 128 + 192 * n := by
  have hc : (imageClear n).length = 128 + 192 * n := by
    clear hl
    revert n
    decide +kernel
  obtain ⟨h1, h2, h3⟩ := overlay_sixteen (imageClear n) tag (List.replicate 16 0) ht List.length_replicate (by omega)
  have hw : (imageWith n tag).length = 128 + 192 * n := by
    rw [imageWith, overlay, List.length_append, List.length_append, List.length_take, List.length_take, List.length_drop, hc, ht]
    omega
  refine ⟨h1, ?_, hw⟩
  rw [hl, List.take_of_length_le (by omega), imageWith, h2, h3]
  rfl

theorem witness_slice_auth (n : Nat) (h : n ∈ [0, 1]) : imageAuth (migrating.migKey 0) (imageWith n (imageTag n)) = none := by
  have hk : migrating.migKey 0 = some ⟨key32 1, 2, 9, false, false, 0, 0, 0, 0, [], []⟩ := by decide
  have hid : leAt (imageWith n (imageTag n)) 48 4 = 9 := by
    revert n
    decide +kernel
  obtain ⟨-, hl, -⟩ := witness_slice_image n h
  obtain ⟨h1, h2, h3⟩ := image_parts n (imageTag n) h (length_imageTag n h) hl
  have : ¬ 128 + 192 * n < 128 := by omega
  rw [hk, imageAuth, hid, h1]
  dsimp only
  rw [h2, List.length_take, hl, h3]
  simp [this]

/-- Of two images that differ in their tag alone, one does not verify. -/
theorem witness_slice_tag : ∃ bs : List Byte, bs.length = 128 ∧
    slice bs 64 16 ≠ gcmTag (key32 1) (slice bs 52 12) (overlay (bs.take (leAt bs 12 4)) 64 (List.replicate 16 0)) [] := by
  have hb : ∀ b : Byte, ∃ bs : List Byte, bs.length = 128 ∧ slice bs 64 16 = List.replicate 16 b ∧
      gcmTag (key32 1) (slice bs 52 12) (overlay (bs.take (leAt bs 12 4)) 64 (List.replicate 16 0)) [] = imageTag 0 := by
    intro b
    have hl : leAt (imageWith 0 (List.replicate 16 b)) 12 4 = 128 := by
      rw [imageWith, overlay, leAt, List.append_assoc, slice_front (by decide +kernel)]
      decide +kernel
    obtain ⟨h1, h2, h3⟩ := image_parts 0 (List.replicate 16 b) (by decide) List.length_replicate hl
    exact ⟨_, h3, h1, h2⟩
  by_cases h0 : imageTag 0 = List.replicate 16 0
  · obtain ⟨bs, h1, h2, h3⟩ := hb 1
    exact ⟨bs, h1, by rw [h2, h3, h0]; decide⟩
  · obtain ⟨bs, h1, h2, h3⟩ := hb 0
    exact ⟨bs, h1, by rw [h2, h3]; exact Ne.symm h0⟩

theorem witness_slice_save : ((migrating.migKey 0).map (·.key)) = some (key32 1) ∧ migrating.keys.drbgStopped = false ∧
    ((FMap.find migrating.fns 5).map (·.state)) = some .frozen ∧ migrating.exported 5 = [] ∧
    (let s : State := { migrating with
       keys := { migrating.keys with store := (64, ⟨key32 2, 0, 8, false, true, 0, 0, 0, 0, [], []⟩) :: migrating.keys.store }
       rigs := { migrating.rigs with cur := { migrating.rigs.cur with part := [(5, ⟨8, 128, 4, 0, 0, 0, 64, 1, 0, 0, 0, 0⟩)] } } }
     (s.exported 5).length = 1 ∧ (s.migKey 0).map (·.key) = some (key32 1)) ∧
    migrating.queuesHalted 9 = false ∧ (∀ g ∈ migrating.gens, g.fn ≠ 9) := by decide

/-! ### Witnesses: endpoints, rig sets, firmware -/

/-- An attachment of endpoint 0xFFE to function 5. -/
def attaching (detach : Bool) : AttachF := ⟨if detach then 0x12 else 0xFFE, 5, 2, true, detach, 0, 0x100000, 0, 0⟩

theorem witness_endpoints : live.queuesHalted 5 = false ∧ live.attachRefusal (attaching false) = none ∧
    (FMap.find linked.eps 0x12).map (·.fn) = some 0 ∧ linked.queuesHalted 0 = false ∧ linked.gens = [] ∧ linked.restores = [] ∧
    linked.waitPkts = [] := by decide

theorem witness_endpoints_sorted : FMap.Sorted linked.eps := by simp [linked, FMap.Sorted]

/-- A cadence row at its defaults. -/
def cadRow : List Byte := fit 32 0 (List.replicate 26 0 ++ [33, 0, 100])

/-- The body of a rig-set image: eight sections at their defaults. -/
def rigBody : List Byte :=
  (0 :: List.replicate 4095 16) ++ (List.replicate 576 0 ++ ((List.replicate 256 cadRow).flatten ++ ((List.replicate 256 (List.replicate 64 0)).flatten ++
    (fit 64 0 [16, 1] ++ (List.replicate 64 0 ++ (fit 64 0 [1, 0, 0, 0, 1, 0, 0, 0, 0, 33] ++ fit 64 0 [1, 2, 4, 3, 2, 8, 0, 0, 1, 2, 3]))))))

/-- The header before its CRC, and after it. -/
def rigHead : List Byte := ascii "ZRIGSET1" ++ toLe 2 1 ++ toLe 2 0 ++ toLe 4 29632 ++ toLe 4 1

/-- The header after its CRC: the places of the sections. -/
def rigPlaces : List Byte :=
  fit 104 0 (toLe 8 0 ++ ([(128, 4096), (4224, 576), (4800, 8192), (12992, 16384), (29376, 64), (29440, 64), (29504, 64), (29568, 64)] :
    List (Nat × Nat)).flatMap fun p => toLe 4 p.1 ++ toLe 4 p.2)

/-- An image with a CRC. -/
def rigWith (crc : List Byte) : List Byte := rigHead ++ (crc ++ (rigPlaces ++ rigBody))

/-- A well-formed image of generation 1. -/
def rigImage : List Byte := rigWith (toLe 4 (crc32c (rigWith [0, 0, 0, 0])).toNat)

theorem length_repeated {α : Type} (n m : Nat) (row : List α) (h : row.length = m) : (List.replicate n row).flatten.length = m * n := by
  rw [length_flatten_of m _ fun x hx => by rw [(List.mem_replicate.mp hx).2]; exact h, List.length_replicate]

theorem length_queues : ((0 : Byte) :: List.replicate 4095 16).length = 4096 := (congrArg (· + 1) (List.length_replicate (n := 4095) (a := (16 : Byte))) :)

theorem length_rigBody : rigBody.length = 29504 := by
  have e1 : (fit 64 0 [16, 1] : List Byte).length = 64 := rfl
  have e2 : (fit 64 0 [1, 0, 0, 0, 1, 0, 0, 0, 0, 33] : List Byte).length = 64 := rfl
  have e3 : (fit 64 0 [1, 2, 4, 3, 2, 8, 0, 0, 1, 2, 3] : List Byte).length = 64 := rfl
  rw [rigBody, List.length_append, length_queues, List.length_append, List.length_replicate, List.length_append,
    length_repeated 256 32 cadRow rfl, List.length_append, length_repeated 256 64 (List.replicate 64 (0 : Byte)) rfl, List.length_append, e1,
    List.length_append, List.length_replicate, List.length_append, e2]
  exact congrArg (fun n => 4096 + (576 + (32 * 256 + (64 * 256 + (64 + (64 + (64 + n))))))) e3

theorem length_rigHead : rigHead.length = 20 := by decide

theorem length_rigPlaces : rigPlaces.length = 104 := by decide +kernel

theorem rig_header (crc : List Byte) (hc : crc.length = 4) : (rigWith crc).length = 29632 ∧ slice (rigWith crc) 0 8 = ascii "ZRIGSET1" ∧
    leAt (rigWith crc) 8 2 = 1 ∧ leAt (rigWith crc) 12 4 = 29632 ∧ leAt (rigWith crc) 16 4 = 1 ∧ leAt (rigWith crc) 20 4 = le crc ∧
    overlay (rigWith crc) 20 [0, 0, 0, 0] = rigWith [0, 0, 0, 0] ∧
    (List.range 8).map (sectionAt (rigWith crc)) =
      [(128, 4096), (4224, 576), (4800, 8192), (12992, 16384), (29376, 64), (29440, 64), (29504, 64), (29568, 64)] := by
  have hl : (rigWith crc).length = 29632 := by
    rw [rigWith, List.length_append, List.length_append, List.length_append, hc, length_rigHead, length_rigPlaces, length_rigBody]
  have front : ∀ off len, off + len ≤ 20 → slice (rigWith crc) off len = slice rigHead off len := fun off len h =>
    slice_front (by rw [length_rigHead]; exact h)
  have back : ∀ off len, 24 ≤ off → off + len ≤ 128 → slice (rigWith crc) off len = slice rigPlaces (off - 24) len := fun off len h h2 => by
    rw [rigWith, slice_back length_rigHead (by omega), slice_back hc (by omega), Nat.sub_sub, slice_front (by rw [length_rigPlaces]; omega)]
  refine ⟨hl, by rw [front 0 8 (by decide)]; decide, ?_, ?_, ?_, ?_, ?_, ?_⟩
  · rw [leAt, front 8 2 (by decide)]; decide
  · rw [leAt, front 12 4 (by decide)]; decide
  · rw [leAt, front 16 4 (by decide)]; decide
  · rw [leAt, rigWith, slice_mid length_rigHead hc]
  · rw [overlay, hl, rigWith, List.take_left' length_rigHead, List.drop_append, length_rigHead,
      List.drop_eq_nil_of_le (by rw [length_rigHead]; decide), List.nil_append, List.drop_left' (by rw [hc]; rfl), rigWith, List.append_assoc]
    rfl
  · simp only [List.range, List.range.loop, List.map_cons, List.map_nil, sectionAt, leAt, Nat.reduceMul, Nat.reduceAdd]
    rw [back 32 4 (by decide) (by decide), back 36 4 (by decide) (by decide), back 40 4 (by decide) (by decide), back 44 4 (by decide) (by decide),
      back 48 4 (by decide) (by decide), back 52 4 (by decide) (by decide), back 56 4 (by decide) (by decide), back 60 4 (by decide) (by decide),
      back 64 4 (by decide) (by decide), back 68 4 (by decide) (by decide), back 72 4 (by decide) (by decide), back 76 4 (by decide) (by decide),
      back 80 4 (by decide) (by decide), back 84 4 (by decide) (by decide), back 88 4 (by decide) (by decide), back 92 4 (by decide) (by decide)]
    decide

theorem rig_sections (crc : List Byte) (hc : crc.length = 4) : sectionsOk (rigWith crc) = true ∧ gapsOk (rigWith crc) = true := by
  obtain ⟨hl, -, -, -, -, -, -, hs⟩ := rig_header crc hc
  have at' : ∀ i, i < 8 → sectionAt (rigWith crc) i = ([(128, 4096), (4224, 576), (4800, 8192), (12992, 16384), (29376, 64), (29440, 64),
      (29504, 64), (29568, 64)] : List (Nat × Nat)).getD i (0, 0) := fun i hi => by
    rw [← hs, List.getD_eq_getElem _ _ (by simpa using hi)]
    simp
  refine ⟨?_, ?_⟩
  · rw [sectionsOk, hs, hl]
    simp only [List.range, List.range.loop, List.all_cons, List.all_nil, at' 0 (by decide), at' 1 (by decide), at' 2 (by decide),
      at' 3 (by decide), at' 4 (by decide), at' 5 (by decide), at' 6 (by decide), at' 7 (by decide)]
    decide
  · rw [gapsOk, hs, List.all_eq_true]
    intro p hp
    have hi := List.snd_lt_of_mem_zipIdx hp
    rw [hl] at hi
    by_cases h : (p.2 = 10 ∨ p.2 = 11) ∨ (24 ≤ p.2 ∧ p.2 < 32) ∨ (96 ≤ p.2 ∧ p.2 < 128)
    · have : p.1 = 0 := by
        have e : (rigWith crc)[p.2]? = some 0 := by
          rcases h with h | h
          · rw [rigWith, List.getElem?_append_left (by rw [length_rigHead]; omega)]
            rcases h with h | h <;> rw [h] <;> decide
          · rw [rigWith, List.getElem?_append_right (by rw [length_rigHead]; omega), length_rigHead,
              List.getElem?_append_right (by rw [hc]; omega), hc, List.getElem?_append_left (by rw [length_rigPlaces]; omega)]
            have z : ∀ j < 104, j < 8 ∨ 72 ≤ j → rigPlaces[j]? = some 0 := by decide +kernel
            exact z _ (by omega) (by omega)
        have hm := (List.mem_zipIdx hp).2.2
        simp only [Nat.sub_zero] at hm
        rw [hm]
        exact Option.some.inj ((List.getElem?_eq_getElem _).symm.trans e)
      simp [this]
    · have : ([(0, 10), (12, 12), (32, 64)] ++ ([(128, 4096), (4224, 576), (4800, 8192), (12992, 16384), (29376, 64), (29440, 64), (29504, 64),
          (29568, 64)] : List (Nat × Nat))).any (fun r => decide (r.1 ≤ p.2) && decide (p.2 < r.1 + r.2)) = true := by
        simp
        omega
      rw [this, Bool.or_true]

theorem rig_parts (crc : List Byte) (hc : crc.length = 4) : sectionOf (rigWith crc) 0 = 0 :: List.replicate 4095 16 ∧
    sectionOf (rigWith crc) 1 = List.replicate 576 0 ∧ sectionOf (rigWith crc) 2 = (List.replicate 256 cadRow).flatten ∧
    sectionOf (rigWith crc) 3 = (List.replicate 256 (List.replicate 64 0)).flatten ∧ sectionOf (rigWith crc) 4 = fit 64 0 [16, 1] ∧
    sectionOf (rigWith crc) 5 = List.replicate 64 0 ∧ sectionOf (rigWith crc) 6 = fit 64 0 [1, 0, 0, 0, 1, 0, 0, 0, 0, 33] ∧
    sectionOf (rigWith crc) 7 = fit 64 0 [1, 2, 4, 3, 2, 8, 0, 0, 1, 2, 3] := by
  obtain ⟨hl, -, -, -, -, -, -, hs⟩ := rig_header crc hc
  have at' : ∀ i, i < 8 → sectionAt (rigWith crc) i = ([(128, 4096), (4224, 576), (4800, 8192), (12992, 16384), (29376, 64), (29440, 64),
      (29504, 64), (29568, 64)] : List (Nat × Nat)).getD i (0, 0) := fun i hi => by
    rw [← hs, List.getD_eq_getElem _ _ (by simpa using hi)]
    simp
  have body : ∀ off len, slice (rigWith crc) (128 + off) len = slice rigBody off len := fun off len => by
    rw [rigWith, slice_back length_rigHead (by omega), slice_back hc (by omega), slice_back length_rigPlaces (by omega),
      show 128 + off - 20 - 4 - 104 = off by omega]
  have l0 := length_queues
  have l1 : (List.replicate 576 (0 : Byte)).length = 576 := List.length_replicate
  have l2 := length_repeated 256 32 cadRow rfl
  have l3 := length_repeated 256 64 (List.replicate 64 (0 : Byte)) rfl
  refine ⟨?_, ?_, ?_, ?_, ?_, ?_, ?_, ?_⟩
  · rw [sectionOf, at' 0 (by decide)]
    exact (body 0 4096).trans (by rw [rigBody, ← List.nil_append (_ :: _ ++ _)]; exact slice_mid rfl l0)
  · rw [sectionOf, at' 1 (by decide)]
    exact (body 4096 576).trans (by rw [rigBody]; exact slice_mid l0 l1)
  · rw [sectionOf, at' 2 (by decide)]
    exact (body 4672 8192).trans (by rw [rigBody, slice_back l0 (by decide)]; exact slice_mid l1 l2)
  · rw [sectionOf, at' 3 (by decide)]
    exact (body 12864 16384).trans (by rw [rigBody, slice_back l0 (by decide), slice_back l1 (by decide)]; exact slice_mid l2 l3)
  · rw [sectionOf, at' 4 (by decide)]
    exact (body 29248 64).trans (by
      rw [rigBody, slice_back l0 (by decide), slice_back l1 (by decide), slice_back l2 (by decide)]; exact slice_mid l3 rfl)
  all_goals
    first
    | (rw [sectionOf, at' 5 (by decide)]
       exact (body 29312 64).trans (by
        rw [rigBody, slice_back l0 (by decide), slice_back l1 (by decide), slice_back l2 (by decide), slice_back l3 (by decide)]; rfl))
    | (rw [sectionOf, at' 6 (by decide)]
       exact (body 29376 64).trans (by
        rw [rigBody, slice_back l0 (by decide), slice_back l1 (by decide), slice_back l2 (by decide), slice_back l3 (by decide)]; rfl))
    | (rw [sectionOf, at' 7 (by decide)]
       exact (body 29440 64).trans (by
        rw [rigBody, slice_back l0 (by decide), slice_back l1 (by decide), slice_back l2 (by decide), slice_back l3 (by decide)]; rfl))

theorem rows_repeated (n m : Nat) (row : List Byte) (h : row.length = m) (hm : 0 < m) (p : Nat × List Byte → Bool)
    (hp : ∀ i, p (i, row) = true) : (rows (List.replicate n row).flatten m).all p = true := by
  rw [rows, chunks_flatten hm fun x hx => by rw [(List.mem_replicate.mp hx).2]; exact h]
  rw [List.all_eq_true]
  intro x hx
  obtain ⟨y, hy, rfl⟩ := List.mem_map.mp hx
  have := (List.mem_zipIdx hy).2.2
  rw [List.getElem_replicate] at this
  rw [this]
  exact hp _

/-- The image is well formed. -/
theorem rig_image_ok : rigImage.length = 29632 ∧ rigImageOk rigImage 29632 1 = true := by
  have hc : ∀ v, (toLe 4 v).length = 4 := fun _ => rfl
  obtain ⟨h0, h1, h2, h3, h4, h5, h6, -⟩ := rig_header (toLe 4 (crc32c (rigWith [0, 0, 0, 0])).toNat) (hc _)
  obtain ⟨s1, s2⟩ := rig_sections (toLe 4 (crc32c (rigWith [0, 0, 0, 0])).toNat) (hc _)
  obtain ⟨p0, p1, p2, p3, p4, p5, p6, p7⟩ := rig_parts (toLe 4 (crc32c (rigWith [0, 0, 0, 0])).toNat) (hc _)
  have w : weightsOk ((0 : Byte) :: List.replicate 4095 16) = true := by
    rw [weightsOk, Bool.and_eq_true]
    exact ⟨rfl, List.all_eq_true.mpr fun x hx => by rw [(List.mem_replicate.mp hx).2]; rfl⟩
  have t : ttOk (List.replicate 576 0) = true := by decide +kernel
  have d : (rows (List.replicate 256 cadRow).flatten 32).all (fun r => cadOk r.2) = true :=
    rows_repeated 256 32 cadRow rfl (by decide) _ fun _ => (by decide : cadOk cadRow = true)
  have q : (rows (List.replicate 256 (List.replicate 64 (0 : Byte))).flatten 64).all (fun r => partOk r.1 r.2) = true :=
    rows_repeated 256 64 _ rfl (by decide) _ fun i => by
      have : allZero ((List.replicate 64 (0 : Byte)).take 32) = true := by decide
      have z : partOk 1 (List.replicate 64 0) = true := by decide
      simp only [partOk, this, Bool.or_true, Bool.and_true] at z ⊢
      exact z
  refine ⟨h0, ?_⟩
  rw [rigImageOk, rigImage, h1, h2, h3, h4, h5, h6, s1, s2, p0, p1, p2, p3, p4, p5, p6, p7, w, t, d, q,
    le_toLe 4 _ (crc32c (rigWith [0, 0, 0, 0])).isLt]
  simp only [BEq.rfl, Bool.and_true]
  decide

/-- A staged set that gives function 9 Cleats and keys, or the reset set to go back to. -/
def stagedSet : RigSet := { gen := 1, part := [(9, ⟨8, 64, 0, 0, 256, 256, 16, 16, 0, 0, 0, 0⟩)] }

/-- Function 0 alone, with a staged and a previous set. -/
def rigged : State :=
  { live with fns := [(0, { state := .active, pasid := 0 })]
              rigs := { live.rigs with staged := some stagedSet, prev := some { gen := 7 } } }

/-- What the rig sets refuse: a stale generation number, a set that no staged one is, and one that cuts off a Cleat in use. -/
theorem witness_rig_refused :
    serialGt (BitVec.ofNat 32 1) (BitVec.ofNat 32 ({ live with rigs := { live.rigs with cur := { live.rigs.cur with gen := 1 } } } : State).rigs.cur.gen) =
      false ∧ live.rigs.staged.map (·.gen) ≠ some 1 ∧ live.rigs.prev = none ∧ rigged.rigs.cur.gen ≠ 1 ∧
    (∀ r ∈ ([{ gen := 1, part := [(0, ⟨8, 0, 0, 0, 0, 0, 0, 0, 0, 0, 0, 0⟩)] }] : List RigSet),
      (let s : State := { live with rigs := { live.rigs with staged := some r, prev := some r } }
       (s.commitBreach r).isSome = true ∧ s.rigs.staged = some r ∧ s.rigs.prev = some r ∧ r.gen = 1 ∧ s.rigs.cur.gen = 0)) := by decide

theorem witness_rig_sets : serialGt (BitVec.ofNat 32 1) (BitVec.ofNat 32 live.rigs.cur.gen) = true ∧ stagedSet.gen = 1 ∧
    rigged.commitBreach stagedSet = none ∧ rigged.commitBreach { gen := 7 } = none ∧ rigged.rigs.cur.gen = 0 ∧
    rigged.movesCleat stagedSet 256 = true ∧ rigged.movesCleat stagedSet 512 = false ∧ rigged.movesSlot stagedSet false 16 = true ∧
    rigged.movesSlot stagedSet false 32 = false := by decide

theorem witness_rig_sorted : FMap.Sorted rigged.cleats ∧ FMap.Sorted rigged.keys.store := ⟨trivial, trivial⟩

/-! ### An ML-DSA-87 signature: a key and a response of which nothing is left but the hash -/

theorem length_keccakRound (a : List Lane64) (rc : Lane64) : (keccakRound a rc).length = 25 := by
  simp only [keccakRound]
  split
  · next v vs h => rw [List.length_cons, ← List.length_cons (a := v), ← h, keccakOf, List.length_map, List.length_range]
  · next h => exact absurd (congrArg List.length h) (by simp [keccakOf])

theorem length_keccak (a : List Lane64) : (keccak a).length = 25 := by
  simp only [keccak, keccakRc, List.foldl_cons, List.foldl_nil]
  exact length_keccakRound _ _

theorem length_flatMap_toLe : ∀ a : List Lane64, (a.flatMap fun v => toLe 8 v.toNat).length = 8 * a.length
  | [] => rfl
  | v :: a => by rw [List.flatMap_cons, List.length_append, length_toLe, length_flatMap_toLe a, List.length_cons]; omega

theorem length_absorbed : ∀ (xs : List (List Byte)) (a : List Lane64), a.length = 25 → (xs.foldl keccakAbsorb a).length = 25
  | [], _, h => h
  | _ :: xs, _, _ => length_absorbed xs _ (length_keccak _)

/-- SHAKE256 gives 64 bytes of any message. -/
theorem length_shake (msg : List Byte) : (shake256 64 msg).length = 64 := by
  have h : ((chunks 136 (shakePad 136 msg)).foldl keccakAbsorb (List.replicate 25 0)).length = 25 := length_absorbed _ _ List.length_replicate
  rw [shake256, shakeBlocks, show ceilDiv 64 136 = 0 + 1 from rfl, keccakSqueeze, keccakSqueeze, List.append_nil, keccakOut, List.length_take,
    List.length_take, length_flatMap_toLe, h]
  decide

/-- The key whose t1 is zero. -/
def mlKey : List Byte := List.replicate 2592 0

/-- The packed z of which every coefficient is zero. -/
def mlZero : List Byte := (List.replicate 896 [0, 0, 8, 0, 128]).flatten

/-- Under that key, with z zero and no hint, the high bits are zero whatever the challenge, which is then the hash of them. -/
def mlSeed (msg : List Byte) : List Byte :=
  shake256 64 (shake256 64 (shake256 64 mlKey ++ [0, 0] ++ msg) ++ List.replicate 1024 0)

/-- That signature. -/
def mlSigned (msg : List Byte) : List Byte := mlSeed msg ++ (mlZero ++ List.replicate 83 0)

theorem length_mlZero : mlZero.length = 4480 := by decide +kernel

theorem length_mlSigned (msg : List Byte) : (mlSigned msg).length = 4627 := by
  rw [mlSigned, List.length_append, List.length_append, length_mlZero, List.length_replicate, mlSeed, length_shake]

/-- The polynomial zero. -/
def zeroPoly : Poly := List.replicate 256 0

theorem zeroPoly_getD (k : Nat) : zeroPoly.getD k 0 = 0 := by
  rw [zeroPoly, List.getD_eq_getElem?_getD, List.getElem?_replicate]
  split <;> rfl

theorem ml_fields : (List.range 7).map (fun i => mlFields 20 256 (slice mlZero (640 * i) 640)) = List.replicate 7 (List.replicate 256 524288) := by
  decide +kernel

theorem ml_zeros : (List.replicate 7 (List.replicate 256 524288)).map (fun p => p.map fun v => mlSub 524288 v) = List.replicate 7 zeroPoly ∧
    ((List.replicate 7 (List.replicate 256 524288)).all fun p => p.all fun v => decide (120 < v ∧ v + 120 < 1048576)) = true ∧
    mlHints ((List.replicate 83 0).take 75) 0 ((List.replicate 83 0).drop 75) = some (List.replicate 8 []) := by decide +kernel

theorem ml_reads (msg : List Byte) : mlSig (mlSigned msg) = some ⟨mlSeed msg, List.replicate 7 zeroPoly, List.replicate 8 [], true⟩ := by
  have hs : (mlSeed msg).length = 64 := length_shake _
  have hf : (List.range 7).map (fun i => mlFields 20 256 (slice (mlSigned msg) (64 + 640 * i) 640)) = List.replicate 7 (List.replicate 256 524288) := by
    rw [← ml_fields]
    refine List.map_congr_left fun i hi => ?_
    have := List.mem_range.mp hi
    rw [mlSigned, slice_back hs (by omega), slice_front (by rw [length_mlZero]; omega), Nat.add_sub_cancel_left]
  have hy : (slice (mlSigned msg) 4544 83).map (·.toNat) = List.replicate 83 0 := by
    rw [mlSigned, slice_back hs (by decide), slice_back length_mlZero (by decide)]
    decide +kernel
  have hh : (mlSigned msg).take 64 = mlSeed msg := List.take_left' hs
  obtain ⟨h1, h2, h3⟩ := ml_zeros
  rw [mlSig]
  simp only [hf, hy, hh, h1, h2, h3, Option.map_some]

theorem sum_zeros (k : Nat) : ∀ (es : List Poly) (n : Nat),
    (List.zipWith (fun (a v : Poly) => a.getD k 0 * v.getD k 0) es (List.replicate n zeroPoly)).sum = 0
  | [], n => by rw [List.zipWith_nil_left, List.sum_nil]
  | _ :: _, 0 => rfl
  | e :: es, n + 1 => by
    rw [List.replicate_succ, List.zipWith_cons_cons, List.sum_cons, sum_zeros k es n, zeroPoly_getD, Nat.mul_zero]

theorem ml_row (es : List Poly) (c : Poly) : mlRow es (List.replicate 7 zeroPoly) c zeroPoly = zeroPoly := by
  rw [mlRow]
  simp only [sum_zeros, zeroPoly_getD, Nat.mul_zero]
  decide +kernel

theorem ml_ts : (List.range 8).map (fun i => ntt ((mlFields 10 256 (slice mlKey (32 + 320 * i) 320)).map fun v => v * 8192 % mlQ)) =
    List.replicate 8 zeroPoly := by decide +kernel

theorem ml_ntt : (List.replicate 7 zeroPoly).map ntt = List.replicate 7 zeroPoly ∧
    (zeroPoly.zipIdx.map fun q => mlUseHint (([] : List Nat).contains q.2) q.1) = zeroPoly ∧
    (chunks 2 ((List.range 8).flatMap fun _ => zeroPoly)).map (fun p => BitVec.ofNat 8 (p.getD 0 0 + 16 * p.getD 1 0)) = List.replicate 1024 (0 : Byte) ∧
    List.zipWith (fun hints row => ((row, hints) : Nat × List Nat)) (List.replicate 8 []) (List.range 8) = (List.range 8).map fun i => (i, []) := by
  decide +kernel

theorem ml_verifies (msg : List Byte) : mlVerify mlKey msg (mlSigned msg) = true := by
  obtain ⟨hz, hu, hc, hp⟩ := ml_ntt
  have hw : ∀ c, ((List.range 8).map fun i => ((i, []) : Nat × List Nat)).flatMap (fun p =>
      (mlRow ((List.range 7).map (mlEntry (mlKey.take 32) p.1)) (List.replicate 7 zeroPoly) c
        (ntt ((mlFields 10 256 (slice mlKey (32 + 320 * p.1) 320)).map fun v => v * 8192 % mlQ))).zipIdx.map fun q =>
          mlUseHint (p.2.contains q.2) q.1) = (List.range 8).flatMap fun _ => zeroPoly := by
    intro c
    rw [List.flatMap_map]
    refine List.flatMap_congr fun i hi => ?_
    have ht := List.mem_map_of_mem (f := fun i => ntt ((mlFields 10 256 (slice mlKey (32 + 320 * i) 320)).map fun v => v * 8192 % mlQ)) hi
    rw [ml_ts] at ht
    dsimp only
    rw [List.eq_of_mem_replicate ht, ml_row, hu]
  rw [mlVerify, ml_reads]
  simp only [hz, hp, hw, hc, Bool.true_and]
  exact beq_self_eq_true _

/-! ### An ECDSA signature -/

theorem times_zero : ∀ (n : Nat) (a : Point), Point.times a 0 n = none
  | 0, _ => rfl
  | n + 1, a => by rw [Point.times, Nat.zero_div, times_zero n]; rfl

theorem times_one (n : Nat) (a : Point) : Point.times a 1 (n + 1) = a := by
  rw [Point.times, show 1 / 2 = 0 from rfl, times_zero]
  rfl

/-- The key that is the base point short of the point whose x is the digest below. -/
def ecKey : Nat × Nat :=
  (0xd28e6c7d2569a505053d1136271e129fcff709f6309ba6619c45e9cc9cdc0c30ca1503c8e8680727e66537fa1eb13f10,
    0xbc444259c6402af0785f34eaaf383aec412f6c0f352b5966b98925cce017f60c371a10cefcc7a48a8e5acf6beb202037)

/-- A number's 48 bytes, most significant first. -/
def be48 (v : Nat) : List Byte := (toLe 48 v).reverse

/-- The key's 97 bytes. -/
def ecKeyBytes : List Byte := 4 :: (be48 ecKey.1 ++ be48 ecKey.2)

/-- The digest that the signature is for, which is its r and its s: both multipliers are 1. -/
def ecHash : Nat := 0xb8e7f757618bc7cc698e316c2aa6526d030a7f95a760ab490903d6ab3f3b9e0e08b15fbeae6841a88976083119f754c

theorem ec_numbers : be (slice ecKeyBytes 1 48) = ecKey.1 ∧ be (slice ecKeyBytes 49 48) = ecKey.2 ∧ ecKeyBytes.headD 0 = 4 ∧
    be ((be48 ecHash ++ be48 ecHash).take 48) = ecHash ∧ be (slice (be48 ecHash ++ be48 ecHash) 48 48) = ecHash ∧
    ecHash * invMod p384Order ecHash % p384Order = 1 ∧ onP384 ecKey.1 ecKey.2 = true ∧
    (Point.add p384Base (some ecKey)).map (fun p => p.1 % p384Order) = some ecHash := by decide +kernel

theorem ec_verifies (msg : List Byte) (h : be (sha 1 msg) = ecHash) : ecdsaVerify ecKeyBytes msg (be48 ecHash ++ be48 ecHash) = true := by
  obtain ⟨h1, h2, h3, h4, h5, h6, h7, h8⟩ := ec_numbers
  have h9 : (0 < ecHash ∧ ecHash < p384Order ∧ 0 < ecHash ∧ ecHash < p384Order) := by decide
  rw [ecdsaVerify]
  simp only [h, h1, h2, h3, h4, h5, h6, h7, decide_eq_true h9, p384Times, times_one 383]
  revert h8
  cases Point.add p384Base (some ecKey) with
  | none => intro h; exact absurd h (by simp)
  | some p => intro h; simpa using h

/-! ### An image that both signatures sign -/

/-- The header of an image of 64 bytes of code, before its digest. -/
def fwHead : List Byte := ascii "ZFWIMG01" ++ [4, 0, 1, 2] ++ toLe 4 0 ++ toLe 4 0 ++ [0, 0, 0, 0] ++ toLe 4 64 ++ [0, 0, 0, 0]

theorem length_fwDigest : (sha384 (List.replicate 64 0)).length = 48 := by decide +kernel

theorem length_fwHead : fwHead.length = 32 := by decide

/-- The whole header. -/
def fwFront : List Byte := fwHead ++ (sha384 (List.replicate 64 0) ++ List.replicate 48 0)

theorem length_fwFront : fwFront.length = 128 := by
  rw [fwFront, List.length_append, List.length_append, length_fwHead, length_fwDigest, List.length_replicate]

theorem fw_hash : be (sha 1 fwFront) = ecHash := by decide +kernel

/-- Its two signatures. -/
def fwSigs : List Byte := (be48 ecHash ++ be48 ecHash) ++ (mlSigned fwFront ++ List.replicate 13 0)

theorem length_ecSig : (be48 ecHash ++ be48 ecHash).length = 96 := by decide

theorem length_fwSigs : fwSigs.length = 4736 := by
  rw [fwSigs, List.length_append, length_ecSig, List.length_append, length_mlSigned, List.length_replicate]

/-- An image of IMAGE 4 with 64 bytes of code, signed under the keys below, with no part of an integrator's. -/
def fwImg : List Byte := fwFront ++ (List.replicate 64 0 ++ (fwSigs ++ List.replicate 7488 0))

theorem fw_parts : fwImg.take 128 = fwFront ∧ slice fwImg 32 48 = sha384 (List.replicate 64 0) ∧ slice fwImg 128 64 = List.replicate 64 0 ∧
    (slice fwImg (128 + 64) sigBlockLen).take 4736 = fwSigs := by
  refine ⟨List.take_left' length_fwFront, ?_, ?_, ?_⟩
  · rw [fwImg, slice_front (by rw [length_fwFront]; decide), fwFront, slice_mid length_fwHead length_fwDigest]
  · rw [fwImg, slice_mid length_fwFront List.length_replicate]
  · rw [fwImg, slice_back length_fwFront (by decide), slice_back List.length_replicate (by decide), slice, List.drop_zero, List.take_take]
    exact List.take_left' length_fwSigs

theorem fw_fields : fwHeaderOk fwImg = true ∧ fwCodeLen fwImg = 64 ∧ leAt fwImg 8 1 = 4 ∧ leAt fwImg 10 2 = 0x0201 ∧ leAt fwImg 12 4 = 0 := by
  decide +kernel

/-- A block whose boot ROM holds the keys of these signatures. -/
def signer (s : State) : State := { s with pen := { s.pen with lordalKeys := ecKeyBytes ++ mlKey } }

theorem fw_genuine (s : State) (h : s.pen.integratorKey = List.replicate 48 0) : (signer s).fwGenuine fwImg = true := by
  obtain ⟨h1, h2, h3, h4⟩ := fw_parts
  have he : fwSigs.take 96 = be48 ecHash ++ be48 ecHash := List.take_left' length_ecSig
  have hm : slice fwSigs 96 4627 = mlSigned fwFront := slice_mid length_ecSig (length_mlSigned _)
  have hz : allZero (fwSigs.drop 4723) = true := by
    rw [fwSigs, ← List.append_assoc, List.drop_left' (by rw [List.length_append, length_ecSig, length_mlSigned])]
    decide
  have hk : (ecKeyBytes ++ mlKey).take 97 = ecKeyBytes ∧ (ecKeyBytes ++ mlKey).drop 97 = mlKey := ⟨List.take_left' rfl, List.drop_left' rfl⟩
  have hb : blank (List.replicate 48 (0 : Byte)) = true := by decide
  rw [State.fwGenuine]
  simp only [fw_fields.2.1, h1, h2, h3, lordalSigned, h4, bothSigned, integratorSigned, show (signer s).pen.lordalKeys = ecKeyBytes ++ mlKey from rfl,
    show (signer s).pen.integratorKey = List.replicate 48 0 from h, hk.1, hk.2, he, hm, hz, hb, ec_verifies fwFront fw_hash, ml_verifies, BEq.rfl,
    Bool.true_or, Bool.true_and]

/-- An image whose signatures verify meets what FW_STAGE checks. -/
theorem witness_firmware : fwHeaderOk fwImg = true ∧ (signer live).fwRefusal 4 (128 + 64 + sigBlockLen) 0 fwImg = none ∧
    (signer live).pen.inForce.svn = 0 ∧ (signer live).readRoom = true ∧ (signer live).restarting .shroud = false ∧ (signer live).image = none := by
  obtain ⟨h1, hn, h2, h3, h4⟩ := fw_fields
  refine ⟨h1, ?_, rfl, by decide, by decide, rfl⟩
  rw [State.fwRefusal, fw_genuine live rfl, hn, h2, h3, h4]
  decide

theorem witness_fw_activate : ∀ code ∈ [4, 3],
    (let s : State := { live with fw := FMap.put live.fw code ⟨some (FwImage.shipped code), some (FwImage.shipped code), false, false⟩ }
     s.fwGood code (s.fwCode code).other = true ∧ code ≠ 1) := by decide

theorem witness_key_entries :
    (let bs := blob.make (key32 9) (key32 5)
     blobOk bs = true ∧ (parseBlob bs).wrap = 0 ∧ live.keyLoadRefusal 3 2 80 (parseBlob bs) = none) ∧
    live.queuesHalted (live.keyOwner 3 false) = false ∧ live.keys.drbgStopped = false ∧ live.readRoom = true ∧
    (let s : State := { live with keys := { live.keys with store := [(1023, ⟨key32 1, 3, 9, true, false, 0, 0, 0, 0, [], []⟩)] } }
     (FMap.find s.keys.store 1023).map (fun k => (k.typ, k.ku)) = some (3, true) ∧ s.keyOwner 1023 false = 0) := by decide +kernel

/-! ### Witnesses: Cleats, copies, digests and the latch -/

theorem witness_cleats :
    (∀ v ∈ [0, 2147483646, 2147483647],
      (let s : State := { live with cleats := FMap.put [] 65535 v }
       s.cleat 65535 = v ∧ s.waits < 4096 ∧ s.fns = live.fns ∧ s.accepted = [] ∧ s.sheets = [] ∧ s.cleatOwner 65535 = 0)) ∧
    live.setup.fabEp = 0 := by decide

theorem witness_cleats_nodup (s : State) (a : Acc) : ((one s a).accepted.map (·.id)).Nodup := by simp [one]

theorem witness_copies : (let f : CopyF := ⟨0x12 * 2 ^ 52, 0x1000, 65536, .fabric, .host⟩
      1 ≤ f.len ∧ f.len ≤ segBytes ∧ linked.copyRefusal (ent (.copy f)) f = none) ∧
    (let f : FillF := ⟨0x12 * 2 ^ 52, 65536, .fabric, 7⟩
     1 ≤ f.len ∧ f.len ≤ segBytes ∧ linked.fillRefusal (ent (.fill f)) f = none) := by decide

/-- A state with digest context 31. -/
def digesting (x : DigestCtx) : State := { live with keys := { live.keys with ctxs := [(31, x)] } }

/-- An open SHA-256 context without data. -/
def ctx0 : DigestCtx := ⟨0, false, 0, false, 0, [], [], shaInit 0, [], 0⟩

theorem witness_digests :
    (let f : DigestF := ⟨31, 0, false, 0, 0, 0, 0, 0⟩
     (one live (ent (.digest f))).digestBehind (ent (.digest f)) f = false ∧ (one live (ent (.digest f))).digestRefusal 0 f = none) ∧
    (∀ op ∈ [1, 2], ∀ len ∈ [0, 1, segBytes], ∀ x ∈ [ctx0, { ctx0 with finished := true }],
      (let f : DigestF := ⟨31, 0, false, op, 0, 0x2000, len, 0x1000⟩
       let s := one (digesting x) (ent (.digest f))
       s.digestBehind (ent (.digest f)) f = false ∧ s.digestRefusal 0 f = none ∧ s.ctx 31 = some x)) ∧
    ctx0.finished = false ∧ ctx0.half.length < shaBlockLen ctx0.alg ∧ ctx0.hmac = false := by decide

theorem witness_latch : (ent .snapLatch).op = .snapLatch ∧ (ent .snapLatch).fn = 0 := ⟨rfl, rfl⟩

/-! ### Witnesses: generations -/

/-- A region list of one 64 KiB region at endpoint 0x12, so many bytes off its beginning, and an input section without tables. -/
def regionList (o : Nat) : List Byte :=
  toLe 8 9 ++ List.replicate 8 0 ++ toLe 8 65536 ++ List.replicate 40 0 ++ toLe 8 (0x12 * 2 ^ 52 + o) ++ toLe 8 65536 ++ toLe 4 0xFFFFFFFF ++
    [1, 0] ++ List.replicate 10 0

/-- The input section. -/
def inputSection : List Byte := fit 256 0 (ascii "ZHORAX01" ++ toLe 2 1 ++ List.replicate 14 0 ++ toLe 8 9)

/-- The GEN_OPEN that names them. -/
def opening : GenOpenF := ⟨9, false, 1, 0, 1, 0x1000, 0x2000, 65536⟩

theorem witness_gens_opened : (∀ o ∈ [0, 32], regionListOk opening (regionList o) (some (inputCounts inputSection).1) = true ∧
      linked.pauseForeign 0 (regionList o) = false ∧ misaligned (parseRegions (regionList o) opening.regions) = decide (o = 32)) ∧
    inputOk opening (parseRegions (regionList 0) opening.regions) inputSection = true ∧
    (one linked (ent (.genOpen opening))).genOpenRefusal (ent (.genOpen opening)) opening (parseRegions (regionList 0) opening.regions) = none ∧
    (ent (.genOpen opening)).sq ≠ 0 ∧ (one linked (ent (.genOpen opening))).readRoom = true ∧
    FMap.find (one linked (ent (.genOpen opening))).jobs 9 = none := by
  decide +kernel

theorem witness_no_belay (ep : Nat) : linked.belayOf ep = 0 ∧ ∀ gs js, ({ linked with gens := gs, jobs := js } : State).belayOf ep = 0 := by
  have h : linked.belayOf ep = 0 := by
    show ((FMap.find linked.eps ep).map (·.belay)).getD 0 = 0
    by_cases h : ep = 0x12
    · subst h; rfl
    · have : FMap.find linked.eps ep = none := by
        show (if 0x12 = ep then some _ else _) = none
        rw [if_neg (Ne.symm h)]
        rfl
      rw [this]
      rfl
  exact ⟨h, fun _ _ => h⟩

/-- Endpoint 0x13 beside 0x12, a generation of the job 9, and the job's last cut. -/
def cuttable (g : Gen) (j : Job) : State :=
  { linked with eps := linked.eps ++ [(0x13, { fn := 0, belay := 0, quiesce := true, winBase := 0, winLen := 0x100000, forkBase := 0, forkSegs := 0 })]
                gens := [g], jobs := [(9, j)] }

/-- The job, whose last step was 4. -/
def job9 : Job := { fn := 0, idx := some 0, base := some (0, 0), lastStep := some 4 }

/-- A group of the one member 0x12, whose buddy is 0x13. -/
def groups1 : Groups := ⟨2, [⟨0x12, 0x13, 0, 1, 0⟩], 0, 0, 0⟩

theorem witness_cuts :
    (let s := cuttable gen1 job9
     s.openGen 9 = some gen1 ∧ s.gen 1 = some gen1 ∧ job9.lastStep = some 4 ∧ job9.base ≠ none ∧ job9.fn = 0 ∧ FMap.find s.jobs 9 = some job9 ∧
     (s.markLevel job9).cutDue 5 = false ∧ gen1.lookahead = 0) ∧
    (∀ g ∈ [awaiting .quiesce, gen1, { gen1 with fullImage := true, groups := some groups1, segs := [] }],
      (let j : Job := { job9 with interval := true }
       let s := cuttable g j
       s.openGen 9 = some g ∧ s.gen 1 = some g ∧ FMap.find s.jobs 9 = some j ∧ j.base ≠ none ∧ j.fn = 0 ∧ (s.markLevel j).cutDue 5 = true ∧
       (g.cutting = none ∨ g.lookahead = 0) ∧ (s.gensOf 9).all (fun h => h.state != .cut) = true)) ∧
    (awaiting .quiesce).cutting ≠ none ∧ gen1.cutting = none ∧ gen1.groups = none := by decide

/-- A group list with that member. -/
def groupList : List Byte :=
  toLe 8 9 ++ [2, 0, 1, 0] ++ List.replicate 52 0 ++ toLe 2 0x12 ++ toLe 2 0x13 ++ List.replicate 12 0 ++ toLe 8 1 ++ List.replicate 8 0

/-- The PROTECT that names it. -/
def protecting : ProtectF := ⟨9, 1, 1, 0, 0, 0x1000⟩

/-- The generation protected. -/
def safe1 : Gen := { gen1 with state := .stayed, groups := some groups1, records := 1 }

theorem witness_stamps :
    (∀ n ∈ [0, 64],
      (let f : StampF := ⟨9, 1, 2, 3, n, 0x12, 0x1000, 1⟩
       let s := cuttable gen1 job9
       s.jobRefusal 0 9 = none ∧ s.gen 1 = some gen1 ∧ gen1.job = f.job ∧ gen1.state = .opened ∧ gen1.recorded 0 = false ∧
       f.ep ∈ gen1.allHolders ∧ s.stampRefusal f = none)) ∧
    (let f : StampF := ⟨9, 1, 2, 3, 0, 0x13, 0x1000, 1⟩
     let s := one (cuttable gen1 job9) (ent (.stamp f))
     firstCond [s.jobRefusal 0 9, s.stampRefusal f, s.signalRefusal 0 hdr] = some ⟨0x40, 46⟩) := by decide

theorem witness_protects : groupListOk protecting groupList = true ∧ (protecting.tiers / 2 % 2 = 0) ∧
    (let s := cuttable { gen1 with state := .cut } job9
     s.jobRefusal 0 9 = none ∧ s.protectGen protecting = some { gen1 with state := .cut } ∧
     s.supplyRefusal (ent (.protect protecting)) protecting { gen1 with state := .cut } (s.groupsOf protecting groupList) = none ∧
     s.assignSlot 9 2 (gen1.manTotal 1) = some (0, none, 0) ∧ s.groupsOf protecting groupList = groups1) ∧
    (let s := cuttable safe1 job9
     s.protectGen protecting = some safe1 ∧ s.gen 1 = some safe1 ∧ repeatRefusal protecting safe1 groups1 (s.groupsOf protecting groupList) = none ∧
     safe1.safe = true ∧ safe1.poisonCount = 0) := by decide

/-- A generation with tier 3, a bulk key in slot 0, and a drain endpoint. -/
def drainable : State :=
  { cuttable { safe1 with tiers := 5 } job9 with
    setup := { live.setup with drainLock := true, drainPresent := 1, drainBase := 0x800, drainCount := 16 }
    keys := { live.keys with store := [(0, ⟨key32 1, 0, 9, false, false, 0, 0, 0, 0, [], []⟩)] } }

theorem witness_drains : (let f : DrainF := ⟨9, 1, 0x80F * 2 ^ 52, 2, false, 0⟩
    (one drainable (ent (.drain f))).drainRefusal (ent (.drain f)) f = none ∧ drainable.drainGen f = some { safe1 with tiers := 5 } ∧
    drainable.gen 1 = some { safe1 with tiers := 5 }) := by decide

theorem witness_restores :
    (let f : RestoreF := ⟨9, 1, 0, false, 0, 0, 0⟩
     let s := cuttable safe1 job9
     s.jobRefusal 0 9 = none ∧ s.restoreRefusal f = none ∧ (s.gensOf 9).filter Gen.loose = [] ∧
     s.choose { bareRest 1 9 with tier := 0, only := 1, keySlot := some 0, ref := 1 } = some (safe1, [1]) ∧ s.gen 1 = some safe1 ∧
     (∀ m ∈ safe1.members, m.ep ∉ s.lost) ∧ s.restBusy 9 = false ∧
     (one s { ent (.restore f) with phase := .queued }).restRuns 9 = false ∧
     ((one s { ent (.restore f) with phase := .queued }).waitingRests 9).head? = some { ent (.restore f) with phase := .queued } ∧
     (let s : State := { s with restores := [{ bareRest 7 9 with epoch := 1 }] }
      s.restBusy 9 = true ∧ (s.waitingRests 9).length < 4 ∧ FMap.find s.jobs 9 = some job9 ∧ ∀ r ∈ s.restores, r.entry ≠ 1)) := by decide

/-- Endpoint 0x12 is lost, and 0x14 spare. -/
def spareable : State :=
  { cuttable safe1 job9 with
    eps := (cuttable safe1 job9).eps ++ [(0x14, { fn := 0, belay := 0, quiesce := true, winBase := 0, winLen := 0x100000, forkBase := 0, forkSegs := 0 })]
    lost := [0x12] }

theorem witness_restore_spare : spareable.spareRefusal 0 9 0x12 0x14 = none ∧ spareable.restBusy 9 = false ∧
    (spareable.gensOf 9).filter Gen.loose = [] ∧ 0x12 ∈ spareable.lost ∧ (∀ h ∈ spareable.gens, ∀ m ∈ h.members, m.buddy ≠ 0x12) ∧
    spareable.choose { bareRest 1 9 with lost := 0x12, spare := 0x14, ref := 1 } = some (safe1, [1]) ∧ spareable.gen 1 = some safe1 ∧
    ((spareable.safeGens 9).head?.map (·.epoch)).getD 0 = 1 := by decide

/-! ### Witnesses: Sheets -/

/-- A dimension block: one dimension of 64 bytes, released through Cleat 7, with the fill signal to endpoint 0x12. -/
def dimBytes : List Byte :=
  fit 192 0 ([0, 0, 0x18, 1] ++ toLe 2 3 ++ toLe 2 0x12 ++ toLe 2 7 ++ List.replicate 54 0 ++ toLe 4 64 ++ List.replicate 20 0 ++ toLe 8 1)

/-- The SHEET_ARM of Sheet 511 that reads it. -/
def arming : ArmF := ⟨511, 0, 1, 2, 0x18, true, false, 0x12 * 2 ^ 52, 0x12 * 2 ^ 52 + 0x10000, 64, 1, 0x1000, 64⟩

/-- What an arming with it reads. -/
def armReads : ArmReads := ⟨.data dimBytes, .error, .error⟩

/-- Sheets may run: eight buffers of each Yard are kept for captures. -/
def sheeted (hs : FMap Sheet) : State := { linked with rigs := { live.rigs with cur := { live.rigs.cur with ckptFloor := 8 } }, sheets := hs }

theorem witness_sheet_arm : armBreach { arming with base := arming.ring } 48 armReads = none ∧
    (let s := one (sheeted []) (ent (.sheetArm arming))
     let u := s.readArm (ent (.sheetArm arming)) arming armReads
     s.armOpen (ent (.sheetArm arming)) arming armReads = true ∧ u.noStaging (armSrc arming arming.base armReads) = none ∧
     u.hdrRefusal 0 (armHdrs arming armReads) = none ∧ (armHdrs arming armReads).findSome? (u.hdrLost 0) = none ∧
     u.headerRefusal 0 arming (armSrc arming arming.base armReads) = none ∧ FMap.find s.sheets 511 = none ∧
     u.armRefusal (ent (.sheetArm arming)) 511 { arming with base := arming.ring } (armSrc arming arming.base armReads) true = none) := by
  decide +kernel

/-- A persistent Sheet on that arming, on Yard 63, with what it has written and where W stands. -/
def sheet1 (written : List Nat) (w : Nat) (fresh : Bool) : Sheet :=
  { fn := 0, entry := 9, elem := 0, slots := 2, outType := 0x18, persistent := true, merge := false, ring := 0x12 * 2 ^ 52 + 0x10000, slotSize := 64
    period := 1, frameBytes := 64, cur := armSrc arming arming.base armReads, yard := 63, written := written, w := w, fresh := fresh }

/-- Function 0 is ORPHANED. -/
def orphan0 (s : State) : State := { s with fns := [(0, { state := .orphaned, pasid := 0 })] }

theorem witness_sheet_rearm : ∀ h ∈ [sheet1 [0] 1 false, sheet1 [] 0 true, sheet1 [] 0 false],
    FMap.find (sheeted [(511, h)]).sheets 511 = some h ∧ h.fn = 0 ∧ h.stopping = false ∧ h.persistent = true ∧ h.pend = none ∧
    (sheeted [(511, h)]).lastDone 511 h = decide (h.w = 1) ∧ (sheeted [(511, h)]).orphaned 0 = false ∧
    (orphan0 (sheeted [(511, h)])).orphaned 0 = true ∧
    ∀ dims ∈ [0, 0x2000], ∀ s0 ∈ [sheeted [(511, h)], orphan0 (sheeted [(511, h)])],
      let base := 0x12 * 2 ^ 52 + 64
      let a := ent (.sheetRearm 511 base dims)
      let s := one s0 a
      let u := s.readRearm a 511 base dims armReads
      s.rearmOpen a 511 base dims armReads = true ∧ rearmBreach 511 dims h armReads = none ∧
      u.noStaging (rearmSrc 511 base dims h armReads) = none ∧ u.hdrRefusal 0 (h.rearmHdrs base dims armReads) = none ∧
      (h.rearmHdrs base dims armReads).findSome? (u.hdrLost 0) = none ∧
      u.headerRefusal 0 (rearmForm 511 dims h) (rearmSrc 511 base dims h armReads) = none ∧
      u.armRefusal a 511 (rearmForm 511 dims h) (rearmSrc 511 base dims h armReads) false = none := by decide +kernel

/-- A Sheet that waits for its first unit, beside a rush copy of a cut generation that may go in its Yard. -/
def rushed : State :=
  { sheeted [(511, sheet1 [] 0 false)] with
    gens := [{ gen1 with state := .cut, rushQ := [0], segs := [{ region := 0, n := 0, state := .copying }] }]
    xfers := [(8, { id := 8, fn := 0, work := .tier1 9 1 0, srcs := [Part.at (.fabric (0x12 * 2 ^ 52)) 64], dsts := [] })], nextId := 9 }

theorem witness_sheet_run :
    (∀ h ∈ [sheet1 [0] 1 false, { sheet1 [0] 1 false with pend := some (armSrc arming 0 armReads) }, { sheet1 [0] 1 false with persistent := false }],
      FMap.find (sheeted [(511, h)]).sheets 511 = some h ∧ h.stopping = false ∧ h.armEnded = true ∧
      (sheeted [(511, h)]).hasWork (Work.ofSheet 511) = false ∧ (sheeted [(511, h)]).orphaned 0 = false ∧
      (orphan0 (sheeted [(511, h)])).orphaned 0 = true) ∧ (sheet1 [] 0 false).armEnded = false ∧
    (let s := sheeted [(511, sheet1 [] 0 false)]
     s.glob.power = .run ∧ s.laneFree 63 31 = true ∧ s.nextSheet 63 = some (511, sheet1 [] 0 false) ∧ FMap.find s.xfers s.nextId = none ∧
     s.goesNext 63 (s.sheetClaim (sheet1 [] 0 false)) (s.rivals 63 none false) = true ∧ s.givesWay 63 (s.sheetClaim (sheet1 [] 0 false)) = false ∧
     s.laneFree 63 32 = false ∧ s.laneFree 64 0 = false ∧ s.nextSheet 62 = none) ∧
    rushed.nextSheet 63 = some (511, sheet1 [] 0 false) ∧
    rushed.goesNext 63 (rushed.sheetClaim (sheet1 [] 0 false)) (rushed.rivals 63 none false) = false := by decide +kernel

/-! ### Witnesses: transfers and answers -/

/-- One transfer. -/
def moving (x : Xfer) : State := { withGen { gen1 with segs := [{ region := 0, n := 0, state := .copying }] } with xfers := [(x.id, x)], nextId := 9 }

theorem witness_transfers :
    (∀ x ∈ ([{ id := 8, fn := 0, work := .tier1 9 1 0, srcs := [Part.at (.fabric (0x12 * 2 ^ 52)) 65536]
               dsts := [Part.at (.fabric (0x12 * 2 ^ 52)) 65536] },
        { id := 8, fn := 0, work := .fill 1, srcs := [], dsts := [Part.at (.fabric (0x12 * 2 ^ 52)) 64] },
        { id := 8, fn := 0, work := .copy 1, srcs := [], dsts := [Part.at (.fabric (0x12 * 2 ^ 52)) 64], phase := .loaded, yard := 63 }] : List Xfer),
      (let s := moving x
       FMap.find s.xfers 8 = some x ∧ s.glob.power = .run ∧ s.laneFree 63 31 = true ∧ s.ready 63 x = true ∧ x.parked = false ∧
       s.goesNext 63 (s.claimOf x) (s.rivals 63 (some 8) true) = true ∧ s.givesWay 63 (s.claimOf x) = false ∧ flipsOf x.dsts = [] ∧ x.work.sealsFirst = false ∧ x.nextParts.isSome = true ∧
       (∀ p ∈ x.nextParts, s.portsAllow p.1 p.2 3 = true) ∧ s.laneFree 64 0 = false)) ∧
    (let x : Xfer := { id := 8, fn := 0, work := .tier1 9 1 0, srcs := [Part.at (.fabric (0x12 * 2 ^ 52)) 65536], dsts := [], phase := .reading }
     FMap.find (moving x).xfers 8 = some x ∧ (moving x).owes 8 = false ∧ (moving x).ready 63 x = false ∧ flipsOf x.srcs = [] ∧
     (((moving x).gen 1).map fun g => (g.state, g.segs.length)) = some (.opened, 1)) ∧
    (let x : Xfer := { id := 8, fn := 0, work := .tier1 9 1 0, srcs := [Part.at (.fabric (0x12 * 2 ^ 52)) 64], dsts := [] }
     let s := { moving x with xfers := [(7, { id := 7, fn := 0, work := .fill 1, srcs := [], dsts := [Part.at (.fabric (0x12 * 2 ^ 52)) 64] }), (8, x)] }
     s.ready 63 x = true ∧ s.goesNext 63 (s.claimOf x) (s.rivals 63 (some 8) true) = false) := by decide +kernel

/-- A COPY's request at staging port 7. -/
def staged (write known : Bool) : State :=
  { one ringed { ent (.copy ⟨0, 0, 64, .staging, .staging⟩) with phase := .running } with
    xfers := [(8, { id := 8, fn := 0, work := .copy 1, srcs := [], dsts := [], phase := .reading })]
    sreqs := [⟨7, 1023, 8, 0, 0, 5, write, false, false⟩], unknown := if known then [] else [(7, [5])] }

theorem witness_staging : ∀ write ∈ [false, true], ∀ known ∈ [false, true],
    (let s := staged write known
     (s.sreqs.find? fun z => z.port == 7 && z.tag == 1023) = some ⟨7, 1023, 8, 0, 0, 5, write, false, false⟩ ∧
     (FMap.find s.xfers 8).map (fun x => (x.id, x.work)) = some (8, .copy 1) ∧ (s.acc 1).map (fun a => (a.fin, a.conds, a.id)) = some (none, [], 1) ∧
     (FMap.find s.sqs 1).map (·.state) = some .running ∧ s.glob.power ≠ .boot ∧ decide (5 ∈ s.unknownAt 7) = !known ∧ (s.unknownAt 7).length < 1024) := by decide

/-- A host request. -/
def asking (u : HostUse) : State :=
  { one ringed { ent (.copy ⟨0, 0, 64, .host, .host⟩) with phase := .running } with
    xfers := [(8, { id := 8, fn := 0, work := .copy 1, srcs := [Part.at (.host 0 0) 4096], dsts := [], phase := .reading })]
    hreqs := [⟨5, u⟩] }

theorem witness_host : (∀ u ∈ [HostUse.interrupt 1, .completion 1 15, .data 8 0 0 4096 false, .data 8 0 0 4096 true],
      ((asking u).hreqs.find? (·.id == 5)) = some ⟨5, u⟩) ∧ (∀ r ∈ live.hreqs, r.id ≠ 5) ∧
    (let s := asking (.completion 1 15)
     (FMap.find s.cqs 1).map (·.fn) = some 0 ∧ (1 : Nat) ≠ 0 ∧ (FMap.find s.fns 0).map (·.state) = some .active ∧ s.glob.eccFlip = 0 ∧
     (FMap.find s.xfers 8).map (fun x => (x.work, flipsOf x.srcs)) = some (.copy 1, []) ∧ (s.acc 1).map (fun a => (a.fin, a.conds, a.id)) = some (none, [], 1)) := by decide

/-! ### Witnesses: an image from the mailbox, and a certificate chain to store -/

theorem length_fwImg : fwImg.length = 128 + 64 + sigBlockLen := by
  rw [fwImg, List.length_append, List.length_append, List.length_append, length_fwFront, length_fwSigs, List.length_replicate,
    List.length_replicate]
  rfl

/-- A staging that holds that image whole. -/
def stagedImage : ImgStage := ⟨4, 128 + 64 + sigBlockLen, [(0, fwImg)]⟩

theorem bytes_whole (i n : Nat) (xs : List Byte) (h : xs.length = n) : ImgStage.bytes ⟨i, n, [(0, xs)]⟩ = xs := by
  show overlay (List.replicate n 0) 0 xs = xs
  simp [overlay, h]

theorem bytes_stagedImage : stagedImage.bytes = fwImg := bytes_whole 4 _ fwImg length_fwImg

/-- IMAGE_END finds what it needs, in RECOVERY too; of an image that is staged as another code, a check fails. -/
theorem witness_image_end : ∀ rec ∈ [false, true], ∀ code ∈ [3, 4],
    let i : ImgStage := { stagedImage with image := code }
    let u : State := signer { live with image := some i, glob := { live.glob with recovery := rec } }
    Presents (asked u 0x62 1 [1]) ⟨0x62, 0, 1, 7, [1]⟩ ∧ (asked u 0x62 1 [1]).image = some i ∧ fwHeaderOk i.bytes = true ∧
    (asked u 0x62 1 [1]).restarting .shroud = false ∧ (asked u 0x62 1 [1]).glob.recovery = rec ∧
    State.fwRefusal { asked u 0x62 1 [1] with image := none } i.image i.total 0 i.bytes = (if code = 4 then none else some ⟨0x40, 72⟩) := by
  intro rec hr code hc i u
  have hb : i.bytes = fwImg := bytes_whole _ _ fwImg length_fwImg
  obtain ⟨h1, hn, h2, h3, h4⟩ := fw_fields
  refine ⟨⟨rfl, rfl, rfl, by decide⟩, rfl, by rw [hb]; exact h1, rfl, rfl, ?_⟩
  rw [hb, State.fwRefusal]
  rw [show State.fwGenuine { asked u 0x62 1 [1] with image := none } fwImg = true from fw_genuine live rfl, hn, h2, h3, h4]
  simp only [List.mem_cons, List.not_mem_nil, or_false] at hr hc
  rcases hr with rfl | rfl <;> rcases hc with rfl | rfl <;> decide

theorem witness_set_certificate : ∀ chain ∈ ([[], [1]] : List (List Byte)),
    Holds (spdmAsked chain [0x13, 0xEE, 0, 0, 5, 6]) ⟨0x01, 0, 6, 7, [0x13, 0xEE, 0, 0, 5, 6]⟩ ∧
    (⟨0x01, 0, 6, 7, [0x13, 0xEE, 0, 0, 5, 6]⟩ : MbReq).spdm = .setCertificate :=
  fun _ _ => ⟨(holds_spdm _ _ (by decide)).1, by decide⟩

theorem witness_heartbeat_writes : live.ctlReady = true ∧ (255 : Nat) < 256 := by decide

/-! ### Outcomes that the spec's worked examples and tables give -/

/-- What holds of the next state. -/
def leads (o : Host.Outcome State Fault Refusal) (p : State → Bool) : Bool :=
  match o with
  | .next t => p t
  | _ => false

/-- Table 16-20, step 2: the reference integration's identity. -/
theorem test_identity :
    (let s : State := { live with setup := { live.setup with stagePresent := 0xFF, stageSize := 4 } }
     (s.readReg 0, s.readReg 4, s.readReg 8, s.readReg 12, s.readReg 0x38) =
       (0x02019400, 0x20408408, 0x80080000, 0x8000FF80, 0x1C468000) ∧ s.setup.stagingBytes = 576000000000) := by decide +kernel

/-- Table 16-20, step 3: FAB_CFG. -/
theorem test_fab_cfg : leads (exec (.registerWrite 0x24 0x004200F0) live)
    (fun t => t.setup.fabEp == 0x0F0 && t.glob.fabTimeout == 66 && t.setup.drainBase == 0) = true := by decide +kernel

/-- Table 16-20, step 3: DRAIN_CFG puts endpoints 0xE00 to 0xE3F behind all four ports. -/
theorem test_drain_cfg : leads (exec (.registerWrite 0x28 0xF0040E00) live)
    (fun t => t.setup.drainPresent == 0xF && t.setup.drainCount == 64 && t.setup.drainBase == 0xE00) = true := by decide +kernel

/-- Queue 37 of slice 5, local slot 3, as step 7 of Table 3-12 leaves it. -/
def queue37 (st : SqState) (head : Nat) : State :=
  { live with sqs := [(37, { state := st, fn := 5, slot := 3, log2 := 8, base := 0x1000, cq := 1, maxOut := 8, head := head, tail := 10,
                             cache := [.data [], .data []] })] }

/-- Table 3-12, step 7: SQ_HEAD. -/
theorem test_sq_head : (queue37 .disabled 3).readReg 0x10540C = 0x40000003 := by decide +kernel

/-- Table 3-12, step 3: INV discards the cached entries and keeps the head. -/
theorem test_inv : leads (exec (.inv 5 3 10) (queue37 .running 252))
    (fun t => (FMap.find t.sqs 37).map (fun q => (q.cache, q.head, q.tail)) == some ([], 252, 10)) = true := by decide +kernel

/-- R82 and Table 9-5, 90 µs: a signal of 2 that two waits share. The second ends with UNDERFLOW. -/
def waitersC : State :=
  { live with rigs := { live.rigs with cur := { live.rigs.cur with part := [(3, ⟨8, 64, 4, 0, 0x0A00, 256, 0, 0, 0, 0, 0, 0⟩)] } }
              fns := [(0, { state := .active, pasid := 0 }), (3, { state := .active, pasid := 9 })]
              accepted := [{ ent (.cleatWait 0xA10 2 6554) with id := 1, sq := 52, fn := 3, phase := .waiting },
                           { ent (.cleatWait 0xA10 1 0) with id := 2, sq := 53, fn := 3, phase := .waiting },
                           { ent (.cleatSignal 0xA10 2 0) with id := 3, sq := 54, fn := 3 }]
              nextId := 4 }

/-- The completions that have been written: queue, status and INFO. -/
def cqes (s : State) : List (Nat × Nat × Nat) := s.issued.filterMap fun o =>
  match o with
  | .hostWrite _ _ _ bs => some (leAt bs 4 4 / 2 ^ 20, leAt bs 4 1, leAt bs 8 8)
  | _ => none

/-- Queues 52 to 54 with a ring of their function. -/
def queues52 (s : State) : State :=
  { s with sqs := [52, 53, 54].map fun k => (k, { state := .running, fn := 3, slot := k - 51, log2 := 4, base := 0x1000 * k, cq := 7, maxOut := 8 })
           cqs := [(7, { state := .running, fn := 3, slot := 1, log2 := 4, base := 0x2000, intAddr := 0, intData := 0, coalCount := 0, coalTicks := 0 })] }

theorem test_cleat_race : leads (exec (.cleatSignal 3) (queues52 waitersC))
    (fun t => t.cleat 0xA10 == 0 && cqes t == [(52, 0, 0), (53, 0x61, 0x350A10), (54, 0, 0)]) = true := by decide +kernel

/-- Table 9-5, the end of wait D. -/
theorem test_wait_timeout :
    leads (exec (.waitTimeout 1) (queues52 { waitersC with
      accepted := [{ ent (.cleatWait 0xA10 1 33) with sq := 52, fn := 3, phase := .waiting }] }))
    (fun t => cqes t == [(52, 0x60, 0x340A10)]) = true := by decide +kernel

/-- The example of R38's geometry in Table 11-6: staging offset 0x2_0033_0040. -/
theorem test_staging_place : ({ live.setup with stagePresent := 0xFF, stageSize := 4 } : Setup).stagingPlace 0x200330040 = (3, 0x01001801) := by decide +kernel

/-- Table 13-14, step 2: the Cleat that a wait holds stops the commit. -/
theorem test_commit_refused :
    (let w : State := { waitersC with accepted := [{ ent (.cleatWait 0xA10 1 0) with id := 2, sq := 52, fn := 3, phase := .waiting }] }
     w.commitBreach { gen := 7, part := [(3, ⟨8, 64, 4, 0, 0x0C00, 256, 0, 0, 0, 0, 0, 0⟩)] } = some (6, 0xA10)) := by decide +kernel

/-- The worked example of the sealed record: its header and its IV. -/
theorem test_seal_header : sealHeader ⟨1, true, false, 0xD17, 0x0000260000000412, 70000⟩ 0x7A31 0x9E3A51C7 70912 52896 =
    [0x5A, 0x53, 0x45, 0x47, 1, 1, 2, 0, 0x31, 0x7A, 0, 0, 0xC7, 0x51, 0x3A, 0x9E, 0, 0x15, 1, 0, 0, 0, 0, 0, 0xA0, 0xCE, 0, 0, 0, 0, 0, 0,
     0x17, 0x0D, 0, 0, 0, 0, 0, 0, 0x12, 4, 0, 0, 0, 0x26, 0, 0, 0x70, 0x11, 1, 0, 0, 0, 0, 0, 0, 0, 0, 0, 0, 0, 0, 0] ∧
    sealIv 0x9E3A51C7 70912 = [0x9E, 0x3A, 0x51, 0xC7, 0, 0, 0, 0, 0, 1, 0x15, 0] := by decide +kernel

/-- The headers of segments A and C of Table 7-4. -/
theorem test_reef_header : reefHeader false 1 52864 = [0x52, 0x45, 0x45, 0x46, 1, 1, 0, 0, 0x80, 0xCE, 0, 0] ++ List.replicate 20 0 ∧
    (reefHeader true 0 65536).take 12 = [0x52, 0x45, 0x45, 0x46, 1, 0x10, 0, 0, 0, 0, 1, 0] := by decide +kernel

/-- R86's worked example: the status of the highest class goes into the completion, with MORE, and the others into the log. -/
theorem test_completion_class : chosen [⟨0x12, 5⟩, ⟨0x22, 2⟩, ⟨0x10, 3⟩] = some ⟨0x22, 2⟩ := by decide

/-- The worked example of two losses: parity of 3,600,000 segments for twelve members in two groups. -/
theorem test_parity_area : (Groups.mk 3 (List.replicate 12 ⟨0, 0, 0, 300000, 0⟩) 0 6 2).parityArea = (0, 3600000 * 65536) := by decide +kernel

/-- Table 15-11: lane 721 of Yard 21 is fenced, and lane 746, its spare 32, takes logical lane 679. -/
theorem test_fence : leads (exec (.datapathParityFault 721 []) live)
    (fun t => (t.yard 21).fenced == [7] && (t.yard 21).standA == some 7) = true := by decide +kernel

/-- Table 14-13, sample 2: held 448 decays to 417, raw is 832, and the level goes straight to 3. -/
theorem test_telltale :
    (let diode : Sensor := { reading := 1600 }
     let s : State := { live with
       rigs := { live.rigs with cur := { live.rigs.cur with tt := ⟨61147, 0x100, 0x200, 0x300, 0x40,
         [(0, ⟨1, false, 0x100, 0x500202, 400, 0⟩), (1, ⟨2, false, 0x180, 5, 320, 1280⟩), (2, ⟨1, false, 0x200, 2, 2, 0⟩)]⟩ } }
       setup := { live.setup with stagePresent := 0xFF, stageSize := 4 }
       sensors := [(5, diode)]
       ctr := { live.ctr with live := [(2, 1), (0x500202, 400)] }
       tt := { live.tt with sampling := true, held := 448, level := 1, bases := [(0, 100), (2, 0)] } }
     leads (exec .telltaleSample s) fun t => t.tt.held == 832 && t.tt.raw == 832 && t.tt.level == 3 && t.tt.terms == [(0, 192), (1, 384), (2, 256)]) =
    true := by decide +kernel

/-- The check values of the standards: CRC-32C of "123456789", SHA-256 of "abc". -/
theorem test_check_values : crc32c (ascii "123456789") = 0xE3069283 ∧
    (sha 0 (ascii "abc")).take 8 = [0xBA, 0x78, 0x16, 0xBF, 0x8F, 0x01, 0xCF, 0xEA] := by decide +kernel

/-- No row of the table has bits, so no word spells a command. -/
theorem test_no_words : decodeTableWord 32 0 = none ∧ State.withFetchWord live 32 0 = live := ⟨rfl, rfl⟩

/-- Before SENSOR_LOCK no window applies: reset meets the premise of the voltage clause, and a locked USED monitor its other side. -/
theorem witness_windows : State.reset.setup.sensorLock = false ∧
    State.windowOn { live with setup := { live.setup with sensorLock := true, vmon := [0x800003E8] } } 0 = true := by decide +kernel

/-- Table 2-3: the fields of a header flit written out byte by byte: a WR from endpoint 0x123 to 0x456 with a signal, LAST and
ACK_REQ. -/
theorem test_header_flit : parsePkt ([0x12, 0x01, 0x23, 0x01, 0x56, 0x04, 0x00, 0x02, 8, 7, 6, 5, 4, 3, 0x62, 0x45, 0xDD, 0xCC, 0xBB, 0xAA,
      0x03, 0x05, 0, 0, 0x34, 0x12, 0xFF, 0x80, 1, 0, 0, 0, 2, 0, 0, 0, 0, 0, 0, 0, 3, 0, 0, 0, 0, 0, 0, 0] ++ List.replicate 16 0) =
    { cls := 2, op := 1, src := 0x123, dst := 0x456, len := 512, addr := 0x4562030405060708, tag := 0xAABBCCDD, ackReq := true, last := true
      slice := 5, sig := true, sigCount := 255, cleat := 0x1234, arg32 := 1, argA := 2, argB := 3 } := by decide +kernel

/-- R72: IDCODE's version and part number, and the bit that BYPASS captures. -/
theorem test_idcode : tapIdcode.toNat / 2 ^ 28 = 0x1 ∧ tapIdcode.toNat / 2 ^ 12 % 2 ^ 16 = 0x9400 ∧ (Tap.select .bypass).capture.dr = [false] := by
  have h : Config.manufacturer % 2 ^ 11 < 2048 := Nat.mod_lt _ (by decide)
  have e : tapIdcode.toNat = (1 * 2 ^ 28 + 0x9400 * 2 ^ 12 + Config.manufacturer % 2 ^ 11 * 2 + 1) % 2 ^ 32 := BitVec.toNat_ofNat _ _
  generalize Config.manufacturer % 2 ^ 11 = m at h e
  rw [e]
  exact ⟨by omega, by omega, rfl⟩

end Sys2Proof.Tests
end

section
/-! PROOFS. The 64-bit register pairs (R13, R453): where their halves lie, and what a read and a write of a half do. -/

namespace Sys2Proof.Machine

open Sys2Proof.Claims

/-! ### Where the halves of the pairs lie -/

/-- The _LO halves: STAGING_BYTES, the three admin pairs, and the three pairs of each function page (Tables 16-2, 16-14, 16-15). -/
theorem isLo_iff (off : Nat) :
    isLo off = true ↔ (off = 0x38 ∨ off = 0x10000 ∨ off = 0x10010 ∨ off = 0x10020) ∨
      (0x300000 ≤ off ∧ off < 0x400000) ∧ (off % 0x1000 = 0x20 ∨ off % 0x1000 = 0x28 ∨ off % 0x1000 = 0x60) := by
  simp [isLo]

/-- No _LO half lies 4 bytes below another. -/
theorem isHi_of_isLo {off : Nat} (h : isLo off = true) : isHi off = false := by
  rw [Bool.eq_false_iff, isHi, Ne, Bool.and_eq_true, decide_eq_true_eq, isLo_iff]
  rw [isLo_iff] at h
  omega

/-- The offset 4 bytes above a _LO half is a _HI half. -/
theorem isHi_add_four {off : Nat} (h : isLo off = true) : isHi (off + 4) = true := by
  simp [isHi, h]

/-- A _HI half is no _LO half. -/
theorem isLo_add_four {off : Nat} (h : isLo off = true) : isLo (off + 4) = false := by
  rw [Bool.eq_false_iff, Ne, isLo_iff]
  rw [isLo_iff] at h
  omega

/-- Both halves of a pair are aligned, below the debug region, and not SB_STATUS. -/
theorem isLo_place {off : Nat} (h : isLo off = true) : off % 4 = 0 ∧ off < 0x7FFFFC ∧ off ≠ 0x28 ∧ off ≠ 0x2C := by
  rw [isLo_iff] at h
  omega

/-- Below the debug region no access stops (R458). -/
theorem State.debugOpen_below (s : State) {off : Nat} (h : off < 0x800000) : s.debugOpen off = false := by
  simp [State.debugOpen, Nat.not_le.mpr h]

/-! ### The value of a pair, as the model's reads give it -/

/-- An offset has a pair's value exactly where it is a _LO half. -/
theorem pairValue_isSome (s : State) (off : Nat) : (pairValue s off).isSome = isLo off := by
  rw [Bool.eq_iff_iff, isLo_iff]
  unfold pairValue
  simp only
  split_ifs <;> simp <;> omega

/-- What a read latches is the upper half of the pair's value. -/
theorem State.upperHalf_eq (s : State) (off : Nat) : s.upperHalf off = (pairValue s off).map (· / 2 ^ 32) := by
  unfold State.upperHalf pairValue
  simp only [Bool.and_eq_true, decide_eq_true_eq, and_assoc, apply_ite (Option.map (· / 2 ^ 32)), Option.map_some, Option.map_none]

/-- A read of a function page's pair returns the lower half of its value; a page without a function reads zero. -/
theorem State.readReg_page (s : State) {off : Nat} (h : isHi off = false) (h1 : 0x300000 ≤ off) (h2 : off < 0x400000) :
    s.readReg off = ((FMap.find s.fns ((off - 0x300000) / 0x1000)).map fun x =>
      s.fnReg ((off - 0x300000) / 0x1000) x (off % 0x1000)).getD 0 := by
  simp only [State.readReg, h, Bool.false_eq_true, if_false, if_neg (show ¬off < 0x10000 by omega), if_neg (show ¬off < 0x20000 by omega),
    if_neg (show ¬off < 0x100000 by omega), if_neg (show ¬off < 0x200000 by omega), if_neg (show ¬off < 0x300000 by omega), if_pos h2]
  cases FMap.find s.fns ((off - 0x300000) / 0x1000) <;> rfl

/-- A read of a _LO half returns the lower half of its pair's value. -/
theorem State.readReg_lo (s : State) {off v : Nat} (hv : pairValue s off = some v) : s.readReg off = BitVec.ofNat 32 v := by
  have hlo : isLo off = true := by rw [← pairValue_isSome s, hv]; rfl
  have hhi := isHi_of_isLo hlo
  rcases (isLo_iff off).mp hlo with (rfl | rfl | rfl | rfl) | ⟨⟨h1, h2⟩, hp⟩
  · obtain rfl := Option.some.inj hv
    rfl
  · obtain rfl := Option.some.inj hv
    rfl
  · obtain rfl := Option.some.inj hv
    rfl
  · obtain rfl := Option.some.inj hv
    rfl
  · rw [s.readReg_page hhi h1 h2]
    unfold pairValue at hv
    simp only [if_neg (show off ≠ 0x38 by omega), if_neg (show off ≠ 0x10000 by omega), if_neg (show off ≠ 0x10010 by omega),
      if_neg (show off ≠ 0x10020 by omega), h1, h2, true_and] at hv
    rcases hp with hp | hp | hp <;> rw [hp] at hv ⊢ <;> obtain rfl := Option.some.inj hv <;>
      cases FMap.find s.fns ((off - 0x300000) / 0x1000) <;> rfl

/-! ### Reads (R13) -/

/-- The state with a pair's latch loaded. -/
def State.withLatch (s : State) (off upper : Nat) : State :=
  { s with glob := { s.glob with latches := FMap.put s.glob.latches off (BitVec.ofNat 32 upper) } }

/-- What a read of an aligned offset other than SB_STATUS does: it answers, and a _LO half loads its latch. -/
theorem State.ctlRead_eq (s : State) {off : Nat} (hc : s.ctlReady = true) (ha : off % 4 = 0) (hs : off ≠ 0x2C) :
    s.ctlRead off = State.emit (.ctlRead off (s.readReg off)) ((s.upperHalf off).elim s (s.withLatch off)) := by
  simp only [State.ctlRead, hc, ha, if_neg hs, Bool.not_true, Bool.false_eq_true, if_false, ne_eq, not_true]
  cases s.upperHalf off <;> rfl

theorem exec_loRead_below (s : State) {off : Nat} (h : off < 0x800000) : exec (.loRead off) s = .next (s.keepFixed (s.ctlRead off)) := by
  rw [show exec (.loRead off) s = execLoRead off s from rfl, execLoRead, if_neg (by rw [s.debugOpen_below h]; decide)]
  rfl

/-- A read of a _LO half: it answers with the lower half, and the latch takes the upper one. -/
theorem exec_loRead_lo {s : State} {lo v : Nat} (hc : s.ctlReady = true) (hv : pairValue s lo = some v) :
    exec (.loRead lo) s = .next { s with
      issued := s.issued ++ [.ctlRead lo (BitVec.ofNat 32 v)]
      glob := { s.glob with latches := FMap.put s.glob.latches lo (BitVec.ofNat 32 (v / 2 ^ 32)) } } := by
  have hlo : isLo lo = true := by rw [← pairValue_isSome s, hv]; rfl
  obtain ⟨ha, hb, -, hs⟩ := isLo_place hlo
  rw [exec_loRead_below s (by omega), s.ctlRead_eq hc ha hs, s.readReg_lo hv, s.upperHalf_eq, hv]
  rfl

/-- A read of a _HI half: it answers with the latch, and changes nothing. -/
theorem exec_loRead_hi {s : State} {lo : Nat} (hc : s.ctlReady = true) (hlo : isLo lo = true) :
    exec (.loRead (lo + 4)) s = .next { s with issued := s.issued ++ [.ctlRead (lo + 4) (FMap.getD s.glob.latches lo 0)] } := by
  obtain ⟨ha, hb, hs, -⟩ := isLo_place hlo
  have hnone : pairValue s (lo + 4) = none := by
    rw [← Option.not_isSome_iff_eq_none, pairValue_isSome, isLo_add_four hlo]
    decide
  have hread : s.readReg (lo + 4) = FMap.getD s.glob.latches lo 0 := by
    rw [State.readReg, if_pos (isHi_add_four hlo), Nat.add_sub_cancel]
  rw [exec_loRead_below s (by omega), s.ctlRead_eq hc (by omega) (by omega), hread, s.upperHalf_eq, hnone]
  rfl

theorem pairReads : Claims.PairReads := by
  intro s lo v hc hv
  refine ⟨⟨_, exec_loRead_lo hc hv, rfl, FMap.find_put_self _ _ _, fun k hk => FMap.find_put_ne _ _ hk⟩, exec_loRead_hi hc ?_⟩
  rw [← pairValue_isSome s, hv]
  rfl

/-! ### Writes (R13, R453) -/

/-- The ring that a pair of the admin queue region belongs to is disabled. -/
def Adm.pairFree (a : Adm) (off : Nat) : Prop :=
  off = 0x10000 ∧ a.asqEnable = false ∨ (off = 0x10010 ∨ off = 0x10020) ∧ a.acqEnable = false

/-- The ring that a pair of the admin queue region belongs to is enabled. -/
def Adm.pairShut (a : Adm) (off : Nat) : Prop :=
  off = 0x10000 ∧ a.asqEnable = true ∨ (off = 0x10010 ∨ off = 0x10020) ∧ a.acqEnable = true

theorem State.ringOpen_of_pairFree {s : State} {off : Nat} (hw : s.admWritable = true) (h : s.adm.pairFree off) :
    s.ringOpen off = true := by
  rcases h with ⟨rfl, h⟩ | ⟨rfl | rfl, h⟩ <;> simp [State.ringOpen, hw, h]

theorem State.ringOpen_of_pairShut {s : State} {off : Nat} (h : s.adm.pairShut off) : s.ringOpen off = false := by
  rcases h with ⟨rfl, h⟩ | ⟨rfl | rfl, h⟩ <;> simp [State.ringOpen, h]

/-- No set-up register lies in the admin queue region. -/
theorem Setup.write_adm (u : Setup) {off : Nat} (v : Word) (h1 : 0x10000 ≤ off) (h2 : off < 0x20000) : u.write off v = u := by
  simp only [Setup.write, Bool.and_eq_true, decide_eq_true_eq]
  rw [if_neg (by omega), if_neg (by omega), if_neg (by omega), if_neg (by omega)]

/-- A write of the admin queue region changes no set-up register, and its effect settles. -/
theorem exec_registerWrite_adm {s : State} {off : Nat} (v : Word) (hc : s.ctlReady = true) (ha : off % 4 = 0) (h1 : 0x10000 ≤ off)
    (h2 : off < 0x20000) : exec (.registerWrite off v) s = .next (s.keepSetup (s.writeAdm off v).settle) := by
  have hsetup : s.setupAfter off v = s.setup := by
    rw [State.setupAfter, Setup.write_adm _ v h1 h2, ite_self]
  have hwrite : s.writeReg off v = s.writeAdm off v := by
    rw [State.writeReg, hc, if_neg (by decide), if_neg (by omega), if_neg (by omega), if_pos h2]
  rw [show exec (.registerWrite off v) s = execRegisterWrite off v s from rfl, execRegisterWrite,
    if_neg (by rw [s.debugOpen_below (by omega)]; decide), hsetup, hwrite]
  rfl

/-- A write of a _LO half of the admin queue region goes to `holdLo`. -/
theorem exec_registerWrite_lo {s : State} {off : Nat} (v : Word) (hc : s.ctlReady = true)
    (h : off = 0x10000 ∨ off = 0x10010 ∨ off = 0x10020) :
    exec (.registerWrite off v) s = .next (s.keepSetup (s.holdLo off v).settle) := by
  rw [exec_registerWrite_adm v hc (by omega) (by omega) (by omega), State.writeAdm, if_pos h]

theorem exec_hiWrite (s : State) (off : Nat) (v : Word) : exec (.hiWrite off v) s = .next (s.keepFixed (s.writeHi off v)) := rfl

/-- A write of a _HI half while its ring is closed drops the held half and does nothing else. -/
theorem State.writeHi_closed {s : State} {off : Nat} (v : Word) (hc : s.ctlReady = true)
    (h : off = 0x10000 ∨ off = 0x10010 ∨ off = 0x10020) (hr : s.ringOpen off = false) : s.writeHi (off + 4) v = s.dropHeld off := by
  rcases h with rfl | rfl | rfl <;> simp [State.writeHi, hc, hr]

/-- What a write of _HI commits where a lower half is held. -/
theorem State.committed_held {s : State} {lo : Nat} {w : Word} (h : FMap.find s.glob.held lo = some w) (now : Nat) (hi : Word) :
    s.committed lo now hi = hi.toNat * 2 ^ 32 + w.toNat := by
  rw [State.committed, h]
  rfl

theorem State.writeHi_asqBase {s : State} {lo : Word} (hi : Word) (hc : s.ctlReady = true) (hr : s.ringOpen 0x10000 = true)
    (h : FMap.find s.glob.held 0x10000 = some lo) :
    s.writeHi 0x10004 hi = (s.dropHeld 0x10000).newAsqBase (hi.toNat * 2 ^ 32 + lo.toNat) := by
  simp [State.writeHi, hc, hr, State.committed_held h]

theorem State.writeHi_acqBase {s : State} {lo : Word} (hi : Word) (hc : s.ctlReady = true) (hr : s.ringOpen 0x10010 = true)
    (h : FMap.find s.glob.held 0x10010 = some lo) :
    s.writeHi 0x10014 hi = { s.dropHeld 0x10010 with adm := { s.adm with acqBase := hi.toNat * 2 ^ 32 + lo.toNat } } := by
  simp [State.writeHi, hc, hr, State.committed_held h, State.dropHeld]

/-- ACQ_INT_ADDR takes aligned addresses. -/
theorem State.writeHi_acqIntAddr {s : State} {lo : Word} (hi : Word) (hc : s.ctlReady = true) (hr : s.ringOpen 0x10020 = true)
    (h : FMap.find s.glob.held 0x10020 = some lo) (ha : lo.toNat % 4 = 0) :
    s.writeHi 0x10024 hi = { s.dropHeld 0x10020 with adm := { s.adm with acqIntAddr := hi.toNat * 2 ^ 32 + lo.toNat } } := by
  have halign : (hi.toNat * 2 ^ 32 + lo.toNat) % 4 = 0 := by omega
  simp only [State.writeHi, hc, hr, State.committed_held h, halign]
  simp [State.dropHeld]

theorem State.newAsqBase_adm (s : State) (b : Nat) : (s.newAsqBase b).adm = { s.adm with asqBase := b } := by
  unfold State.newAsqBase
  split
  · next h => rw [h]
  · rfl

theorem State.newAsqBase_same {s : State} {b : Nat} (h : b = s.adm.asqBase) : s.newAsqBase b = s := if_pos h

/-- A new base sets the indices of queue 0 to 0 (R453). -/
theorem State.newAsqBase_sqs {s : State} {b : Nat} {q : Sq} (h : b ≠ s.adm.asqBase) (hq : FMap.find s.sqs 0 = some q) :
    FMap.find (s.newAsqBase b).sqs 0 = some { q with head := 0, tail := 0, cache := [], base := b, log2 := s.adm.asqLog2 } := by
  rw [State.newAsqBase, if_neg h]
  exact (FMap.find_modify_self _ _ _).trans (congrArg _ hq)

/-- A write of ASQ_BASE's _HI half: the base is put in place, and a new one alone changes a queue. -/
theorem exec_hiWrite_asqBase {s : State} {b : Nat} {hi : Word} (hb : s.writeHi 0x10004 hi = (s.dropHeld 0x10000).newAsqBase b) :
    ∃ t, exec (.hiWrite 0x10004 hi) s = .next t ∧ t.adm = { s.adm with asqBase := b } ∧
      (t.adm.asqBase = s.adm.asqBase → t.sqs = s.sqs) ∧
      (t.adm.asqBase ≠ s.adm.asqBase → ∀ q, FMap.find s.sqs 0 = some q → FMap.find t.sqs 0 =
        some { q with head := 0, tail := 0, cache := [], base := t.adm.asqBase, log2 := t.adm.asqLog2 }) := by
  have hadm : (s.keepFixed (s.writeHi 0x10004 hi)).adm = { s.adm with asqBase := b } := by
    rw [hb, State.keepFixed_adm, State.newAsqBase_adm]
    rfl
  refine ⟨_, exec_hiWrite s _ _, hadm, fun hsame => ?_, fun hnew q hq => ?_⟩
  · have hbase : b = s.adm.asqBase := by rwa [hadm] at hsame
    rw [hb, State.newAsqBase_same (s := s.dropHeld 0x10000) hbase]
    rfl
  · have hbase : b ≠ s.adm.asqBase := by rwa [hadm] at hnew
    rw [hadm, hb]
    exact State.newAsqBase_sqs hbase hq

/-- R13 on the pairs whose ring is disabled: a write of _LO is held, and changes no register. -/
theorem exec_registerWrite_held {s : State} {off : Nat} (v : Word) (hc : s.ctlReady = true) (hw : s.admWritable = true)
    (h : s.adm.pairFree off) : exec (.registerWrite off v) s =
      .next (s.keepSetup (State.settle { s with glob := { s.glob with held := FMap.put s.glob.held off v } })) := by
  have hoff : off = 0x10000 ∨ off = 0x10010 ∨ off = 0x10020 := h.elim (fun h => .inl h.1) fun h => .inr h.1
  rw [exec_registerWrite_lo v hc hoff, State.holdLo, if_pos (State.ringOpen_of_pairFree hw h)]

/-- R453 item 1 on the pairs whose ring is enabled: writes of both halves are ignored, and the held half is dropped. -/
theorem exec_write_ignored {s : State} {off : Nat} (lo hi : Word) (hc : s.ctlReady = true) (h : s.adm.pairShut off) :
    exec (.registerWrite off lo) s = .next (s.keepSetup s.settle) ∧
    exec (.hiWrite (off + 4) hi) s = .next { s with glob := { s.glob with held := FMap.del s.glob.held off } } := by
  have hoff : off = 0x10000 ∨ off = 0x10010 ∨ off = 0x10020 := h.elim (fun h => .inl h.1) fun h => .inr h.1
  have hr := State.ringOpen_of_pairShut h
  constructor
  · rw [exec_registerWrite_lo lo hc hoff, State.holdLo, if_neg (by rw [hr]; decide)]
  · rw [exec_hiWrite, State.writeHi_closed hi hc hoff hr]
    rfl

theorem exec_hiWrite_acqBase {s : State} {lo : Word} (hi : Word) (hc : s.ctlReady = true) (hr : s.ringOpen 0x10010 = true)
    (h : FMap.find s.glob.held 0x10010 = some lo) :
    ∃ t, exec (.hiWrite 0x10014 hi) s = .next t ∧ t.adm = { s.adm with acqBase := hi.toNat * 2 ^ 32 + lo.toNat } :=
  ⟨_, exec_hiWrite s _ _, by rw [State.keepFixed_adm, State.writeHi_acqBase hi hc hr h]⟩

theorem exec_hiWrite_acqIntAddr {s : State} {lo : Word} (hi : Word) (hc : s.ctlReady = true) (hr : s.ringOpen 0x10020 = true)
    (h : FMap.find s.glob.held 0x10020 = some lo) (ha : lo.toNat % 4 = 0) :
    ∃ t, exec (.hiWrite 0x10024 hi) s = .next t ∧ t.adm = { s.adm with acqIntAddr := hi.toNat * 2 ^ 32 + lo.toNat } :=
  ⟨_, exec_hiWrite s _ _, by rw [State.keepFixed_adm, State.writeHi_acqIntAddr hi hc hr h ha]⟩

theorem pairWrites : Claims.PairWrites := by
  intro s lo hi hc hw
  have asqOpen (h : s.adm.asqEnable = false) : s.ringOpen 0x10000 = true := State.ringOpen_of_pairFree hw (.inl ⟨rfl, h⟩)
  have acqOpen {off : Nat} (h : s.adm.acqEnable = false) (ho : off = 0x10010 ∨ off = 0x10020) : s.ringOpen off = true :=
    State.ringOpen_of_pairFree hw (.inr ⟨ho, h⟩)
  exact ⟨fun off h => exec_registerWrite_held lo hc hw h, fun off h => exec_write_ignored lo hi hc h,
    fun he hh => exec_hiWrite_asqBase (State.writeHi_asqBase hi hc (asqOpen he) hh),
    fun he hh => exec_hiWrite_acqBase hi hc (acqOpen he (.inl rfl)) hh,
    fun he hh ha => exec_hiWrite_acqIntAddr hi hc (acqOpen he (.inr rfl)) hh ha⟩

/-- Settles O32: a read of a half and a write of a half, each by the half that it names. -/
theorem pairRegisters : Obligations.PairRegisters := ⟨pairReads, pairWrites⟩

end Sys2Proof.Machine
end

section
/-! PROOFS. The stand-ins of spares across BLK_RST_N (R71, R422, R426): a reset ends the test of an active lane, and the spare that
serves the lane's number meanwhile gives it back, so its stand-in does not survive. -/

namespace Sys2Proof.Machine

/-! ### What BLK_RST_N does with a Yard -/

/-- A Yard after an assertion of BLK_RST_N: the number of its lane under test is given back, and the record in Pennant is kept. -/
theorem blkRstAssertion_yard {s t : State} (h : exec .blkRstAssertion s = .next t) (y : Nat) :
    FMap.find t.yards y = (FMap.find s.yards y).map fun v => (s.handBack y v).kept := by
  obtain rfl : s.keepSetup s.blkRstLow = t := Host.Outcome.next.inj h
  exact FMap.find_mapV s.yards (fun y v => (s.handBack y v).kept) y

/-- The Yard of a lane under test whose number a spare serves: the spare stands in for nothing, and the lane has its number again. -/
theorem State.handBack_of_trial {s : State} {y : Nat} {r : Trial} {q k : Nat} (hr : s.trialOf y = some r) (hu : r.under = some (q, k))
    (v : Yard) : s.handBack y v = (v.stand (s.spareMap y) q none).stand (s.spareMap y) (r.lane % 34) (some k) := by
  simp [State.handBack, hr, hu]

@[simp] theorem Yard.stand_fst_standA (sp : Nat × Nat) (k : Option Nat) (v : Yard) : (v.stand sp sp.1 k).standA = k := by
  simp [Yard.stand]

theorem Yard.stand_ne_standA {sp : Nat × Nat} {p : Nat} (h : p ≠ sp.1) (k : Option Nat) (v : Yard) :
    (v.stand sp p k).standA = v.standA := by
  rw [Yard.stand, if_neg h]
  split <;> rfl

/-- Where a Yard's first spare serves the number of a lane under test, BLK_RST_N clears its stand-in. -/
theorem blkRstAssertion_standA {s t : State} (h : exec .blkRstAssertion s = .next t) {y k : Nat} {r : Trial} {v w : Yard}
    (hr : s.trialOf y = some r) (hu : r.under = some ((s.spareMap y).1, k)) (hp : r.lane % 34 ≠ (s.spareMap y).1)
    (hv : FMap.find s.yards y = some v) (hw : FMap.find t.yards y = some w) : w.standA = none := by
  rw [blkRstAssertion_yard h, hv] at hw
  obtain rfl := Option.some.inj hw
  change (s.handBack y v).standA = none
  rw [State.handBack_of_trial hr hu]
  exact (Yard.stand_ne_standA hp _ _).trans (Yard.stand_fst_standA _ _ _)

/-! ### A self-test in which a spare stands in -/

/-- A running block: an entry's COPY reads its source on lane 0 of Yard 0, and the spare self-test is due. -/
def laneReading : State :=
  { State.reset with
    glob := { Glob.reset with power := .run, porstLow := false, afterPorst := false, ready := true }
    pen := { Pen.reset with bistDue := 1350 }
    fns := [(0, { state := .active, pasid := 0 })]
    mb := { notReady := false }
    links := [(31, { state := .up, linkUp := true })]
    eps := [(0x12, { fn := 0, belay := 0, quiesce := true, winBase := 0, winLen := 0x100000, forkBase := 0, forkSegs := 0 })]
    yards := [(0, { gated := false })]
    accepted := [{ id := 1, sq := 1, idx := 0, fn := 0, hdr := ⟨0x20, false, false, false, 0, 0, 0, 0⟩
                   op := .copy ⟨0x12 * 2 ^ 52, 0, 64, .fabric, .host⟩, phase := .running }]
    xfers := [(2, { id := 2, fn := 0, work := .copy 1, srcs := [Part.at (.fabric (0x12 * 2 ^ 52)) 64], dsts := [Part.at (.host 0 0) 64]
                    phase := .reading, yard := 0, lane := 0, port := 31 })]
    freqs := [⟨31, 3, 2, 0, 0, 64, false, 0x12, 0, 0, 0x21, 3⟩]
    nextId := 4 }

/-- What `laneReading` comes to when the self-test finds that lane 0 fails: the lane waits for its transfer to end. -/
def laneUnderTest : State := laneReading.keepTimed (laneReading.selfTest [(0, 1)]).settle

/-- The spare self-test takes `laneReading` to `laneUnderTest`. -/
theorem exec_spareSelfTest_laneReading : exec (.spareSelfTest [(0, 1)]) laneReading = .next laneUnderTest := rfl

/-- In `laneUnderTest` lane 0 of Yard 0 is under test, and the spare 32 serves its number 0 meanwhile. -/
theorem laneUnderTest_lends : laneUnderTest.trialOf 0 = some ⟨0, 1, some (32, 0)⟩ ∧ laneUnderTest.spareMap 0 = (32, 33) ∧
    FMap.find laneUnderTest.yards 0 = some { gated := false, standA := some 0 } := by
  decide +kernel

/-- Refutes O11: BLK_RST_N does not spare every stand-in. A COPY reads on lane 0 of Yard 0 when a spare self-test finds that the lane
fails; the spare 32 stands in for number 0 until the transfer has ended (R426), and an assertion of BLK_RST_N in that time gives the
number back. The statement lacks the premise that no test of a lane is under way. -/
theorem not_resetAssertions : ¬ Obligations.ResetAssertions := by
  unfold Obligations.ResetAssertions
  intro h
  obtain ⟨⟨t, ht, -, -, -, -, -, -, -, -, -, -, -, -, -, -, -, hyards, -⟩, -⟩ := h laneUnderTest
  obtain ⟨htrial, hmap, hyard⟩ := laneUnderTest_lends
  obtain ⟨w, hw, -, hkept, -⟩ := hyards 0 _ hyard
  have hcleared : w.standA = none :=
    blkRstAssertion_standA ht htrial (by rw [hmap]) (by rw [hmap]; decide) hyard hw
  rw [hcleared] at hkept
  exact absurd hkept (by decide)

end Sys2Proof.Machine
end

section
/-! PROOFS. What the shared events of the timers do: a trigger, an entry of the event log, and an expiry that comes when its time has passed
(R31, R397, R401, R438). -/

namespace Sys2Proof.Machine

open Sys2Proof.Claims

/-! ### The processors run -/

/-- A block that is alive runs its processors in the main domain. -/
theorem State.mainOn_of_alive {s : State} (h : Alive s) : s.mainOn = true := by
  obtain ⟨hp | hp, hr⟩ := h <;> simp [State.mainOn, hp, hr]

/-! ### Triggers (R31) -/

/-- A trigger changes the power state and what waits for Trim, and nothing else. -/
theorem State.wake_eq (s : State) :
    s.wake = { s with glob := { s.glob with power := s.wake.glob.power }, waking := s.wake.waking } := by
  unfold State.wake
  split
  · split <;> rfl
  · rfl

/-- With Trim there, a trigger leaves a block whose processors run in RUN. -/
theorem State.wake_trimUp {s : State} (h : s.mainOn = true) (ht : s.restarting .trim = false) :
    s.wake = { s with glob := { s.glob with power := .run } } := by
  unfold State.wake
  split
  · rw [ht]
    rfl
  · next hi =>
    have hp : s.glob.power = .run := by
      simp only [State.mainOn, Bool.and_eq_true, Bool.or_eq_true, beq_iff_eq] at h
      exact h.1.resolve_right hi
    rw [← hp]

/-- While Trim restarts, a trigger in IDLE waits for it. -/
theorem State.wake_trimDown {s : State} (h : s.glob.power = .idle) (ht : s.restarting .trim = true) :
    s.wake = { s with waking := { s.waking with waiting := true } } := by
  rw [State.wake, if_pos h, if_pos ht]

/-! ### The event log (R401, R404) -/

/-- While Masthead is there, logging changes the log and nothing else. -/
theorem State.logEntry_up {s : State} (h : s.restarting .masthead = false) (e : LogEnt) :
    s.logEntry e = { s with log := s.log.write (s.setup.hasStaging && s.glob.power != .pennant) e } := by
  rw [State.logEntry, if_neg (by rw [h]; decide)]

theorem State.logWith_up {s : State} (h : s.restarting .masthead = false) (code sev src mast : Nat) (func : Option Nat) (d : List Nat) :
    s.logWith code sev src mast func d = { s with log := (s.logWith code sev src mast func d).log } := by
  rw [State.logWith, State.logEntry_up h]

/-- The always-on store after a write: the newest entry is last, and the oldest leaves a full store. -/
theorem Log.always_write (l : Log) (p : Bool) (e : LogEnt) :
    (l.write p e).always = (l.always ++ [{ e with seq := l.next }]).drop (l.always.length + 1 - 16384) := by
  cases p <;> simp only [Log.write, Bool.false_eq_true, if_true, if_false]

/-- The newest entry stands last. -/
theorem Log.getLast?_write (l : Log) (p : Bool) (e : LogEnt) : (l.write p e).always.getLast? = some { e with seq := l.next } := by
  rw [Log.always_write, List.getLast?_drop, if_neg (by rw [List.length_append, List.length_singleton]; omega), List.getLast?_concat]

/-- What is logged while Masthead is there stands last in the log. -/
theorem State.logged_logWith {s : State} (h : s.restarting .masthead = false) (code sev src mast : Nat) (func : Option Nat) (d : List Nat) :
    Logged (s.logWith code sev src mast func d) code d := by
  rw [State.logWith, State.logEntry_up h]
  exact ⟨_, Log.getLast?_write _ _ _, rfl, rfl⟩

/-- A newest entry of the log is in it. -/
theorem logHolds_of_logged {s : State} {code : Nat} {d : List Nat} (h : Logged s code d) : LogHolds s code d := by
  obtain ⟨e, he, hc, hd⟩ := h
  exact ⟨e, List.mem_of_getLast? he, hc, hd⟩

/-- The entry before the newest one is in the log still. -/
theorem State.logHolds_logEntry {s : State} {code : Nat} {d : List Nat} (h : Logged s code d) (e : LogEnt) :
    LogHolds (s.logEntry e) code d := by
  cases hm : s.restarting .masthead with
  | true =>
    have ha : (s.logEntry e).log.always = s.log.always := by
      rw [State.logEntry, if_pos hm]
      split <;> rfl
    obtain ⟨x, hx, hc, hd⟩ := logHolds_of_logged h
    exact ⟨x, ha ▸ hx, hc, hd⟩
  | false =>
    obtain ⟨x, hx, hc, hd⟩ := h
    have hpos : 0 < s.log.always.length := List.length_pos_of_mem (List.mem_of_getLast? hx)
    refine ⟨x, ?_, hc, hd⟩
    rw [State.logEntry_up hm, Log.always_write, List.drop_append_of_le_length (by omega)]
    refine List.mem_append_left _ (List.mem_of_getLast? (?_ : _ = some x))
    rw [List.getLast?_drop, if_neg (by omega), hx]

/-! ### Expiries whose time has passed (R31, R438) -/

theorem State.expire_past {s : State} {t : Nat} (h : t ≤ s.pen.timer) : s.expire t = s := by
  exact if_neg (Nat.not_lt.mpr h)

/-- The state in which the Pennant timer has served a deadline that has passed. -/
def State.served (s : State) : State := { s with timerAt := s.pen.timer + 1 }.wake

theorem State.timerServe_past {s : State} {d : Nat} (hd : d ≤ s.pen.timer) (ht : s.timerAt ≤ s.pen.timer) : s.timerServe d = s.served := by
  rw [State.timerServe, State.expire_past (Nat.max_le.mpr ⟨hd, ht⟩)]
  rfl

/-- A service changes the timer, the power state and what waits for Trim. -/
theorem State.served_eq (s : State) : s.served =
    { s with timerAt := s.pen.timer + 1, glob := { s.glob with power := s.served.glob.power }, waking := s.served.waking } :=
  State.wake_eq { s with timerAt := s.pen.timer + 1 }

theorem State.served_frame (s : State) :
    s.served = { s with timerAt := s.pen.timer + 1, glob := s.served.glob, waking := s.served.waking } := by
  obtain ⟨p, w, h⟩ : ∃ p w, s.served = { s with timerAt := s.pen.timer + 1, glob := { s.glob with power := p }, waking := w } :=
    ⟨_, _, s.served_eq⟩
  rw [h]

theorem State.served_procs (s : State) : s.served.procs = s.procs := State.wake_procs _

theorem State.served_pen (s : State) : s.served.pen = s.pen := State.wake_pen _

/-- The state in which the Pennant timer has served a deadline that has passed, with the block in RUN. -/
def State.woken (s : State) : State := { s with timerAt := s.pen.timer + 1, glob := { s.glob with power := .run } }

theorem State.served_trimUp {s : State} (h : s.mainOn = true) (ht : s.restarting .trim = false) : s.served = s.woken :=
  State.wake_trimUp (s := { s with timerAt := s.pen.timer + 1 }) h ht

theorem State.served_trimDown {s : State} (h : s.glob.power = .idle) (ht : s.restarting .trim = true) :
    s.served = { s with timerAt := s.pen.timer + 1, waking := { s.waking with waiting := true } } :=
  State.wake_trimDown (s := { s with timerAt := s.pen.timer + 1 }) h ht

theorem State.served_power {s : State} (h : s.mainOn = true) (ht : s.restarting .trim = false) : s.served.glob.power = .run := by
  rw [State.served_trimUp h ht]
  rfl

/-! ### One AO tick (R35, R397) -/

/-- The always-on clocks after one tick with the supply up: 32,768 ticks are a second of life, which saturates. -/
theorem Pen.advance_one {p : Pen} (hp : p.powered = true) (hl : p.lifeTick < 32768) :
    (p.advance 1).timer = p.timer + 1 ∧ (p.advance 1).lifeTick = (p.lifeTick + 1) % 32768 ∧
    (p.advance 1).lifeS = (if p.lifeTick = 32767 then min (p.lifeS + 1) 0xFFFFFFFF else min p.lifeS 0xFFFFFFFF) ∧
    (p.advance 1).boot = p.boot := by
  rw [Pen.advance, if_pos hp]
  refine ⟨rfl, rfl, ?_, rfl⟩
  change min (p.lifeS + (p.lifeTick + 1) / 32768) 0xFFFFFFFF = _
  split
  · next h => rw [h]
  · next h => rw [Nat.div_eq_of_lt (by omega), Nat.add_zero]

/-- Settles O2: with no command waiting a step is `aoTick`, one tick of the always-on clocks and of what lane cycles count. -/
theorem idleStepIsTick : Obligations.IdleStepIsTick := by
  intro s hq hp hl
  obtain ⟨htimer, htick, hlife, hboot⟩ := Pen.advance_one hp hl
  obtain ⟨c, li, re, sh, fn, fr, lc, ht⟩ := State.ticks_eq 1 s
  refine ⟨s.ticks 1, ?_, ?_⟩
  · rw [step, hq]
    rfl
  · rw [ht]
    exact ⟨hq, htimer, htick, hlife, hboot, rfl, rfl, rfl, rfl, rfl, rfl⟩

end Sys2Proof.Machine
end

section
/-! PROOFS. The samples of the tie-offs (R36): set-up writes leave them as they are. -/

namespace Sys2Proof.Machine

open Sys2Proof.Claims

/-- The samples of the tie-offs of two set-ups agree. -/
def Setup.SameTieoffs (u v : Setup) : Prop := v.stagePresent = u.stagePresent ∧ v.stageSize = u.stageSize

theorem Setup.sameTieoffs_writeSensors (u : Setup) (off : Nat) (v : Word) : u.SameTieoffs (u.writeSensors off v) := by
  unfold Setup.writeSensors
  split_ifs <;> exact ⟨rfl, rfl⟩

/-- No set-up register holds the tie-offs. -/
theorem Setup.sameTieoffs_write (u : Setup) (off : Nat) (v : Word) : u.SameTieoffs (u.write off v) := by
  unfold Setup.write
  split_ifs
  · exact ⟨rfl, rfl⟩
  · unfold Setup.writeFab
    split_ifs <;> exact ⟨rfl, rfl⟩
  · unfold Setup.writeDrain
    split_ifs <;> exact ⟨rfl, rfl⟩
  · exact u.sameTieoffs_writeSensors off v
  · exact ⟨rfl, rfl⟩

theorem State.sameTieoffs_setupAfter (s : State) (off : Nat) (v : Word) : s.setup.SameTieoffs (s.setupAfter off v) := by
  unfold State.setupAfter
  split_ifs
  · exact s.setup.sameTieoffs_write off v
  · exact ⟨rfl, rfl⟩

/-- Only PORST_N moves the samples: its assertion, its supply, and the deassertion that takes them. -/
theorem State.sameTieoffs_setupBy (s : State) {c : Instr} (hp : assertsPorst c = false) (hd : ∀ p z l, c ≠ .porstDeassertion p z l) :
    s.setup.SameTieoffs (s.setupBy c) := by
  cases c
  case fabLock => exact s.sameTieoffs_setupAfter 0x1C 1
  case drainLock => exact s.sameTieoffs_setupAfter 0x1C 2
  case sensorLock => exact s.sameTieoffs_setupAfter 0x1C 4
  case registerWrite off v => exact s.sameTieoffs_setupAfter off v
  case porstAssertion => exact absurd hp (by decide)
  case alwaysOnSupplyLoss torn => exact Bool.noConfusion hp
  case porstDeassertion p z l => exact absurd rfl (hd p z l)
  all_goals exact ⟨rfl, rfl⟩

/-- Settles O7: the deassertion of PORST_N samples, and every other command's set-up is one that set-up writes give. -/
theorem tieoffsSampled : Obligations.TieoffsSampled := by
  intro s
  refine ⟨fun p z l hlow => ⟨_, rfl, ?_⟩, fun c t hp hd h => ?_⟩
  · change (s.sampled p z).stagePresent = p ∧ (s.sampled p z).stageSize = z
    rw [State.sampled, if_pos hlow]
    exact ⟨rfl, rfl⟩
  · obtain ⟨-, hsetup, -⟩ := exec_commit h
    rw [hsetup]
    exact s.sameTieoffs_setupBy hp hd

end Sys2Proof.Machine
end

section
/-! PROOFS. The pins (R65 to R68, R138, R392): what a preemption notice changes, and what an edge of each pin does. -/

namespace Sys2Proof.Machine

open Sys2Proof.Claims

/-! ### A preemption notice leaves the global registers alone -/

theorem State.queueTier1_glob (e i : Nat) (s : State) : (s.queueTier1 e i).glob = s.glob := by
  unfold State.queueTier1
  split
  · rfl
  · split <;> rfl

theorem State.startProvisional_glob (e i : Nat) (s : State) : (s.startProvisional e i).glob = s.glob := by
  unfold State.startProvisional
  split
  · rfl
  · split
    · rfl
    · exact State.queueTier1_glob e i _

theorem State.raiseOpen_glob (job : Nat) (s : State) : (s.raiseOpen job).glob = s.glob := by
  unfold State.raiseOpen
  split <;> rfl

theorem State.noticeJob_glob (job : Nat) (s : State) : (s.noticeJob job).glob = s.glob := by
  unfold State.noticeJob
  extract_lets cuts u cut v
  have hu : u.glob = s.glob := by
    unfold u
    split <;> rfl
  have hv : v.glob = u.glob := by
    unfold v
    cases cut <;> rfl
  split
  · exact hv.trans hu
  · next g _ =>
    have hw := (State.raiseOpen_glob job v).trans (hv.trans hu)
    split
    · exact hw
    · exact List.foldlRecOn _ _ (motive := fun t => t.glob = s.glob) hw
        fun t h i _ => (State.startProvisional_glob g.epoch i t).trans h

theorem State.noticeOf_glob (f job : Nat) (s : State) : (s.noticeOf f job).glob = s.glob := by
  unfold State.noticeOf
  split
  · rfl
  · split
    · rfl
    · exact State.noticeJob_glob job s

theorem State.pinNotice_glob (bit : Nat) (s : State) : (s.pinNotice bit).glob = s.wake.glob :=
  List.foldlRecOn (s.preempted bit) _ (motive := fun t => t.glob = s.wake.glob) rfl
    fun t h j _ => (State.noticeOf_glob j.1 j.2 t).trans h

/-! ### Notices of a block without generations (R138, R140) -/

/-- How a job takes a notice: its cut falls due, or waits for the accepted CUTs. -/
def State.heed (s : State) (job : Nat) (j : Job) : Job :=
  if (s.cutsPending job).isEmpty then { j with notice := true }
  else { j with noticeLate := (j.noticeLate ++ s.cutsPending job).eraseDups }

/-- Does a function take notices: it exists and is not FROZEN? -/
def State.heeds (s : State) (f : Nat) : Bool := (FMap.find s.fns f).any fun x => x.state != .frozen

/-- Without generations a notice changes its job, and nothing else. -/
theorem State.noticeOf_noGens {s : State} (h : s.gens = []) (f job : Nat) :
    s.noticeOf f job = { s with jobs := if s.heeds f then FMap.modify s.jobs job (s.heed job) else s.jobs } := by
  have hjob : s.noticeJob job = { s with jobs := FMap.modify s.jobs job (s.heed job) } := by
    have hheed : s.heed job = if (s.cutsPending job).isEmpty then fun j => { j with notice := true }
        else fun j => { j with noticeLate := (j.noticeLate ++ s.cutsPending job).eraseDups } := by
      funext j
      unfold State.heed
      split <;> rfl
    rw [hheed]
    cases hc : (s.cutsPending job).isEmpty <;> simp [State.noticeJob, State.modJob, State.gensOf, State.openGen, newest, h, hc]
  unfold State.noticeOf State.heeds
  cases hf : FMap.find s.fns f with
  | none => rfl
  | some x => cases hx : x.state <;> simp [hjob, hx]

/-- A job that has taken the notice once takes it, whatever it held before. -/
theorem noticed_heed {s t : State} {job : Nat} {j : Job} (h : FMap.find t.jobs job = some (s.heed job j)) : Noticed s t job := by
  refine ⟨_, h, fun hc => ?_, fun e he => ?_⟩
  · rw [State.heed, if_pos (by rw [hc]; rfl)]
  · rw [State.heed, if_neg (by rw [List.isEmpty_iff]; exact List.ne_nil_of_mem he)]
    exact List.mem_eraseDups.mpr (List.mem_append_right _ he)

/-- A job that is listed takes a notice that its function heeds. -/
theorem noticed_noticeOf {s : State} (hg : s.gens = []) {f job : Nat} {j : Job} (hj : FMap.find s.jobs job = some j)
    (hf : s.heeds f = true) : Noticed s (s.noticeOf f job) job := by
  refine noticed_heed (j := j) ?_
  rw [State.noticeOf_noGens hg, hf, if_pos rfl]
  exact (FMap.find_modify_self _ _ _).trans (congrArg _ hj)

/-- What a later notice finds of a job that is listed: as it was, or with the notice taken. -/
theorem find_noticeOf {s : State} (hg : s.gens = []) (f k : Nat) {job : Nat} {j : Job} (hj : FMap.find s.jobs job = some j) :
    FMap.find (s.noticeOf f k).jobs job = some j ∨ FMap.find (s.noticeOf f k).jobs job = some (s.heed job j) := by
  rw [State.noticeOf_noGens hg]
  cases s.heeds f with
  | false => exact .inl hj
  | true =>
    by_cases hk : job = k
    · subst hk
      exact .inr ((FMap.find_modify_self _ _ _).trans (congrArg _ hj))
    · exact .inl ((FMap.find_modify_ne _ _ hk).trans hj)

theorem noticed_noticeOf_of_noticed {s : State} (hg : s.gens = []) (f k : Nat) {job : Nat} (h : Noticed s s job) :
    Noticed s (s.noticeOf f k) job := by
  obtain ⟨j, hj, hn⟩ := h
  rcases find_noticeOf hg f k hj with h | h
  · exact ⟨j, h, hn⟩
  · exact noticed_heed h

/-- A pin's notices, one after another. -/
def State.noticeAll (s : State) (l : List (Nat × Nat)) : State := l.foldl (fun s j => s.noticeOf j.1 j.2) s

/-- Without generations notices change jobs only, a job that has taken the notice keeps it, and each that is named takes it. -/
theorem State.noticeAll_noGens (l : List (Nat × Nat)) : ∀ {s : State}, s.gens = [] →
    s.noticeAll l = { s with jobs := (s.noticeAll l).jobs } ∧
    (∀ job, Noticed s s job → Noticed s (s.noticeAll l) job) ∧
    ∀ f job j, (f, job) ∈ l → FMap.find s.jobs job = some j → s.heeds f = true → Noticed s (s.noticeAll l) job := by
  induction l with
  | nil => exact fun _ => ⟨rfl, fun _ h => h, fun _ _ _ hm => absurd hm List.not_mem_nil⟩
  | cons a l ih =>
    intro s hg
    have hstep := State.noticeOf_noGens hg a.1 a.2
    have hnext : s.noticeAll (a :: l) = (s.noticeOf a.1 a.2).noticeAll l := rfl
    have hcuts (t : State) (job : Nat) : Noticed (s.noticeOf a.1 a.2) t job ↔ Noticed s t job := by rw [hstep]; rfl
    obtain ⟨hjobs, hkeep, hnew⟩ := ih (s := s.noticeOf a.1 a.2) (by rw [hstep]; exact hg)
    have hkept (job : Nat) (h : Noticed s (s.noticeOf a.1 a.2) job) : Noticed s (s.noticeAll (a :: l)) job :=
      (hcuts _ job).mp (hkeep job ((hcuts _ job).mpr h))
    refine ⟨?_, fun job h => hkept job (noticed_noticeOf_of_noticed hg _ _ h), fun f job j hm hj hf => ?_⟩
    · rw [hnext, hjobs, hstep]
    · rcases List.mem_cons.mp hm with rfl | hm
      · exact hkept job (noticed_noticeOf hg hj hf)
      · rcases find_noticeOf hg a.1 a.2 hj with h | h
        · exact (hcuts _ job).mp (hnew f job _ hm h (by rw [hstep]; exact hf))
        · exact hkept job (noticed_heed h)

/-- An entry that is found is listed. -/
theorem FMap.mem_of_find {α : Type} {m : FMap α} {n : Nat} {a : α} (h : FMap.find m n = some a) : (n, a) ∈ m := by
  induction m with
  | nil => cases h
  | cons p m ih =>
    obtain ⟨k, v⟩ := p
    by_cases hk : k = n
    · rw [FMap.find, if_pos hk] at h
      rw [hk, Option.some.inj h]
      exact List.mem_cons_self
    · rw [FMap.find, if_neg hk] at h
      exact List.mem_cons_of_mem _ (ih h)

/-- Without generations every job that a pin's bit names takes the notice, FROZEN functions apart (R68, R138). -/
theorem State.takesNotice_pinNotice {s : State} (hg : s.gens = []) (bit : Nat) : TakesNotice s (s.pinNotice bit) bit := by
  obtain ⟨p, w, hwake⟩ : ∃ p w, s.wake = { s with glob := { s.glob with power := p }, waking := w } := ⟨_, _, s.wake_eq⟩
  have hall : s.pinNotice bit = s.wake.noticeAll (s.preempted bit) := rfl
  obtain ⟨hjobs, -, hnew⟩ := State.noticeAll_noGens (s.preempted bit) (s := s.wake) (by rw [hwake]; exact hg)
  rw [← hall] at hjobs hnew
  rw [hwake] at hjobs hnew
  refine ⟨fun job j x hj hb hx hfrozen => ?_, ?_⟩
  · have hm : (j.fn, job) ∈ s.preempted bit :=
      List.mem_map.mpr ⟨(job, j), List.mem_filter.mpr ⟨FMap.mem_of_find hj, hb⟩, rfl⟩
    exact hnew j.fn job j hm hj (by simp [State.heeds, hx, hfrozen])
  · rw [hjobs]

/-- With Trim there, a pin's notices leave a block whose processors run in RUN. -/
theorem State.pinNotice_power {s : State} (h : s.mainOn = true) (ht : s.restarting .trim = false) (bit : Nat) :
    (s.pinNotice bit).glob.power = .run := by
  rw [State.pinNotice_glob, State.wake_trimUp h ht]

/-- PREEMPT_N's fall before anything heeds it. -/
def State.preemptLow (s : State) : State := { s with glob := { s.glob with preemptHigh := false } }

theorem State.preemptPin_off {s : State} (h : s.mainOn = false) : s.preemptPin = s.preemptLow := by
  change (if s.mainOn then _ else _) = _
  rw [h]
  rfl

theorem State.preemptPin_on {s : State} (h : s.mainOn = true) : s.preemptPin = s.preemptLow.pinNotice 0 := by
  change (if s.mainOn then _ else _) = _
  rw [h]
  rfl

theorem preemptNotices (s : State) : ∃ t, Acts .preemptN s t ∧ t.glob.preemptHigh = false ∧
    (s.mainOn = false → t = { s with glob := { s.glob with preemptHigh := false } }) ∧
    (s.mainOn = true → s.gens = [] → (s.restarting .trim = false → t.glob.power = .run) ∧ TakesNotice s t 0) := by
  refine ⟨s.preemptPin, rfl, ?_, State.preemptPin_off, fun hon hg => ?_⟩
  · cases hon : s.mainOn with
    | false => rw [State.preemptPin_off hon]; rfl
    | true => rw [State.preemptPin_on hon, State.pinNotice_glob, State.wake_eq]; rfl
  · rw [State.preemptPin_on hon]
    exact ⟨fun ht => State.pinNotice_power (s := s.preemptLow) hon ht 0, State.takesNotice_pinNotice (s := s.preemptLow) hg 0⟩

/-! ### The SB lines (Table 2-10) -/

/-- The fall of an SB line before anything heeds it. -/
def State.sbLow (n : Nat) (s : State) : State := { s with glob := { s.glob with sbHigh := s.glob.sbHigh &&& ~~~(1#4 <<< n) } }

/-- What an SB line does where the main domain is on, by its use. -/
def State.sbUse (n : Nat) (s : State) : State :=
  match s.rigs.cur.sb.getD n 0 with
  | 1 => s.pinNotice (n + 1)
  | 3 => if s.tt.sampling then s.countEdge n else s
  | _ => s

theorem State.sbEdge_off {s : State} {n : Nat} (hn : n < 4) (h : s.mainOn = false) : s.sbEdge n = s.sbLow n := by
  rw [State.sbEdge, if_neg (Nat.not_le.mpr hn)]
  exact if_pos (show (!s.mainOn) = true by rw [h]; rfl)

theorem State.sbEdge_on {s : State} {n : Nat} (hn : n < 4) (h : s.mainOn = true) : s.sbEdge n = (s.sbLow n).sbUse n := by
  rw [State.sbEdge, if_neg (Nat.not_le.mpr hn)]
  exact if_neg (show ¬(!s.mainOn) = true by rw [h]; decide)

theorem State.sbUse_notice {s : State} {n : Nat} (h : s.rigs.cur.sb.getD n 0 = 1) : s.sbUse n = s.pinNotice (n + 1) := by
  rw [State.sbUse, h]
  rfl

theorem State.sbUse_count {s : State} {n : Nat} (h : s.rigs.cur.sb.getD n 0 = 3) (ht : s.tt.sampling = true) :
    s.sbUse n = s.countEdge n := by
  rw [State.sbUse, h]
  exact if_pos ht

theorem State.sbUse_unassigned {s : State} {n : Nat} (h : s.rigs.cur.sb.getD n 0 = 0) : s.sbUse n = s := by
  rw [State.sbUse, h]
  rfl

theorem State.sbUse_sbHigh (n : Nat) (s : State) : (s.sbUse n).glob.sbHigh = s.glob.sbHigh := by
  unfold State.sbUse
  split
  · rw [State.pinNotice_glob, State.wake_eq]
  · split <;> rfl
  · rfl

/-- A count that is set to no zero reads as it was set. -/
theorem NMap.get_set_pos (m : FMap Nat) (k : Nat) {v : Nat} (h : v ≠ 0) : NMap.get (NMap.set m k v) k = v := by
  rw [NMap.set, if_neg h, NMap.get, FMap.getD, FMap.find_put_self]
  rfl

theorem sbFallingEdges (s : State) (n : Nat) (hn : n < 4) : ∃ t, Acts (.sbFallingEdge n) s t ∧
    t.glob.sbHigh = s.glob.sbHigh &&& ~~~(1#4 <<< n) ∧
    (s.mainOn = true → s.rigs.cur.sb.getD n 0 = 1 → s.gens = [] →
      (s.restarting .trim = false → t.glob.power = .run) ∧ TakesNotice s t (n + 1)) ∧
    (s.mainOn = true → s.rigs.cur.sb.getD n 0 = 3 → s.tt.sampling = true →
      NMap.get t.tt.edges n = min (NMap.get s.tt.edges n + 1) 65535 ∧ t.cleats = s.cleats ∧ t.accepted = s.accepted) ∧
    (s.mainOn = false ∨ s.rigs.cur.sb.getD n 0 = 0 →
      t = { s with glob := { s.glob with sbHigh := s.glob.sbHigh &&& ~~~(1#4 <<< n) } }) := by
  refine ⟨s.sbEdge n, rfl, ?_, fun hon hu hg => ?_, fun hon hu ht => ?_, fun h => ?_⟩
  · cases hon : s.mainOn with
    | false => rw [State.sbEdge_off hn hon]; rfl
    | true => rw [State.sbEdge_on hn hon, State.sbUse_sbHigh]; rfl
  · rw [State.sbEdge_on hn hon, State.sbUse_notice (s := s.sbLow n) hu]
    exact ⟨fun ht => State.pinNotice_power (s := s.sbLow n) hon ht _, State.takesNotice_pinNotice (s := s.sbLow n) hg (n + 1)⟩
  · rw [State.sbEdge_on hn hon, State.sbUse_count (s := s.sbLow n) hu ht]
    exact ⟨NMap.get_set_pos _ _ (by omega), rfl, rfl⟩
  · cases hon : s.mainOn with
    | false => exact State.sbEdge_off hn hon
    | true =>
      have hu : s.rigs.cur.sb.getD n 0 = 0 := h.resolve_left (by rw [hon]; decide)
      exact (State.sbEdge_on hn hon).trans (State.sbUse_unassigned (s := s.sbLow n) hu)

/-! ### PMB_ALERT_N (R65, R392) -/

/-- PMB_ALERT_N's fall before anything heeds it. -/
def State.pmbLow (s : State) : State := { s with glob := { s.glob with pmbHigh := false } }

theorem State.pmbAlert_off {s : State} (h : s.mainOn = false) (u : Bool) : s.pmbAlert u = s.pmbLow :=
  if_pos (show (!s.mainOn) = true by rw [h]; rfl)

theorem State.pmbAlert_down {s : State} (h : s.mainOn = true) (hm : s.restarting .masthead = true) (u : Bool) :
    s.pmbAlert u = { s.pmbLow with procs := { s.procs with alert := some (u || s.procs.alert.getD false) } } :=
  (if_neg (show ¬(!s.mainOn) = true by rw [h]; decide)).trans (if_pos hm)

theorem State.pmbAlert_up {s : State} (h : s.mainOn = true) (hm : s.restarting .masthead = false) (u : Bool) :
    s.pmbAlert u = s.pmbLow.serveAlert u :=
  (if_neg (show ¬(!s.mainOn) = true by rw [h]; decide)).trans (if_neg (show ¬s.restarting .masthead = true by rw [hm]; decide))

/-- A droop counts once, and is logged with the last reading while Masthead is there. -/
theorem State.droop_up {s : State} (hm : s.restarting .masthead = false) :
    s.droop = { s with ctr := s.droop.ctr, log := s.droop.log } ∧ CountedOnce s s.droop (ctrId 0 0 2) ∧
    Logged s.droop 0x0703 [readingWord (s.sensor 24).reading] := by
  have hup : (s.bump (ctrId 0 0 2)).restarting .masthead = false := hm
  have hdroop : s.droop = { s.bump (ctrId 0 0 2) with log := s.droop.log } := State.logWith_up hup _ _ _ _ _ _
  have hctr : s.droop.ctr = s.ctr.add (ctrId 0 0 2) 1 := by
    rw [hdroop]
    rfl
  refine ⟨?_, fun hv => ?_, State.logged_logWith hup _ _ _ _ _ _⟩
  · rw [hctr]
    exact hdroop
  · have hclass : ctrClass (ctrId 0 0 2) = some .event := by decide
    rw [hctr]
    simp only [Counters.value, Counters.add, hclass]
    rw [NMap.get_set_pos _ _ (by omega)]
    exact Nat.min_eq_left hv

theorem pmbAlerts (s : State) (u : Bool) : ∃ t, Acts (.pmbAlertN u) s t ∧ t.glob.pmbHigh = false ∧
    (s.mainOn = false → t = { s with glob := { s.glob with pmbHigh := false } }) ∧
    (s.mainOn = true → s.restarting .masthead = true →
      t = { s with glob := { s.glob with pmbHigh := false }, procs := { s.procs with alert := some (u || s.procs.alert.getD false) } }) ∧
    (s.mainOn = true → s.restarting .masthead = false →
      (u = true → s.setup.declared 24 = true → s.droopLimits.1 ≤ (s.sensor 24).reading.toInt →
        t = { s with glob := { s.glob with pmbHigh := false }, droopArmed := false, ctr := t.ctr, log := t.log } ∧
        CountedOnce s t (ctrId 0 0 2) ∧ Logged t 0x0703 [readingWord (s.sensor 24).reading]) ∧
      (u = false ∨ s.setup.declared 24 = false ∨ (s.sensor 24).reading.toInt < s.droopLimits.1 →
        t = { s with glob := { s.glob with pmbHigh := false } })) := by
  have hserve (h : u = true ∧ s.setup.declared 24 = true ∧ s.droopLimits.1 ≤ (s.sensor 24).reading.toInt) :
      s.pmbLow.serveAlert u = { s.pmbLow with droopArmed := false }.droop := by
    obtain ⟨hu, hd, hl⟩ := h
    exact if_pos (show (u && s.setup.declared 24 && decide (s.droopLimits.1 ≤ (s.sensor 24).reading.toInt)) = true by simp [hu, hd, hl])
  have hnot (h : ¬(u = true ∧ s.setup.declared 24 = true ∧ s.droopLimits.1 ≤ (s.sensor 24).reading.toInt)) :
      s.pmbLow.serveAlert u = s.pmbLow :=
    if_neg (show ¬(u && s.setup.declared 24 && decide (s.droopLimits.1 ≤ (s.sensor 24).reading.toInt)) = true by
      simpa [and_assoc] using h)
  refine ⟨s.pmbAlert u, rfl, ?_, fun hon => State.pmbAlert_off hon u, fun hon hm => State.pmbAlert_down hon hm u,
    fun hon hm => ⟨fun hu hd hl => ?_, fun h => ?_⟩⟩
  · cases hon : s.mainOn with
    | false => rw [State.pmbAlert_off hon]; rfl
    | true =>
      cases hm : s.restarting .masthead with
      | true => rw [State.pmbAlert_down hon hm]; rfl
      | false =>
        rw [State.pmbAlert_up hon hm]
        by_cases h : u = true ∧ s.setup.declared 24 = true ∧ s.droopLimits.1 ≤ (s.sensor 24).reading.toInt
        · rw [hserve h, State.droop, State.logEvent_glob]
          rfl
        · rw [hnot h]
          rfl
  · rw [State.pmbAlert_up hon hm, hserve ⟨hu, hd, hl⟩]
    exact State.droop_up (s := { s.pmbLow with droopArmed := false }) hm
  · rw [State.pmbAlert_up hon hm]
    exact hnot fun ⟨hu, hd, hl⟩ => by
      rcases h with h | h | h
      · exact absurd hu (by rw [h]; decide)
      · exact absurd hd (by rw [h]; decide)
      · omega

/-- Settles O13, pin by pin. -/
theorem pins : Obligations.Pins := fun s => ⟨preemptNotices s, sbFallingEdges s, pmbAlerts s⟩

end Sys2Proof.Machine
end

section
/-! PROOFS. A Telltale sample (R395, R396): what it computes, when the next is due, and what it logs. -/

namespace Sys2Proof.Machine

open Sys2Proof.Claims

/-! ### The schedule of samples (R396) -/

/-- The next sample is later than the tick before the one from which it is sought. -/
theorem Telltale.lt_nextAfter (t : Telltale) (now : Nat) : now < t.nextAfter (now + 1) := by
  unfold Telltale.nextAfter
  split
  · assumption
  · have hdiv := Nat.lt_div_mul_add (a := now + 1 - t.next + samplePeriod - 1) (b := samplePeriod) (by decide)
    omega

theorem Telltale.nextAfter_coming {t : Telltale} {now : Nat} (h : now < t.next) : t.nextAfter (now + 1) = t.next := if_pos h

/-! ### One sample -/

/-- The sample that the timer's expiry brings: the risk, the time of the next, and the new bases. -/
def State.takeSample (s : State) : State :=
  { s with tt := { s.risk with next := { s.tt with next := s.tt.next + samplePeriod }.nextAfter (s.now + 1) } }.rebase

/-- A change of the level is logged. -/
def State.logLevel (old : Nat) (s : State) : State := if s.tt.level = old then s else s.logEvent 0x0704 [old, s.tt.level, s.tt.held]

theorem State.sample_due {s : State} (ha : Alive s) (hm : s.restarting .masthead = false) (hs : s.tt.sampling = true)
    (hd : s.tt.next ≤ s.pen.timer) (ht : s.timerAt ≤ s.pen.timer) (hturn : s.timerTurn 2 s.tt.next = true) :
    s.sample = (s.served.takeSample.logLevel s.served.tt.level).testIntervals := by
  have hgo : ¬(!s.tt.sampling || !s.sensing || !s.timerTurn 2 s.tt.next) = true := by
    simp [hs, State.sensing, State.mainOn_of_alive ha, hm, hturn]
  rw [State.sample, if_neg hgo, State.timerServe_past hd ht]
  rfl

/-- Where nothing samples, or another claimant comes first, an expiry does nothing. -/
theorem State.sample_idle {s : State} (h : s.tt.sampling = false ∨ s.timerTurn 2 s.tt.next = false) : s.sample = s :=
  if_pos (by rcases h with h | h <;> simp [h])

theorem State.logLevel_log {s : State} {old : Nat} (h : s.tt.level = old) : s.logLevel old = s := if_pos h

theorem State.logged_logLevel {s : State} (hm : s.restarting .masthead = false) {old : Nat} (h : s.tt.level ≠ old) :
    Logged (s.logLevel old) 0x0704 [old, s.tt.level, s.tt.held] := by
  rw [State.logLevel, if_neg h]
  exact State.logged_logWith hm _ _ _ _ _ _

/-- Logging the level changes the log, and nothing else. -/
theorem State.logLevel_eq {s : State} (hm : s.restarting .masthead = false) (old : Nat) :
    s.logLevel old = { s with log := (s.logLevel old).log } := by
  by_cases h : s.tt.level = old
  · rw [State.logLevel_log h]
  · rw [State.logLevel, if_neg h]
    exact State.logWith_up hm _ _ _ _ _ _

/-- Settles O18: a sample that is due is `takeSample` on what the timer's service leaves, with a change of the level logged. -/
theorem telltaleSamples : Obligations.TelltaleSamples := by
  intro s ha hm
  refine ⟨fun hs hd ht hturn => ⟨s.sample, rfl, ?_⟩, fun h => ?_⟩
  · obtain ⟨p, w, hserved⟩ : ∃ p w, s.served =
        { s with timerAt := s.pen.timer + 1, glob := { s.glob with power := p }, waking := w } := ⟨_, _, s.served_eq⟩
    have hpower (h : s.restarting .trim = false) : p = .run :=
      (congrArg (fun u : State => u.glob.power) hserved).symm.trans (State.served_power (State.mainOn_of_alive ha) h)
    rw [State.sample_due ha hm hs hd ht hturn, hserved]
    generalize hu : ({ s with timerAt := s.pen.timer + 1, glob := { s.glob with power := p }, waking := w } : State).takeSample = u
    have hum : u.restarting .masthead = false := by rw [← hu]; exact hm
    have hlog := u.logLevel_eq hum s.tt.level
    have hlogged := u.logged_logLevel hum (old := s.tt.level)
    have hsame (h : u.tt.level = s.tt.level) : (u.logLevel s.tt.level).log = u.log := congrArg State.log (State.logLevel_log h)
    generalize u.logLevel s.tt.level = v at hlog hlogged hsame ⊢
    subst hu
    rw [hlog]
    exact ⟨rfl, rfl, rfl, rfl, hsame, hlogged, fun h => Telltale.nextAfter_coming h,
      Telltale.lt_nextAfter _ _, rfl, rfl, hpower⟩
  · have he : Expires .telltaleSample s s.sample := rfl
    rwa [State.sample_idle h] at he

end Sys2Proof.Machine
end

section
/-! PROOFS. Expiries of function heartbeats, coalescing timers and Mainstay's pairing (R31, R85, R348, R375, R431). The clock may come to
the deadline first, so what the ticks leave of the functions is said once. -/

namespace Sys2Proof.Machine

open Sys2Proof.Claims

/-! ### What the passing of time leaves of the functions -/

/-- Two function tables differ in the token buckets at most. -/
def SameButBuckets (m n : FMap Fn) : Prop :=
  ∃ b : Nat → Fn → Int, ∀ f, FMap.find n f = (FMap.find m f).map fun x => { x with bucket := b f x }

theorem SameButBuckets.refl (m : FMap Fn) : SameButBuckets m m :=
  ⟨fun _ x => x.bucket, fun _ => Option.map_id'.symm⟩

/-- A regulator's gain changes no other field of a function. -/
theorem SameButBuckets.mapV (m : FMap Fn) (g : Nat → Fn → Fn) (h : ∀ f x, ∃ b, g f x = { x with bucket := b }) :
    SameButBuckets m (FMap.mapV m g) := by
  refine ⟨fun f x => (g f x).bucket, fun f => ?_⟩
  have hg : g f = fun x => { x with bucket := (g f x).bucket } := by
    funext x
    obtain ⟨b, hb⟩ := h f x
    rw [hb]
  rw [FMap.find_mapV, hg]

theorem State.foldl_count_fns {α : Type} (l : List α) (id : State → α → Nat) (n : Nat) (s : State) :
    (l.foldl (fun s a => s.count (id s a) n) s).fns = s.fns := by
  obtain ⟨c, hc⟩ := State.foldl_count' l id n s
  rw [hc]

theorem State.laneCycles_fns (n : Nat) (s : State) : SameButBuckets s.fns (s.laneCycles n).fns := by
  unfold State.laneCycles
  extract_lets c u v w z
  have hv : v.fns = s.fns := State.foldl_count_fns _ (fun _ i => i) n u
  have hw : w.fns = v.fns := State.foldl_count_fns _ _ n v
  have hz : z.fns = w.fns := State.foldl_count_fns _ _ n w
  rw [← hv, ← hw, ← hz]
  clear_value z
  dsimp only
  refine SameButBuckets.mapV z.fns _ fun f x => ?_
  split_ifs
  · exact ⟨x.bucket, rfl⟩
  · exact ⟨_, rfl⟩

theorem State.ticks_fns (n : Nat) (s : State) : SameButBuckets s.fns (s.ticks n).fns := by
  unfold State.ticks
  extract_lets u k v
  split_ifs
  · obtain ⟨c, l, h⟩ := State.openCounts_eq k u
    have hu : (u.openCounts k).fns = s.fns := by rw [h]
    have hv : SameButBuckets (u.openCounts k).fns v.fns := State.laneCycles_fns k _
    rw [hu] at hv
    clear_value v
    exact hv
  · exact .refl s.fns

theorem State.expire_fns (t : Nat) (s : State) : SameButBuckets s.fns (s.expire t).fns := by
  unfold State.expire
  split_ifs
  · exact s.ticks_fns _
  · exact .refl s.fns

/-- What an expiry changes, where the clock has to come to it first. -/
theorem State.expire_eq (t : Nat) (s : State) : ∃ p c li re sh fn fr lc, s.expire t =
    { s with pen := p, free := fr, ctr := c, links := li, restores := re, laneCycle := lc, sheets := sh, fns := fn } := by
  unfold State.expire
  split_ifs
  · exact ⟨_, State.ticks_eq _ s⟩
  · exact ⟨_, _, _, _, _, _, _, _, rfl⟩

/-- The time that passes moves no PASID. -/
theorem State.pasidOf_expire (t : Nat) (s : State) (f : Nat) : (s.expire t).pasidOf f = s.pasidOf f := by
  obtain ⟨p, c, li, re, sh, fn, fr, lc, h⟩ := s.expire_eq t
  obtain ⟨b, hb⟩ := s.expire_fns t
  have hglob : (s.expire t).glob = s.glob := by rw [h]
  unfold State.pasidOf
  rw [hglob, hb, Option.map_map]
  rfl

/-! ### Triggers in IDLE -/

/-- With Trim there, a trigger in IDLE takes the block to RUN. -/
theorem State.wake_idle {s : State} (h : s.glob.power = .idle) (ht : s.restarting .trim = false) :
    s.wake = { s with glob := { s.glob with power := .run } } := by
  rw [State.wake, if_pos h, ht]
  rfl

theorem State.wake_awake {s : State} (h : s.glob.power ≠ .idle) : s.wake = s := if_neg h

/-! ### Heartbeats (R348, R375) -/

/-- A heartbeat that is missed now. -/
def State.missBeat (f : Nat) (s : State) : State := if s.namedNow f then s.modFn f fun x => { x with missed := true } else s.orphan f

theorem State.heartbeatMiss_due {s : State} {f : Nat} {x : Fn} (hf : FMap.find s.fns f = some x) (ha : x.state = .active)
    (hb : s.hbTicks f ≠ 0) (ht : s.timerTurn 4 (x.beat + s.hbTicks f) = true) :
    s.heartbeatMiss f = (s.timerServe (x.beat + s.hbTicks f)).missBeat f := by
  unfold State.heartbeatMiss
  simp only [hf, hb, ha, ht]
  rfl

/-- Where no heartbeat counts for the function, or another claimant comes first, nothing happens. -/
theorem State.heartbeatMiss_idle {s : State} {f : Nat} {x : Fn} (hf : FMap.find s.fns f = some x)
    (h : x.state ≠ .active ∨ s.hbTicks f = 0 ∨ s.timerTurn 4 (x.beat + s.hbTicks f) = false) : s.heartbeatMiss f = s := by
  unfold State.heartbeatMiss
  rw [hf]
  simp only
  rcases h with h | h | h
  · exact if_pos (by simp [h])
  · exact if_pos (by simp [h])
  · rw [h]
    split <;> rfl

/-- A service of the timer changes what an expiry and a trigger change. -/
theorem State.timerServe_eq (d : Nat) (s : State) : ∃ p c li re sh fn fr lc ti po w, s.timerServe d =
    { s with pen := p, free := fr, ctr := c, links := li, restores := re, laneCycle := lc, sheets := sh, fns := fn, timerAt := ti,
             glob := { s.glob with power := po }, waking := w } := by
  obtain ⟨p, c, li, re, sh, fn, fr, lc, h⟩ := s.expire_eq (max d s.timerAt)
  rw [State.timerServe, h]
  exact ⟨p, c, li, re, sh, fn, fr, lc, _, _, _, State.wake_eq _⟩

theorem State.timerServe_fns (d : Nat) (s : State) : SameButBuckets s.fns (s.timerServe d).fns := by
  rw [State.timerServe, State.wake_fns]
  exact s.expire_fns _

theorem State.timerServe_power {s : State} (h : s.glob.power = .idle) (ht : s.restarting .trim = false) (d : Nat) :
    (s.timerServe d).glob.power = .run := by
  obtain ⟨p, c, li, re, sh, fn, fr, lc, he⟩ := s.expire_eq (max d s.timerAt)
  have hidle : (s.expire (max d s.timerAt)).glob.power = .idle := by rw [he]; exact h
  have htrim : (s.expire (max d s.timerAt)).restarting .trim = false := by rw [he]; exact ht
  rw [State.timerServe]
  exact congrArg (fun t : State => t.glob.power)
    (State.wake_idle (s := { s.expire (max d s.timerAt) with timerAt := (s.expire (max d s.timerAt)).now + 1 }) hidle htrim)

/-- A function that is found is ORPHANED, and its report starts (R349). -/
theorem State.orphan_fns {s : State} {f : Nat} {x : Fn} (h : FMap.find s.fns f = some x) : ∃ y, FMap.find (s.orphan f).fns f = some y ∧
    y.state = .orphaned ∧ y.orphan.orphaned = true := by
  refine ⟨{ x with state := .orphaned, missed := false, orphan := { orphaned := true, life := s.pen.lifeS, boot := s.pen.boot } },
    ?_, rfl, rfl⟩
  unfold State.orphan
  rw [State.logFn_fns]
  exact (FMap.find_modify_self _ _ _).trans (congrArg _ h)

theorem State.orphan_frame (f : Nat) (s : State) : (s.orphan f).sqs = s.sqs ∧ (s.orphan f).accepted = s.accepted ∧
    (s.orphan f).cleats = s.cleats ∧ (s.orphan f).glob = s.glob := by
  unfold State.orphan
  simp

/-- R31, R348, R375: heartbeats that are missed. -/
theorem heartbeatMisses : Claims.HeartbeatMisses := by
  intro s f x hf
  have hserved (d : Nat) : ∃ b, FMap.find (s.timerServe d).fns f = some { x with bucket := b } := by
    obtain ⟨b, hb⟩ := s.timerServe_fns d
    exact ⟨b f x, by rw [hb, hf]; rfl⟩
  have hnamed (d : Nat) : (s.timerServe d).namedNow f = s.namedNow f := by
    obtain ⟨_, _, _, _, _, _, _, _, _, _, _, h⟩ := s.timerServe_eq d
    rw [h]
    rfl
  refine ⟨fun ha hb ht hn => ?_, fun ha hb ht hn => ?_, fun h => ?_⟩
  · obtain ⟨b, hfound⟩ := hserved (x.beat + s.hbTicks f)
    obtain ⟨y, hy, hstate, hreport⟩ := State.orphan_fns hfound
    obtain ⟨hsqs, hacc, hcleats, hglob⟩ := State.orphan_frame f (s.timerServe (x.beat + s.hbTicks f))
    have hmiss : s.heartbeatMiss f = (s.timerServe (x.beat + s.hbTicks f)).orphan f := by
      rw [State.heartbeatMiss_due hf ha hb ht, State.missBeat, hnamed, hn]
      rfl
    obtain ⟨_, _, _, _, _, _, _, _, _, _, _, h⟩ := s.timerServe_eq (x.beat + s.hbTicks f)
    refine ⟨_, y, rfl, ?_⟩
    rw [hmiss, hsqs, hacc, hcleats, hglob]
    exact ⟨hy, hstate, hreport, by rw [h], by rw [h], by rw [h], fun hi hr => State.timerServe_power hi hr _⟩
  · obtain ⟨b, hfound⟩ := hserved (x.beat + s.hbTicks f)
    refine ⟨_, { x with bucket := b, missed := true }, rfl, ?_, ha, rfl⟩
    rw [State.heartbeatMiss_due hf ha hb ht, State.missBeat, hnamed, hn]
    exact (FMap.find_modify_self _ _ _).trans (congrArg _ hfound)
  · have he : Expires (.heartbeatMiss f) s (s.heartbeatMiss f) := rfl
    rwa [State.heartbeatMiss_idle hf h] at he

/-! ### Coalescing timers (R85) -/

theorem State.coalExpiry_due {s : State} {q t0 : Nat} {r : Cq} (hq : FMap.find s.cqs q = some r) (ht : r.firstUnsig = some t0)
    (hc : r.coalTicks ≠ 0) (hi : r.intAddr ≠ 0) :
    s.coalExpiry q = (s.expire (t0 + r.coalTicks)).timerWakes (State.interrupt q) := by
  unfold State.coalExpiry
  simp [hq, ht, hc, hi]

theorem State.coalExpiry_idle {s : State} {q : Nat} {r : Cq} (hq : FMap.find s.cqs q = some r)
    (h : r.firstUnsig = none ∨ r.coalTicks = 0 ∨ r.intAddr = 0) : s.coalExpiry q = s := by
  unfold State.coalExpiry
  simp only [hq]
  split
  · rfl
  · next t ht => exact if_pos (by simpa [ht] using h)

/-- An interrupt of a ring with an address is one host write, and the ring has nothing unsignalled (R85). -/
theorem State.interrupt_eq {s : State} {q : Nat} {r : Cq} (hq : FMap.find s.cqs q = some r) (hi : r.intAddr ≠ 0) :
    s.interrupt q = ({ s with cqs := FMap.put s.cqs q { r with unsig := 0, firstUnsig := none } } : State).hostWrite
      r.fn r.intAddr (toLe 4 r.intData) (.interrupt q) := by
  unfold State.interrupt
  rw [hq]
  exact if_neg hi

/-- The passing of time issues nothing, and leaves rings, entries, the power state and the processors alone. -/
theorem State.expire_rings (t : Nat) (s : State) : (s.expire t).cqs = s.cqs ∧ (s.expire t).issued = s.issued ∧
    (s.expire t).accepted = s.accepted ∧ (s.expire t).nextId = s.nextId ∧ (s.expire t).glob.power = s.glob.power ∧
    ∀ p, (s.expire t).restarting p = s.restarting p := by
  obtain ⟨_, _, _, _, _, _, _, _, h⟩ := s.expire_eq t
  rw [h]
  exact ⟨rfl, rfl, rfl, rfl, rfl, fun _ => rfl⟩

/-- A trigger that nothing holds back leaves the block out of IDLE. -/
theorem State.wake_leavesIdle {s : State} (h : s.glob.power = .idle → s.restarting .trim = false) :
    ∃ p, (s.glob.power = .idle → p = .run) ∧ p ≠ .idle ∧ s.wake = { s with glob := { s.glob with power := p } } := by
  by_cases hi : s.glob.power = .idle
  · exact ⟨.run, fun _ => rfl, by decide, State.wake_idle hi (h hi)⟩
  · exact ⟨s.glob.power, fun h => absurd h hi, hi, State.wake_awake hi⟩

/-- R31, R85: coalescing times that have passed. -/
theorem coalescingExpires : Claims.CoalescingExpires := by
  intro s q r hq
  refine ⟨fun t0 ht hc hi => ?_, fun h => ?_⟩
  · have hdue := State.coalExpiry_due hq ht hc hi
    obtain ⟨hcq, hfields⟩ := State.expire_rings (t0 + r.coalTicks) s
    have hpasid := State.pasidOf_expire (t0 + r.coalTicks) s r.fn
    generalize s.expire (t0 + r.coalTicks) = u at hdue hfields hpasid hcq
    obtain ⟨hissued, hacc, hnext, hpower, htrim⟩ := hfields
    refine ⟨fun htrimUp => ?_, fun hidle hdown => ?_⟩
    · obtain ⟨p, hrun, hp, hwake⟩ := State.wake_leavesIdle (s := u) (by rw [hpower, htrim]; exact htrimUp)
      have hk : s.coalExpiry q = ({ u with glob := { u.glob with power := p } } : State).interrupt q := by
        rw [hdue, State.timerWakes, hwake]
        exact if_neg hp
      rw [State.interrupt_eq (r := r) (by rw [← hq, ← hcq]) hi] at hk
      refine ⟨_, rfl, ?_⟩
      rw [hk, ← hpasid, ← hissued, ← hnext, ← hacc, ← hpower]
      exact ⟨rfl, FMap.find_put_self _ _ _, rfl, hrun⟩
    · refine ⟨_, rfl, ?_⟩
      have hwait : u.wake = { u with waking := { u.waking with waiting := true } } :=
        State.wake_trimDown (hpower.trans hidle) ((htrim _).trans hdown)
      rw [hdue, State.timerWakes, hwait, if_pos (hpower.trans hidle)]
      exact ⟨hissued, hcq ▸ hq, rfl⟩
  · have he : Expires (.coalTicksExpiry q) s (s.coalExpiry q) := rfl
    rwa [State.coalExpiry_idle hq h] at he

/-! ### Mainstay unpaired (R431) -/

/-- Without generations the block's halt concerns the queues and the functions, and sets its fault bit. -/
theorem State.haltBlock_glob {s : State} (h : s.gens = []) (bit : Nat) :
    (s.haltBlock bit).glob = { s.glob with halted := true, fault := s.glob.fault ||| (1#16 <<< bit) } := by
  unfold State.haltBlock
  simp only [h, List.flatMap_nil, List.foldl_nil, List.filter_nil]
  rfl

/-- R431: Mainstay unpaired for more than 50 ms. -/
theorem unpaired : Claims.Unpaired := by
  intro s t0 hsince hg hlate
  have hpast : s.unpairedLong = s.safetyEvent := by
    unfold State.unpairedLong
    rw [hsince]
    exact congrArg State.safetyEvent (State.expire_past hlate)
  have he : Expires .mainstayUnpairedTimeout s s.unpairedLong := rfl
  rw [hpast, State.safetyEvent, State.safeStop] at he
  refine ⟨fun hsafe => ⟨s.haltBlock 13, ?_, ?_⟩, fun hsafe => ?_⟩
  · rwa [hsafe] at he
  · rw [Raises, State.haltBlock_glob hg]
    exact ⟨rfl, rfl⟩
  · rwa [if_neg (by simpa using hsafe)] at he

/-- Settles O46, expiry by expiry. -/
theorem otherTimeouts : Obligations.OtherTimeouts := ⟨heartbeatMisses, coalescingExpires, unpaired⟩

end Sys2Proof.Machine
end

section
/-! PROOFS. Transfers on their lanes (R19, R123, R124, R167, R377): what a dispatch changes of the transfer, and that issuing requests
changes none but what a write makes stale. -/

namespace Sys2Proof.Machine

open Sys2Proof.Claims

/-! ### Requests and counts leave the transfers alone -/

/-- Steps that leave the transfers alone do so one after another. -/
theorem foldl_xfers {α : Type} (l : List α) {f : State → α → State} (h : ∀ t a, (f t a).xfers = t.xfers) (s : State) :
    (l.foldl f s).xfers = s.xfers :=
  List.foldlRecOn l f (motive := fun t => t.xfers = s.xfers) rfl fun t ht a _ => (h t a).trans ht

@[simp] theorem State.sendAt_xfers (port : Nat) (p : Pkt) (payload : List PByte) (s : State) : (s.sendAt port p payload).xfers = s.xfers := by
  unfold State.sendAt
  split_ifs <;> rfl

theorem State.takeFlip_xfers (target unit : Nat) (s : State) : (s.takeFlip target unit).2.xfers = s.xfers := by
  unfold State.takeFlip
  extract_lets v
  split_ifs <;> rfl

/-- Where no flip is armed, none is taken. -/
theorem State.takeFlip_none {s : State} (h : s.glob.eccFlip = 0) (target unit : Nat) : s.takeFlip target unit = (none, s) := by
  unfold State.takeFlip
  rw [h]
  exact if_neg (by simp [show bitOf 0 31 = false by decide])

theorem State.fabRead_xfers (fn x i port a off len : Nat) (s : State) : (s.fabRead fn x i port a off len).xfers = s.xfers :=
  State.sendAt_xfers _ _ _ _

theorem State.fabWrite_xfers (fn x i port a off : Nat) (bs : List PByte) (sig : Option (Nat × Nat)) (s : State) :
    (s.fabWrite fn x i port a off bs sig).xfers = s.xfers :=
  foldl_xfers (spans bs.length 512) (fun _ _ => State.sendAt_xfers _ _ _ _) _

theorem State.stgWrite_xfers (x i rel off : Nat) (bs : List PByte) (s : State) : (s.stgWrite x i rel off bs).xfers = s.xfers :=
  State.takeFlip_xfers 2 _ s

theorem State.stgRead_xfers (x i rel off : Nat) (rmw : Bool) (s : State) : (s.stgRead x i rel off rmw).xfers = s.xfers := rfl

theorem State.hostData_xfers (pasid a x i off len : Nat) (bs : Option (List Byte)) (s : State) :
    (s.hostData pasid a x i off len bs).xfers = s.xfers := rfl

theorem State.readPart_xfers (x : Xfer) (i port : Nat) (p : Part) (s : State) : (s.readPart x i port p).xfers = s.xfers := by
  unfold State.readPart
  split
  · exact foldl_xfers _ (fun _ _ => State.fabRead_xfers _ _ _ _ _ _ _ _) s
  · exact foldl_xfers _ (fun _ _ => State.stgRead_xfers _ _ _ _ _ _) s
  · exact foldl_xfers _ (fun _ _ => State.hostData_xfers _ _ _ _ _ _ _ _) s

theorem State.startReads_xfers (x : Xfer) (port : Nat) (s : State) : (s.startReads x port).xfers = s.xfers :=
  foldl_xfers _ (fun _ _ => State.readPart_xfers _ _ _ _ _) s

theorem State.ungate_xfers (y : Nat) (s : State) : (s.ungate y).xfers = s.xfers := rfl

theorem State.countLane_xfers (y lane : Nat) (ps : List Part) (s : State) : (s.countLane y lane ps).xfers = s.xfers := rfl

/-! ### Words with an error in them concern their entry (R327) -/

theorem State.uncEvent_xfers (owner : Option Acc) (mem cause unit word n : Nat) (s : State) :
    (s.uncEvent owner mem cause unit word n).xfers = s.xfers := by
  unfold State.uncEvent
  cases owner <;> simp [State.haltQueue]

theorem State.sheetCond_xfers (n slot status info : Nat) (s : State) : (s.sheetCond n slot status info).xfers = s.xfers := by
  unfold State.sheetCond
  split
  · rfl
  · split_ifs <;> simp [State.meetNew]

theorem State.meetAt_xfers (x : Xfer) (q status info : Nat) (s : State) : (s.meetAt x q status info).xfers = s.xfers := by
  unfold State.meetAt
  split
  · exact State.sheetCond_xfers _ _ _ _ s
  · exact State.sheetCond_xfers _ _ _ _ s
  · split <;> rfl

theorem State.uncorrectable_xfers (x : Xfer) (q mem cause unit word n : Nat) (s : State) :
    (s.uncorrectable x q mem cause unit word n).xfers = s.xfers := by
  unfold State.uncorrectable
  simp only
  cases s.ownerOf x with
  | none => exact State.uncEvent_xfers _ _ _ _ _ _ s
  | some a =>
    simp only
    split_ifs
    · exact (State.meetAt_xfers _ _ _ _ _).trans (State.uncEvent_xfers _ _ _ _ _ _ s)
    · exact State.uncEvent_xfers _ _ _ _ _ _ s

theorem State.readFlip_xfers (x : Xfer) (q : Nat) (m : Byte) (s : State) : (s.readFlip x q m).2.xfers = s.xfers := by
  unfold State.readFlip
  extract_lets word t
  split
  · rfl
  · rfl
  · exact State.uncorrectable_xfers _ _ _ _ _ _ _ t

theorem State.readDsts_xfers (x : Xfer) (s : State) : (s.readDsts x).xfers = s.xfers :=
  foldl_xfers _ (fun _ _ => State.readFlip_xfers _ _ _ _) s

/-! ### Writes make what is being read stale -/

/-- A transfer is there, but for which of its parts are stale. -/
def State.holdsXfer (s : State) (id : Nat) (x : Xfer) : Prop := ∃ st, FMap.find s.xfers id = some { x with stale := st }

theorem State.holdsXfer_of_find {s : State} {id : Nat} {x : Xfer} (h : FMap.find s.xfers id = some x) : s.holdsXfer id x := ⟨x.stale, h⟩

theorem State.holdsXfer_of_xfers {s t : State} {id : Nat} {x : Xfer} (h : s.holdsXfer id x) (ht : t.xfers = s.xfers) : t.holdsXfer id x := by
  obtain ⟨st, hs⟩ := h
  exact ⟨st, by rw [ht, hs]⟩

theorem State.holdsXfer_staleLines {s : State} {id : Nat} {x : Xfer} (h : s.holdsXfer id x) (l : Loc) (len : Nat) :
    (s.staleLines l len).holdsXfer id x := by
  obtain ⟨st, hs⟩ := h
  have hfind : FMap.find (s.staleLines l len).xfers id = some (({ x with stale := st } : Xfer).markStale l len) := by
    unfold State.staleLines
    rw [FMap.find_mapV, hs]
    rfl
  unfold Xfer.markStale at hfind
  extract_lets bad at hfind
  split_ifs at hfind
  · exact ⟨st, hfind⟩
  · exact ⟨_, hfind⟩

theorem State.holdsXfer_writePart {s : State} {id : Nat} {x : Xfer} (h : s.holdsXfer id x) (w : Xfer) (i port : Nat) (lastPart : Bool)
    (p : Part) : (s.writePart w i port lastPart p).holdsXfer id x := by
  refine State.holdsXfer_of_xfers (State.holdsXfer_staleLines h p.loc p.len) ?_
  unfold State.writePart
  extract_lets bs t
  split
  · exact foldl_xfers _ (fun _ _ => State.fabWrite_xfers _ _ _ _ _ _ _ _ _) t
  · refine foldl_xfers _ (fun u g => ?_) t
    extract_lets c
    split
    · exact State.stgWrite_xfers _ _ _ _ _ u
    · exact State.stgRead_xfers _ _ _ _ _ u
  · exact foldl_xfers _ (fun _ _ => State.hostData_xfers _ _ _ _ _ _ _ _) t

theorem State.holdsXfer_startWrites {s : State} {id : Nat} {x : Xfer} (h : s.holdsXfer id x) (w : Xfer) (port : Nat) :
    (s.startWrites w port).holdsXfer id x :=
  List.foldlRecOn (w.dsts.zipIdx) _ (motive := fun t : State => t.holdsXfer id x) h
    fun _ h p _ => State.holdsXfer_writePart h w p.2 port _ p.1

/-! ### A dispatch (R124, R377) -/

/-- What a transfer writes of the block's making is in its buffers, as it was where no flip is armed (R335). -/
theorem State.find_storeOut {s : State} {id : Nat} {x : Xfer} (h : FMap.find s.xfers id = some x) :
    ∃ d, FMap.find (s.storeOut id).xfers id = some { x with dsts := d } ∧ (s.glob.eccFlip = 0 → d = x.dsts) := by
  unfold State.storeOut
  simp only [h]
  split_ifs
  · exact ⟨x.dsts, h, fun _ => rfl⟩
  · refine ⟨strike (s.takeFlip 0 x.yard).1 x.dsts, ?_, fun he => ?_⟩
    · unfold State.modXfer
      rw [State.takeFlip_xfers, FMap.find_modify_self, h]
      rfl
    · rw [State.takeFlip_none he]
      rfl

/-- A transfer as its reads start. -/
def Xfer.reads (x : Xfer) (y lane port : Nat) : Xfer := { x with phase := .reading, yard := y, lane := lane, port := port }

/-- A transfer as its writes start, with the signal that its last WR carries. -/
def Xfer.writes (x : Xfer) (sig : Option Acc) (y lane port : Nat) : Xfer :=
  { x with phase := .writing, yard := y, lane := lane, port := port, sigLast := sig.map fun (a : Acc) => (a.hdr.cleatId, a.hdr.sigCount) }

theorem State.find_beginReads (s : State) (x : Xfer) (y lane port : Nat) :
    FMap.find (s.beginReads x y lane port).xfers x.id = some (x.reads y lane port) := by
  unfold State.beginReads
  extract_lets t z
  rw [State.startReads_xfers, State.countLane_xfers, State.ungate_xfers]
  exact FMap.find_put_self _ _ _

/-- The state in which a transfer's writes are issued: its entry and its restore know. -/
def State.markWrites (x : Xfer) (s : State) : State :=
  let s := match s.carries x with
    | some a => s.modAcc a.id fun a => { a with sigSent := true }
    | none => s
  match x.work with
  | .rest e _ _ => s.modRest e fun r => { r with wrote := true }
  | _ => s

theorem State.markWrites_glob (x : Xfer) (s : State) : (s.markWrites x).glob = s.glob := by
  unfold State.markWrites
  split <;> split <;> rfl

/-- The transfer as its writes start, in the table. -/
def State.putWrites (x : Xfer) (y lane port : Nat) (s : State) : State :=
  { s.markWrites x with xfers := FMap.put (s.markWrites x).xfers x.id (x.writes (s.carries x) y lane port) }

/-- What the block makes itself is put into a Yard buffer first. -/
def State.bufferOut (x : Xfer) (s : State) : State := if x.srcs.isEmpty && !x.work.sealsFirst then s.storeOut x.id else s

theorem State.find_bufferOut {s : State} {x z : Xfer} (h : FMap.find s.xfers x.id = some z) :
    ∃ d, FMap.find (s.bufferOut x).xfers x.id = some { z with dsts := d } ∧ (s.glob.eccFlip = 0 → d = z.dsts) := by
  unfold State.bufferOut
  split_ifs
  · exact State.find_storeOut h
  · exact ⟨z.dsts, h, fun _ => rfl⟩

theorem State.beginWrites_found {s : State} {x z : Xfer} {y lane port : Nat}
    (h : FMap.find ((s.putWrites x y lane port).bufferOut x).xfers x.id = some z) : s.beginWrites x y lane port =
      (((((s.putWrites x y lane port).bufferOut x).readDsts z).ungate y).countLane y lane z.dsts).startWrites z port := by
  have hbegin : s.beginWrites x y lane port = match FMap.find ((s.putWrites x y lane port).bufferOut x).xfers x.id with
    | some z => (((((s.putWrites x y lane port).bufferOut x).readDsts z).ungate y).countLane y lane z.dsts).startWrites z port
    | none => (s.putWrites x y lane port).bufferOut x := rfl
  rw [hbegin, h]

theorem State.find_beginWrites (s : State) (x : Xfer) (y lane port : Nat) :
    ∃ st d, FMap.find (s.beginWrites x y lane port).xfers x.id = some { x.writes (s.carries x) y lane port with stale := st, dsts := d } ∧
      (s.glob.eccFlip = 0 → d = x.dsts) := by
  obtain ⟨d, hd, he⟩ := State.find_bufferOut (s := s.putWrites x y lane port) (FMap.find_put_self _ _ _)
  have hholds : (s.beginWrites x y lane port).holdsXfer x.id { x.writes (s.carries x) y lane port with dsts := d } := by
    rw [State.beginWrites_found hd]
    refine State.holdsXfer_startWrites (State.holdsXfer_of_xfers (State.holdsXfer_of_find hd) ?_) _ port
    rw [State.countLane_xfers, State.ungate_xfers, State.readDsts_xfers]
  obtain ⟨st, hst⟩ := hholds
  exact ⟨st, d, hst, fun h => he ((congrArg (·.eccFlip) (State.markWrites_glob x s)).trans h)⟩

/-- A lane takes the transfer's next half: its writes or its reads, counted in the round of its queue. -/
theorem State.dispatch_moves {s : State} {x : Xfer} {y lane port : Nat} {ps : List Part} {w : Bool} (hx : FMap.find s.xfers x.id = some x)
    (hrun : s.glob.power = .run) (hfree : s.laneFree y lane = true) (hready : s.ready y x = true) (hparked : x.parked = false)
    (hnext : s.goesNext y (s.claimOf x) (s.rivals y (some x.id) true) = true) (hway : s.givesWay y (s.claimOf x) = false)
    (hseal : x.work.sealsFirst = false ∨ x.phase = .loaded) (hparts : x.nextParts = some (ps, w)) (hport : s.portsAllow ps w port = true) :
    s.dispatch x.id y lane port = if w then (s.countRound y (s.claimOf x)).beginWrites x y lane port
      else (s.countRound y (s.claimOf x)).beginReads x y lane port := by
  have hunsealed : (x.phase == .queued && x.work.sealsFirst) = false := by rcases hseal with h | h <;> simp [h]
  unfold State.dispatch
  simp [hx, hrun, hfree, hready, hparked, hnext, hway, hunsealed, hparts, hport]

/-- A lane, a Yard or a turn that is not there leaves the transfer waiting. -/
theorem State.dispatch_waits {s : State} {x : Xfer} {y lane : Nat} (hx : FMap.find s.xfers x.id = some x)
    (h : s.laneFree y lane = false ∨ s.ready y x = false ∨ s.goesNext y (s.claimOf x) (s.rivals y (some x.id) true) = false ∨
      s.givesWay y (s.claimOf x) = true) (port : Nat) : s.dispatch x.id y lane port = s := by
  unfold State.dispatch
  simp only [hx]
  exact if_pos (by rcases h with h | h | h | h <;> simp [h])

/-! ### A tier-1 read that has come (R123) -/

theorem State.gen_modGen {s : State} {e : Nat} {g : Gen} {f : Gen → Gen} (h : s.gen e = some g) (hf : ∀ g, (f g).epoch = g.epoch) :
    (s.modGen e f).gen e = some (f g) := by
  have hepoch : g.epoch = e := by simpa using List.find?_some h
  have hsame : (fun k : Gen => k.epoch == e) ∘ (fun g => if g.epoch = e then f g else g) = fun k => k.epoch == e := by
    funext k
    simp only [Function.comp]
    split_ifs
    · rw [hf]
    · rfl
  unfold State.gen State.modGen at *
  rw [List.find?_map, hsame, h]
  exact congrArg some (if_pos hepoch)

theorem Gen.segs_modSeg {g : Gen} {i : Nat} {q : Seg} (h : g.segs[i]? = some q) (f : Seg → Seg) : (g.modSeg i f).segs[i]? = some (f q) := by
  simp [Gen.modSeg, List.getElem?_zipIdx, h]

/-- A segment whose read has come: it holds the data where its generation takes digests. -/
def Seg.readIn (data : List PByte) (digests : Bool) (g : Seg) : Seg :=
  { g with hasRead := true, poisoned := anyPoison data, taken := if digests then data else [] }

/-- A transfer whose data has come. -/
def Xfer.loadedWith (data : List PByte) (x : Xfer) : Xfer :=
  { x with phase := .loaded, dsts := x.dsts.map fun p => { p with chunks := [(0, data)] } }

/-- The read of a segment has come: the segment and the transfer know. -/
def State.takeRead (x : Xfer) (e i : Nat) (digests : Bool) (s : State) : State :=
  (s.modSeg e i (Seg.readIn (x.input.getD 0 []) digests)).modXfer x.id (Xfer.loadedWith (x.input.getD 0 []))

/-- A provisional copy that was read with poison. -/
def Gen.provision (i : Nat) (g : Gen) : Gen := { g with provPoison := g.provPoison.filter (· != i) ++ [i] }

theorem State.readComplete_open {s : State} {x : Xfer} {j e i : Nat} {g : Gen} (hx : FMap.find s.xfers x.id = some x)
    (hwork : x.work = .tier1 j e i) (hphase : x.phase = .reading) (howes : s.owes x.id = false) (hflips : flipsOf x.srcs = [])
    (hg : s.gen e = some g) (hopen : g.state = .opened) :
    s.readComplete x.id = if anyPoison (x.input.getD 0 []) then (s.takeRead x e i g.digests).modGen e (Gen.provision i)
      else s.takeRead x e i g.digests := by
  have hsrcs : s.readSrcs x = s := by rw [State.readSrcs, hflips]; rfl
  unfold State.readComplete
  simp [hx, hwork, hphase, howes, hsrcs, hg, hopen]
  rfl

/-- What a tier-1 read that has come leaves: its transfer is loaded, and its segment is read. -/
theorem State.found_readComplete {s : State} {x : Xfer} {j e i : Nat} {g : Gen} {q : Seg} (hx : FMap.find s.xfers x.id = some x)
    (hwork : x.work = .tier1 j e i) (hphase : x.phase = .reading) (howes : s.owes x.id = false) (hflips : flipsOf x.srcs = [])
    (hg : s.gen e = some g) (hopen : g.state = .opened) (hq : g.segs[i]? = some q) :
    ∃ h, FMap.find (s.readComplete x.id).xfers x.id = some (x.loadedWith (x.input.getD 0 [])) ∧ (s.readComplete x.id).gen e = some h ∧
      h.segs[i]? = some (q.readIn (x.input.getD 0 []) g.digests) := by
  have hfound : FMap.find (s.takeRead x e i g.digests).xfers x.id = some (x.loadedWith (x.input.getD 0 [])) := by
    unfold State.takeRead State.modXfer
    rw [FMap.find_modify_self]
    exact congrArg _ hx
  have hgen : (s.takeRead x e i g.digests).gen e = some (g.modSeg i (Seg.readIn (x.input.getD 0 []) g.digests)) :=
    State.gen_modGen hg fun _ => rfl
  have hseg := Gen.segs_modSeg hq (Seg.readIn (x.input.getD 0 []) g.digests)
  rw [State.readComplete_open (i := i) hx hwork hphase howes hflips hg hopen]
  split_ifs
  · exact ⟨_, hfound, State.gen_modGen (f := Gen.provision i) hgen fun _ => rfl, hseg⟩
  · exact ⟨_, hfound, hgen, hseg⟩

/-- Settles O28: a dispatch begins the reads or the writes of its transfer, or leaves it waiting, and a tier-1 read that has come loads it. -/
theorem transfersMove : Obligations.TransfersMove := by
  intro s id x hx hid
  subst hid
  refine ⟨fun y lane port ps w hrun hfree hready hparked hnext hway hseal hparts hport => ?_, fun y lane port h => ?_,
    fun j e i g q hwork hphase howes hflips hg hopen hq => ?_⟩
  · have hmoves := State.dispatch_moves hx hrun hfree hready hparked hnext hway hseal hparts hport
    cases w with
    | false =>
      refine ⟨_, _, rfl, ?_, fun _ => rfl, fun h => absurd h (by decide)⟩
      rw [hmoves]
      exact State.find_beginReads _ x y lane port
    | true =>
      obtain ⟨st, d, hfound, hd⟩ := State.find_beginWrites (s.countRound y (s.claimOf x)) x y lane port
      rw [if_pos rfl] at hmoves
      rw [← hmoves] at hfound
      refine ⟨_, _, rfl, hfound, fun h => absurd h (by decide), fun _ he _ => ?_⟩
      rw [hd he]
      rfl
  · have hact : Acts (.transferDispatch x.id y lane port) s (s.dispatch x.id y lane port) := rfl
    rwa [State.dispatch_waits hx h] at hact
  · obtain ⟨h, hfound, hgen, hseg⟩ := State.found_readComplete hx hwork hphase howes hflips hg hopen hq
    exact ⟨_, _, _, _, rfl, hfound, rfl, rfl, rfl, hgen, hseg, rfl, rfl⟩

end Sys2Proof.Machine
end

section
/-! PROOFS. The latent-fault tests (R22, R31, R400, R426, R427): when they start, and what a lane or a Yard that is good or fails leaves. -/

namespace Sys2Proof.Machine

open Sys2Proof.Claims

/-! ### The start of a test (R400) -/

/-- With no processor restarting, none that a test needs is. -/
theorem State.restarting_nil {s : State} (h : s.procs.restarting = []) (p : Proc) : s.restarting p = false := by
  rw [State.restarting, h]
  rfl

theorem State.tickOfLife_past {s : State} {due : Nat} (h : due ≤ s.pen.lifeS) : s.tickOfLife due = s.pen.timer := if_pos h

theorem State.testStarts_onTime {s : State} {item due : Nat} (h : s.pen.lifeS ≤ due) : s.testStarts item due = s := if_pos h

/-- The start of a test changes the log at most. -/
theorem State.testStarts_eq {s : State} (hm : s.restarting .masthead = false) (item due : Nat) :
    s.testStarts item due = { s with log := (s.testStarts item due).log } := by
  by_cases h : s.pen.lifeS ≤ due
  · rw [State.testStarts_onTime h]
  · rw [State.testStarts, if_neg h]
    exact State.logWith_up hm _ _ _ _ _ _

/-- A late start is logged with how late it is. -/
theorem State.logged_testStarts {s : State} (hm : s.restarting .masthead = false) (item : Nat) {due : Nat} (h : due < s.pen.lifeS) :
    Logged (s.testStarts item due) 0x070A [item, s.pen.lifeS - due] := by
  rw [State.testStarts, if_neg (Nat.not_le.mpr h)]
  exact State.logged_logWith hm _ _ _ _ _ _

/-! ### The spare self-test (R426) -/

/-- While a service core restarts, no self-test starts. -/
theorem State.selfTestCan_coreDown {s : State} {m c : Nat} (hm : m < 8) (hc : c < 2) (h : s.restarting (.service m c) = true) :
    s.selfTestCan = false := by
  have hcore : (m, c) ∈ serviceCores := by
    interval_cases m <;> interval_cases c <;> decide
  have hdown : s.serviceDown serviceCores = true := List.any_eq_true.mpr ⟨(m, c), hcore, h⟩
  rw [State.selfTestCan, hdown]
  rfl

theorem State.selfTestCan_trimDown {s : State} (h : s.restarting .trim = true) (hi : s.glob.power = .idle) : s.selfTestCan = false := by
  simp [State.selfTestCan, h, hi]

theorem State.selfTestCan_up {s : State} (h : s.procs.restarting = []) : s.selfTestCan = true := by
  simp [State.selfTestCan, State.serviceDown, State.restarting_nil h]

/-- A self-test that finds every lane good. -/
theorem State.startSelfTest_good {s : State} (hm : s.restarting .masthead = false) (ht : s.tests.trials = []) (due : Nat) :
    s.startSelfTest due [] =
      { s.testStarts 0 due with pen := { s.pen with spareDue := nextDue due 14400 s.pen.lifeS } } := by
  have htests : ({ s.tests with trials := s.tests.trials ++ [] } : Tests) = s.tests := by rw [List.append_nil]
  unfold State.startSelfTest
  rw [State.testStarts_eq hm]
  change State.runTrials { s with
    log := _, pen := _, tests := { s.tests with trials := s.tests.trials ++ [] } } = _
  rw [htests, State.runTrials]
  simp only [ht]
  rfl

/-- What a test that finds nothing wrong leaves of the block. -/
theorem State.startSelfTest_good_leaves {s : State} (hm : s.restarting .masthead = false) (ht : s.tests.trials = []) (due : Nat) :
    (s.startSelfTest due []).pen.spareDue = nextDue due 14400 s.pen.lifeS ∧
    (due = s.pen.lifeS → (s.startSelfTest due []).log = s.log) ∧
    (due < s.pen.lifeS → Logged (s.startSelfTest due []) 0x070A [0, s.pen.lifeS - due]) ∧
    (s.startSelfTest due []).yards = s.yards ∧ (s.startSelfTest due []).glob = s.glob ∧ WorkSame s (s.startSelfTest due []) := by
  have heq := s.testStarts_eq hm 0 due
  have honTime (h : due = s.pen.lifeS) : (s.testStarts 0 due).log = s.log := congrArg State.log (State.testStarts_onTime h.ge)
  have hlate := s.logged_testStarts hm 0 (due := due)
  rw [State.startSelfTest_good hm ht]
  generalize s.testStarts 0 due = v at heq honTime hlate ⊢
  rw [heq]
  exact ⟨rfl, honTime, hlate, rfl, rfl, rfl, rfl, rfl, rfl, rfl⟩

/-! ### A spare that fails (R426) -/

/-- The safety mode that does not stop the block leaves an event of Table 15-5 without effect. -/
theorem State.safetyEvent_off {s : State} (h : s.pen.inForce.safety ≠ 1) : s.safetyEvent = s :=
  if_neg (by simpa [State.safeStop] using h)

/-- A fence lists the lane in its Yard, and changes no other. -/
theorem State.yard_fence (y p cause : Nat) (s : State) : ((s.fence y p cause).yard y).fenced = (s.yard y).fenced ++ [p] ∧
    ∀ z, z ≠ y → (s.fence y p cause).yard z = s.yard z := by
  have hyards : (s.fence y p cause).yards =
      FMap.put s.yards y { (s.yard y).stand (s.spareMap y) p none with fenced := (s.yard y).fenced ++ [p] } := by
    unfold State.fence Yard.stand
    rw [State.logMast, State.logWith_yards]
    split_ifs <;> rfl
  refine ⟨?_, fun z hz => ?_⟩
  · rw [State.yard, hyards, FMap.getD, FMap.find_put_self]
    rfl
  · rw [State.yard, hyards, FMap.getD, FMap.find_put_ne _ _ hz]
    rfl

/-- Without the safety mode that stops the block, a failed test is a fence, an entry of the log and a fault bit. -/
theorem State.testFail_eq {s : State} (hsafe : s.pen.inForce.safety ≠ 1) (y p check context : Nat) :
    s.testFail y p check context = ((s.fence y p 3).logMast 0x0804 (y / 8) [laneIndex y p, check, context]).setFault 10 := by
  have hpen : (((s.fence y p 3).logMast 0x0804 (y / 8) [laneIndex y p, check, context]).setFault 10).pen = s.pen := by
    simp [State.fence, State.logMast, State.modYard]
  exact State.safetyEvent_off (by rw [hpen]; exact hsafe)

/-- A failed test fences the lane, reports it twice and sets the fault bit. -/
theorem State.testFail_leaves {s : State} (hm : s.restarting .masthead = false) (hsafe : s.pen.inForce.safety ≠ 1)
    (y p check context : Nat) :
    ((s.testFail y p check context).yard y).fenced = (s.yard y).fenced ++ [p] ∧
    (∀ z, z ≠ y → (s.testFail y p check context).yard z = s.yard z) ∧
    LogHolds (s.testFail y p check context) 0x0801 [34 * y + p, 3] ∧
    Logged (s.testFail y p check context) 0x0804 [34 * y + p, check, context] ∧
    Raises s (s.testFail y p check context) 10 ∧ WorkSame s (s.testFail y p check context) := by
  have hup : (s.fence y p 3).restarting .masthead = false := by simpa [State.fence, State.logMast, State.modYard, State.restarting] using hm
  have hyards : ((s.fence y p 3).logMast 0x0804 (y / 8) [laneIndex y p, check, context]).yards = (s.fence y p 3).yards :=
    State.logWith_yards _ _ _ _ _ _ _
  obtain ⟨hfenced, hothers⟩ := State.yard_fence y p 3 s
  rw [State.testFail_eq hsafe]
  have hlogged : Logged (s.fence y p 3) 0x0801 [34 * y + p, 3] := by
    unfold State.fence State.logMast
    exact State.logged_logWith (s := s.modYard y _) hm _ _ _ _ _ _
  have hholds : LogHolds ((s.fence y p 3).logMast 0x0804 (y / 8) [laneIndex y p, check, context]) 0x0801 [34 * y + p, 3] :=
    State.logHolds_logEntry hlogged _
  refine ⟨?_, fun z hz => ?_, hholds, State.logged_logWith hup _ _ _ _ _ _, ?_, ?_⟩
  · rw [← hfenced, State.yard, State.setFault_yards, hyards, State.yard]
  · rw [← hothers z hz, State.yard, State.setFault_yards, hyards, State.yard]
  · simp [Raises, State.fence, State.logMast, State.modYard, State.setFault]
  · simp [WorkSame, State.fence, State.logMast, State.modYard]

/-- A failing spare that serves nothing is tested at once, and fails. -/
theorem State.runTrial_spare {s : State} {t : Trial} (hone : s.tests.trials = [t]) (hunder : t.under = none)
    (hfenced : t.lane % 34 ∉ (s.yard (t.lane / 34)).fenced) (hmast : t.lane / 34 / 8 ∉ s.procs.orphanMasts)
    (hserves : (s.yard (t.lane / 34)).servesAs (s.spareMap (t.lane / 34)) (t.lane % 34) = none) :
    s.runTrial t = (s.dropTrial t).testFail (t.lane / 34) (t.lane % 34) t.check 0 := by
  have htrial : s.trialOf (t.lane / 34) = some t := by simp [State.trialOf, hone]
  have hstart : s.startTrial t = s := by simp [State.startTrial, hunder, hserves]
  have hnumber : s.numberOf (t.lane / 34) (t.lane % 34) = none := by simp [State.numberOf, htrial, hunder, hserves]
  have hfail : s.failTrial t = (s.dropTrial t).testFail (t.lane / 34) (t.lane % 34) t.check 0 := by
    simp [State.failTrial, hunder, hserves]
  unfold State.runTrial
  simp [htrial, hstart, hnumber, hmast, hfenced, hfail]

theorem State.not_fenced_of_mem_sparesFree {s : State} {y p : Nat} (h : p ∈ s.sparesFree y) : p ∉ (s.yard y).fenced := by
  simp only [State.sparesFree, List.mem_append] at h
  rcases h with h | h <;> split_ifs at h <;> simp_all

/-- A failing spare of the block that is not fenced is to be tested. -/
theorem State.trialsOf_spare {s : State} {y p : Nat} (check : Nat) (hy : y < 64) (hp : p < 34) (hfree : p ∈ s.sparesFree y) :
    s.trialsOf [(34 * y + p, check)] = [{ lane := 34 * y + p, check := check }] := by
  have hyard : (34 * y + p) / 34 = y := by omega
  have hlane : (34 * y + p) % 34 = p := by omega
  have hrange : 34 * y + p < 2176 := by omega
  simp [State.trialsOf, hyard, hlane, hrange, hfree, State.not_fenced_of_mem_sparesFree hfree]

/-- A self-test that finds one spare failing that serves nothing. -/
theorem State.startSelfTest_spare {s : State} (hm : s.restarting .masthead = false) (ht : s.tests.trials = []) (due : Nat)
    {y p : Nat} (check : Nat) (hy : y < 64) (hfree : p ∈ s.sparesFree y) (hp : p < 34)
    (hserves : (s.yard y).servesAs (s.spareMap y) p = none) (hmast : y / 8 ∉ s.procs.orphanMasts) :
    s.startSelfTest due [(34 * y + p, check)] =
      State.testFail y p check 0 { s.testStarts 0 due with pen := { s.pen with spareDue := nextDue due 14400 s.pen.lifeS } } := by
  have hyard : (34 * y + p) / 34 = y := by omega
  have hlane : (34 * y + p) % 34 = p := by omega
  have htests : ({ s.tests with trials := [] } : Tests) = s.tests := by rw [← ht]
  have hdrop : ([{ lane := 34 * y + p, check := check }] : List Trial).filter (· != { lane := 34 * y + p, check := check }) = [] := by simp
  unfold State.startSelfTest
  rw [State.testStarts_eq hm]
  change State.runTrials { s with log := _, pen := _, tests := { s.tests with trials := s.tests.trials ++ s.trialsOf _ } } = _
  rw [State.trialsOf_spare check hy hp hfree, ht, List.nil_append, State.runTrials, List.foldl_cons, List.foldl_nil]
  rw [State.runTrial_spare rfl rfl]
  · change State.testFail ((34 * y + p) / 34) ((34 * y + p) % 34) check 0 { s with
      log := _, pen := _, tests := { s.tests with trials := List.filter _ _ } } = _
    rw [hdrop, htests, hyard, hlane]
  · rw [hyard, hlane]
    exact State.not_fenced_of_mem_sparesFree hfree
  · rw [hyard]
    exact hmast
  · rw [hyard, hlane]
    exact hserves

theorem State.startSelfTest_spare_leaves {s : State} (hm : s.restarting .masthead = false) (ht : s.tests.trials = []) (due : Nat)
    {y p : Nat} (check : Nat) (hy : y < 64) (hfree : p ∈ s.sparesFree y) (hp : p < 34)
    (hserves : (s.yard y).servesAs (s.spareMap y) p = none) (hmast : y / 8 ∉ s.procs.orphanMasts) (hsafe : s.pen.inForce.safety ≠ 1) :
    ((s.startSelfTest due [(34 * y + p, check)]).yard y).fenced = (s.yard y).fenced ++ [p] ∧
    (∀ z, z ≠ y → (s.startSelfTest due [(34 * y + p, check)]).yard z = s.yard z) ∧
    LogHolds (s.startSelfTest due [(34 * y + p, check)]) 0x0801 [34 * y + p, 3] ∧
    Logged (s.startSelfTest due [(34 * y + p, check)]) 0x0804 [34 * y + p, check, 0] ∧
    Raises s (s.startSelfTest due [(34 * y + p, check)]) 10 ∧ WorkSame s (s.startSelfTest due [(34 * y + p, check)]) := by
  rw [State.startSelfTest_spare hm ht due check hy hfree hp hserves hmast, State.testStarts_eq hm]
  exact State.testFail_leaves (s := { s with
    log := (s.testStarts 0 due).log, pen := { s.pen with spareDue := nextDue due 14400 s.pen.lifeS } }) hm hsafe y p check 0

/-! ### The Yard BIST (R427) -/

theorem State.bistCan_coreDown {s : State} {y : Nat} (h : s.restarting (.service (y / 8) (y % 8 / 4)) = true) : s.bistCan y = false := by
  simp [State.bistCan, State.serviceDown, yardCore, h]

theorem State.bistCan_trimDown {s : State} (h : s.restarting .trim = true) (hi : s.glob.power = .idle) (y : Nat) : s.bistCan y = false := by
  simp [State.bistCan, h, hi]

theorem State.bistCan_up {s : State} {y : Nat} (h : s.procs.restarting = []) (hb : s.tests.bist = none)
    (hfit : s.buffersFit y none 1 = true) : s.bistCan y = true := by
  simp [State.bistCan, State.serviceDown, State.restarting_nil h, hb, hfit]

/-- A run that is logged as late. -/
def State.markLate (r : BistRun) (s : State) : State := { s with tests := { s.tests with bist := some { r with late := true } } }

/-- A run whose Yard does other work goes on, and is logged once when it is a period late. -/
theorem State.runBist_late {s : State} {r : BistRun} (hb : s.tests.bist = some r) (hi : s.yardIdle r.yard = false)
    (hl : r.late = false) (hd : r.due + 1350 ≤ s.pen.lifeS) :
    s.runBist = (s.markLate r).logEvent 0x070A [1, s.pen.lifeS - r.due] := by
  unfold State.runBist
  simp only [hb, hi, hl]
  rw [if_neg Bool.false_ne_true, if_neg (by simpa using hd)]
  rfl

theorem State.runBist_early {s : State} {r : BistRun} (hb : s.tests.bist = some r) (hi : s.yardIdle r.yard = false)
    (hd : s.pen.lifeS < r.due + 1350) : s.runBist = s := by
  unfold State.runBist
  simp only [hb, hi]
  rw [if_neg Bool.false_ne_true, if_pos (by simp [hd])]

/-- A run whose Yard does nothing else ends, with what it found. -/
theorem State.runBist_idle {s : State} {r : BistRun} (hb : s.tests.bist = some r) (hi : s.yardIdle r.yard = true) :
    s.runBist = r.fails.foldl (fun s f => s.bistFail r.yard f) { s with tests := { s.tests with bist := none } } := by
  unfold State.runBist
  simp only [hb, hi]
  rfl

/-- R427: a run of the Yard BIST that its Yard's work delays past a period. -/
theorem bistLate {s : State} (hm : s.restarting .masthead = false) (r : BistRun) (hb : s.tests.bist = some r)
    (hi : s.yardIdle r.yard = false) (hl : r.late = false) (hd : r.due + 1350 ≤ s.pen.lifeS) :
    Logged s.runBist 0x070A [1, s.pen.lifeS - r.due] ∧ s.runBist.tests.bist = some { r with late := true } := by
  rw [State.runBist_late hb hi hl hd]
  refine ⟨State.logged_logWith (s := s.markLate r) hm _ _ _ _ _ _, ?_⟩
  rw [State.logEvent_tests]
  rfl

/-- A run that finds nothing wrong changes the tests and the log at most. -/
theorem State.runBist_good {s : State} {r : BistRun} (hm : s.restarting .masthead = false) (hb : s.tests.bist = some r)
    (hf : r.fails = []) (hl : r.late = false) :
    s.runBist = { s with tests := s.runBist.tests, log := s.runBist.log } ∧
    (s.pen.lifeS < r.due + 1350 → s.runBist.log = s.log) ∧ (∀ code d, Logged s code d → LogHolds s.runBist code d) ∧
    (s.yardIdle r.yard = true → s.runBist.tests = { s.tests with bist := none }) ∧
    (s.yardIdle r.yard = false → ∃ k, s.runBist.tests.bist = some k ∧ k.yard = r.yard ∧ k.due = r.due) := by
  cases hi : s.yardIdle r.yard with
  | true =>
    rw [State.runBist_idle hb hi, hf]
    exact ⟨rfl, fun _ => rfl, fun _ _ h => logHolds_of_logged h, fun _ => rfl, fun h => absurd h (by decide)⟩
  | false =>
    by_cases hd : s.pen.lifeS < r.due + 1350
    · rw [State.runBist_early hb hi hd]
      exact ⟨rfl, fun _ => rfl, fun _ _ h => logHolds_of_logged h, fun h => absurd h (by decide), fun _ => ⟨r, hb, rfl, rfl⟩⟩
    · rw [State.runBist_late hb hi hl (Nat.le_of_not_lt hd)]
      refine ⟨?_, fun h => absurd h hd, fun _ _ h => State.logHolds_logEntry (s := s.markLate r) h _, fun h => absurd h (by decide),
        fun _ => ⟨{ r with late := true }, ?_, rfl, rfl⟩⟩
      · rw [State.logEvent_tests]
        exact State.logWith_up (s := s.markLate r) hm _ _ _ _ _ _
      · rw [State.logEvent_tests]
        rfl

/-- The state in which a BIST run has begun: its Yard is ungated, and the calendar stands at the next. -/
def State.beginBist (due : Nat) (fails : List BistFail) (s : State) : State :=
  { (s.ungate s.pen.bistPtr).testStarts 1 due with
    pen := { s.pen with bistDue := nextDue due 1350 s.pen.lifeS, bistPtr := (s.pen.bistPtr + 1) % 64 }
    tests := { s.tests with bist := some { yard := s.pen.bistPtr, due := due, fails := fails } } }

theorem State.startBist_eq {s : State} (hm : s.restarting .masthead = false) (due : Nat) (fails : List BistFail) :
    s.startBist due fails = (s.beginBist due fails).runBist := by
  have hup : (s.ungate s.pen.bistPtr).restarting .masthead = false := hm
  have heq := State.testStarts_eq hup 1 due
  unfold State.startBist State.beginBist
  dsimp only
  generalize (s.ungate s.pen.bistPtr).testStarts 1 due = v at heq ⊢
  rw [heq]
  rfl

/-- The Yard of a run that has begun is ungated. -/
theorem State.yard_ungate (y : Nat) (s : State) : ((s.ungate y).yard y).gated = false := by
  rw [State.yard, State.ungate, FMap.getD, FMap.find_put_self]
  rfl

/-- What the begin of a run leaves of the block. -/
theorem State.beginBist_leaves {s : State} (hm : s.restarting .masthead = false) (due : Nat) (fails : List BistFail) :
    (s.beginBist due fails).yards = (s.ungate s.pen.bistPtr).yards ∧ (s.beginBist due fails).glob = s.glob ∧
    WorkSame s (s.beginBist due fails) ∧ (due = s.pen.lifeS → (s.beginBist due fails).log = s.log) ∧
    (due < s.pen.lifeS → Logged (s.beginBist due fails) 0x070A [1, s.pen.lifeS - due]) ∧
    (s.beginBist due fails).restarting .masthead = false := by
  have hup : (s.ungate s.pen.bistPtr).restarting .masthead = false := hm
  have heq := State.testStarts_eq hup 1 due
  have honTime (h : due = s.pen.lifeS) : ((s.ungate s.pen.bistPtr).testStarts 1 due).log = s.log := by
    rw [State.testStarts_onTime (s := s.ungate s.pen.bistPtr) h.ge]
    rfl
  have hlate (h : due < s.pen.lifeS) := State.logged_testStarts hup 1 h
  unfold State.beginBist
  generalize (s.ungate s.pen.bistPtr).testStarts 1 due = v at heq honTime hlate ⊢
  rw [heq]
  exact ⟨rfl, rfl, ⟨rfl, rfl, rfl, rfl, rfl⟩, honTime, hlate, hm⟩

/-- What a run that finds nothing wrong leaves of the block as it starts. -/
theorem State.startBist_good_leaves {s : State} (hm : s.restarting .masthead = false) (hb : s.tests.bist = none) (due : Nat) :
    (s.startBist due []).pen = { s.pen with bistDue := nextDue due 1350 s.pen.lifeS, bistPtr := (s.pen.bistPtr + 1) % 64 } ∧
    ((s.startBist due []).yard s.pen.bistPtr).gated = false ∧ (due = s.pen.lifeS → (s.startBist due []).log = s.log) ∧
    (due < s.pen.lifeS → LogHolds (s.startBist due []) 0x070A [1, s.pen.lifeS - due]) ∧
    (s.yardIdle s.pen.bistPtr = true → (s.startBist due []).tests = s.tests) ∧
    (s.yardIdle s.pen.bistPtr = false → ∃ r, (s.startBist due []).tests.bist = some r ∧ r.yard = s.pen.bistPtr ∧ r.due = due) ∧
    (s.startBist due []).glob = s.glob ∧ WorkSame s (s.startBist due []) := by
  rw [State.startBist_eq hm]
  obtain ⟨hyards, hglob, hsame, honTime, hlate, hum⟩ := State.beginBist_leaves hm due []
  obtain ⟨heq, hearly, hholds, hidle, hbusy⟩ := State.runBist_good (s := s.beginBist due []) hum rfl rfl rfl
  have hwork : (s.beginBist due []).yardIdle s.pen.bistPtr = s.yardIdle s.pen.bistPtr := by rw [State.yardIdle, hsame.1]; rfl
  have htests : ({ (s.beginBist due []).tests with bist := none } : Tests) = s.tests := by rw [← hb]; rfl
  rw [htests, hwork] at hidle
  rw [hwork] at hbusy
  have hgated : ((s.beginBist due []).yard s.pen.bistPtr).gated = false := by
    rw [State.yard, hyards]
    exact State.yard_ungate s.pen.bistPtr s
  generalize (s.beginBist due []).runBist = v at heq hearly hholds hidle hbusy ⊢
  refine ⟨?_, ?_, fun h => (hearly ?_).trans (honTime h), fun h => hholds _ _ (hlate h), hidle, hbusy, ?_, ?_⟩
  · rw [heq]
    rfl
  · rw [heq]
    exact hgated
  · rw [h]
    exact Nat.lt_add_of_pos_right (by decide)
  · rw [heq]
    exact hglob
  · rw [heq]
    exact hsame

/-- A part of a Yard that fails its BIST is reported and sets the fault bit, where the safety mode does not stop the block. -/
theorem State.bistFail_leaves {s : State} (hm : s.restarting .masthead = false) (hsafe : s.pen.inForce.safety ≠ 1) (y : Nat) (f : BistFail) :
    Raises s (s.bistFail y f) 10 ∧ Logged (s.bistFail y f) 0x0805 [y, f.part, if f.part = 1 then f.buffer else 0] ∧
    WorkSame s (s.bistFail y f) := by
  have hpen : ((s.logMast 0x0805 (y / 8) [y, f.part, if f.part = 1 then f.buffer else 0]).setFault 10).pen = s.pen :=
    State.logWith_pen _ _ _ _ _ _ _
  rw [State.bistFail, State.safetyEvent_off (by rw [hpen]; exact hsafe)]
  refine ⟨?_, State.logged_logWith hm _ _ _ _ _ _, ?_⟩
  · simp [Raises, State.logMast, State.setFault]
  · simp [WorkSame, State.logMast]

/-- What a run that finds one failing part leaves of the block, where its Yard does nothing else. -/
theorem State.startBist_fail_leaves {s : State} (hm : s.restarting .masthead = false) (hi : s.yardIdle s.pen.bistPtr = true)
    (hsafe : s.pen.inForce.safety ≠ 1) (due : Nat) (f : BistFail) :
    Raises s (s.startBist due [f]) 10 ∧
    Logged (s.startBist due [f]) 0x0805 [s.pen.bistPtr, f.part, if f.part = 1 then f.buffer else 0] ∧
    WorkSame s (s.startBist due [f]) := by
  rw [State.startBist_eq hm]
  obtain ⟨-, hglob, ⟨hxfers, hsheets, hgens, hcleats, hacc⟩, -, -, hum⟩ := State.beginBist_leaves hm due [f]
  have hwork : (s.beginBist due [f]).yardIdle s.pen.bistPtr = true := by rw [State.yardIdle, hxfers]; exact hi
  have hsafe' : (s.beginBist due [f]).pen.inForce.safety ≠ 1 := hsafe
  rw [State.runBist_idle (s := s.beginBist due [f]) rfl hwork]
  obtain ⟨hraises, hlogged, hx, hs, hg, hc, ha⟩ := State.bistFail_leaves
    (s := { s.beginBist due [f] with tests := { (s.beginBist due [f]).tests with bist := none } }) hum hsafe' s.pen.bistPtr f
  exact ⟨hraises.trans (by rw [hglob]), hlogged, hx.trans hxfers, hs.trans hsheets, hg.trans hgens, hc.trans hcleats, ha.trans hacc⟩

/-! ### The expiries that start the tests (R31, R438) -/

section

variable {s : State} (ha : Alive s) (hr : s.glob.ready = true) (ht : s.timerAt ≤ s.pen.timer) (hturn : s.timerTurn 3 s.pen.timer = true)

include ha hr ht hturn

theorem State.selfTest_due (hd : s.pen.spareDue ≤ s.pen.lifeS) (fails : List (Nat × Nat)) :
    s.selfTest fails = if s.served.selfTestCan then s.served.startSelfTest s.pen.spareDue fails else s.served := by
  unfold State.selfTest
  simp only [State.tickOfLife_past hd, State.mainOn_of_alive ha, hr, hturn]
  rw [State.timerServe_past (Nat.le_refl _) ht]
  rfl

/-- With every processor there, a self-test that is due starts. -/
theorem State.selfTest_starts (hd : s.pen.spareDue ≤ s.pen.lifeS) (hup : s.procs.restarting = []) (fails : List (Nat × Nat)) :
    s.selfTest fails = s.woken.startSelfTest s.pen.spareDue fails := by
  rw [State.selfTest_due ha hr ht hturn hd, State.served_trimUp (State.mainOn_of_alive ha) (State.restarting_nil hup .trim)]
  exact if_pos (State.selfTestCan_up (s := s.woken) hup)

/-- A self-test that cannot start leaves what the timer's service leaves. -/
theorem State.selfTest_waits (hd : s.pen.spareDue ≤ s.pen.lifeS) (fails : List (Nat × Nat)) (hcan : s.served.selfTestCan = false) :
    Expires (.spareSelfTest fails) s s.served := by
  have he : Expires (.spareSelfTest fails) s (s.selfTest fails) := rfl
  rwa [State.selfTest_due ha hr ht hturn hd, hcan] at he

theorem State.bist_due (hd : s.pen.bistDue ≤ s.pen.lifeS) (fails : List BistFail) :
    s.bist fails = if s.served.bistCan s.served.pen.bistPtr then s.served.startBist s.pen.bistDue fails else s.served := by
  unfold State.bist
  simp only [State.tickOfLife_past hd, State.mainOn_of_alive ha, hr, hturn]
  rw [State.timerServe_past (Nat.le_refl _) ht]
  rfl

/-- With every processor there and a buffer free, a run of the BIST that is due starts. -/
theorem State.bist_starts (hd : s.pen.bistDue ≤ s.pen.lifeS) (hb : s.tests.bist = none) (hfit : s.buffersFit s.pen.bistPtr none 1 = true)
    (hup : s.procs.restarting = []) (fails : List BistFail) : s.bist fails = s.woken.startBist s.pen.bistDue fails := by
  rw [State.bist_due ha hr ht hturn hd, State.served_trimUp (State.mainOn_of_alive ha) (State.restarting_nil hup .trim)]
  exact if_pos (State.bistCan_up (s := s.woken) hup hb hfit)

/-- A run of the BIST that cannot start leaves what the timer's service leaves. -/
theorem State.bist_waits (hd : s.pen.bistDue ≤ s.pen.lifeS) (fails : List BistFail)
    (hcan : s.served.bistCan s.served.pen.bistPtr = false) : Expires (.yardBist fails) s s.served := by
  have he : Expires (.yardBist fails) s (s.bist fails) := rfl
  rwa [State.bist_due ha hr ht hturn hd, hcan] at he

end

/-- Settles O19: with every processor there a test that is due starts on the woken block, and otherwise it leaves the service of the timer. -/
theorem latentTests : Obligations.LatentTests := by
  intro s ha hr ht hm
  refine ⟨fun hd hturn => ⟨fun hup htrials => ⟨?_, fun y p check hy hfree hp hserves hmast hsafe => ?_⟩, fun fails m c hm hc hdown => ?_,
    fun fails hdown hi => ?_⟩, fun hd hturn hb hfit => ⟨fun hup => ⟨?_, fun part buffer hi hsafe => ?_⟩, fun fails hdown => ?_,
    fun fails hdown hi => ?_⟩, bistLate hm⟩
  · obtain ⟨hdue, honTime, hlate, hyards, hglob, hsame⟩ :=
      State.startSelfTest_good_leaves (s := s.woken) (State.restarting_nil hup .masthead) htrials s.pen.spareDue
    rw [← State.selfTest_starts ha hr ht hturn hd hup] at hdue honTime hlate hyards hglob hsame
    exact ⟨_, rfl, hdue, honTime, hlate, hyards, congrArg (·.fault) hglob, congrArg (·.power) hglob, hsame⟩
  · refine ⟨_, rfl, ?_⟩
    rw [State.selfTest_starts ha hr ht hturn hd hup]
    exact State.startSelfTest_spare_leaves (s := s.woken) (State.restarting_nil hup .masthead) htrials s.pen.spareDue check hy hfree hp
      hserves hmast hsafe
  · have hcan : s.served.selfTestCan = false := State.selfTestCan_coreDown hm hc (by rw [State.restarting, State.served_procs]; exact hdown)
    exact ⟨s.served, State.selfTest_waits ha hr ht hturn hd fails hcan, s.served_frame⟩
  · have htrim : s.restarting .trim = true := by rw [State.restarting, hdown]; rfl
    have hserved := State.served_trimDown hi htrim
    rw [← hserved]
    exact State.selfTest_waits ha hr ht hturn hd fails (hserved ▸ State.selfTestCan_trimDown htrim hi)
  · obtain ⟨hpen, hgated, honTime, hlate, hidle, hbusy, hglob, hsame⟩ :=
      State.startBist_good_leaves (s := s.woken) (State.restarting_nil hup .masthead) hb s.pen.bistDue
    rw [← State.bist_starts ha hr ht hturn hd hb hfit hup] at hpen hgated honTime hlate hidle hbusy hglob hsame
    exact ⟨_, rfl, congrArg (·.bistDue) hpen, congrArg (·.bistPtr) hpen, hgated, honTime, hlate, hidle, hbusy,
      congrArg (·.fault) hglob, congrArg (·.power) hglob, hsame⟩
  · refine ⟨_, rfl, ?_⟩
    rw [State.bist_starts ha hr ht hturn hd hb hfit hup]
    exact State.startBist_fail_leaves (s := s.woken) (State.restarting_nil hup .masthead) hi hsafe s.pen.bistDue ⟨part, buffer⟩
  · have hcan : s.served.bistCan s.served.pen.bistPtr = false :=
      State.bistCan_coreDown (by rw [State.restarting, State.served_procs, State.served_pen]; exact hdown)
    exact ⟨s.served, State.bist_waits ha hr ht hturn hd fails hcan, s.served_frame⟩
  · have htrim : s.restarting .trim = true := by rw [State.restarting, hdown]; rfl
    have hserved := State.served_trimDown hi htrim
    rw [← hserved]
    exact State.bist_waits ha hr ht hturn hd fails (hserved ▸ State.bistCan_trimDown htrim hi s.pen.bistPtr)

end Sys2Proof.Machine
end

section
/-! PROOFS. Requests and packets that wait too long at the ports (R49, R465): the answer of a FILL's write that does not come, and the CLEAT
SIGNAL packet that finds no usable port. -/

namespace Sys2Proof.Machine

open Sys2Proof.Claims

/-! ### What the time that passes leaves of entries, requests and transfers -/

/-- The clock may come to a deadline first: entries, port requests, transfers and what is issued stay. -/
theorem State.expire_ports (t : Nat) (s : State) : (s.expire t).accepted = s.accepted ∧ (s.expire t).freqs = s.freqs ∧
    (s.expire t).xfers = s.xfers ∧ (s.expire t).waitPkts = s.waitPkts ∧ (s.expire t).issued = s.issued := by
  obtain ⟨_, _, _, _, _, _, _, _, h⟩ := s.expire_eq t
  rw [h]
  exact ⟨rfl, rfl, rfl, rfl, rfl⟩

theorem State.acc_of_accepted {s t : State} (h : t.accepted = s.accepted) (e : Nat) : t.acc e = s.acc e := by
  rw [State.acc, h, State.acc]

/-! ### A transfer that loses a part -/

/-- The parts of a list, the one at an index failed. -/
def failAt (i : Nat) (ps : List Part) : List Part := ps.zipIdx.map fun p => if p.2 = i then { p.1 with failed := true } else p.1

theorem getElem?_failAt {i : Nat} {ps : List Part} {p : Part} (h : ps[i]? = some p) : (failAt i ps)[i]? = some { p with failed := true } := by
  simp [failAt, h]

/-- A write of a FILL that is not confirmed: its entry meets FABRIC_LOST, and the part fails. -/
theorem State.writeLost_fill {s : State} {x : Xfer} {e : Nat} (hw : x.work = .fill e) (i ep info : Nat) :
    s.writeLost x i ep info = (s.meet e 0x23 info).modXfer x.id fun t => { t with dsts := failAt i t.dsts } := by
  rw [State.writeLost, hw]
  rfl

/-- An entry that holds no condition and has not ended meets its first one. -/
theorem State.acc_meet_first {s : State} {e : Nat} {a : Acc} (h : s.acc e = some a) (hf : a.fin = none) (hc : a.conds = []) (status info : Nat) :
    (s.meet e status info).acc e = some { a with conds := [⟨status, info⟩] } := by
  simp [State.acc_meet, h, hf, hc]

/-- R49: the write that stands alone at the fabric ports is lost, with its transfer's part. -/
theorem State.lose_fill {s : State} {r : FabReq} {x : Xfer} {e : Nat} (hr : s.freqs = [r]) (hwrite : r.write = true)
    (hx : FMap.find s.xfers r.xfer = some x) (hid : x.id = r.xfer) (hw : x.work = .fill e) (cause : Nat) :
    s.lose r cause = (({ s with freqs := [] } : State).meet e 0x23 (lostInfo r.port cause)).modXfer r.xfer
      fun t => { t with dsts := failAt r.part t.dsts } := by
  have hnone : (s.freqs.filter fun q => !(q.port == r.port && q.tag == r.tag && q.write == r.write)) = [] := by
    rw [hr]
    simp
  unfold State.lose
  rw [hnone]
  simp only [hx, hwrite, if_true]
  rw [State.writeLost_fill hw, hid]

/-- R49: the response timeout of the one outstanding request. -/
theorem State.fabTimeoutAt_only {s : State} {r : FabReq} {p tag : Nat} (hr : s.freqs = [r]) (hp : r.port = p) (ht : r.tag = tag) :
    s.fabTimeoutAt p tag = (s.expire (r.since + r.limit)).lose r 1 := by
  have hfind : s.freqs.find? (fun q => q.port == p && q.tag == tag) = some r := by
    rw [hr, List.find?_cons_of_pos]
    simp [hp, ht]
  rw [State.fabTimeoutAt, hfind]

theorem fabricTimeouts : Claims.FabricTimeouts := by
  intro s p tag e r x a hr hp ht hwrite hx hid hw hpart ha hf hc
  obtain ⟨hacc, hfreqs, hxfers, -⟩ := State.expire_ports (r.since + r.limit) s
  have hlose := State.lose_fill (s := s.expire (r.since + r.limit)) (hfreqs.trans hr) hwrite (hxfers ▸ hx) hid hw 1
  rw [← State.fabTimeoutAt_only hr hp ht, hp] at hlose
  obtain ⟨d, hd⟩ : ∃ d, x.dsts[r.part]? = some d := ⟨_, List.getElem?_eq_getElem hpart⟩
  refine ⟨s.fabTimeoutAt p tag, { x with dsts := failAt r.part x.dsts }, { d with failed := true }, rfl, ?_, ?_, ?_,
    getElem?_failAt hd, rfl⟩
  · rw [hlose]
    rfl
  · rw [hlose]
    refine (FMap.find_modify_self _ _ _).trans ?_
    rw [State.meet_xfers, hxfers, hx]
    rfl
  · rw [hlose]
    exact State.acc_meet_first ((State.acc_of_accepted (t := { s.expire (r.since + r.limit) with freqs := [] }) hacc e).trans ha) hf hc _ _

/-! ### A packet that waits for a usable port (R465) -/

/-- An entry whose CLEAT SIGNAL packet is not sent: it ends with FABRIC_LOST. -/
def Acc.unsent (a : Acc) : Acc :=
  { a with sigWait := false, sigSent := if a.fin.isSome then true else a.sigSent
           conds := a.conds ++ [⟨0x23, lostInfo 0xFF 2⟩], fin := a.fin.orElse fun _ => some 0 }

/-- No packet of the entry waits for a port any more. -/
def State.unsend (e : Nat) (s : State) : State := { s with waitPkts := s.waitPkts.filter (·.1 != e) }

/-- The wait of a CLEAT SIGNAL packet for a usable port ends. -/
theorem State.signalTimeout_waits {s : State} {e : Nat} {a : Acc} (h : s.acc e = some a) (hs : a.sigWait = true) :
    s.signalTimeout e = (s.unsend e).modAcc e Acc.unsent := by
  simp only [State.signalTimeout, h, hs, Bool.not_true, Bool.false_eq_true, if_false]
  rfl

theorem State.portWaitOver_signal {s : State} {e : Nat} {a : Acc} (h : s.acc e = some a) :
    s.portWaitOver (.signal e) = if a.sigWait then (s.expire (a.tick + s.glob.fabTimeout)).signalTimeout e else s := by
  simp only [State.portWaitOver, h]

theorem portTimeouts : Claims.PortTimeouts := by
  intro s e a ha
  refine ⟨fun hs hf => ?_, fun hs => ?_, fun x hx => ?_⟩
  · obtain ⟨hacc, -, -, hwait, hissued⟩ := State.expire_ports (a.tick + s.glob.fabTimeout) s
    have hover := State.portWaitOver_signal ha
    have ha' := (State.acc_of_accepted hacc e).trans ha
    rw [if_pos hs, State.signalTimeout_waits ha' hs] at hover
    refine ⟨s.portWaitOver (.signal e), rfl, ?_, ?_, ?_, ?_⟩
    · rw [hover, State.acc_modAcc_some (s := (s.expire _).unsend e) Acc.unsent (fun _ => rfl) ha', Acc.unsent, hf]
      rfl
    · rw [hover]
      intro w hw
      simpa using (List.mem_filter.mp hw).2
    · rw [hover]
      intro w hw hne
      exact List.mem_filter.mpr ⟨hwait ▸ hw, by simpa using hne⟩
    · rw [hover]
      exact hissued
  · have hover := State.portWaitOver_signal ha
    rw [if_neg (by rw [hs]; decide)] at hover
    have hexec : Expires (.usablePortTimeout (.signal e)) s (s.portWaitOver (.signal e)) := rfl
    rwa [hover] at hexec
  · have hover : s.portWaitOver (.transfer x) = s := by
      simp only [State.portWaitOver, State.portTimeout, hx]
    have hexec : Expires (.usablePortTimeout (.transfer x)) s (s.portWaitOver (.transfer x)) := rfl
    rwa [hover] at hexec

/-- Settles O47: a lost write by the one request that it removes, and a wait for a port by whether there is one. -/
theorem portTimeoutRules : Obligations.PortTimeoutRules := ⟨fabricTimeouts, portTimeouts⟩

end Sys2Proof.Machine
end

section
/-! PROOFS. The answers of the staging and host master ports (R58, R59, R96, R327, R329): each ends its request, and what it says is stored,
or met by the entry that owns the transfer. -/

namespace Sys2Proof.Machine

open Sys2Proof.Claims

/-! ### What uncorrectable data leaves behind (R327) -/

/-- The pending entry of a COPY owns its transfers. -/
theorem State.ownerOf_copy {s : State} {x : Xfer} {e : Nat} {a : Acc} (hw : x.work = .copy e) (ha : s.acc e = some a) (hf : a.fin = none) :
    s.ownerOf x = some a := by
  simp [State.ownerOf, hw, Work.entry?, ha, hf]

/-- An uncorrectable event counts, halts the owner's queue and is logged. -/
def State.uncHalt (a : Acc) (mem cause unit word n : Nat) (s : State) : State :=
  ((s.count (if mem = 1 then ctrId 2 unit (1 + cause) else ctrId 5 unit (2 + cause)) n).haltQueue a.sq).logFn 0x0602 a.fn
    [eccInfo mem cause unit word]

/-- An uncorrectable event of a COPY's transfer is met by its entry, whose queue halts. -/
theorem State.uncorrectable_copy {s : State} {x : Xfer} {e : Nat} {a : Acc} (hw : x.work = .copy e) (ha : s.acc e = some a)
    (hf : a.fin = none) (q mem cause unit word n : Nat) : s.uncorrectable x q mem cause unit word n =
      (s.uncHalt a mem cause unit word n).meet a.id 0x82 (eccInfo mem cause unit word) := by
  have hs : x.work.isSheet = false := by rw [hw]; rfl
  simp only [State.uncorrectable, State.ownerOf_copy hw ha hf, hs, Bool.false_eq_true, if_false]
  rfl

/-- What such an event leaves: its entry met ECC_ERROR, and its queue, where it was running, is halted. -/
theorem State.uncorrectable_copy_leaves {s : State} {x : Xfer} {e : Nat} {a : Acc} {z : Sq} (hw : x.work = .copy e) (ha : s.acc e = some a)
    (hf : a.fin = none) (hc : a.conds = []) (hid : a.id = e) (hq : FMap.find s.sqs a.sq = some z) (hz : z.state = .running)
    (q mem cause unit word n : Nat) :
    ∃ t, t = s.uncorrectable x q mem cause unit word n ∧ t.acc e = some { a with conds := [⟨0x82, eccInfo mem cause unit word⟩] } ∧
      FMap.find t.sqs a.sq = some (z.stop .halted) ∧ t.glob = s.glob ∧ t.sreqs = s.sreqs ∧ t.unknown = s.unknown ∧ t.xfers = s.xfers := by
  subst hid
  refine ⟨_, rfl, ?_⟩
  rw [State.uncorrectable_copy hw ha hf]
  refine ⟨State.acc_meet_first ?_ hf hc _ _, ?_, ?_, ?_, ?_, ?_⟩
  · exact (State.acc_of_accepted (by simp [State.uncHalt, State.haltQueue]) a.id).trans ha
  · have hs : ((s.uncHalt a mem cause unit word n).meet a.id 0x82 (eccInfo mem cause unit word)).sqs = (s.haltQueue a.sq).sqs := by
      simp [State.uncHalt, State.haltQueue]
    rw [hs]
    refine (FMap.find_modify_self _ _ _).trans ?_
    rw [hq, Option.map_some, if_pos (by rw [hz]; rfl)]
  all_goals simp [State.uncHalt, State.haltQueue]

/-! ### The staging ports (R58, R329) -/

section

variable {s : State} {port tag : Nat} {r : StgReq} {x : Xfer}
  (hr : (s.sreqs.find? fun z => z.port == port && z.tag == tag) = some r) (hold : r.old = false) (hz : r.xfer ≠ 0)
  (hx : FMap.find s.xfers r.xfer = some x)
include hr hold hz hx

/-- The state in which a staging request is owed no more. -/
def State.unowe (r : StgReq) (s : State) : State := { s with sreqs := s.sreqs.erase r }

theorem State.stgAnswer_write (hw : r.write = true) (answer : Option (Bool × List Byte × List Byte)) : s.stgAnswer port tag answer =
    match answer with
    | some (false, _, _) => (s.unowe r).dropUnknown port r.unitAddr
    | some (true, _, _) => (s.unowe r).stgWriteFailed x r 4
    | none => (s.unowe r).stgWriteFailed x r 3 := by
  simp only [State.stgAnswer, hr, hold, hz, hx, hw, Bool.false_eq_true, if_false, if_true]
  rcases answer with _ | ⟨_ | _, _, _⟩ <;> rfl

theorem State.stgAnswer_read (hw : r.write = false) (answer : Option (Bool × List Byte × List Byte)) :
    s.stgAnswer port tag answer = (s.unowe r).stgReadBack x r answer := by
  simp only [State.stgAnswer, hr, hold, hz, hx, hw, Bool.false_eq_true, if_false]
  rfl

end

/-- A command at the staging ports outside boot leaves what the answer to the request leaves, settled. -/
theorem State.bootOn_awake {u : State} (h : u.glob.power ≠ .boot) : u.settle.bootOn = u.settle :=
  if_neg h

theorem expires_stagingResponse {s : State} {port tag : Nat} {err : Bool} {data check : List Byte}
    (h : (s.stgAnswer port tag (some (err, data, check))).glob.power ≠ .boot) :
    Expires (.stagingResponse port tag err data check) s (s.stgAnswer port tag (some (err, data, check))) :=
  congrArg (fun t => Host.Outcome.next (s.keepTimed t)) (State.bootOn_awake h)

theorem expires_stagingResponseTimeout {s : State} {port tag : Nat} (h : (s.stgAnswer port tag none).glob.power ≠ .boot) :
    Expires (.stagingResponseTimeout port tag) s (s.stgAnswer port tag none) :=
  congrArg (fun t => Host.Outcome.next (s.keepTimed t)) (State.bootOn_awake h)

/-- The commands that answer a staging request, by what they say. -/
def stagingAnswer (port tag : Nat) : Option (Bool × List Byte × List Byte) → Instr
  | some (err, data, check) => .stagingResponse port tag err data check
  | none => .stagingResponseTimeout port tag

theorem expires_stagingAnswer {s : State} {port tag : Nat} {answer : Option (Bool × List Byte × List Byte)}
    (h : (s.stgAnswer port tag answer).glob.power ≠ .boot) : Expires (stagingAnswer port tag answer) s (s.stgAnswer port tag answer) := by
  rcases answer with _ | ⟨err, data, check⟩
  · exact expires_stagingResponseTimeout h
  · exact expires_stagingResponse h

/-- Cause 3 is a timeout and the other cause an error (R329): the answer that a command with the cause gives. -/
theorem stagingAnswer_of_cause {port tag k cause : Nat} {c : Instr} (h : c = .stagingResponseTimeout port tag ∧ cause = 3 ∨
    ∃ data check, c = .stagingResponse port tag true data check ∧ cause = k) :
    ∃ answer, c = stagingAnswer port tag answer ∧ (answer = none ∧ cause = 3 ∨ ∃ data check, answer = some (true, data, check) ∧ cause = k) := by
  rcases h with ⟨rfl, h⟩ | ⟨data, check, rfl, h⟩
  · exact ⟨none, rfl, .inl ⟨rfl, h⟩⟩
  · exact ⟨some (true, data, check), rfl, .inr ⟨data, check, rfl, h⟩⟩

/-- A granule that is not known yet, on a port whose list is not full. -/
theorem State.holdUnknown_new {s : State} {port unit : Nat} (hn : unit ∉ s.unknownAt port) (hl : (s.unknownAt port).length < 1024) :
    s.holdUnknown port unit = { s with unknown := FMap.put s.unknown port (s.unknownAt port ++ [unit]) } := by
  unfold State.holdUnknown
  extract_lets ls
  rw [if_neg (Nat.not_le.mpr hl), if_neg (by rwa [List.contains_iff_mem])]

/-- A write of a COPY that is not confirmed. -/
theorem State.stgWriteFailed_copy {s : State} {x : Xfer} {e : Nat} (hw : x.work = .copy e) (r : StgReq) (cause : Nat) :
    s.stgWriteFailed x r cause =
      ((s.holdUnknown r.port r.unitAddr).uncorrectable x 0 3 cause r.port r.unitAddr 1).failPart x.id r.part true := by
  simp only [State.stgWriteFailed, State.landingOf, hw, Work.writesDir, Bool.false_eq_true, if_false]

/-- A read of a COPY that comes back as bad: reported, and delivered as poisoned zeros. -/
theorem State.stgReadBad_copy {s : State} {x : Xfer} {e : Nat} (hw : x.work = .copy e) {r : StgReq} (hm : r.rmw = false) (cause n : Nat) :
    s.stgReadBad x r cause n = (s.uncorrectable x 0 3 cause r.port r.unitAddr n).deliver x r badGranule := by
  simp only [State.stgReadBad, State.landingOf, State.eccReadFailed, hw, hm, Bool.false_eq_true, if_false]

/-- What a granule read shows to be bad before its bytes are looked at: a granule that is not known, no answer, or an error (R329). -/
theorem State.stgReadBack_bad {s : State} {x : Xfer} {r : StgReq} {answer : Option (Bool × List Byte × List Byte)} {cause : Nat}
    (h : r.unitAddr ∈ s.unknownAt r.port ∧ cause = 4 ∨ r.unitAddr ∉ s.unknownAt r.port ∧
      (answer = none ∧ cause = 3 ∨ ∃ data check, answer = some (true, data, check) ∧ cause = 2)) :
    s.stgReadBack x r answer = s.stgReadBad x r cause 1 := by
  have hc : s.stgClassify r.port r.unitAddr answer = (.bad cause 1, s) := by
    rcases h with ⟨hk, rfl⟩ | ⟨hk, ⟨rfl, rfl⟩ | ⟨data, check, rfl, rfl⟩⟩
    · exact if_pos (List.contains_iff_mem.mpr hk)
    · simp [State.stgClassify, hk]
    · simp [State.stgClassify, hk]
  simp only [State.stgReadBack, hc]

/-- An armed flip that is taken is used up, and nothing else changes. -/
theorem State.takeFlip_eq (target unit : Nat) (s : State) : ∃ f v,
    s.takeFlip target unit = (f, { s with glob := { s.glob with eccFlip := v } }) := by
  unfold State.takeFlip
  extract_lets v
  split_ifs
  · exact ⟨_, _, rfl⟩
  · exact ⟨none, s.glob.eccFlip, rfl⟩

/-- Bytes that are put into a transfer's buffers change transfers, and use up an armed flip. -/
theorem State.putBytes_eq (x i off : Nat) (bs : List PByte) (dirty : Bool) (s : State) : ∃ v m,
    s.putBytes x i off bs dirty = { s with glob := { s.glob with eccFlip := v }, xfers := m } := by
  unfold State.putBytes
  split
  · exact ⟨s.glob.eccFlip, s.xfers, rfl⟩
  · next t _ =>
    obtain ⟨f, v, h⟩ := s.takeFlip_eq 0 t.yard
    rw [h]
    exact ⟨v, _, rfl⟩

theorem State.deliver_eq (x : Xfer) (r : StgReq) (bs : List PByte) (s : State) : ∃ v m,
    s.deliver x r bs = { s with glob := { s.glob with eccFlip := v }, xfers := m } := by
  unfold State.deliver
  split
  · exact ⟨s.glob.eccFlip, s.xfers, rfl⟩
  · exact State.putBytes_eq _ _ _ _ _ s

/-- R327, R329: a read of a COPY that comes back as bad, for whatever cause. -/
theorem State.stgAnswer_readBad {s : State} {port tag cause : Nat} {r : StgReq} {x : Xfer} {a : Acc} {q : Sq} {e : Nat}
    {answer : Option (Bool × List Byte × List Byte)}
    (hr : (s.sreqs.find? fun z => z.port == port && z.tag == tag) = some r) (hold : r.old = false) (hz : r.xfer ≠ 0)
    (hx : FMap.find s.xfers r.xfer = some x) (hw : x.work = .copy e) (ha : s.acc e = some a) (hf : a.fin = none) (hc : a.conds = [])
    (hid : a.id = e) (hq : FMap.find s.sqs a.sq = some q) (hrun : q.state = .running) (hboot : s.glob.power ≠ .boot)
    (hread : r.write = false) (hm : r.rmw = false) (h : r.unitAddr ∈ s.unknownAt r.port ∧ cause = 4 ∨ r.unitAddr ∉ s.unknownAt r.port ∧
      (answer = none ∧ cause = 3 ∨ ∃ data check, answer = some (true, data, check) ∧ cause = 2)) :
    ∃ t b z, Expires (stagingAnswer port tag answer) s t ∧ t.sreqs = s.sreqs.erase r ∧ t.acc e = some b ∧
      b.conds = [⟨0x82, eccInfo 3 cause r.port r.unitAddr⟩] ∧ FMap.find t.sqs a.sq = some z ∧ z.state = .halted := by
  have hans := State.stgAnswer_read hr hold hz hx hread answer
  rw [State.stgReadBack_bad (s := s.unowe r) h, State.stgReadBad_copy hw hm] at hans
  obtain ⟨u, hu, hacc, hsq, hglob, hsreqs, -, -⟩ :=
    State.uncorrectable_copy_leaves (s := s.unowe r) hw ha hf hc hid hq hrun 0 3 cause r.port r.unitAddr 1
  obtain ⟨v, m, hd⟩ := u.deliver_eq x r badGranule
  rw [← hu, hd] at hans
  refine ⟨_, { a with conds := [⟨0x82, eccInfo 3 cause r.port r.unitAddr⟩] }, q.stop .halted, expires_stagingAnswer ?_, ?_, ?_, rfl, ?_, rfl⟩
  · rw [hans]
    exact fun h => hboot (hglob ▸ h)
  · rw [hans]
    exact hsreqs
  · rw [hans]
    exact hacc
  · rw [hans]
    exact hsq

/-- R329: a write of a COPY that is not confirmed, for whatever cause. -/
theorem State.stgAnswer_writeFailed {s : State} {port tag cause : Nat} {r : StgReq} {x : Xfer} {a : Acc} {q : Sq} {e : Nat}
    {answer : Option (Bool × List Byte × List Byte)}
    (hr : (s.sreqs.find? fun z => z.port == port && z.tag == tag) = some r) (hold : r.old = false) (hz : r.xfer ≠ 0)
    (hx : FMap.find s.xfers r.xfer = some x) (hw : x.work = .copy e) (ha : s.acc e = some a) (hf : a.fin = none) (hc : a.conds = [])
    (hid : a.id = e) (hq : FMap.find s.sqs a.sq = some q) (hrun : q.state = .running) (hboot : s.glob.power ≠ .boot)
    (hwrite : r.write = true) (hn : r.unitAddr ∉ s.unknownAt r.port) (hl : (s.unknownAt r.port).length < 1024)
    (h : answer = none ∧ cause = 3 ∨ ∃ data check, answer = some (true, data, check) ∧ cause = 4) :
    ∃ t b z, Expires (stagingAnswer port tag answer) s t ∧ t.sreqs = s.sreqs.erase r ∧
      t.unknownAt r.port = s.unknownAt r.port ++ [r.unitAddr] ∧ t.acc e = some b ∧
      b.conds = [⟨0x82, eccInfo 3 cause r.port r.unitAddr⟩] ∧ FMap.find t.sqs a.sq = some z ∧ z.state = .halted := by
  have hans : s.stgAnswer port tag answer = (s.unowe r).stgWriteFailed x r cause := by
    rw [State.stgAnswer_write hr hold hz hx hwrite]
    rcases h with ⟨rfl, rfl⟩ | ⟨data, check, rfl, rfl⟩ <;> rfl
  rw [State.stgWriteFailed_copy hw, State.holdUnknown_new (s := s.unowe r) hn hl] at hans
  obtain ⟨u, hu, hacc, hsq, hglob, hsreqs, hunknown, -⟩ := State.uncorrectable_copy_leaves (s :=
    { s.unowe r with unknown := FMap.put s.unknown r.port (s.unknownAt r.port ++ [r.unitAddr]) }) hw ha hf hc hid hq hrun 0 3 cause
    r.port r.unitAddr 1
  replace hans : s.stgAnswer port tag answer = u.failPart x.id r.part true := hu ▸ hans
  refine ⟨_, { a with conds := [⟨0x82, eccInfo 3 cause r.port r.unitAddr⟩] }, q.stop .halted, expires_stagingAnswer ?_, ?_, ?_, ?_, rfl, ?_, rfl⟩
  · rw [hans]
    exact fun h => hboot (hglob ▸ h)
  · rw [hans]
    exact hsreqs
  · rw [hans]
    refine (congrArg (FMap.getD · r.port []) hunknown).trans ?_
    rw [FMap.getD, FMap.find_put_self]
    rfl
  · rw [hans]
    exact hacc
  · rw [hans]
    exact hsq

theorem stagingAnswers : Claims.StagingAnswers := by
  intro s port tag r x a q e hr hold hz hx hxid hw ha hf hc hid hq hrun hboot
  have hport : r.port = port := by
    have h := List.find?_some hr
    simp only [Bool.and_eq_true, beq_iff_eq] at h
    exact h.1
  refine ⟨fun hwrite data check => ?_, fun hwrite hn hl c cause h => ?_, fun hread hm hn c cause h => ?_, fun hread hm hk c h => ?_⟩
  · have hans := State.stgAnswer_write hr hold hz hx hwrite (some (false, data, check))
    have hexec := expires_stagingResponse (s := s) (port := port) (tag := tag) (err := false) (data := data) (check := check)
      (by rw [hans]; exact hboot)
    rwa [hans] at hexec
  · obtain ⟨answer, rfl, hcause⟩ := stagingAnswer_of_cause h
    exact State.stgAnswer_writeFailed hr hold hz hx hw ha hf hc hid hq hrun hboot hwrite hn hl hcause
  · obtain ⟨answer, rfl, hcause⟩ := stagingAnswer_of_cause h
    exact State.stgAnswer_readBad hr hold hz hx hw ha hf hc hid hq hrun hboot hread hm (.inr ⟨hport ▸ hn, hcause⟩)
  · have hbad := fun answer => State.stgAnswer_readBad (answer := answer) hr hold hz hx hw ha hf hc hid hq hrun hboot hread hm
      (.inl ⟨hport ▸ hk, rfl⟩)
    rcases h with rfl | ⟨err, data, check, rfl⟩
    · exact hbad none
    · exact hbad (some (err, data, check))

/-! ### The host master port (R59, R96) -/

/-- The state in which a host request is answered. -/
def State.unask (req : Nat) (s : State) : State := { s with hreqs := s.hreqs.filter (·.id != req) }

theorem acts_hostResponse (s : State) (req : Nat) (w : HostRead) : Acts (.hostResponse req w) s (s.hostAnswer req w) := rfl

/-- What an answer to an outstanding host request does, by its use. -/
theorem State.hostAnswer_found {s : State} {req : Nat} {r : HostReq} (h : s.hreqs.find? (·.id == req) = some r) (w : HostRead) :
    s.hostAnswer req w =
      match r.use, w with
      | .completion ring index, .error => (s.unask req).cqWriteError ring index
      | .completion _ _, .data _ => s.unask req
      | .interrupt _, _ => s.unask req
      | .data x i off len write, a =>
        match FMap.find s.xfers x with
        | none => s.unask req
        | some t =>
          match a with
          | .error => (s.unask req).hostFailed t i off len write
          | .data bs => if write then s.unask req else (s.unask req).putChunk x i off (plain (bs.take len)) := by
  simp only [State.hostAnswer, h]
  rfl

/-- An error of a completion write other than the admin ring's: the ring and its function halt (R96). -/
theorem State.cqWriteError_halts {s : State} {ring i : Nat} {c : Cq} {x : Fn} (h0 : ring ≠ 0) (hc : FMap.find s.cqs ring = some c)
    (hx : FMap.find s.fns c.fn = some x) (ha : x.state = .active) :
    ∃ y, FMap.find (s.cqWriteError ring i).cqs ring = some { c with state := .halted } ∧
      FMap.find (s.cqWriteError ring i).fns c.fn = some y ∧ y.state = .halted ∧ y.haltCause = 2 ∧ y.haltIndex = i ∧ y.haltQid = ring := by
  simp only [State.cqWriteError, hc, h0, if_false]
  refine ⟨{ x with state := .halted, haltCause := 2, haltIndex := i, haltQid := ring }, ?_, ?_, rfl, rfl, rfl, rfl⟩
  · simp [State.haltQueuesOf]
  · refine (FMap.find_modify_self _ _ _).trans ?_
    simp [State.haltQueuesOf, hx, ha]

theorem anyPoison_plain (bs : List Byte) : anyPoison (plain bs) = false := by
  simp [anyPoison, plain]

/-- Where no word of a transfer's sources is flipped, each part holds none. -/
theorem flips_nil {ps : List Part} (h : flipsOf ps = []) {p : Part} {i : Nat} (hp : (p, i) ∈ ps.zipIdx) : p.flips = [] := by
  simpa using (List.flatMap_eq_nil_iff.mp h) _ hp

/-- Unmarked bytes written into a part without flipped words, and without an armed flip. -/
theorem Part.write_plain {p : Part} (h : p.flips = []) (off : Nat) (bs : List Byte) :
    { p.write off (plain bs) none with dirty := p.dirty || anyPoison (plain bs) } = { p with chunks := FMap.put p.chunks off (plain bs) } := by
  rw [anyPoison_plain, Bool.or_false]
  simp [Part.write, h]

/-- Bytes that come for a part of a transfer, where no flip is armed and none of its words is flipped (R59). -/
theorem State.find_putChunk {s : State} {x i off : Nat} {bs : List Byte} {t : Xfer} (hx : FMap.find s.xfers x = some t)
    (he : s.glob.eccFlip = 0) (hf : flipsOf t.srcs = []) : FMap.find (s.putChunk x i off (plain bs)).xfers x = some { t with
      srcs := t.srcs.zipIdx.map fun p => if p.2 = i then { p.1 with chunks := FMap.put p.1.chunks off (plain bs) } else p.1 } := by
  simp only [State.putChunk, State.putBytes, hx, State.takeFlip_none he]
  refine (FMap.find_modify_self _ _ _).trans ?_
  rw [hx, Option.map_some]
  congr 2
  refine List.map_congr_left fun p hp => ?_
  rw [Part.write_plain (flips_nil hf hp)]

/-- The host master port did not return, or did not confirm, bytes of a COPY (R59): its entry meets POISONED, once. -/
theorem State.hostFailed_copy {s : State} {t : Xfer} {e : Nat} {a : Acc} (hw : t.work = .copy e) (ha : s.acc e = some a)
    (hf : a.fin = none) (hc : a.conds = []) (i off len : Nat) (w : Bool) :
    (s.hostFailed t i off len w).acc e = some { a with conds := [⟨0x22, 2 ^ 32⟩], hostLost := a.hostLost + len } := by
  have hput : ∃ u : State, u.accepted = s.accepted ∧ s.hostFailed t i off len w = u.meetHost e len := by
    refine ⟨if w then s else s.putBad t.id i off len, ?_, ?_⟩
    · unfold State.putBad
      split_ifs
      · rfl
      · rfl
      · obtain ⟨v, m, h⟩ := s.putBytes_eq t.id i off (List.replicate len PByte.bad) false
        rw [h]
    · simp only [State.hostFailed, hw, Work.entry?]
  obtain ⟨u, hacc, hu⟩ := hput
  have hmet := State.acc_meet_first ((State.acc_of_accepted hacc e).trans ha) hf hc 0x22 (2 ^ 32)
  rw [hu, State.meetHost, State.acc_modAcc _ _ _ (fun b => by split <;> rfl), hmet, Option.map_some]
  simp only [hf, Option.isNone_none, if_true]

theorem hostAnswers : Claims.HostAnswers := by
  intro s req
  refine ⟨fun hnone w => ?_, fun r hr => ⟨fun ring w hu => ?_, fun ring i bs hu => ?_, fun ring i c x hu h0 hc hx ha => ?_,
    fun x i off len bs t0 hu hx he hf => ?_, fun x i off len w t0 e a hu hx hw ha hid hf hc => ?_⟩⟩
  · have hfind : s.hreqs.find? (·.id == req) = none := List.find?_eq_none.mpr fun r hr => by simpa using hnone r hr
    have hexec := acts_hostResponse s req w
    rwa [State.hostAnswer, hfind] at hexec
  · have hexec := acts_hostResponse s req w
    rwa [State.hostAnswer_found hr, hu] at hexec
  · have hexec := acts_hostResponse s req (.data bs)
    rwa [State.hostAnswer_found hr, hu] at hexec
  · have hexec := acts_hostResponse s req .error
    rw [State.hostAnswer_found hr, hu] at hexec
    obtain ⟨y, hcq, hy⟩ := State.cqWriteError_halts (s := s.unask req) (i := i) h0 hc hx ha
    exact ⟨_, y, hexec, hcq, hy⟩
  · have hexec := acts_hostResponse s req (.data bs)
    simp only [State.hostAnswer_found hr, hu, hx, Bool.false_eq_true, if_false] at hexec
    exact ⟨_, _, hexec, State.find_putChunk (s := s.unask req) hx he hf, rfl, rfl⟩
  · have hexec := acts_hostResponse s req .error
    simp only [State.hostAnswer_found hr, hu, hx] at hexec
    exact ⟨_, hexec, State.hostFailed_copy (s := s.unask req) hw ha hf hc i off len w⟩

/-- Settles O59: staging answers by whether they confirm, and host answers by what their request was for. -/
theorem portAnswers : Obligations.PortAnswers := ⟨stagingAnswers, hostAnswers⟩

end Sys2Proof.Machine
end

section
/-! PROOFS. The read of SB_STATUS (R65, log 198): it samples the levels of the pins that were low, so it changes more than a latch. -/

namespace Sys2Proof.Machine

open Sys2Proof.Claims

/-- A running block that has seen PREEMPT_N fall. -/
def preemptSeen : State :=
  { State.reset with glob := { Glob.reset with power := .run, porstLow := false, afterPorst := false, ready := true, preemptHigh := false } }

/-- A read of SB_STATUS while a pin is low takes a free value for the levels that it samples. -/
theorem preemptSeen_reads : ∃ t, exec (.loRead 0x2C) preemptSeen = .next t ∧ t.free = preemptSeen.free + 1 :=
  ⟨_, exec_loRead_below preemptSeen (by decide), rfl⟩

/-- Refutes O34: a read of SB_STATUS, at 0x2C, changes more than a latch. While PREEMPT_N is low as of its last edge, the read samples
whether it has risen since, and the model takes the level as a free value (log 198). The statement lacks the exception of 0x2C. -/
theorem not_controlPort : ¬ Obligations.ControlPort := by
  unfold Obligations.ControlPort
  rintro ⟨hreads, -, -⟩
  obtain ⟨⟨t, ht, -, hsame⟩, -⟩ := hreads preemptSeen 0x2C rfl rfl rfl
  obtain ⟨u, hu, hfree⟩ := preemptSeen_reads
  obtain rfl : t = u := Host.Outcome.next.inj (ht.symm.trans hu)
  have hkept : t.free = preemptSeen.free := by rw [hsame]
  omega

end Sys2Proof.Machine
end

section
/-! PROOFS. The links and the arrival of packets (R41 to R56): what a link change, a packet sent and a packet received leave as they were, and
when a received packet acts, is discarded and counted, or stops its link. -/

namespace Sys2Proof.Machine

open Sys2Proof.Claims

/-! ### Counters (Table 14-9) -/

/-- Counting leaves the other counters. -/
theorem Counters.value_add_ne (c : Counters) {id k : Nat} (n : Nat) (h : k ≠ id) : (c.add id n).value k = c.value k := by
  unfold Counters.add Counters.value
  extract_lets v
  split <;> exact NMap.get_set_ne _ _ h

/-- An event counter that is not saturated goes up by one. -/
theorem Counters.value_add_one {c : Counters} {id : Nat} (hc : ctrClass id = some .event) (h : c.value id < 2 ^ 48 - 1) :
    (c.add id 1).value id = c.value id + 1 := by
  simp only [Counters.value, Counters.add, hc]
  rw [NMap.get_set_pos _ _ (by omega)]
  exact Nat.min_eq_left h

/-- The malformed-packet counter of a fabric port counts events. -/
theorem ctrClass_malformed (p : Nat) (h : p < 32) : ctrClass (ctrId 4 p 3) = some .event := by
  have hscope : ctrId 4 p 3 / 2 ^ 20 = 4 := by unfold ctrId; omega
  have hnum : ctrId 4 p 3 % 256 = 3 := by unfold ctrId; omega
  rw [ctrClass, hscope, hnum]
  rfl

theorem ctrId_ne {scope inst m n : Nat} (h : m ≠ n) : ctrId scope inst m ≠ ctrId scope inst n := by
  unfold ctrId
  omega

/-! ### Links -/

theorem State.link_of_links {s t : State} (h : t.links = s.links) (k : Nat) : t.link k = s.link k := by
  rw [State.link, h, State.link]

@[simp] theorem State.link_modLink_self (p : Nat) (g : Link → Link) (s : State) : (s.modLink p g).link p = g (s.link p) := by
  rw [State.link, State.modLink, FMap.getD, FMap.find_put_self]
  rfl

theorem State.link_modLink_ne {p k : Nat} (g : Link → Link) (s : State) (h : k ≠ p) : (s.modLink p g).link k = s.link k := by
  rw [State.link, State.modLink, FMap.getD, FMap.find_put_ne _ _ h]
  rfl

/-- Where no packet waits for a port, none is sent when one may be. -/
theorem State.flushPkts_nil {s : State} (h : s.waitPkts = []) : s.flushPkts = s := by
  obtain ⟨⟩ := s
  obtain rfl : _ = [] := h
  rfl

/-- Where a port owes no response, none is lost with it. -/
theorem State.dropPort_none {s : State} {p : Nat} (h : ∀ r ∈ s.freqs, r.port ≠ p) : s.dropPort p = s := by
  have hnone : s.freqs.filter (·.port == p) = [] := List.filter_eq_nil_iff.mpr fun r hr => by simpa using h r hr
  rw [State.dropPort, State.loseAll, hnone]
  rfl

/-- A link that stops asks for retraining (Table 2-5). -/
def Link.stopped (l : Link) : Link := { l with state := .stopped, retrain := true, newHalf := none, rollSent := false }

theorem State.stopLink_none {s : State} {p : Nat} (h : ∀ r ∈ s.freqs, r.port ≠ p) : s.stopLink p = s.modLink p Link.stopped :=
  State.dropPort_none (s := s.modLink p Link.stopped) h

/-- The keys of a session that starts are those of its halves (R51). -/
theorem Link.keys_startSession (l : Link) (root : List Byte) (port : Nat) (mine peer : Word64) :
    ((l.startSession root port mine peer).txKey, (l.startSession root port mine peer).rxKey) = sessionKeys root port mine peer := by
  simp only [Link.startSession]

/-! ### Sending (R43, R52) -/

/-- What a link counts of a packet that the block sends. -/
def Link.sent (n : Nat) (l : Link) : Link := { l with tx := if l.running then l.tx + 1 else l.tx, offered := l.offered + n }

/-- A packet that is sent changes its port's link and counters, and goes out sealed. -/
theorem State.sendAt_eq (port : Nat) (p : Pkt) (bs : List PByte) (s : State) : ∃ l c, s.sendAt port p bs =
    { s with links := l, ctr := c, issued := s.issued ++ [.packet port (p.flits (s.txSeal port) bs)] } := by
  unfold State.sendAt
  split_ifs
  · exact ⟨_, _, rfl⟩
  · exact ⟨_, _, rfl⟩

theorem State.sendAt_fabric {port : Nat} (h : port < 32) (p : Pkt) (bs : List PByte) (s : State) : (s.sendAt port p bs).links =
    (s.modLink port (Link.sent (flitsOf p bs.length))).links := by
  rw [State.sendAt, if_pos h]
  rfl

/-! ### A packet has come, and has had no effect yet -/

/-- `u` is `s` after the arrival of a packet at the fabric port `p`, before the packet acts: the session's counter has gone on, and what
was counted is not that the packet is malformed. -/
structure Received (s u : State) (p : Nat) : Prop where
  only : OnlyCounts s u
  link : u.link p = { s.link p with rx := (s.link p).rx + 1 }
  others : ∀ k, k ≠ p → u.link k = s.link k
  malformed : u.ctr.value (ctrId 4 p 3) = s.ctr.value (ctrId 4 p 3)

/-- The state in which the flits of a packet are counted, and the packet on the session's counter. -/
def State.received (p n : Nat) (s : State) : State := (s.count (ctrId 4 p 1) n).modLink p fun l => { l with rx := l.rx + 1 }

theorem received_received (s : State) (p n : Nat) : Received s (s.received p n) p where
  only := rfl
  link := State.link_modLink_self p _ (s.count (ctrId 4 p 1) n)
  others _ h := State.link_modLink_ne _ (s.count (ctrId 4 p 1) n) h
  malformed := Counters.value_add_ne _ _ (ctrId_ne (by decide))

theorem Received.eq {s u : State} {p : Nat} (h : Received s u p) : u = { s with links := u.links, ctr := u.ctr } := h.only

theorem onlyCounts_count {s u : State} (h : OnlyCounts s u) (id n : Nat) : OnlyCounts s (u.count id n) := by
  unfold OnlyCounts at *
  rw [h]
  rfl

/-- Poisoned flits are counted besides. -/
theorem Received.countPoison {s u : State} {p : Nat} (h : Received s u p) (n : Nat) : Received s (u.countPoison p n) p := by
  unfold State.countPoison
  split_ifs
  · exact ⟨onlyCounts_count h.only _ _, h.link, h.others, (Counters.value_add_ne _ _ (ctrId_ne (by decide))).trans h.malformed⟩
  · exact h

theorem received_heard (s : State) (p n : Nat) : Received s (s.heard p n) p := (received_received s p n).countPoison 0

namespace Received

variable {s u : State} {p : Nat} (h : Received s u p)
include h

theorem setup_eq : u.setup = s.setup := by rw [h.eq]
theorem pen_eq : u.pen = s.pen := by rw [h.eq]
theorem eps_eq : u.eps = s.eps := by rw [h.eq]
theorem gens_eq : u.gens = s.gens := by rw [h.eq]
theorem freqs_eq : u.freqs = s.freqs := by rw [h.eq]
theorem fns_eq : u.fns = s.fns := by rw [h.eq]
theorem issued_eq : u.issued = s.issued := by rw [h.eq]

/-- A packet that is discarded is counted once, and changes nothing else (R43, R44). -/
theorem discarded (hp : p < 32) : CountedOnce s (u.badPacket p) (ctrId 4 p 3) ∧ OnlyCounts s (u.badPacket p) := by
  have hbad : u.badPacket p = u.bump (ctrId 4 p 3) := if_pos hp
  rw [hbad]
  refine ⟨fun hv => ?_, onlyCounts_count h.only _ _⟩
  refine (Counters.value_add_one (ctrClass_malformed p hp) (h.malformed ▸ hv)).trans ?_
  rw [h.malformed]

/-- The link's session runs as it did. -/
theorem running_eq (k : Nat) : (u.link k).running = (s.link k).running := by
  by_cases hk : k = p
  · subst hk
    rw [h.link]
    rfl
  · rw [h.others k hk]

/-- The packets that the block sends next are sealed as before. -/
theorem txSeal_eq (k : Nat) : u.txSeal k = s.txSeal k := by
  unfold State.txSeal
  by_cases hk : k = p
  · subst hk
    rw [h.link]
    rfl
  · rw [h.others k hk]

end Received

/-! ### The receive channel (R44, R48, R53, R54) -/

/-- The commands that bring a packet do what its flits spell. -/
theorem acts_arrive {c : Instr} {p : Nat} {fs : List Flit} (h : flitsAt c = some (p, fs)) (s : State) : Acts c s (s.arrive p fs) := by
  unfold flitsAt at h
  split at h <;> cases h <;> rfl

/-- Outside RUN, at a link that is down or stopped and at an unusable drain port a packet is not taken. -/
theorem State.arrive_shut {s : State} {p : Nat} {h : Flit} {data : List Flit} (hs : s.glob.power ≠ .run ∨
    (p < 32 ∧ ((s.link p).state = .down ∨ (s.link p).state = .stopped)) ∨ (32 ≤ p ∧ p ∉ s.drainPorts)) : s.arrive p (h :: data) = s := by
  rcases hs with hs | ⟨hp, hs⟩ | ⟨hp, hs⟩
  · simp only [State.arrive, ne_eq, hs, not_false_eq_true, if_true]
  · have hrun : (s.link p).running = false := by rcases hs with hs | hs <;> rw [Link.running, hs] <;> rfl
    have hhello : (s.link p).state ≠ .hello := by rcases hs with hs | hs <;> rw [hs] <;> decide
    simp only [State.arrive, Nat.not_le.mpr hp, hrun, hhello, if_false, Bool.false_eq_true, ite_self]
  · simp only [State.arrive, hp, List.contains_iff_mem, hs, if_true, if_false, ite_self]

section

variable {s : State} {p : Nat} (hh : Hears s p)
include hh

/-- A packet at a port with a running session is opened under it. -/
theorem State.arrive_hears (h : Flit) (data : List Flit) :
    s.arrive p (h :: data) = (s.received p (h :: data).length).openPacket p (s.rxSeal p) h data := by
  obtain ⟨hpower, hp, hrun, -⟩ := hh
  have hhello : (s.link p).state ≠ .hello := by
    intro hs
    rw [Link.running, hs] at hrun
    exact absurd hrun (by decide)
  have hrun' : ((s.count (ctrId 4 p 1) (h :: data).length).link p).running = true := hrun
  simp only [State.arrive, hpower, Nat.not_le.mpr hp, hhello, hrun, ne_eq, not_true, if_false, if_true]
  rfl

/-- One whose header flit is poisoned is discarded. -/
theorem State.arrive_poisoned {h : Flit} {data : List Flit} (hz : h.poison = true) :
    ∃ u, Received s u p ∧ s.arrive p (h :: data) = u.badPacket p := by
  refine ⟨_, (received_received s p (h :: data).length).countPoison (1 + (data.filter (·.poison)).length), ?_⟩
  rw [State.arrive_hears hh, State.openPacket]
  simp only [hz, if_true]

/-- One whose ICV fails, without poisoned flits, stops the link. -/
theorem State.arrive_forged {h : Flit} {data : List Flit} (hz : h.poison = false) (hd : ∀ f ∈ data, f.poison = false)
    (hv : (s.rxSeal p).verifies h data = false) :
    s.arrive p (h :: data) = ((s.received p (h :: data).length).logEvent 0x0101 [p]).stopLink p := by
  have hnone : data.filter (·.poison) = [] := List.filter_eq_nil_iff.mpr fun f hf => by simp [hd f hf]
  rw [State.arrive_hears hh, State.openPacket]
  simp only [hz, hnone, hv, List.length_nil, Nat.lt_irrefl, Bool.false_eq_true, if_false]

/-- One whose ICV holds is looked at. -/
theorem State.arrive_genuine {h : Flit} {data : List Flit} (hz : h.poison = false) (hv : (s.rxSeal p).verifies h data = true) :
    ∃ u, Received s u p ∧ s.arrive p (h :: data) = u.admitPacket p h.bytes data.length ((s.rxSeal p).payload false data) := by
  refine ⟨_, (received_received s p (h :: data).length).countPoison (data.filter (·.poison)).length, ?_⟩
  rw [State.arrive_hears hh, State.openPacket]
  simp only [hz, hv, Bool.false_eq_true, if_false, if_true]

end

/-- One that breaks Table 2-3, or names an endpoint that it may not, is discarded (R43, R44). -/
theorem State.admitPacket_bad {u : State} {p : Nat} {h : List Byte} {n : Nat} (hbad : headerOk h n = false ∨
    (parsePkt h).endpointsOk = false ∨ ((parsePkt h).isLocal = false ∧ (parsePkt h).dst ≠ u.setup.fabEp)) (data : List PByte) :
    u.admitPacket p h n data = u.badPacket p := by
  refine if_pos ?_
  rcases hbad with hb | hb | ⟨hl, hd⟩
  · simp [hb]
  · simp [hb]
  · simp [hl, hd]

/-- A proper packet acts, by its class and opcode (R43 to R45). -/
theorem State.arrive_comes {s : State} {p : Nat} {q : Pkt} {bs : List Byte} (h : Comes s p q bs) :
    ∃ u, Received s u p ∧ s.arrive p (s.peerFlits p q bs) = u.actOn p q (plain bs) := by
  obtain ⟨⟨hpower, hp, hrun, hkey⟩, hproper⟩ := h
  exact ⟨_, received_heard s p _, State.arrive_proper hpower hp hrun hkey hproper⟩

end Sys2Proof.Machine
end

section
/-! PROOFS. Which packets are taken, and packets addressed to the block (R43 to R48, R52 to R54). -/

namespace Sys2Proof.Machine

open Sys2Proof.Claims

/-- R54: where the port owes no response, a forged packet stops the link and no more. -/
theorem State.forged_stops (s : State) {p n : Nat} (hp : ∀ r ∈ s.freqs, r.port ≠ p) :
    ((s.received p n).logEvent 0x0101 [p]).stopLink p = ((s.received p n).logEvent 0x0101 [p]).modLink p Link.stopped :=
  State.stopLink_none (by rwa [State.logEvent_freqs])

theorem packetsGated : Claims.PacketsGated := by
  intro c s p h data hc
  refine ⟨fun hs => ?_, fun hh hz hd hv hp => ?_, fun hh hz => ?_⟩
  · have hact := acts_arrive hc s
    rwa [State.arrive_shut hs] at hact
  · have hstop : s.arrive p (h :: data) = _ := (State.arrive_forged hh hz hd hv).trans (s.forged_stops hp)
    refine ⟨s.arrive p (h :: data), acts_arrive hc s, ?_⟩
    rw [hstop]
    simp only [State.link_modLink_self, State.modLink_cleats, State.modLink_eps, State.modLink_gens, State.modLink_freqs,
      State.modLink_jobs, State.modLink_issued, State.logEvent_cleats, State.logEvent_eps, State.logEvent_gens, State.logEvent_freqs,
      State.logEvent_jobs, State.logEvent_issued]
    refine ⟨rfl, rfl, fun k hk => ?_, rfl, rfl, rfl, rfl, rfl, rfl⟩
    rw [State.link_modLink_ne _ _ hk, State.link_of_links (State.logEvent_links _ _ _)]
    exact (received_received s p _).others k hk
  · obtain ⟨u, hu, harrive⟩ := State.arrive_poisoned hh hz (data := data)
    refine ⟨s.arrive p (h :: data), acts_arrive hc s, ?_⟩
    rw [harrive]
    exact hu.discarded hh.2.1

/-! ### Requests and responses (R45, R47) -/

/-- R47: the response to a read of the block's own addresses. -/
def readRefused (fab : Nat) (q : Pkt) : Pkt :=
  { cls := 1, op := 2, src := fab, dst := q.src, addr := fabAddr fab (q.addr % 2 ^ 52), tag := q.tag, slice := q.slice, err := true, last := true }

theorem State.answerRead_eq (u : State) (p : Nat) (q : Pkt) : u.answerRead p q = u.sendAt p (readRefused u.setup.fabEp q) [] := rfl

/-- R45: an acknowledgement that names no write of the port, or comes from another endpoint, is discarded. -/
theorem State.wrAck_unmatched {u : State} {p : Nat} {q : Pkt} (h : ∀ r, u.reqFor p q.tag true = some r → q.src ≠ r.ep) :
    u.wrAck p q = u.badPacket p := by
  unfold State.wrAck
  split
  · rfl
  · rename_i r hr
    exact if_pos (h r hr)

/-- R45: so is a response that names no read of the port, or comes from another endpoint. -/
theorem State.rdRsp_unmatched {u : State} {p : Nat} {q : Pkt}
    (h : ∀ r, u.reqFor p q.tag false = some r → q.src ≠ r.ep ∧ FMap.find u.xfers r.xfer ≠ none) (data : List PByte) :
    u.rdRsp p q data = u.badPacket p := by
  unfold State.rdRsp
  split
  · rfl
  · rename_i r hr
    obtain ⟨hsrc, hx⟩ := h r hr
    split
    · rename_i hnone
      exact absurd hnone hx
    · exact if_pos (by simp [hsrc])

theorem State.actOn_rdReq {q : Pkt} (hq : Pkt.Is q 1 1) (u : State) (p : Nat) (data : List PByte) : u.actOn p q data = u.answerRead p q := by
  simp only [State.actOn, hq.1, hq.2]

theorem State.actOn_wrAck {q : Pkt} (hq : Pkt.Is q 2 2) (u : State) (p : Nat) (data : List PByte) : u.actOn p q data = u.wrAck p q := by
  simp only [State.actOn, hq.1, hq.2]

theorem State.actOn_rdRsp {q : Pkt} (hq : Pkt.Is q 1 2) (u : State) (p : Nat) (data : List PByte) : u.actOn p q data = u.rdRsp p q data := by
  simp only [State.actOn, hq.1, hq.2]

theorem Received.reqFor_eq {s u : State} {p : Nat} (h : Received s u p) (k tag : Nat) (w : Bool) : u.reqFor k tag w = s.reqFor k tag w := by
  rw [State.reqFor, h.freqs_eq, State.reqFor]

theorem packetAnswers : Claims.PacketAnswers := by
  intro s p
  refine ⟨fun q hcomes hq => ?_, fun c h data hc hh hz hv hbad => ?_, fun q hcomes hq hr => ?_, fun q bs hcomes hq hr => ?_⟩
  · obtain ⟨u, hu, harrive⟩ := State.arrive_comes hcomes
    refine ⟨s.arrive p (s.peerFlits p q []), rfl, ?_⟩
    obtain ⟨l, c, hsend⟩ := u.sendAt_eq p (readRefused s.setup.fabEp q) []
    rw [harrive, State.actOn_rdReq hq, State.answerRead_eq, hu.setup_eq, hsend, hu.txSeal_eq, hu.issued_eq]
    refine ⟨rfl, ?_⟩
    rw [hu.eq]
  · obtain ⟨u, hu, harrive⟩ := State.arrive_genuine hh hz hv
    refine ⟨s.arrive p (h :: data), acts_arrive hc s, ?_⟩
    rw [harrive, State.admitPacket_bad (hu.setup_eq ▸ hbad)]
    exact hu.discarded hh.2.1
  · obtain ⟨u, hu, harrive⟩ := State.arrive_comes hcomes
    refine ⟨s.arrive p (s.peerFlits p q []), rfl, ?_⟩
    rw [harrive, State.actOn_wrAck hq, State.wrAck_unmatched fun r h => hr r ((hu.reqFor_eq _ _ _).symm.trans h)]
    exact hu.discarded hcomes.1.2.1
  · obtain ⟨u, hu, harrive⟩ := State.arrive_comes hcomes
    have hxfers : u.xfers = s.xfers := by rw [hu.eq]
    refine ⟨s.arrive p (s.peerFlits p q bs), rfl, ?_⟩
    rw [harrive, State.actOn_rdRsp hq, State.rdRsp_unmatched fun r h => hxfers ▸ hr r ((hu.reqFor_eq _ _ _).symm.trans h)]
    exact hu.discarded hcomes.1.2.1

/-- Settles O43: a packet by where it comes and what its flits spell, and an answer by the request that it names. -/
theorem packetTaking : Obligations.PacketTaking := ⟨packetsGated, packetAnswers⟩

end Sys2Proof.Machine
end

section
/-! PROOFS. The key roll of a fabric link (R55, R56, Table 2-6). -/

namespace Sys2Proof.Machine

open Sys2Proof.Claims

/-- Table 2-6 step 1: the link in ROLL, with nothing of the new session yet. -/
def Link.rolling (l : Link) : Link := { l with state := .roll, newHalf := none, rollSent := false }

/-- R55: at 2^48 on either counter an UP link enters ROLL. -/
theorem State.startRekey_due {s : State} {p : Nat} (h : (s.link p).state = .up) (hn : 2 ^ 48 ≤ (s.link p).tx ∨ 2 ^ 48 ≤ (s.link p).rx) :
    s.startRekey p = ((s.modLink p Link.rolling).bump (ctrId 4 p 5)).logEvent 0x0102 [p, 0] := by
  have hn' : rekeyAt ≤ (s.link p).tx ∨ rekeyAt ≤ (s.link p).rx := hn
  unfold State.startRekey
  exact if_pos (by simpa [h] using hn')

/-- Below that no rekey starts. -/
theorem State.startRekey_early {s : State} {p : Nat} (ht : (s.link p).tx < 2 ^ 48) (hr : (s.link p).rx < 2 ^ 48) : s.startRekey p = s := by
  have ht' : ¬ rekeyAt ≤ (s.link p).tx := Nat.not_le.mpr ht
  have hr' : ¬ rekeyAt ≤ (s.link p).rx := Nat.not_le.mpr hr
  unfold State.startRekey
  exact if_neg (by simp [ht', hr'])

/-- R56: at 2^48 + 2^20 a link in ROLL stops. -/
theorem State.stopLimit_due {s : State} {p : Nat} (h : (s.link p).state = .roll)
    (hn : 2 ^ 48 + 2 ^ 20 ≤ (s.link p).tx ∨ 2 ^ 48 + 2 ^ 20 ≤ (s.link p).rx) : s.stopLimit p = s.stopLink p := by
  have hn' : stopAt ≤ (s.link p).tx ∨ stopAt ≤ (s.link p).rx := hn
  unfold State.stopLimit
  exact if_pos (by simpa [h] using hn')

/-- Below that it goes on. -/
theorem State.stopLimit_early {s : State} {p : Nat} (ht : (s.link p).tx < 2 ^ 48 + 2 ^ 20) (hr : (s.link p).rx < 2 ^ 48 + 2 ^ 20) :
    s.stopLimit p = s := by
  have ht' : ¬ stopAt ≤ (s.link p).tx := Nat.not_le.mpr ht
  have hr' : ¬ stopAt ≤ (s.link p).rx := Nat.not_le.mpr hr
  unfold State.stopLimit
  exact if_neg (by simp [ht', hr'])

/-- Table 2-6 step 4: the new session of a link, with the halves of both sides. -/
def Link.rekeyed (root : List Byte) (port : Nat) (mine peer : Word64) (l : Link) : Link :=
  ({ l with newHalf := none, rollSent := false } : Link).startSession root port mine peer

theorem State.actOn_rollAck {q : Pkt} (hq : Pkt.Is q 3 0x22) (u : State) (p : Nat) (data : List PByte) :
    u.actOn p q data = u.finishRekey p (BitVec.ofNat 64 q.argA) := by
  simp only [State.actOn, hq.1, hq.2]

/-- The acknowledgement that a link in ROLL awaits: KEY_ROLL_FIN leaves under the old session, and the new one starts. -/
theorem State.finishRekey_awaited {u : State} {p : Nat} {mine : Word64} (hs : (u.link p).state = .roll) (hsent : (u.link p).rollSent = true)
    (hm : (u.link p).newHalf = some mine) (half : Word64) :
    u.finishRekey p half = ((u.sendAt p (u.localPkt 0x23 0) []).modLink p
      (Link.rekeyed (u.sendAt p (u.localPkt 0x23 0) []).pen.linkRoot p mine half)).logEvent 0x0102 [p, 1] := by
  simp only [State.finishRekey, hs, hsent, hm, decide_true, Bool.and_self, if_true]
  rfl

/-- A packet sent at a fabric port is nothing to another port's link. -/
theorem State.link_sendAt_ne {p k : Nat} (hp : p < 32) (hk : k ≠ p) (q : Pkt) (bs : List PByte) (s : State) :
    (s.sendAt p q bs).link k = s.link k :=
  (State.link_of_links (State.sendAt_fabric hp q bs s) k).trans (State.link_modLink_ne _ _ hk)

/-- Settles O14: the roll starts, ends and stops by the counters and by what the link awaits. -/
theorem rekeying : Obligations.Rekeying := by
  intro s p
  refine ⟨fun h hn => ?_, fun _ ht hr => ?_, fun mine q hcomes hq hs hsent hm => ?_, fun h hn hp => ?_, fun ht hr => ?_⟩
  · refine ⟨s.startRekey p, rfl, ?_⟩
    rw [State.startRekey_due h hn]
    have hlinks := State.logEvent_links 0x0102 [p, 0] ((s.modLink p Link.rolling).bump (ctrId 4 p 5))
    refine ⟨(State.link_of_links hlinks p).trans (State.link_modLink_self p _ s), fun k hk => ?_⟩
    exact (State.link_of_links hlinks k).trans (State.link_modLink_ne _ _ hk)
  · have hact : Acts (.rekey p) s (s.startRekey p) := rfl
    rwa [State.startRekey_early ht hr] at hact
  · obtain ⟨u, hu, harrive⟩ := State.arrive_comes hcomes
    have hfin := State.finishRekey_awaited (u := u) (by rw [hu.link]; exact hs) (by rw [hu.link]; exact hsent)
      (by rw [hu.link]; exact hm) (BitVec.ofNat 64 q.argA)
    have hlocal : u.localPkt 0x23 0 = s.localPkt 0x23 0 := by simp only [State.localPkt, State.pkt, hu.setup_eq]
    rw [hlocal] at hfin
    obtain ⟨l, c, hsend⟩ := u.sendAt_eq p (s.localPkt 0x23 0) []
    have hpen : (u.sendAt p (s.localPkt 0x23 0) []).pen = s.pen := by
      rw [hsend]
      exact hu.pen_eq
    have hissued : (u.sendAt p (s.localPkt 0x23 0) []).issued = s.issued ++ [.packet p ((s.localPkt 0x23 0).flits (s.txSeal p) [])] := by
      rw [hsend, hu.issued_eq, hu.txSeal_eq]
    rw [hpen] at hfin
    have hlinks := State.logEvent_links 0x0102 [p, 1] ((u.sendAt p (s.localPkt 0x23 0) []).modLink p
      (Link.rekeyed s.pen.linkRoot p mine (BitVec.ofNat 64 q.argA)))
    refine ⟨s.arrive p (s.peerFlits p q []), rfl, ?_⟩
    rw [harrive, State.actOn_rollAck hq, hfin, State.link_of_links hlinks, State.link_modLink_self, State.logEvent_issued]
    refine ⟨hissued, rfl, rfl, rfl, Link.keys_startSession _ _ _ _ _, rfl, rfl, fun k hk => ?_⟩
    rw [State.link_of_links hlinks, State.link_modLink_ne _ _ hk, State.link_sendAt_ne hcomes.1.2.1 hk]
    exact hu.others k hk
  · refine ⟨s.stopLimit p, rfl, ?_⟩
    rw [State.stopLimit_due h hn, State.stopLink_none hp, State.link_modLink_self]
    exact ⟨rfl, rfl, rfl⟩
  · have hact : Acts (.linkStopLimit p) s (s.stopLimit p) := rfl
    rwa [State.stopLimit_early ht hr] at hact

end Sys2Proof.Machine
end

section
/-! PROOFS. LINK_UP of a port, and the HELLO that starts a session (R41, R50 to R54, Table 2-5). -/

namespace Sys2Proof.Machine

open Sys2Proof.Claims

/-- LINK_UP has risen: the link trains from here, and one that stopped and went low is retrained (log 159). -/
def Link.risen (l : Link) : Link := { l with linkUp := true, state := if l.state = .stopped && !l.linkUp then .down else l.state }

theorem State.linkRises_fabric {p : Nat} (h : p < 32) (s : State) : s.linkRises p = s.modLink p Link.risen := by
  unfold State.linkRises
  rw [if_neg (by omega), if_neg (by omega)]
  rfl

theorem State.linkFalls_fabric {s : State} {p : Nat} (h : p < 32) (hr : ∀ r ∈ s.freqs, r.port ≠ p) :
    s.linkFalls p = s.modLink p fun _ => {} := by
  unfold State.linkFalls
  rw [if_neg (by omega), if_neg (by omega)]
  exact State.dropPort_none hr

/-- A usable drain port more. -/
def State.drainRisen (p : Nat) (s : State) : State :=
  if s.drainUp.contains (p - 32) then s else { s with drainUp := s.drainUp ++ [p - 32] }

theorem State.linkRises_drain {s : State} {p : Nat} (h : 32 ≤ p) (hp : p < 36) (hw : s.waitPkts = []) : s.linkRises p = s.drainRisen p := by
  unfold State.linkRises State.drainRisen
  rw [if_neg (by omega), if_pos h]
  split_ifs
  · rfl
  · exact State.flushPkts_nil hw

theorem State.drainUp_drainRisen (p : Nat) (s : State) : p - 32 ∈ (s.drainRisen p).drainUp ∧ (∀ k ∈ s.drainUp, k ∈ (s.drainRisen p).drainUp) ∧
    s.drainRisen p = { s with drainUp := (s.drainRisen p).drainUp } := by
  unfold State.drainRisen
  split_ifs with h
  · exact ⟨by simpa using h, fun _ hk => hk, rfl⟩
  · exact ⟨by simp, fun _ hk => by simp [hk], rfl⟩

/-- A usable drain port less. -/
def State.drainFallen (p : Nat) (s : State) : State := { s with drainUp := s.drainUp.filter (· != p - 32) }

theorem State.linkFalls_drain {s : State} {p : Nat} (h : 32 ≤ p) (hp : p < 36) (hr : ∀ r ∈ s.freqs, r.port ≠ p) :
    s.linkFalls p = s.drainFallen p := by
  unfold State.linkFalls
  rw [if_neg (by omega), if_pos h]
  exact State.dropPort_none (s := s.drainFallen p) hr

theorem linkLevels : Claims.LinkLevels := by
  intro s p hw hr
  refine ⟨fun hp => ⟨⟨s.linkRises p, rfl, ?_⟩, ⟨s.linkFalls p, rfl, ?_⟩⟩, fun hp hp' => ⟨⟨s.linkRises p, rfl, ?_⟩, ⟨s.linkFalls p, rfl, ?_⟩⟩⟩
  · rw [State.linkRises_fabric hp, State.link_modLink_self]
    refine ⟨rfl, ?_, rfl, fun k hk => State.link_modLink_ne _ s hk, rfl⟩
    simp [Link.risen]
  · rw [State.linkFalls_fabric hp hr, State.link_modLink_self]
    exact ⟨rfl, rfl, rfl, rfl, fun k hk => State.link_modLink_ne _ s hk, rfl⟩
  · rw [State.linkRises_drain hp hp' hw]
    exact s.drainUp_drainRisen p
  · rw [State.linkFalls_drain hp hp' hr]
    exact ⟨by simp [State.drainFallen], fun k hk hne => by simp [State.drainFallen, hk, hne], rfl⟩

/-! ### LINK_HELLO (R51, R54) -/

/-- The peer's LINK_HELLO, with its half of the session. -/
def peerHello (src : Nat) (half : Word64) : Pkt := { cls := 3, op := 0x20, src := src, dst := 0, argA := half.toNat }

theorem proper_peerHello {src : Nat} (h : src < 4096) (half : Word64) (fab : Nat) : (peerHello src half).Proper fab [] where
  fits := by
    have hhalf := half.isLt
    rw [peerHello]
    constructor <;> dsimp only <;> omega
  opcode := rfl
  ends := rfl
  here := .inl rfl
  sig h := Bool.noConfusion (show false = true from h)
  short := by decide
  len h := Bool.noConfusion (show false = true from h)
  data _ := rfl

/-- It is one flit, in the clear. -/
theorem flits_peerHello (src : Nat) (half : Word64) :
    (peerHello src half).flits none [] = [⟨(peerHello src half).header ++ List.replicate 16 0, false⟩] := rfl

/-- What a link in HELLO makes of the peer's half. -/
def Link.greeted (root : List Byte) (port : Nat) (half : Word64) (l : Link) : Link :=
  ({ l with peerHalf := half, helloGot := true } : Link).meetUp root port

/-- R54: at a link in HELLO the peer's half is taken. -/
theorem State.arrive_hello {s : State} {p src : Nat} (half : Word64) (hpower : s.glob.power = .run) (hp : p < 32) (hw : s.waitPkts = [])
    (hsrc : src < 4096) (hs : (s.link p).state = .hello) :
    s.arrive p ((peerHello src half).flits none []) = (s.count (ctrId 4 p 1) 1).modLink p (Link.greeted s.pen.linkRoot p half) := by
  have hproper := proper_peerHello hsrc half 0
  have hparse := parsePkt_header hproper.fits (List.replicate 16 0)
  have hok : headerOk ((peerHello src half).header ++ List.replicate 16 0) ([] : List Flit).length = true :=
    headerOk_proper hproper (List.replicate 16 0)
  have hends : (peerHello src half).endpointsOk = true := rfl
  have hhalf : BitVec.ofNat 64 (peerHello src half).argA = half := by simp [peerHello]
  rw [flits_peerHello, State.arrive]
  simp only [hpower, Nat.not_le.mpr hp, hs, ne_eq, not_true, if_false, if_true, State.helloPacket]
  rw [hparse, hends, hok, hhalf]
  exact State.flushPkts_nil hw

/-- A link that has sent its own half runs the session of both. -/
theorem Link.greeted_sent {l : Link} (h : l.helloSent = true) (root : List Byte) (p : Nat) (half : Word64) :
    l.greeted root p half = ({ l with peerHalf := half, helloGot := true } : Link).startSession root p l.blockHalf half := by
  simp only [Link.greeted, Link.meetUp, h, Bool.and_self, if_true]

/-- One that has not waits. -/
theorem Link.greeted_unsent {l : Link} (h : l.helloSent = false) (root : List Byte) (p : Nat) (half : Word64) :
    l.greeted root p half = { l with peerHalf := half, helloGot := true } := by
  simp only [Link.greeted, Link.meetUp, h, Bool.false_and, Bool.false_eq_true, if_false]

/-- Either way it holds the peer's half. -/
theorem Link.peerHalf_greeted (l : Link) (root : List Byte) (p : Nat) (half : Word64) : (l.greeted root p half).peerHalf = half := by
  cases h : l.helloSent with
  | true => rw [Link.greeted_sent h, Link.startSession]
  | false => rw [Link.greeted_unsent h]

/-- Under a running session a LINK_HELLO is none of the packets that act (log 53). -/
theorem State.actOn_hello {q : Pkt} (hq : Pkt.Is q 3 0x20) (u : State) (p : Nat) (data : List PByte) : u.actOn p q data = u.badPacket p := by
  simp only [State.actOn, hq.1, hq.2]

theorem linkHello : Claims.LinkHello := by
  intro s p src half hpower hp hw hsrc
  refine ⟨fun hs => ?_, fun q hcomes hq => ?_, fun hs => ?_⟩
  · refine ⟨s.arrive p ((peerHello src half).flits none []), rfl, ?_⟩
    have hlink : ((s.count (ctrId 4 p 1) 1).modLink p (Link.greeted s.pen.linkRoot p half)).link p = (s.link p).greeted s.pen.linkRoot p half :=
      State.link_modLink_self _ _ _
    rw [State.arrive_hello half hpower hp hw hsrc hs, hlink]
    refine ⟨Link.peerHalf_greeted _ _ _ _, fun hsent => ?_, fun hsent => ?_, fun k hk => State.link_modLink_ne _ _ hk⟩
    · rw [Link.greeted_sent hsent]
      exact ⟨rfl, rfl, rfl, Link.keys_startSession _ _ _ _ _⟩
    · rw [Link.greeted_unsent hsent]
      exact ⟨hs, rfl⟩
  · obtain ⟨u, hu, harrive⟩ := State.arrive_comes hcomes
    refine ⟨s.arrive p (s.peerFlits p q []), rfl, ?_⟩
    rw [harrive, State.actOn_hello hq]
    exact hu.discarded hp
  · have hact : Acts (.linkHello p ((peerHello src half).flits none [])) s (s.arrive p ((peerHello src half).flits none [])) := rfl
    rwa [flits_peerHello, State.arrive_shut (.inr (.inl ⟨hp, hs⟩)), ← flits_peerHello] at hact

/-- Settles O42: the levels by the kind of port, the HELLO by the state of the link. -/
theorem linkTraining : Obligations.LinkTraining := ⟨linkLevels, linkHello⟩

end Sys2Proof.Machine
end

section
/-! PROOFS. The protocol packets of accelerators (R45, R113, R128, R132 to R134, R196, R201): what each does to the generation that it names,
and what is discarded. -/

namespace Sys2Proof.Machine

open Sys2Proof.Claims

/-! ### Packets that the block sends to an endpoint (R112, R465) -/

theorem State.keepPort_eq (p : Pkt) (port : Nat) (s : State) : ∃ e, s.keepPort p port = { s with eps := e } := by
  unfold State.keepPort
  split_ifs
  · exact ⟨s.eps, rfl⟩
  · exact ⟨_, rfl⟩

/-- A MSG or BELAY packet that is sent, or waits, changes links, counters, packets and the record of its port. -/
theorem State.sendProto_eq (p : Pkt) (bs : List PByte) (s : State) : ∃ l c i w e, s.sendProto p bs =
    { s with links := l, ctr := c, issued := i, waitPkts := w, eps := e } := by
  unfold State.sendProto
  extract_lets blocked
  split
  · exact ⟨_, _, _, _, _, rfl⟩
  · rename_i port _
    split_ifs
    · exact ⟨_, _, _, _, _, rfl⟩
    · obtain ⟨e, he⟩ := State.keepPort_eq p port s
      obtain ⟨l, c, hl⟩ := State.sendAt_eq port p bs { s with eps := e }
      exact ⟨l, c, _, s.waitPkts, e, by rw [he, hl]⟩

theorem State.sendProto_gens (p : Pkt) (bs : List PByte) (s : State) : (s.sendProto p bs).gens = s.gens := by
  obtain ⟨_, _, _, _, _, h⟩ := s.sendProto_eq p bs
  rw [h]

theorem State.sendProto_forks (p : Pkt) (bs : List PByte) (s : State) : (s.sendProto p bs).forks = s.forks := by
  obtain ⟨_, _, _, _, _, h⟩ := s.sendProto_eq p bs
  rw [h]

/-- Where a port is usable and nothing waits, it is sent there. -/
theorem State.issued_sendProto {s : State} {p : Pkt} {port : Nat} (hport : s.protoPort p = some port) (hw : s.waitPkts = []) (bs : List PByte) :
    (s.sendProto p bs).issued = s.issued ++ [.packet port (p.flits (s.txSeal port) bs)] := by
  obtain ⟨e, he⟩ := State.keepPort_eq p port s
  obtain ⟨l, c, hl⟩ := State.sendAt_eq port p bs { s with eps := e }
  simp only [State.sendProto, hport, hw, List.any_nil, Bool.false_eq_true, if_false]
  rw [he, hl]
  rfl

/-- The arrival of a packet leaves the usable ports. -/
theorem Received.protoPort_eq {s u : State} {p : Nat} (h : Received s u p) (q : Pkt) : u.protoPort q = s.protoPort q := by
  have hfab : u.fabricPorts = s.fabricPorts := List.filter_congr fun k _ => h.running_eq k
  have hdrain : u.drainPorts = s.drainPorts := by rw [h.eq]; rfl
  have hto (ep : Nat) : u.portsTo ep = s.portsTo ep := by rw [State.portsTo, h.setup_eq, hfab, hdrain, State.portsTo]
  rw [State.protoPort, h.eps_eq, hto, State.protoPort]

/-! ### Generations after a change -/

theorem State.gen_of_gens {s t : State} (h : t.gens = s.gens) (e : Nat) : t.gen e = s.gen e := by
  rw [State.gen, h, State.gen]

/-- A generation whose batch to an endpoint is on its way. -/
def Gen.sentTo (ep : Nat) (watch : Bool) (idxs : List Nat) (g : Gen) : Gen :=
  { g with batches := g.batches ++ [(ep, watch, idxs)]
           armedEps := if g.armedEps.contains ep then g.armedEps else g.armedEps ++ [ep]
           segs := if watch then g.segs else
             g.segs.zipIdx.map fun x => if idxs.contains x.2 then { x.1 with guardSent := true } else x.1 }

theorem State.gen_sendBatch {s : State} {e : Nat} {g : Gen} (h : s.gen e = some g) (ep : Nat) (watch : Bool) (idxs : List Nat) :
    (s.sendBatch e ep watch idxs).gen e = some (g.sentTo ep watch idxs) := by
  simp only [State.sendBatch, h]
  refine State.gen_modGen (f := Gen.sentTo ep watch idxs) ?_ fun _ => rfl
  refine (State.gen_of_gens ?_ e).trans h
  exact List.foldlRecOn _ _ (motive := fun t => t.gens = s.gens) rfl fun t ht _ _ => (State.sendProto_gens _ _ t).trans ht

/-- A batch of guards leaves the segments that it does not name. -/
theorem Gen.segs_sentTo {g : Gen} {i : Nat} {idxs : List Nat} (h : i ∉ idxs) (ep : Nat) : (g.sentTo ep false idxs).segs[i]? = g.segs[i]? := by
  cases hz : g.segs[i]? <;> simp [Gen.sentTo, List.getElem?_zipIdx, hz, h]

/-- A segment that is not invalid is no reason for a further round of guards. -/
theorem Gen.not_mem_unguarded {g : Gen} {i : Nat} {z : Seg} (hz : g.segs[i]? = some z) (h : z.state ≠ .invalid) (ep : Nat) :
    i ∉ g.unguarded ep := by
  intro hm
  obtain ⟨⟨x, k⟩, hx, rfl⟩ := List.mem_map.mp hm
  obtain ⟨hmem, hx⟩ := List.mem_filter.mp hx
  obtain rfl : z = x := Option.some.inj (hz.symm.trans (List.mem_zipIdx_iff_getElem?.mp hmem))
  simp [h] at hx

/-- The generation of a cut that awaits these endpoints. -/
def Gen.awaiting (c : Cutting) (left : List Nat) (g : Gen) : Gen := { g with cutting := some { c with await := left } }

/-! ### Watch hits (R113, Table 4-10) -/

/-- A segment that was hit. -/
def Seg.hitNow (x : Seg) : Seg := { x with watch := false, hit := true }

/-- The generation, whose batches on their way watch the segment no more. -/
def Gen.hitAt (i : Nat) (g : Gen) : Gen :=
  { g.modSeg i Seg.hitNow with batches := g.batches.map fun b => if b.2.1 then (b.1, b.2.1, b.2.2.filter (· != i)) else b }

theorem State.gen_watchHit {s : State} {e i : Nat} {g : Gen} {z : Seg} (h : s.gen e = some g) (hz : g.segs[i]? = some z)
    (hidle : z.state = .idle) : (s.watchHit e i).gen e = some (g.hitAt i) := by
  simp only [State.watchHit, h, hz, hidle, reduceCtorEq, if_false]
  exact State.gen_modGen (f := Gen.hitAt i) h fun _ => rfl

/-- Of the OPEN generation, a hit marks the segment, whatever further guards it calls for. -/
theorem State.gen_takeWatchHit {s : State} {e addr i : Nat} {g : Gen} {z : Seg} (h : s.gen e = some g) (hopen : g.state = .opened)
    (hat : g.segAt addr = some i) (hz : g.segs[i]? = some z) (hidle : z.state = .idle) (port ep : Nat) :
    ∃ k, (s.takeWatchHit port ep e addr).gen e = some k ∧ k.segs[i]? = some z.hitNow := by
  have hhit := State.gen_watchHit h hz hidle
  have hseg : (g.hitAt i).segs[i]? = some z.hitNow := Gen.segs_modSeg hz Seg.hitNow
  have hfilter : (some g).filter (fun g => g.state == .opened) = some g := by simp [Option.filter, hopen]
  simp only [State.takeWatchHit, h, hfilter, hat, hhit, Option.map_some, Option.getD_some]
  split
  · exact ⟨_, hhit, hseg⟩
  · rename_i c _
    split_ifs
    · exact ⟨_, hhit, hseg⟩
    · refine ⟨_, State.gen_sendBatch (State.gen_modGen (f := Gen.awaiting c (c.await ++ [ep])) hhit fun _ => rfl) ep false
        ((g.hitAt i).unguarded ep), ?_⟩
      rw [Gen.segs_sentTo (Gen.not_mem_unguarded hseg (by rw [Seg.hitNow, hidle]; decide) ep)]
      exact hseg

/-- Of any other it is counted. -/
theorem State.takeWatchHit_notOpen {s : State} {e : Nat} (h : ∀ g, s.gen e = some g → g.state ≠ .opened) (port ep addr : Nat) :
    s.takeWatchHit port ep e addr = s.badPacket port := by
  have hfilter : (s.gen e).filter (fun g => g.state == .opened) = none := by
    cases hg : s.gen e with
    | none => rfl
    | some g => simp [Option.filter, h g hg]
  simp only [State.takeWatchHit, hfilter]
  rfl

/-! ### QUIESCE_DONE (R132, R201) -/

/-- The endpoint has quiesced for the epoch. -/
def State.quieted (ep e : Nat) (s : State) : State := { s with eps := FMap.modify s.eps ep fun x => { x with quiesced := some e } }

/-- Of several endpoints that a cut awaits, the one that has quiesced is awaited no more. -/
theorem State.cutQuiesced_some {s : State} {ep e : Nat} {g : Gen} {c : Cutting} (h : s.gen e = some g) (hc : g.cutting = some c)
    (hstage : c.stage = .quiesce) (hep : ep ∈ c.await) (hmore : ∃ k ∈ c.await, k ≠ ep) :
    s.cutQuiesced ep e = (s.quieted ep e).modGen e (Gen.awaiting c (c.await.filter (· != ep))) := by
  have hleft : (c.await.filter (· != ep)).isEmpty = false := by
    obtain ⟨k, hk, hne⟩ := hmore
    rw [Bool.eq_false_iff, ne_eq, List.isEmpty_iff]
    exact List.ne_nil_of_mem (List.mem_filter.mpr ⟨hk, by simpa using hne⟩)
  have hgo : ¬(c.stage != .quiesce || !c.await.contains ep) = true := by simp [hstage, hep]
  simp only [State.cutQuiesced, h, hc, hgo, hleft, Bool.not_false, if_true]
  rfl

theorem State.restQuiesced_none {s : State} (h : s.restores = []) (ep e : Nat) : s.restQuiesced ep e = s := by
  simp only [State.restQuiesced, h, List.find?_nil]

/-! ### Hold and fork requests (R125, R126, R128) -/

/-- The answer to a request that no guard covers: GUARD_RELEASE to a hold, FORK_REMAP to a fork. -/
def State.unguardedPkt (s : State) (ep e addr f : Nat) (fork : Bool) : Pkt :=
  { s.pkt 4 (if fork then 5 else 3) ep with argA := e, argB := addr, slice := f }

/-- A hit is counted at its endpoint. -/
def State.countHit (ep : Nat) (fork : Bool) (s : State) : State := s.bump (ctrId 0xC ep (if fork then 1 else 0))

theorem State.takeHit_noGen {s : State} {ep e : Nat} {x : Ep} (h : s.gen e = none) (hx : FMap.find s.eps ep = some x)
    (addr : Nat) (fork : Bool) : s.takeHit ep e addr fork = (s.countHit ep fork).sendProto (s.unguardedPkt ep e addr x.fn fork) [] := by
  have h' : (s.countHit ep fork).gen e = none := h
  unfold State.takeHit
  change (match (s.countHit ep fork).gen e with | none => _ | some g => _) = _
  rw [h']
  cases fork with
  | true => simp only [if_true, State.sendRemap, State.bump_eps, hx, Option.map_some, Option.getD_some]; rfl
  | false => simp only [Bool.false_eq_true, if_false, State.sendRelease, State.bump_eps, hx, Option.map_some, Option.getD_some]; rfl

/-- A generation that holds a hit until its cut point. -/
def Gen.holdHit (i : Nat) (fork : Bool) (g : Gen) : Gen := { g with heldHits := g.heldHits.filter (·.1 != i) ++ [(i, fork)] }

theorem State.takeHit_cutting {s : State} {e addr i : Nat} {g : Gen} (h : s.gen e = some g) (hopen : g.state = .opened)
    (hcut : g.cutting ≠ none) (hat : g.segAt addr = some i) (ep : Nat) (fork : Bool) :
    s.takeHit ep e addr fork = (s.countHit ep fork).modGen e (Gen.holdHit i fork) := by
  have h' : (s.countHit ep fork).gen e = some g := h
  have hsome : g.cutting.isSome = true := Option.isSome_iff_ne_none.mpr hcut
  unfold State.takeHit
  change (match (s.countHit ep fork).gen e with | none => _ | some g => _) = _
  rw [h']
  simp only [hat, hopen, hsome, if_true]
  rfl

/-! ### ARMED (R113) -/

/-- A generation that has no batch on its way any more. -/
def Gen.answered (b : Nat × Bool × List Nat) (g : Gen) : Gen := { g with batches := g.batches.erase b }

/-- A generation whose watch batch is armed. -/
def Gen.watching (is : List Nat) (g : Gen) : Gen :=
  { g with segs := g.segs.zipIdx.map fun x => if is.contains x.2 then { x.1 with watch := true } else x.1 }

theorem State.takeArmed_watch {s : State} {ep e : Nat} {g : Gen} {is : List Nat} (h : s.gen e = some g) (hb : g.batches = [(ep, true, is)]) :
    s.takeArmed ep e = (s.modGen e (Gen.answered (ep, true, is))).modGen e (Gen.watching is) := by
  have hfind : g.batches.find? (fun b => b.1 == ep) = some (ep, true, is) := by simp [hb]
  simp only [State.takeArmed, h, hfind, if_true]
  rfl

theorem Gen.segs_watching {g : Gen} {i : Nat} {z : Seg} (hz : g.segs[i]? = some z) (is : List Nat) :
    (g.watching is).segs[i]? = some (if i ∈ is then { z with watch := true } else z) := by
  simp [Gen.watching, List.getElem?_zipIdx, hz]

/-! ### EXPORT_MAP (R133, R196) -/

theorem State.takeMap_none {s : State} {ep : Nat} (h : s.gens.find? (mapsFor ep) = none) (n : Nat) (data : List PByte) (last : Bool) :
    s.takeMap ep n data last = s := by
  change (match s.gens.find? (mapsFor ep) with | none => _ | some g => _) = s
  rw [h]

/-- A packet of a series that a cut awaits: the series is gathered until its last packet. -/
theorem State.takeMap_some {s : State} {ep : Nat} {g : Gen} {c : Cutting} (h : s.gens.find? (mapsFor ep) = some g) (hc : g.cutting = some c)
    (n : Nat) (data : List PByte) (last : Bool) : s.takeMap ep n data last =
      let rx := (FMap.find c.mapRx ep).getD (n, [])
      if last then s.mapComplete g c ep rx.1 (rx.2 ++ data)
      else s.modGen g.epoch fun g => { g with cutting := some { c with mapRx := FMap.put c.mapRx ep (rx.1, rx.2 ++ data) } } := by
  change (match s.gens.find? (mapsFor ep) with | none => _ | some g => _) = _
  rw [h]
  simp only [hc]

/-- A generation that has taken an endpoint's map. -/
def Gen.mapped (c : Cutting) (ep : Nat) (es : List MapEnt) (g : Gen) : Gen :=
  { g with maps := g.maps.filter (·.1 != ep) ++ [(ep, es)]
           cutting := some { c with await := c.await.filter (· != ep), mapped := c.mapped ++ [ep], mapRx := FMap.del c.mapRx ep } }

/-- A good map, while the cut awaits another endpoint's: it is taken over. -/
theorem State.gen_mapComplete {s : State} {g : Gen} {c : Cutting} {ep n : Nat} {bs : List PByte} (h : s.gen g.epoch = some g)
    (hlen : bs.length = 16 * n) (hgood : badMap ep n (mapGiven (16 * n) bs) = false)
    (hfits : ((namedRanges (mapGiven (16 * n) bs)).map (·.len)).foldl (· + ·) 0 ≤
      ((g.regions.filter fun r => g.regionEp r == ep).map (·.len)).foldl (· + ·) 0) (hmore : ∃ k ∈ c.await, k ≠ ep) :
    (s.mapComplete g c ep n bs).gen g.epoch = some (g.mapped c ep (mapGiven (16 * n) bs)) := by
  have hleft : (c.await.filter (· != ep)).isEmpty = false := by
    obtain ⟨k, hk, hne⟩ := hmore
    rw [Bool.eq_false_iff, ne_eq, List.isEmpty_iff]
    exact List.ne_nil_of_mem (List.mem_filter.mpr ⟨hk, by simpa using hne⟩)
  have hgen (f : Acc → Acc) := State.gen_modGen (s := s.modAcc c.entry f) (f := Gen.mapped c ep (mapGiven (16 * n) bs)) h fun _ => rfl
  simp only [State.mapComplete, hlen, Nat.lt_irrefl, hgood, Nat.not_lt.mpr hfits, Bool.false_eq_true, if_false]
  split
  · rename_i hnone
    exact absurd (hnone.symm.trans (hgen _)) (by simp)
  · rename_i g' hg'
    obtain rfl := Option.some.inj (hg'.symm.trans (hgen _))
    refine (congrArg (fun t : State => t.gen g.epoch) (if_pos ?_)).trans (hgen _)
    exact congrArg not hleft

/-! ### What a protocol packet does, by its class and opcode (R45, Table 2-4) -/

/-- What a protocol packet from an attached accelerator does. -/
def Pkt.effect (q : Pkt) (p : Nat) (data : List PByte) (u : State) : State :=
  if q.cls = 4 then u.belayIn p q
  else if q.op = 2 then u.takeQuiesced q.src q.argA
  else if q.op = 4 then u.takeMap q.src q.arg32 data q.last
  else u.takeResumed q.src

theorem State.actOn_protocol {q : Pkt} (hq : Pkt.Is q 3 2 ∨ Pkt.Is q 3 4 ∨ Pkt.Is q 3 6 ∨ Pkt.Is q 4 2) (u : State) (p : Nat) (data : List PByte) :
    u.actOn p q data = if FMap.has u.eps q.src then q.effect p data u else u.badPacket p := by
  rcases hq with ⟨h1, h2⟩ | ⟨h1, h2⟩ | ⟨h1, h2⟩ | ⟨h1, h2⟩ <;> simp only [State.actOn, Pkt.effect, h1, h2] <;> rfl

section

variable {q : Pkt} {p : Nat} {data : List PByte} {u : State}

theorem Pkt.effect_quiesce (hq : Pkt.Is q 3 2) : q.effect p data u = u.takeQuiesced q.src q.argA := by
  simp only [Pkt.effect, hq.1, hq.2, Nat.reduceEqDiff, if_false, if_true]

theorem Pkt.effect_map (hq : Pkt.Is q 3 4) : q.effect p data u = u.takeMap q.src q.arg32 data q.last := by
  simp only [Pkt.effect, hq.1, hq.2, Nat.reduceEqDiff, if_false, if_true]

theorem Pkt.effect_resume (hq : Pkt.Is q 3 6) : q.effect p data u = u.takeResumed q.src := by
  simp only [Pkt.effect, hq.1, hq.2, Nat.reduceEqDiff, if_false]

theorem Pkt.effect_armed (hq : Pkt.Is q 4 2) (harmed : bitOf q.arg32 1 = true) : q.effect p data u = u.takeArmed q.src q.argA := by
  simp only [Pkt.effect, hq.1, State.belayIn, harmed, if_true]

theorem Pkt.effect_watchHit (hq : Pkt.Is q 4 2) (harmed : bitOf q.arg32 1 = false) (hwatch : bitOf q.arg32 2 = true) :
    q.effect p data u = u.takeWatchHit p q.src q.argA q.argB := by
  simp only [Pkt.effect, hq.1, State.belayIn, harmed, hwatch, Bool.false_eq_true, if_true, if_false]

theorem Pkt.effect_hit (hq : Pkt.Is q 4 2) (harmed : bitOf q.arg32 1 = false) (hwatch : bitOf q.arg32 2 = false) :
    q.effect p data u = u.takeHit q.src q.argA q.argB (bitOf q.arg32 0) := by
  simp only [Pkt.effect, hq.1, State.belayIn, harmed, hwatch, Bool.false_eq_true, if_true, if_false]

end

section

variable {s : State} {p : Nat} {q : Pkt} {bs : List Byte} (hcomes : Comes s p q bs)
include hcomes

/-- From an attached accelerator it acts. -/
theorem State.arrive_attached {x : Ep} (hx : FMap.find s.eps q.src = some x)
    (hq : Pkt.Is q 3 2 ∨ Pkt.Is q 3 4 ∨ Pkt.Is q 3 6 ∨ Pkt.Is q 4 2) :
    ∃ u, Received s u p ∧ s.arrive p (s.peerFlits p q bs) = q.effect p (plain bs) u := by
  obtain ⟨u, hu, harrive⟩ := State.arrive_comes hcomes
  refine ⟨u, hu, ?_⟩
  rw [harrive, State.actOn_protocol hq, hu.eps_eq]
  exact if_pos (by rw [FMap.has, hx]; rfl)

/-- From one that is not attached it is discarded. -/
theorem State.arrive_unattached (hx : FMap.find s.eps q.src = none) (hq : Pkt.Is q 3 2 ∨ Pkt.Is q 3 4 ∨ Pkt.Is q 3 6 ∨ Pkt.Is q 4 2) :
    CountedOnce s (s.arrive p (s.peerFlits p q bs)) (ctrId 4 p 3) ∧ OnlyCounts s (s.arrive p (s.peerFlits p q bs)) := by
  obtain ⟨u, hu, harrive⟩ := State.arrive_comes hcomes
  rw [harrive, State.actOn_protocol hq, hu.eps_eq, if_neg (by rw [FMap.has, hx]; decide)]
  exact hu.discarded hcomes.1.2.1

/-- RESUME_DONE ends the wait for it (R134). -/
theorem resumeDone_ends {x : Ep} (hx : FMap.find s.eps q.src = some x) (hq : Pkt.Is q 3 6) :
    FMap.find (s.arrive p (s.peerFlits p q bs)).eps q.src = some { x with owesResume := none } ∧
    ∀ k, k ≠ q.src → FMap.find (s.arrive p (s.peerFlits p q bs)).eps k = FMap.find s.eps k := by
  obtain ⟨u, hu, harrive⟩ := State.arrive_attached hcomes hx (.inr (.inr (.inl hq)))
  rw [harrive, Pkt.effect_resume hq, State.takeResumed, hu.eps_eq]
  exact ⟨(FMap.find_modify_self _ _ _).trans (congrArg _ hx), fun k hk => FMap.find_modify_ne _ _ hk⟩

/-- QUIESCE_DONE takes the accelerator off those that the cut awaits (R132). -/
theorem quiesceDone_awaited {x : Ep} (hx : FMap.find s.eps q.src = some x) (hq : Pkt.Is q 3 2) {g : Gen} {c : Cutting}
    (hg : s.gen q.argA = some g) (hc : g.cutting = some c) (hstage : c.stage = .quiesce) (hep : q.src ∈ c.await)
    (hmore : ∃ k ∈ c.await, k ≠ q.src) (hr : s.restores = []) :
    (s.arrive p (s.peerFlits p q bs)).gen q.argA = some (g.awaiting c (c.await.filter (· != q.src))) ∧
    (FMap.find (s.arrive p (s.peerFlits p q bs)).eps q.src).map (·.quiesced) = some (some q.argA) := by
  obtain ⟨u, hu, harrive⟩ := State.arrive_attached hcomes hx (.inl hq)
  have hgen : u.gen q.argA = some g := (State.gen_of_gens hu.gens_eq _).trans hg
  have hrest : u.restores = [] := by rw [hu.eq]; exact hr
  have hquiet : FMap.find (u.quieted q.src q.argA).eps q.src = some { x with quiesced := some q.argA } := by
    rw [State.quieted, hu.eps_eq]
    exact (FMap.find_modify_self _ _ _).trans (congrArg _ hx)
  rw [harrive, Pkt.effect_quiesce hq, State.takeQuiesced, State.cutQuiesced_some hgen hc hstage hep hmore, 
    State.restQuiesced_none (s := (u.quieted _ _).modGen _ _) hrest]
  refine ⟨State.gen_modGen (s := u.quieted q.src q.argA) hgen fun _ => rfl, ?_⟩
  exact congrArg (Option.map (·.quiesced)) hquiet

/-- A request of a generation that does not exist is answered at once (R128). -/
theorem hit_answered {x : Ep} (hx : FMap.find s.eps q.src = some x) (hq : Pkt.Is q 4 2) (harmed : bitOf q.arg32 1 = false)
    (hwatch : bitOf q.arg32 2 = false) (hg : s.gen q.argA = none) :
    ∃ u, Received s u p ∧ s.arrive p (s.peerFlits p q bs) = (u.countHit q.src (bitOf q.arg32 0)).sendProto
      (s.unguardedPkt q.src q.argA q.argB x.fn (bitOf q.arg32 0)) [] := by
  obtain ⟨u, hu, harrive⟩ := State.arrive_attached hcomes hx (.inr (.inr (.inr hq)))
  have hpk : u.unguardedPkt q.src q.argA q.argB x.fn (bitOf q.arg32 0) = s.unguardedPkt q.src q.argA q.argB x.fn (bitOf q.arg32 0) := by
    simp only [State.unguardedPkt, State.pkt, hu.setup_eq]
  refine ⟨u, hu, ?_⟩
  rw [harrive, Pkt.effect_hit hq harmed hwatch, State.takeHit_noGen ((State.gen_of_gens hu.gens_eq _).trans hg) (hu.eps_eq ▸ hx), hpk]

/-- A series of export maps that no cut awaits is ignored (R133). -/
theorem exportMap_ignored {x : Ep} (hx : FMap.find s.eps q.src = some x) (hq : Pkt.Is q 3 4) (hg : s.gens.find? (mapsFor q.src) = none) :
    OnlyCounts s (s.arrive p (s.peerFlits p q bs)) := by
  obtain ⟨u, hu, harrive⟩ := State.arrive_attached hcomes hx (.inr (.inl hq))
  rw [harrive, Pkt.effect_map hq, State.takeMap_none (hu.gens_eq ▸ hg)]
  exact hu.only

/-- A packet of a series that a cut awaits joins what has come. -/
theorem exportMap_gathered {x : Ep} (hx : FMap.find s.eps q.src = some x) (hq : Pkt.Is q 3 4) {g : Gen} {c : Cutting}
    (hg : s.gens.find? (mapsFor q.src) = some g) (hgen : s.gen g.epoch = some g) (hc : g.cutting = some c) (hlast : q.last = false) :
    (s.arrive p (s.peerFlits p q bs)).gen g.epoch = some { g with cutting := some { c with
      mapRx := FMap.put c.mapRx q.src (((FMap.find c.mapRx q.src).getD (q.arg32, [])).1,
        ((FMap.find c.mapRx q.src).getD (q.arg32, [])).2 ++ plain bs) } } := by
  obtain ⟨u, hu, harrive⟩ := State.arrive_attached hcomes hx (.inr (.inl hq))
  rw [harrive, Pkt.effect_map hq, State.takeMap_some (hu.gens_eq ▸ hg) hc, hlast]
  exact State.gen_modGen (s := u) ((State.gen_of_gens hu.gens_eq _).trans hgen) fun _ => rfl

/-- The last packet of a good map, which is one: the map is taken over (R196). -/
theorem exportMap_taken {x : Ep} (hx : FMap.find s.eps q.src = some x) (hq : Pkt.Is q 3 4) {g : Gen} {c : Cutting}
    (hg : s.gens.find? (mapsFor q.src) = some g) (hgen : s.gen g.epoch = some g) (hc : g.cutting = some c) (hlast : q.last = true)
    (hfirst : FMap.find c.mapRx q.src = none) (hlen : bs.length = 16 * q.arg32)
    (hgood : badMap q.src q.arg32 (mapGiven bs.length (plain bs)) = false)
    (hfits : ((namedRanges (mapGiven bs.length (plain bs))).map (·.len)).foldl (· + ·) 0 ≤
      ((g.regions.filter fun r => g.regionEp r == q.src).map (·.len)).foldl (· + ·) 0) (hmore : ∃ k ∈ c.await, k ≠ q.src) :
    (s.arrive p (s.peerFlits p q bs)).gen g.epoch = some (g.mapped c q.src (mapGiven bs.length (plain bs))) := by
  obtain ⟨u, hu, harrive⟩ := State.arrive_attached hcomes hx (.inr (.inl hq))
  rw [hlen] at hgood hfits ⊢
  rw [harrive, Pkt.effect_map hq, State.takeMap_some (hu.gens_eq ▸ hg) hc, hlast, hfirst]
  exact State.gen_mapComplete (s := u) ((State.gen_of_gens hu.gens_eq _).trans hgen) ((length_plain bs).trans hlen) hgood hfits hmore

end

theorem protocolPackets : Claims.ProtocolPackets := by
  intro s p q bs hcomes
  have hacts (c : Instr) (hc : flitsAt c = some (p, s.peerFlits p q bs)) := acts_arrive hc s
  have hrequest (fork : Bool) : flitsAt (if fork then .forkRequest p (s.peerFlits p q bs) else .holdRequest p (s.peerFlits p q bs)) =
      some (p, s.peerFlits p q bs) := by cases fork <;> rfl
  refine ⟨fun x hx => ⟨fun hq => ?_, fun hq harmed hwatch => ⟨fun g i z hg hopen hat hz hidle => ?_, fun hg => ?_⟩,
    fun hq g c hg hc hstage hep hmore hr => ?_, fun hq harmed hwatch hg => ?_, fun hq harmed hwatch g i hg hopen hcut hat => ?_,
    fun hq harmed g is hg hb => ?_, fun hq hg => ?_, fun hq g c hg hgen hc => ⟨fun hlast => ?_, fun es hlast hfirst hlen hes => ?_⟩⟩,
    fun hx hq k hk => ?_⟩
  · exact ⟨_, hacts _ rfl, resumeDone_ends hcomes hx hq⟩
  · obtain ⟨u, hu, harrive⟩ := State.arrive_attached hcomes hx (.inr (.inr (.inr hq)))
    obtain ⟨h, hh, hseg⟩ := State.gen_takeWatchHit ((State.gen_of_gens hu.gens_eq _).trans hg) hopen hat hz hidle p q.src
    rw [← Pkt.effect_watchHit (data := plain bs) hq harmed hwatch, ← harrive] at hh
    exact ⟨_, h, hacts _ rfl, hh, hseg⟩
  · obtain ⟨u, hu, harrive⟩ := State.arrive_attached hcomes hx (.inr (.inr (.inr hq)))
    refine ⟨_, hacts _ rfl, ?_⟩
    rw [harrive, Pkt.effect_watchHit hq harmed hwatch,
      State.takeWatchHit_notOpen fun g hu' => hg g ((State.gen_of_gens hu.gens_eq _).symm.trans hu')]
    exact hu.discarded hcomes.1.2.1
  · obtain ⟨hh, heps⟩ := quiesceDone_awaited hcomes hx hq hg hc hstage hep hmore hr
    exact ⟨_, _, hacts _ rfl, hh, rfl, heps⟩
  · obtain ⟨u, hu, harrive⟩ := hit_answered hcomes hx hq harmed hwatch hg
    refine ⟨_, hacts _ (hrequest _), ?_, ?_, fun port pk hpk hport hw => ?_⟩
    · rw [harrive, State.sendProto_gens]
      exact hu.gens_eq
    · rw [harrive, State.sendProto_forks]
      change u.forks = s.forks
      rw [hu.eq]
    · have hport' : (u.countHit q.src (bitOf q.arg32 0)).protoPort pk = some port := (hu.protoPort_eq pk).trans hport
      have hw' : (u.countHit q.src (bitOf q.arg32 0)).waitPkts = [] := (show u.waitPkts = s.waitPkts by rw [hu.eq]).trans hw
      have hissued : (u.countHit q.src (bitOf q.arg32 0)).issued = s.issued := hu.issued_eq
      have hseal : (u.countHit q.src (bitOf q.arg32 0)).txSeal port = s.txSeal port := hu.txSeal_eq port
      rw [harrive, State.unguardedPkt, ← hpk, State.issued_sendProto hport' hw', hissued, hseal]
  · obtain ⟨u, hu, harrive⟩ := State.arrive_attached hcomes hx (.inr (.inr (.inr hq)))
    have hgen : u.gen q.argA = some g := (State.gen_of_gens hu.gens_eq _).trans hg
    refine ⟨_, g.holdHit i (bitOf q.arg32 0), hacts _ (hrequest _), ?_, rfl⟩
    rw [harrive, Pkt.effect_hit hq harmed hwatch, State.takeHit_cutting hgen hopen hcut hat]
    exact State.gen_modGen (s := u.countHit q.src (bitOf q.arg32 0)) hgen fun _ => rfl
  · obtain ⟨u, hu, harrive⟩ := State.arrive_attached hcomes hx (.inr (.inr (.inr hq)))
    have hgen : u.gen q.argA = some g := (State.gen_of_gens hu.gens_eq _).trans hg
    refine ⟨_, (g.answered (q.src, true, is)).watching is, hacts _ rfl, ?_, ?_, fun i z hz => Gen.segs_watching hz is⟩
    · rw [harrive, Pkt.effect_armed hq harmed, State.takeArmed_watch hgen hb]
      exact State.gen_modGen (State.gen_modGen hgen fun _ => rfl) fun _ => rfl
    · change g.batches.erase (q.src, true, is) = []
      rw [hb, List.erase_cons_head]
  · exact ⟨_, hacts _ rfl, exportMap_ignored hcomes hx hq hg⟩
  · exact ⟨_, _, hacts _ rfl, rfl, exportMap_gathered hcomes hx hq hg hgen hc hlast⟩
  · subst hes
    intro hgood hfits hmore
    exact ⟨_, hacts _ rfl, exportMap_taken hcomes hx hq hg hgen hc hlast hfirst hlen hgood hfits hmore⟩
  · have hk' : flitsAt k = some (p, s.peerFlits p q bs) := by
      simp only [List.mem_cons, List.not_mem_nil, or_false] at hk
      rcases hk with rfl | rfl | rfl | rfl | rfl | rfl | rfl <;> rfl
    exact ⟨_, hacts k hk', State.arrive_unattached hcomes hx hq⟩

end Sys2Proof.Machine
end

section
/-! PROOFS. PREEMPT_NOTICE for a slice or one of its jobs, in a block without generations (R138, R140, R362). -/

namespace Sys2Proof.Machine

open Sys2Proof.Claims

/-- In a map whose keys rise, what is listed is found. -/
theorem FMap.find_of_mem {α : Type} {m : FMap α} (h : FMap.Sorted m) {n : Nat} {a : α} (hm : (n, a) ∈ m) : FMap.find m n = some a := by
  have hp := (FMap.sorted_iff m).mp h
  clear h
  induction m with
  | nil => exact absurd hm List.not_mem_nil
  | cons p m ih =>
    obtain ⟨k, v⟩ := p
    obtain ⟨hlt, hp⟩ := List.pairwise_cons.mp hp
    rcases List.mem_cons.mp hm with heq | hm
    · obtain ⟨rfl, rfl⟩ := Prod.mk.inj heq
      exact if_pos rfl
    · have hk : k < n := hlt n (List.mem_map.mpr ⟨_, hm, rfl⟩)
      exact (if_neg (Nat.ne_of_lt hk)).trans (ih hm hp)

/-- The notices of the jobs of one slice. -/
def State.noticeJobs (f : Nat) (l : List Nat) (s : State) : State := l.foldl (fun s j => s.noticeOf f j) s

/-- Without generations each job that is named once takes the notice, and nothing else changes. -/
theorem State.noticeJobs_noGens (f : Nat) (l : List Nat) (hl : l.Nodup) : ∀ {s : State}, s.gens = [] → s.heeds f = true →
    s.noticeJobs f l = { s with jobs := (s.noticeJobs f l).jobs } ∧
    ∀ j y, FMap.find s.jobs j = some y → FMap.find (s.noticeJobs f l).jobs j = some (if j ∈ l then s.heed j y else y) := by
  induction l with
  | nil => exact fun _ _ => ⟨rfl, fun _ _ hj => by rw [if_neg List.not_mem_nil]; exact hj⟩
  | cons a l ih =>
    intro s hg hf
    obtain ⟨ha, hl⟩ := List.nodup_cons.mp hl
    have hstep : s.noticeOf f a = { s with jobs := FMap.modify s.jobs a (s.heed a) } := by
      rw [State.noticeOf_noGens hg, hf, if_pos rfl]
    have hnext : s.noticeJobs f (a :: l) = (s.noticeOf f a).noticeJobs f l := rfl
    obtain ⟨hjobs, hfind⟩ := ih hl (s := s.noticeOf f a) (by rw [hstep]; exact hg) (by rw [hstep]; exact hf)
    refine ⟨?_, fun j y hj => ?_⟩
    · rw [hnext, hjobs, hstep]
    · by_cases hja : j = a
      · subst hja
        have hj' : FMap.find (s.noticeOf f j).jobs j = some (s.heed j y) := by
          rw [hstep]
          exact (FMap.find_modify_self _ _ _).trans (congrArg _ hj)
        rw [hnext, hfind j _ hj', if_neg ha, if_pos List.mem_cons_self]
      · have hj' : FMap.find (s.noticeOf f a).jobs j = some y := by
          rw [hstep]
          exact (FMap.find_modify_ne _ _ hja).trans hj
        have hheed : (s.noticeOf f a).heed j y = s.heed j y := by rw [hstep]; rfl
        rw [hnext, hfind j _ hj', hheed]
        simp only [List.mem_cons, hja, false_or]

/-- The jobs that a notice names: one, or all, of a slice. -/
def State.namedJobs (s : State) (f job : Nat) : List Nat := (s.jobs.filter fun j => j.2.fn == f && (job == 0 || j.1 == job)).map (·.1)

theorem State.notice_eq (s : State) (f job : Nat) : s.notice f job = s.noticeJobs f (s.namedJobs f job) := rfl

theorem State.nodup_namedJobs {s : State} (h : FMap.Sorted s.jobs) (f job : Nat) : (s.namedJobs f job).Nodup := by
  have hkeys : (s.jobs.map Prod.fst).Nodup := ((FMap.sorted_iff s.jobs).mp h).imp fun hlt => Nat.ne_of_lt hlt
  exact hkeys.sublist (List.filter_sublist.map Prod.fst)

theorem State.mem_namedJobs {s : State} (h : FMap.Sorted s.jobs) {f job j : Nat} {y : Job} (hj : FMap.find s.jobs j = some y) :
    j ∈ s.namedJobs f job ↔ y.fn = f ∧ (job = 0 ∨ j = job) := by
  constructor
  · intro hm
    obtain ⟨⟨k, v⟩, hk, rfl⟩ := List.mem_map.mp hm
    obtain ⟨hmem, hk⟩ := List.mem_filter.mp hk
    obtain rfl : v = y := Option.some.inj ((FMap.find_of_mem h hmem).symm.trans hj)
    simpa using hk
  · intro hn
    exact List.mem_map.mpr ⟨(j, y), List.mem_filter.mpr ⟨FMap.mem_of_find hj, by simpa using hn⟩, rfl⟩

/-- What a job holds once it has taken a notice. -/
theorem State.heed_eq (s : State) (j : Nat) (y : Job) : s.heed j y = if s.cutsPending j = [] then { y with notice := true }
    else { y with noticeLate := (y.noticeLate ++ s.cutsPending j).eraseDups } := by
  simp only [State.heed, List.isEmpty_iff]

theorem State.actOn_notice {q : Pkt} (hq : Pkt.Is q 3 0x10) (u : State) (p : Nat) (data : List PByte) : u.actOn p q data = u.noticeIn p q := by
  simp only [State.actOn, hq.1, hq.2]

theorem State.noticeIn_heeded {u : State} {q : Pkt} {x : Fn} (hx : FMap.find u.fns (q.arg32 % 256) = some x) (hf : x.state ≠ .frozen) (p : Nat) :
    u.noticeIn p q = u.notice (q.arg32 % 256) q.argA := by
  simp only [State.noticeIn, hx, hf, if_false]

/-- A notice for a slice that is absent or FROZEN is discarded (R138, R362). -/
theorem State.noticeIn_unheeded {u : State} {q : Pkt} (h : ∀ x, FMap.find u.fns (q.arg32 % 256) = some x → x.state = .frozen) (p : Nat) :
    u.noticeIn p q = u.badPacket p := by
  unfold State.noticeIn
  split
  · rename_i x hx
    exact if_pos (h x hx)
  · rfl

theorem noticePackets : Claims.PreemptNotices := by
  intro s p q hcomes hq
  obtain ⟨u, hu, harrive⟩ := State.arrive_comes hcomes
  rw [State.actOn_notice hq] at harrive
  refine ⟨fun x hx hf hg hsorted => ?_, fun hx => ?_⟩
  · have hx' : FMap.find u.fns (q.arg32 % 256) = some x := hu.fns_eq ▸ hx
    have hjobs : u.jobs = s.jobs := by rw [hu.eq]
    have hsorted' : FMap.Sorted u.jobs := hjobs ▸ hsorted
    have hheed (j : Nat) (y : Job) : u.heed j y = s.heed j y := by rw [hu.eq]; rfl
    obtain ⟨honly, hfind⟩ := State.noticeJobs_noGens (q.arg32 % 256) _ (State.nodup_namedJobs hsorted' (q.arg32 % 256) q.argA)
      (hu.gens_eq.trans hg) (by simp [State.heeds, hx', hf])
    rw [State.noticeIn_heeded hx' hf, State.notice_eq] at harrive
    rw [← harrive] at honly hfind
    refine ⟨s.arrive p (s.peerFlits p q []), rfl, ?_, fun j y hj => ?_⟩
    · rw [honly, hu.eq]
    · have hj' : FMap.find u.jobs j = some y := hjobs ▸ hj
      rw [hfind j y hj', hheed, State.heed_eq]
      simp only [State.mem_namedJobs hsorted' hj']
  · refine ⟨s.arrive p (s.peerFlits p q []), rfl, ?_⟩
    rw [harrive, State.noticeIn_unheeded (hu.fns_eq ▸ hx)]
    exact hu.discarded hcomes.1.2.1

/-- Settles O44: each protocol packet by what it does to the state after its arrival, and a notice by the jobs that it names. -/
theorem protocolHandling : Obligations.ProtocolHandling := ⟨protocolPackets, noticePackets⟩

end Sys2Proof.Machine
end

section
/-! PROOFS. What the loss of a lane leaves as it was (R420 to R424): the set-up, the mailbox, the completion rings, the levels of the
reset pins, and which functions and queues there are. A boot fences the lanes that fail its self-checks (R422). -/

namespace Sys2Proof.Machine

open Sys2Proof.Claims

/-- What no loss of a lane changes; of the functions and submission queues, which there are. -/
def State.core (s : State) : (Setup × Mailbox × FMap Cq) × (Bool × Bool) × (List Nat × Bool) :=
  ((s.setup, s.mb, s.cqs), (s.glob.porstLow, s.glob.blkRstLow), (s.fns.map (·.1), s.sqs.map (·.1) == [0]))

/-- Steps that each leave the core leave it together. -/
theorem State.core_foldl {α : Type} {g : State → α → State} (h : ∀ s a, (g s a).core = s.core) (l : List α) (s : State) :
    (l.foldl g s).core = s.core :=
  List.foldlRecOn l g (motive := fun t => t.core = s.core) rfl fun t ht a _ => (h t a).trans ht

/-- So do steps that hand a value on beside the state. -/
theorem State.core_foldl_snd {α β : Type} {g : β × State → α → β × State} (h : ∀ p a, (g p a).2.core = p.2.core) (l : List α) (p : β × State) :
    (l.foldl g p).2.core = p.2.core :=
  List.foldlRecOn l g (motive := fun t => t.2.core = p.2.core) rfl fun t ht a _ => (h t a).trans ht

theorem FMap.keys_mapV {α : Type} (m : FMap α) (f : Nat → α → α) : (FMap.mapV m f).map (·.1) = m.map (·.1) := by
  rw [FMap.mapV, List.map_map]
  rfl

theorem FMap.put_ne_nil {α : Type} (m : FMap α) (n : Nat) (a : α) : FMap.put m n a ≠ [] := by
  cases m with
  | nil => exact List.cons_ne_nil _ _
  | cons p m =>
    rw [FMap.put]
    split_ifs <;> exact List.cons_ne_nil _ _

/-- A change of a value leaves a map with the one key 0 such a map, and makes none of another. -/
theorem FMap.onlyZero_modify {α : Type} (m : FMap α) (n : Nat) (f : α → α) :
    ((FMap.modify m n f).map (·.1) == [0]) = (m.map (·.1) == [0]) := by
  unfold FMap.modify
  split
  · rfl
  · rename_i v hv
    cases m with
    | nil => cases hv
    | cons p m =>
      obtain ⟨k, w⟩ := p
      rw [FMap.put]
      split_ifs with hlt heq
      · have hk : k ≠ 0 := Nat.ne_zero_of_lt hlt
        simp [hk]
      · subst heq
        rfl
      · have hm : m ≠ [] := by
          rintro rfl
          rw [FMap.find, if_neg (Ne.symm heq)] at hv
          cases hv
        simp [List.isEmpty_eq_false_iff.mpr hm, List.isEmpty_eq_false_iff.mpr (FMap.put_ne_nil m n (f v))]

/-! ### The event log, entries and queues -/

theorem State.core_logWith (code sev src mast : Nat) (func : Option Nat) (d : List Nat) (s : State) :
    (s.logWith code sev src mast func d).core = s.core := by
  unfold State.logWith State.logEntry
  split_ifs <;> rfl

theorem State.core_logEvent (code : Nat) (d : List Nat) (s : State) : (s.logEvent code d).core = s.core := State.core_logWith _ _ _ _ _ _ s

theorem State.core_logFn (code f : Nat) (d : List Nat) (s : State) : (s.logFn code f d).core = s.core := State.core_logWith _ _ _ _ _ _ s

theorem State.core_logMast (code mast : Nat) (d : List Nat) (s : State) : (s.logMast code mast d).core = s.core :=
  State.core_logWith _ _ _ _ _ _ s

theorem State.core_haltQueue (q : Nat) (s : State) : (s.haltQueue q).core = s.core := by
  have h := FMap.onlyZero_modify s.sqs q fun x => if x.state = .running || x.state = .disabled then x.stop .halted else x
  simp only [State.core, State.haltQueue, h]

theorem State.core_uncEvent (owner : Option Acc) (mem cause unit word n : Nat) (s : State) :
    (s.uncEvent owner mem cause unit word n).core = s.core := by
  unfold State.uncEvent
  extract_lets info t
  split
  · exact (State.core_logFn _ _ _ _).trans (State.core_haltQueue _ _)
  · exact State.core_logEvent _ _ _

theorem State.core_sheetCond (n slot status info : Nat) (s : State) : (s.sheetCond n slot status info).core = s.core := by
  unfold State.sheetCond
  split
  · rfl
  · refine (State.core_logFn _ _ _ _).trans ?_
    split_ifs <;> rfl

theorem State.core_meetAt (x : Xfer) (q status info : Nat) (s : State) : (s.meetAt x q status info).core = s.core := by
  unfold State.meetAt
  split
  · exact State.core_sheetCond _ _ _ _ s
  · exact State.core_sheetCond _ _ _ _ s
  · split <;> rfl

theorem State.core_uncorrectable (x : Xfer) (q mem cause unit word n : Nat) (s : State) :
    (s.uncorrectable x q mem cause unit word n).core = s.core := by
  have hevent : (s.uncEvent (s.ownerOf x) mem cause unit word n).core = s.core := State.core_uncEvent _ _ _ _ _ _ s
  unfold State.uncorrectable
  dsimp only
  split
  · split_ifs
    · exact (State.core_meetAt _ _ _ _ _).trans hevent
    · exact hevent
  · exact hevent

/-! ### Reads and writes of transfers -/

theorem State.core_sendAt (port : Nat) (p : Pkt) (bs : List PByte) (s : State) : (s.sendAt port p bs).core = s.core := by
  obtain ⟨_, _, h⟩ := s.sendAt_eq port p bs
  rw [h]
  rfl

theorem State.core_readPart (x : Xfer) (i port : Nat) (p : Part) (s : State) : (s.readPart x i port p).core = s.core := by
  unfold State.readPart
  split
  · refine State.core_foldl (fun t c => ?_) _ s
    exact State.core_sendAt _ _ _ _
  · refine State.core_foldl (fun t g => ?_) _ s
    rfl
  · refine State.core_foldl (fun t c => ?_) _ s
    rfl

theorem State.core_startReads (x : Xfer) (port : Nat) (s : State) : (s.startReads x port).core = s.core := by
  refine State.core_foldl (fun t p => ?_) _ s
  exact State.core_readPart _ _ _ _ t

theorem State.core_takeFlip (target unit : Nat) (s : State) : (s.takeFlip target unit).2.core = s.core := by
  obtain ⟨_, _, h⟩ := s.takeFlip_eq target unit
  rw [h]
  rfl

theorem State.core_stgWrite (x i rel off : Nat) (bs : List PByte) (s : State) : (s.stgWrite x i rel off bs).core = s.core :=
  State.core_takeFlip 2 (s.setup.stagingPlace off).1 s

theorem State.core_fabWrite (fn x i port a off : Nat) (bs : List PByte) (sig : Option (Nat × Nat)) (s : State) :
    (s.fabWrite fn x i port a off bs sig).core = s.core := by
  refine State.core_foldl (fun t c => ?_) _ _
  exact State.core_sendAt _ _ _ t

theorem State.core_writePart (x : Xfer) (i port : Nat) (lastPart : Bool) (p : Part) (s : State) :
    (s.writePart x i port lastPart p).core = s.core := by
  unfold State.writePart
  split
  · refine State.core_foldl (fun t c => ?_) _ (s.staleLines p.loc p.len)
    exact State.core_fabWrite _ _ _ _ _ _ _ _ t
  · refine State.core_foldl (fun t g => ?_) _ (s.staleLines p.loc p.len)
    extract_lets c
    split_ifs
    · exact State.core_stgWrite _ _ _ _ _ t
    · rfl
  · refine State.core_foldl (fun t c => ?_) _ (s.staleLines p.loc p.len)
    rfl

theorem State.core_startWrites (x : Xfer) (port : Nat) (s : State) : (s.startWrites x port).core = s.core := by
  refine State.core_foldl (fun t p => ?_) _ s
  exact State.core_writePart _ _ _ _ _ t

theorem State.core_writeSlots (x : Xfer) (s : State) : (s.writeSlots x).core = s.core := by
  refine State.core_foldl (fun t p => ?_) _ s
  exact State.core_writePart _ _ _ _ _ t

theorem State.core_readFlip (x : Xfer) (q : Nat) (m : Byte) (s : State) : (s.readFlip x q m).2.core = s.core := by
  unfold State.readFlip
  extract_lets word t
  split
  · rfl
  · rfl
  · exact State.core_uncorrectable _ _ _ _ _ _ _ t

theorem State.core_readDsts (x : Xfer) (s : State) : (s.readDsts x).core = s.core := by
  refine State.core_foldl (fun t f => ?_) _ s
  exact State.core_readFlip _ _ _ t

theorem State.core_tackleRead (mast gen : Nat) (l : Loc) (s : State) : (s.tackleRead mast gen l).2.core = s.core := by
  unfold State.tackleRead
  split
  · rfl
  · split
    · rfl
    · split <;> rfl

theorem State.core_issueLine (x i : Nat) (s : State) : (s.issueLine x i).core = s.core := by
  unfold State.issueLine
  split
  · rfl
  · split
    · rfl
    · split
      · split
        · exact State.core_readPart _ _ _ _ _
        · rfl
      · split_ifs
        · exact State.core_readPart _ _ _ _ _
        · rfl

theorem State.core_putBytes (x i off : Nat) (bs : List PByte) (dirty : Bool) (s : State) : (s.putBytes x i off bs dirty).core = s.core := by
  obtain ⟨_, _, h⟩ := s.putBytes_eq x i off bs dirty
  rw [h]
  rfl

theorem State.core_fetchLines (n x : Nat) (s : State) : (s.fetchLines n x).2.core = s.core := by
  unfold State.fetchLines
  split
  · split
    · refine State.core_foldl_snd (fun acc l => ?_) _ (false, s)
      extract_lets t loc i
      split
      · rename_i h
        exact (State.core_putBytes _ _ _ _ _ _).trans ((congrArg (fun p => p.2.core) h).symm.trans (State.core_tackleRead _ _ _ _))
      · rename_i h
        exact (State.core_issueLine _ _ _).trans ((congrArg (fun p => p.2.core) h).symm.trans (State.core_tackleRead _ _ _ _))
    · rfl
  · rfl

/-! ### Replay (R421) -/

theorem State.core_unpark (x : Xfer) (lane : Nat) (s : State) : (s.unpark x lane).core = s.core := by
  unfold State.unpark
  extract_lets y t
  split
  · exact State.core_fetchLines _ _ t
  · exact (State.core_writeSlots y _).trans (State.core_readDsts y t)
  · exact (State.core_startWrites y _ _).trans (State.core_readDsts y t)
  · rfl

theorem State.core_replayXfer (served : Bool) (x : Xfer) (s : State) : (s.replayXfer served x).core = s.core := by
  unfold State.replayXfer
  extract_lets y t
  split_ifs
  · rfl
  · exact State.core_unpark _ _ _
  · rfl
  · split
    · split
      · split_ifs
        · exact (State.core_startWrites _ _ _).trans (State.core_readDsts _ _)
        · exact State.core_startReads _ _ _
      · rfl
    · rfl

theorem State.core_replayLane (y k : Nat) (s : State) : (s.replayLane y k).core = s.core := by
  refine State.core_foldl (fun t x => ?_) _ s
  exact State.core_replayXfer _ x t

/-! ### A halt of the block (R95) -/

theorem State.core_sendProto (p : Pkt) (bs : List PByte) (s : State) : (s.sendProto p bs).core = s.core := by
  obtain ⟨_, _, _, _, _, h⟩ := s.sendProto_eq p bs
  rw [h]
  rfl

theorem State.core_disarm (ep e : Nat) (s : State) : (s.disarm ep e).core = s.core := by
  unfold State.disarm
  exact State.core_sendProto _ _ s

theorem State.core_resumeAll (e : Nat) (s : State) : (s.resumeAll e).core = s.core := by
  refine State.core_foldl (fun t p => ?_) _ s
  unfold State.resume
  exact State.core_sendProto _ _ t

theorem State.core_dropWork (p : Work → Bool) (s : State) : (s.dropWork p).core = s.core := by
  refine State.core_foldl (fun t x => ?_) _ s
  rfl

theorem State.core_freePlaces (g : Gen) (s : State) : (s.freePlaces g).core = s.core := by
  unfold State.freePlaces State.freeEntry
  dsimp only
  split_ifs
  · rfl
  · refine State.core_foldl (fun t x => ?_) _ _
    rfl
  · refine State.core_foldl (fun t x => ?_) _ _
    rfl

theorem State.core_cleanJob (job : Nat) (s : State) : (s.cleanJob job).core = s.core := by
  unfold State.cleanJob
  split
  · rfl
  · split_ifs <;> rfl

theorem State.core_abandon (e cause ep : Nat) (s : State) : (s.abandon e cause ep).core = s.core := by
  unfold State.abandon
  split
  · rfl
  · split_ifs
    · rfl
    · extract_lets a b c d u v
      have ha : a.core = s.core := by
        refine State.core_foldl (fun t p => ?_) _ s
        exact State.core_disarm p _ t
      have hc : c.core = b.core := by
        refine State.core_foldl (fun t a => ?_) _ b
        rfl
      have hd : d.core = s.core := (State.core_dropWork _ c).trans (hc.trans ((State.core_resumeAll _ a).trans ha))
      have hu : u.core = s.core := by
        simp only [u]
        split
        · exact (State.core_dropWork _ d).trans hd
        · exact hd
      exact (State.core_cleanJob _ _).trans ((State.core_freePlaces _ v).trans hu)

/-- The queues and functions that there are stay, though halted. -/
theorem State.core_haltBlock (bit : Nat) (s : State) : (s.haltBlock bit).core = s.core := by
  unfold State.haltBlock
  extract_lets halted armed t u
  have hhalted : halted.core = s.core := by simp only [State.core, halted, FMap.keys_mapV]
  have ht : t.core = halted.core := by
    refine State.core_foldl (fun v p => ?_) armed halted
    exact State.core_disarm p.1 p.2 v
  have hu : u.core = t.core := by
    refine State.core_foldl (fun v g => ?_) _ t
    exact State.core_abandon _ _ _ v
  exact hu.trans (ht.trans hhalted)

theorem State.core_safetyEvent (s : State) : s.safetyEvent.core = s.core := by
  unfold State.safetyEvent
  split_ifs
  · exact State.core_haltBlock _ s
  · rfl

/-! ### Lanes (R420 to R424) -/

theorem State.core_fence (y p cause : Nat) (s : State) : (s.fence y p cause).core = s.core := State.core_logMast _ _ _ _

theorem State.core_testFail (y p check context : Nat) (s : State) : (s.testFail y p check context).core = s.core :=
  (State.core_safetyEvent _).trans ((State.core_logMast _ _ _ _).trans (State.core_fence y p 3 s))

theorem State.core_takeOver (y k : Nat) (fails : List (Nat × Nat)) (ps : List Nat) : ∀ s : State, (s.takeOver y k fails ps).2.core = s.core := by
  induction ps with
  | nil => exact fun _ => rfl
  | cons p ps ih =>
    intro s
    rw [State.takeOver]
    split
    · exact State.core_logMast _ _ _ _
    · exact (ih _).trans (State.core_testFail _ _ _ _ s)

theorem State.core_vacate (y loss : Nat) (s : State) : (s.vacate y loss).core = s.core := by
  unfold State.vacate
  extract_lets was t u v
  have hu : u.core = s.core := by
    change (if _ then t else t.logDegraded y).core = _
    split_ifs
    · rfl
    · exact State.core_logMast _ _ _ t
  have hv : v.core = s.core := by
    refine (State.core_safetyEvent _).trans ?_
    split_ifs
    · exact hu
    · exact hu
  split_ifs
  · exact (State.core_haltBlock _ v).trans hv
  · exact hv

theorem State.core_replaceLane (y k loss : Nat) (fails : List (Nat × Nat)) (s : State) : (s.replaceLane y k loss fails).core = s.core := by
  unfold State.replaceLane
  have htake := State.core_takeOver y k fails (s.sparesFree y) s
  split
  · rename_i t h
    exact (State.core_replayLane y k t).trans ((congrArg (fun p => p.2.core) h).symm.trans htake)
  · rename_i t h
    exact (State.core_replayLane y k _).trans ((State.core_vacate y loss t).trans ((congrArg (fun p => p.2.core) h).symm.trans htake))

theorem State.core_endTrial (y : Nat) (s : State) : (s.endTrial y).core = s.core := by
  unfold State.endTrial
  split
  · rfl
  · split
    · rfl
    · refine State.core_foldl (fun t x => ?_) _ _
      exact State.core_replayXfer true x t

theorem State.core_loseLane (y p cause : Nat) (fails : List (Nat × Nat)) (s : State) : (s.loseLane y p cause fails).core = s.core := by
  unfold State.loseLane
  extract_lets t k loss u
  have hu : u.core = s.core := (State.core_fence y p cause t).trans (State.core_endTrial y s)
  clear_value k
  split
  · exact (State.core_replaceLane _ _ _ _ u).trans hu
  · exact hu

/-- R422: the lanes that fail a boot's self-checks are fenced and replaced. -/
theorem State.core_bootLanes (fails : List Nat) (s : State) : (s.bootLanes fails).core = s.core := by
  refine State.core_foldl (fun t l => ?_) _ s
  exact State.core_loseLane _ _ _ _ t

end Sys2Proof.Machine
end

section
/-! PROOFS. The boot from a reset (R70, R178 to R180, R367, R398, Table 2-12). -/

namespace Sys2Proof.Machine

open Sys2Proof.Claims

/-! ### What is logged and counted on the way -/

/-- `t` is `s` with more logged, counted and selected. -/
def State.Notes (s t : State) : Prop := ∃ l c f, t = { s with log := l, ctr := c, fw := f }

theorem State.Notes.refl (s : State) : s.Notes s := ⟨s.log, s.ctr, s.fw, rfl⟩

theorem State.Notes.trans {s t u : State} (h : s.Notes t) (h' : t.Notes u) : s.Notes u := by
  obtain ⟨_, _, _, rfl⟩ := h
  obtain ⟨_, _, _, rfl⟩ := h'
  exact ⟨_, _, _, rfl⟩

theorem State.notes_foldl {α : Type} {g : State → α → State} (h : ∀ (s : State) a, s.Notes (g s a)) (l : List α) (s : State) : s.Notes (l.foldl g s) :=
  List.foldlRecOn l g (motive := fun t => s.Notes t) (State.Notes.refl s) fun t ht a _ => ht.trans (h t a)

theorem State.notes_foldl_snd {α β : Type} {g : β × State → α → β × State} (h : ∀ (p : β × State) a, p.2.Notes (g p a).2) (l : List α) (p : β × State) :
    p.2.Notes (l.foldl g p).2 :=
  List.foldlRecOn l g (motive := fun t => p.2.Notes t.2) (State.Notes.refl p.2) fun t ht a _ => ht.trans (h t a)

theorem State.notes_logEvent (code : Nat) (d : List Nat) (s : State) : s.Notes (s.logEvent code d) := by
  unfold State.logEvent State.logWith State.logEntry
  split_ifs
  · exact ⟨_, s.ctr, s.fw, rfl⟩
  · exact ⟨_, _, s.fw, rfl⟩
  · exact ⟨_, s.ctr, s.fw, rfl⟩

/-- An uncorrectable word that no entry reads is counted and logged. -/
theorem State.notes_uncEvent (mem cause unit word n : Nat) (s : State) : s.Notes (s.uncEvent none mem cause unit word n) :=
  State.Notes.trans ⟨s.log, _, s.fw, rfl⟩ (State.notes_logEvent _ _ _)

theorem State.notes_countGranule (port unitAddr : Nat) (g : GranuleRead) (s : State) : s.Notes (s.countGranule port unitAddr g) := by
  unfold State.countGranule
  extract_lets t u
  have ht : s.Notes t := ⟨s.log, _, s.fw, rfl⟩
  have hu : t.Notes u := by
    refine State.notes_foldl (fun v c => ?_) _ t
    exact ⟨v.log, _, v.fw, rfl⟩
  split_ifs
  · exact (ht.trans hu).trans ⟨u.log, _, u.fw, rfl⟩
  · exact ht.trans hu

theorem State.notes_stgClassify (port unitAddr : Nat) (answer : Option (Bool × List Byte × List Byte)) (s : State) :
    s.Notes (s.stgClassify port unitAddr answer).2 := by
  unfold State.stgClassify
  split_ifs
  · exact State.Notes.refl s
  · rcases answer with _ | ⟨err, data, check⟩
    · exact State.Notes.refl s
    · dsimp only
      split_ifs
      · exact State.Notes.refl s
      · exact State.notes_countGranule _ _ _ s
      · exact State.notes_countGranule _ _ _ s

theorem State.notes_bootRead (r : BootReads) (unit : Nat) (bs : List Byte) (s : State) : s.Notes (s.bootRead r unit bs).2 := by
  unfold State.bootRead
  extract_lets pl
  split
  · split_ifs
    · exact State.notes_uncEvent _ _ _ _ _ s
    · exact State.Notes.refl s
  · rename_i a _
    have hclass := s.notes_stgClassify pl.1 pl.2 a
    split
    · rename_i h
      rw [h] at hclass
      exact hclass.trans (State.notes_uncEvent _ _ _ _ _ _)
    · rename_i h
      rw [h] at hclass
      exact hclass

theorem State.notes_bootBytes (r : BootReads) (first n : Nat) (f : Nat → List Byte) (s : State) : s.Notes (s.bootBytes r first n f).2 := by
  unfold State.bootBytes
  split
  rename_i bs t h
  refine (congrArg (fun p : List PByte × State => s.Notes p.2) h).mp ?_
  refine State.notes_foldl_snd (fun p i => ?_) _ ([], s)
  have hread := p.2.notes_bootRead r (first + i) (f i)
  split
  rename_i hi
  rwa [hi] at hread

theorem State.notes_bootEnt (r : BootReads) (i : Nat) (s : State) : s.Notes (s.bootEnt r i).2 := by
  unfold State.bootEnt
  dsimp only
  have hboth := (State.notes_bootBytes r (32 * i) 16 (fun j => slice (freeCopy 0) (64 * j) 64) s).trans
    (State.notes_bootBytes r (32 * i + 16) 16 (fun j => slice (freeCopy 0) (64 * j) 64) _)
  split
  · exact hboth
  · split_ifs
    · exact hboth
    · exact hboth
    · exact hboth.trans (State.notes_bootBytes r _ _ _ _)

theorem State.notes_bootDirectory (r : BootReads) (s : State) : s.Notes (s.bootDirectory r).2 := by
  refine State.notes_foldl_snd (fun p i => ?_) _ ([], s)
  have hent := p.2.notes_bootEnt r i
  split
  rename_i hi
  rwa [hi] at hent

theorem State.notes_flushLog (s : State) : s.Notes s.flushLog := by
  unfold State.flushLog
  extract_lets persistent l t
  have ht : s.Notes t := ⟨_, s.ctr, s.fw, rfl⟩
  split_ifs
  · exact ht
  · exact ht.trans (State.notes_logEvent _ _ t)

/-- R367: the selection of a code's slot. -/
theorem State.notes_fwSelect (code : Nat) (s : State) : s.Notes (s.fwSelect code).2 := by
  have hmod (g : FwCode → FwCode) (t : State) : t.Notes (t.modFw code g) := ⟨t.log, t.ctr, _, rfl⟩
  unfold State.fwSelect
  extract_lets c t u
  have ht : s.Notes t := hmod _ s
  have hu : s.Notes u := by
    simp only [u]
    split_ifs
    · exact ht.trans (State.notes_logEvent _ _ t)
    · exact ht
  split_ifs
  · exact ht.trans (hmod _ t)
  · exact hu
  · exact hu.trans ((hmod _ u).trans (State.notes_logEvent _ _ _))
  · exact hu

theorem State.notes_fwSelectAll (s : State) : s.Notes s.fwSelectAll.2 := by
  refine State.notes_foldl_snd (fun p code => ?_) _ (true, s)
  exact State.notes_fwSelect code p.2

/-! ### Steps 1 and 2: the fuses, the life clock and the boot count -/

/-- The state that counts the boot. -/
def State.bootStart (s : State) : State := State.bootCount (State.bootSense { s with glob := { s.glob with power := .boot } })

theorem State.bootStart_eq (s : State) : ∃ a q, s.bootStart = { s with glob := { s.glob with power := .boot, afterPorst := a }, pen := q } := by
  unfold State.bootStart State.bootSense
  dsimp only
  split_ifs
  · exact ⟨false, _, rfl⟩
  · exact ⟨s.glob.afterPorst, _, rfl⟩

theorem Pen.boot_writeRec (p : Pen) : p.writeRec.boot = p.boot := by
  unfold Pen.writeRec
  split_ifs <;> rfl

theorem Pen.lifeS_writeRec (p : Pen) : p.writeRec.lifeS = p.lifeS := by
  unfold Pen.writeRec
  split_ifs <;> rfl

theorem Pen.boot_restoreLife (p : Pen) : p.sense.restoreLife.boot = if p.lostSupply then p.bestRec.boot else p.boot := by
  unfold Pen.restoreLife
  change (if p.lostSupply then _ else _ : Pen).boot = _
  split_ifs <;> rfl

/-- R398: the boot is counted, from the better life record where the always-on supply was lost. -/
theorem State.boot_bootStart (s : State) : s.bootStart.pen.boot =
    min ((if s.glob.afterPorst && s.pen.lostSupply then s.pen.bestRec.boot else s.pen.boot) + 1) 0xFFFFFFFF := by
  refine (Pen.boot_writeRec _).trans ?_
  unfold State.bootSense
  dsimp only
  cases s.glob.afterPorst with
  | true => simp only [if_true, Pen.boot_restoreLife, Bool.true_and]
  | false => simp only [Bool.false_eq_true, if_false, Bool.false_and]

/-- Without PORST_N the life clock stays. -/
theorem State.lifeS_bootStart {s : State} (h : s.glob.afterPorst = false) : s.bootStart.pen.lifeS = s.pen.lifeS := by
  refine (Pen.lifeS_writeRec _).trans ?_
  unfold State.bootSense
  simp only [h, Bool.false_eq_true, if_false]

/-! ### Steps 4 and 5: the processors start (R178, R180) -/

/-- The processors have started: function 0 is ACTIVE, and queue 0 DISABLED and empty. -/
def State.procsUp (s : State) : State :=
  { s with glob := s.glob.booted s.mustWrite, mb := { s.mb with notReady := s.mustWrite }
           fns := [(0, { state := .active, pasid := 0, beat := s.now })]
           sqs := [(0, { bootAsq with base := s.adm.asqBase, log2 := s.adm.asqLog2 })] }

/-- What the start of the processors goes on with: the event log, the areas of staging, and the directory. -/
def State.TakesUp (s t : State) : Prop :=
  ∃ l c f k d q g m j, t = { s with log := l, ctr := c, fw := f, scrubs := k, dir := d, dirQ := q, gens := g, manStore := m, jobs := j }

theorem State.TakesUp.trans {s t u : State} (h : s.TakesUp t) (h' : t.TakesUp u) : s.TakesUp u := by
  obtain ⟨_, _, _, _, _, _, _, _, _, rfl⟩ := h
  obtain ⟨_, _, _, _, _, _, _, _, _, rfl⟩ := h'
  exact ⟨_, _, _, _, _, _, _, _, _, rfl⟩

theorem State.Notes.takesUp {s t : State} (h : s.Notes t) : s.TakesUp t := by
  obtain ⟨l, c, f, rfl⟩ := h
  exact ⟨l, c, f, s.scrubs, s.dir, s.dirQ, s.gens, s.manStore, s.jobs, rfl⟩

theorem State.takesUp_startScrub (entry base len : Nat) (fill : FillKind) (s : State) : s.TakesUp (s.startScrub entry base len fill) := by
  unfold State.startScrub
  split_ifs
  · exact (State.Notes.refl s).takesUp
  · exact ⟨s.log, s.ctr, s.fw, _, s.dir, s.dirQ, s.gens, s.manStore, s.jobs, rfl⟩

theorem State.takesUp_recognise (r : BootReads) (s : State) : s.TakesUp (s.recognise r) := by
  unfold State.recognise
  split_ifs
  · exact ⟨s.log, s.ctr, s.fw, s.scrubs, [], s.dirQ, s.gens, s.manStore, s.jobs, rfl⟩
  · dsimp only
    refine (s.notes_bootDirectory r).takesUp.trans ?_
    exact ⟨_, _, _, _, _, _, _, _, _, rfl⟩

/-- Table 2-12: what step 5 ends with: the lanes that fail the self-checks, their fault bit, and sampling where READY rises. -/
def State.checked (fails : List Nat) (write : Bool) (s : State) : State :=
  if write then (s.bootLanes fails).bootFaults else (s.bootLanes fails).bootFaults.startSampling

/-- The areas of staging that a boot writes first (R180). -/
def State.writeAreas (write : Bool) (s : State) : State :=
  if write then (s.startScrub 0 s.setup.reservedBase 0x200000 (.freeEntry 0)).startScrub 0 s.setup.logBase 0x2000000 .zero else s

/-- The torn fuse records that a boot finds after PORST_N. -/
def State.tornFound (s : State) : List TallyRec := if s.glob.unlogged then s.pen.tally.filter (!·.committed) else []

/-- Each is logged. -/
def State.logTorn (rs : List TallyRec) (s : State) : State := rs.foldl (fun s r => s.logEvent 0x0709 [r.setting]) s

theorem State.bootUp_steps (fails : List Nat) (r : BootReads) (s : State) : s.bootUp fails r =
    (((s.procsUp.flushLog.writeAreas s.mustWrite).logTorn s.tornFound).recognise r).checked fails s.mustWrite := rfl

theorem State.bootUp_eq (fails : List Nat) (r : BootReads) (s : State) :
    ∃ t, s.procsUp.TakesUp t ∧ s.bootUp fails r = t.checked fails s.mustWrite := by
  have hareas (write : Bool) (t : State) : t.TakesUp (t.writeAreas write) := by
    unfold State.writeAreas
    split_ifs
    · exact (State.takesUp_startScrub _ _ _ _ t).trans (State.takesUp_startScrub _ _ _ _ _)
    · exact (State.Notes.refl t).takesUp
  have htorn (rs : List TallyRec) (t : State) : t.Notes (t.logTorn rs) := by
    refine State.notes_foldl (fun u r => ?_) rs t
    exact State.notes_logEvent _ _ u
  exact ⟨_, (((State.notes_flushLog _).takesUp.trans (hareas _ _)).trans (htorn _ _).takesUp).trans (State.takesUp_recognise r _),
    State.bootUp_steps fails r s⟩

theorem State.core_checked (fails : List Nat) (write : Bool) (s : State) : (s.checked fails write).core = s.core := by
  have hfaults : (s.bootLanes fails).bootFaults.core = s.core := by
    refine Eq.trans ?_ (State.core_bootLanes fails s)
    unfold State.bootFaults
    split_ifs <;> rfl
  unfold State.checked
  split_ifs
  · exact hfaults
  · exact hfaults

/-- Where no lane fails, functions and queues are as they started. -/
theorem State.rows_checked_nil (write : Bool) (s : State) : (s.checked [] write).fns = s.fns ∧ (s.checked [] write).sqs = s.sqs := by
  have hfaults : (s.bootLanes []).bootFaults.fns = s.fns ∧ (s.bootLanes []).bootFaults.sqs = s.sqs := by
    unfold State.bootFaults
    split_ifs <;> exact ⟨rfl, rfl⟩
  unfold State.checked
  split_ifs
  · exact hfaults
  · exact hfaults

theorem State.TakesUp.core_eq {s t : State} (h : s.TakesUp t) : t.core = s.core := by
  obtain ⟨_, _, _, _, _, _, _, _, _, rfl⟩ := h
  rfl

theorem State.core_bootUp (fails : List Nat) (r : BootReads) (s : State) : (s.bootUp fails r).core = s.procsUp.core := by
  obtain ⟨t, ht, h⟩ := s.bootUp_eq fails r
  rw [h, State.core_checked, ht.core_eq]

theorem State.rows_bootUp_nil (r : BootReads) (s : State) : (s.bootUp [] r).fns = s.procsUp.fns ∧ (s.bootUp [] r).sqs = s.procsUp.sqs := by
  obtain ⟨t, ht, h⟩ := s.bootUp_eq [] r
  obtain ⟨hf, hq⟩ := t.rows_checked_nil s.mustWrite
  obtain ⟨_, _, _, _, _, _, _, _, _, rfl⟩ := ht
  rw [h]
  exact ⟨hf, hq⟩

/-! ### The boot as a whole -/

/-- A boot that has brought its processors up to `u`: READY as what must be written allows, the always-on domain as it was counted. -/
def State.ended (s u : State) : State :=
  { u with pen := if s.mustWrite then s.pen else s.readyPen
           glob := { u.glob with power := (s.glob.booted s.mustWrite).power, ready := (s.glob.booted s.mustWrite).ready
                                 areaStale := (s.glob.booted s.mustWrite).areaStale, unready := (s.glob.booted s.mustWrite).unready
                                 pfPasid := s.glob.pfPasid } }

theorem State.core_ended (s u : State) : (s.ended u).core = u.core := rfl

theorem State.rows_ended (s u : State) : (s.ended u).fns = u.fns ∧ (s.ended u).sqs = u.sqs := ⟨rfl, rfl⟩

theorem State.ready_ended (s u : State) : (s.ended u).glob.ready = !s.mustWrite ∧
    (s.ended u).glob.power = (if s.mustWrite then .boot else .run) := ⟨rfl, rfl⟩

theorem State.boot_images {s : State} (h : imagesGood s = true) (fails : List Nat) (r : BootReads) :
    s.boot fails r = s.bootStart.ended (s.bootStart.fwSelectAll.2.bootUp fails r) := by
  change s.bootStart.fwSelectAll.1 = true at h
  change (match s.bootStart.fwSelectAll with
    | (true, t) => s.bootStart.ended (t.bootUp fails r)
    | (false, t) => { t.bootRecovery with pen := s.bootStart.pen }) = _
  split
  · rename_i t ht
    rw [ht]
  · rename_i t ht
    rw [ht] at h
    cases h

theorem State.boot_noImage {s : State} (h : imagesGood s = false) (fails : List Nat) (r : BootReads) :
    s.boot fails r = { s.bootStart.fwSelectAll.2.bootRecovery with pen := s.bootStart.pen } := by
  change s.bootStart.fwSelectAll.1 = false at h
  change (match s.bootStart.fwSelectAll with
    | (true, t) => s.bootStart.ended (t.bootUp fails r)
    | (false, t) => { t.bootRecovery with pen := s.bootStart.pen }) = _
  split
  · rename_i t ht
    rw [ht] at h
    cases h
  · rename_i t ht
    rw [ht]

/-- What the always-on domain keeps of the count, READY or not. -/
theorem State.pen_ended (s u : State) : (s.ended u).pen.boot = s.pen.boot ∧ (s.ended u).pen.lifeS = s.pen.lifeS := by
  have hready : s.readyPen.boot = s.pen.boot ∧ s.readyPen.lifeS = s.pen.lifeS := by
    unfold State.readyPen
    split_ifs <;> exact ⟨rfl, rfl⟩
  change (if s.mustWrite then s.pen else s.readyPen).boot = _ ∧ (if s.mustWrite then s.pen else s.readyPen).lifeS = _
  split_ifs
  · exact ⟨rfl, rfl⟩
  · exact hready

/-- R398: whatever the images, the boot is counted and the life clock goes on. -/
theorem State.pen_boot (s : State) (fails : List Nat) (r : BootReads) :
    (s.boot fails r).pen.boot = s.bootStart.pen.boot ∧ (s.boot fails r).pen.lifeS = s.bootStart.pen.lifeS := by
  cases h : imagesGood s with
  | true => rw [State.boot_images h]; exact State.pen_ended _ _
  | false => rw [State.boot_noImage h]; exact ⟨rfl, rfl⟩

/-- A boot that finds its images starts from the state that it counted. -/
theorem State.core_boot_images {s : State} (h : imagesGood s = true) (fails : List Nat) (r : BootReads) : (s.boot fails r).core =
    ((s.setup, { s.mb with notReady := s.mustWrite }, s.cqs), (s.glob.porstLow, s.glob.blkRstLow), ([0], true)) := by
  have hup := s.bootStart.fwSelectAll.2.core_bootUp fails r
  obtain ⟨_, _, _, hfw⟩ := s.bootStart.notes_fwSelectAll
  obtain ⟨_, _, hstart⟩ := s.bootStart_eq
  rw [State.boot_images h, State.core_ended, hup, hfw, hstart]
  rfl

/-- The reset pins and the set-up are as they were. -/
theorem State.pins_boot (s : State) (fails : List Nat) (r : BootReads) : (s.boot fails r).setup = s.setup ∧
    (s.boot fails r).glob.porstLow = s.glob.porstLow ∧ (s.boot fails r).glob.blkRstLow = s.glob.blkRstLow := by
  cases h : imagesGood s with
  | true =>
    have hcore := State.core_boot_images h fails r
    simp only [State.core, Prod.mk.injEq] at hcore
    obtain ⟨⟨hsetup, -, -⟩, ⟨hporst, hblk⟩, -⟩ := hcore
    exact ⟨hsetup, hporst, hblk⟩
  | false =>
    obtain ⟨_, _, _, hfw⟩ := s.bootStart.notes_fwSelectAll
    obtain ⟨_, _, hstart⟩ := s.bootStart_eq
    rw [State.boot_noImage h, hfw, hstart]
    exact ⟨rfl, rfl, rfl⟩

/-- The boot of Table 2-12, with its images or without (R367). -/
theorem State.startsUp_boot (s : State) (fails : List Nat) (r : BootReads) : StartsUp s fails (s.boot fails r) := by
  obtain ⟨l, c, f, hfw⟩ := s.bootStart.notes_fwSelectAll
  obtain ⟨a, q, hstart⟩ := s.bootStart_eq
  refine ⟨(s.pins_boot fails r).1, (s.pen_boot fails r).1.trans s.boot_bootStart, fun h => ?_, fun h => ?_⟩
  · have hcore := State.core_boot_images h fails r
    simp only [State.core, Prod.mk.injEq] at hcore
    obtain ⟨⟨-, hmb, hcqs⟩, -, hfns, hsqs⟩ := hcore
    have hwrite : s.bootStart.mustWrite = s.mustWrite := by rw [hstart]; rfl
    refine ⟨?_, ?_, by rw [hmb], hfns, by simpa using hsqs, hcqs, fun hf => ?_⟩
    · rw [State.boot_images h, ← hwrite]
      exact (State.ready_ended _ _).1
    · rw [State.boot_images h, ← hwrite]
      exact (State.ready_ended _ _).2
    · subst hf
      obtain ⟨hf, hq⟩ := s.bootStart.fwSelectAll.2.rows_bootUp_nil r
      rw [State.boot_images h, (State.rows_ended _ _).1, (State.rows_ended _ _).2]
      refine ⟨_, hf, rfl, hq.trans ?_⟩
      rw [hfw, hstart]
      rfl
  · rw [State.boot_noImage h, hfw, hstart]
    exact ⟨rfl, rfl, rfl, rfl, rfl, rfl⟩

/-! ### The deassertions (R36, R70) -/

/-- BLK_RST_N is high. -/
def State.blkUp (s : State) : State := { s with glob := { s.glob with blkRstLow := false } }

theorem State.blkRstHigh_low {s : State} (h : s.glob.blkRstLow = true) (fails : List Nat) (r : BootReads) :
    s.blkRstHigh fails r = if s.glob.porstLow then s.blkUp else s.blkUp.boot fails r := by
  simp only [State.blkRstHigh, h, Bool.not_true, Bool.false_eq_true, if_false]
  rfl

/-- PORST_N is high, and the tie-offs are sampled. -/
def State.porstUp (p : BitVec 8) (z : BitVec 3) (s : State) : State :=
  { s with setup := { s.setup with stagePresent := p, stageSize := z }, glob := { s.glob with porstLow := false }
           pen := { s.pen with powered := true } }

theorem State.sampled_low {s : State} (h : s.glob.porstLow = true) (p : BitVec 8) (z : BitVec 3) : s.sampled p z = (s.porstUp p z).setup :=
  if_pos h

theorem State.porstHigh_low {s : State} (h : s.glob.porstLow = true) (p : BitVec 8) (z : BitVec 3) (fails : List Nat) :
    s.porstHigh p z fails = if s.glob.blkRstLow then s.porstUp p z else (s.porstUp p z).boot fails {} := by
  simp only [State.porstHigh, h, Bool.not_true, Bool.false_eq_true, if_false, State.sampled_low h]
  rfl

theorem exec_porstHigh {s : State} (h : s.glob.porstLow = true) (p : BitVec 8) (z : BitVec 3) (fails : List Nat) :
    exec (.porstDeassertion p z fails) s =
      .next (s.commit (s.porstUp p z).setup s.pen.tally (s.porstHigh p z fails).settle) := by
  rw [← State.sampled_low h]
  rfl

/-- Settles O12: each deassertion by the level of the other reset, and the boot by its images. -/
theorem bootFromReset : Obligations.BootFromReset := by
  intro s p z fails r
  refine ⟨fun hblk hporst => ?_, fun hblk hporst => ?_, fun hporst hblk => ?_, fun hporst hblk => ?_⟩
  · have hexec : Resets (.blkRstDeassertion fails r) s (s.blkRstHigh fails r) := rfl
    rw [State.blkRstHigh_low hblk, if_neg (by rw [hporst]; decide)] at hexec
    exact ⟨_, hexec, (s.blkUp.pins_boot fails r).2.2, s.blkUp.startsUp_boot fails r,
      fun h => (s.blkUp.pen_boot fails r).2.trans (State.lifeS_bootStart (s := s.blkUp) h)⟩
  · have hexec : Resets (.blkRstDeassertion fails r) s (s.blkRstHigh fails r) := rfl
    rwa [State.blkRstHigh_low hblk, if_pos hporst] at hexec
  · have hexec := exec_porstHigh hporst p z fails
    rw [State.porstHigh_low hporst, if_pos hblk] at hexec
    exact ⟨s.porstUp p z, _, hexec, rfl, rfl⟩
  · have hexec := exec_porstHigh hporst p z fails
    rw [State.porstHigh_low hporst, if_neg (by rw [hblk]; decide)] at hexec
    exact ⟨s.porstUp p z, _, _, hexec, rfl, rfl, (s.porstUp p z).startsUp_boot fails {}, ((s.porstUp p z).pins_boot fails {}).2.1⟩

end Sys2Proof.Machine
end

section
/-! PROOFS. Doorbells (R74, R76, R77, R79, R84, R94): when one is ignored, and what one that is served changes. -/

namespace Sys2Proof.Machine

open Sys2Proof.Claims

/-! ### When a doorbell is ignored (R77, R94) -/

theorem State.doorbellsOff_iff {s : State} {f : Nat} :
    s.doorbellsOff f = true ↔ s.queuesHalted f = true ∧ (f ≠ 0 ∨ ∀ q, FMap.find s.sqs 0 = some q → q.state = .halted) := by
  unfold State.doorbellsOff
  cases FMap.find s.sqs 0 <;> simp

theorem State.doorbellsOff_eq_false {s : State} {f : Nat}
    (h : s.queuesHalted f = false ∨ f = 0 ∧ ∃ q, FMap.find s.sqs 0 = some q ∧ q.state ≠ .halted) : s.doorbellsOff f = false := by
  rw [← Bool.not_eq_true, State.doorbellsOff_iff]
  rintro ⟨hh, hf⟩
  rcases h with h | ⟨rfl, q, hq, hs⟩
  · rw [h] at hh
    cases hh
  · exact hs (hf.resolve_left (fun h => h rfl) q hq)

theorem State.sqDoorbell_off {s : State} {f : Nat} (h : s.doorbellsOff f = true) (slot tail : Nat) (inv : Bool) :
    s.sqDoorbell f slot tail inv = s := by
  simp [State.sqDoorbell, h]

theorem State.cqDoorbell_off {s : State} {f : Nat} (h : s.doorbellsOff f = true) (slot head : Nat) : s.cqDoorbell f slot head = s := by
  simp [State.cqDoorbell, h]

/-! ### Doorbells that are served -/

section
variable {s : State} {f : Nat} (hready : s.ctlReady = true) (hfn : FMap.has s.fns f = true) (hon : s.doorbellsOff f = false)
include hready hfn hon

theorem State.sqDoorbell_absent {slot : Nat} (h : s.sqAt f slot = none) (tail : Nat) (inv : Bool) : s.sqDoorbell f slot tail inv = s := by
  simp [State.sqDoorbell, hready, hfn, hon, h]

theorem State.sqDoorbell_ignored {slot qid : Nat} {q : Sq} (h : s.sqAt f slot = some (qid, q))
    (hq : q.state = .halted ∨ q.state = .destroying ∨ q.state = .absent) (tail : Nat) (inv : Bool) : s.sqDoorbell f slot tail inv = s := by
  rcases hq with hq | hq | hq <;> simp [State.sqDoorbell, hready, hfn, hon, h, hq]

/-- A TAIL at or above the ring size counts (R74). -/
theorem State.sqDoorbell_outside {slot qid tail : Nat} {q : Sq} (h : s.sqAt f slot = some (qid, q))
    (hq : q.state = .running ∨ q.state = .disabled) (ht : ringSize q.log2 ≤ tail) (inv : Bool) :
    s.sqDoorbell f slot tail inv = s.bump (ctrId 7 f 0) := by
  simp [State.sqDoorbell, hready, hfn, hon, h, hq, ht]

theorem State.sqDoorbell_inside {slot qid tail : Nat} {q : Sq} (h : s.sqAt f slot = some (qid, q))
    (hq : q.state = .running ∨ q.state = .disabled) (ht : tail < ringSize q.log2) (inv : Bool) :
    s.sqDoorbell f slot tail inv =
      ({ s with sqs := FMap.put s.sqs qid { q with tail := tail, cache := if inv then [] else q.cache } } : State).wake := by
  simp [State.sqDoorbell, hready, hfn, hon, h, hq, Nat.not_le.mpr ht]

/-- A RUNNING ring that holds no completion takes the HEAD, and has nothing to write (R77, R84). -/
theorem State.cqDoorbell_empty {slot qid head : Nat} {r : Cq} (h : s.cqAt f slot = some (qid, r)) (hr : r.state = .running)
    (hheld : r.held = []) (hh : head < ringSize r.log2) :
    s.cqDoorbell f slot head = ({ s with cqs := FMap.put s.cqs qid { r with head := head } } : State).wake := by
  simp [State.cqDoorbell, hready, hfn, hon, h, hr, Nat.not_le.mpr hh, State.flushRing, hheld, State.flushHeld]

end

/-! ### The commands -/

theorem exec_sqDoorbell_same {s : State} {f slot : Nat} {tail : BitVec 16} (h : ∀ inv, s.sqDoorbell f slot tail.toNat inv = s) :
    exec (.sqDoorbell f slot tail) s = .next s ∧ exec (.inv f slot tail) s = .next s :=
  ⟨congrArg s.doneFixed (h false), congrArg s.doneFixed (h true)⟩

theorem acts_cqDoorbell {s t : State} {f slot : Nat} {head : BitVec 16} (h : s.cqDoorbell f slot head.toNat = t) :
    Acts (.cqDoorbell f slot head) s t := by
  rw [← h]
  rfl

/-- The queue of a slot takes a TAIL inside its ring, and no other queue changes. -/
theorem find_put_wake {s : State} (qid : Nat) (q : Sq) :
    FMap.find (s.keepFixed ({ s with sqs := FMap.put s.sqs qid q } : State).wake).sqs qid = some q ∧
      ∀ k, k ≠ qid → FMap.find (s.keepFixed ({ s with sqs := FMap.put s.sqs qid q } : State).wake).sqs k = FMap.find s.sqs k := by
  simp only [State.keepFixed_sqs, State.wake_sqs, FMap.find_put_self, true_and]
  exact fun k hk => FMap.find_put_ne _ _ hk

theorem doorbellByState : Claims.DoorbellByState := by
  refine ⟨fun s f slot value hh hf => ?_, fun s f slot tail hready hfn hon => ?_⟩
  · have hoff := State.doorbellsOff_iff.mpr ⟨hh, hf⟩
    obtain ⟨h1, h2⟩ := exec_sqDoorbell_same (tail := value) (State.sqDoorbell_off hoff slot value.toNat)
    exact ⟨h1, h2, acts_cqDoorbell (State.cqDoorbell_off hoff slot _)⟩
  · have hon := State.doorbellsOff_eq_false hon
    refine ⟨fun qid q hq ht => ⟨fun hs => ⟨⟨_, rfl, ?_⟩, _, rfl, ?_⟩, fun hs => ?_⟩, fun hq => ?_⟩
    · rw [State.sqDoorbell_inside hready hfn hon hq hs ht]
      exact find_put_wake ..
    · rw [State.sqDoorbell_inside hready hfn hon hq hs ht]
      exact find_put_wake ..
    · exact exec_sqDoorbell_same (State.sqDoorbell_ignored hready hfn hon hq hs _)
    · exact exec_sqDoorbell_same (State.sqDoorbell_absent hready hfn hon hq _)

theorem doorbellOutOfRange : Claims.DoorbellOutOfRange := by
  intro s f slot qid q tail hready hfn hon hq hs ht
  exact ⟨congrArg s.doneFixed (State.sqDoorbell_outside hready hfn hon hq hs ht false),
    congrArg s.doneFixed (State.sqDoorbell_outside hready hfn hon hq hs ht true)⟩

theorem completionDoorbell : Claims.CompletionDoorbell := by
  intro s f slot qid r head hready hfn hon hr hs hheld hh
  refine ⟨_, acts_cqDoorbell (State.cqDoorbell_empty hready hfn hon hr hs hheld hh), ?_, fun k hk => ?_, ?_⟩
  · simp
  · simp [FMap.find_put_ne _ _ hk]
  · simp

/-- Settles O31: a doorbell by the state of its queue or ring, and by its index. -/
theorem doorbells : Obligations.Doorbells := ⟨doorbellByState, doorbellOutOfRange, completionDoorbell⟩

end Sys2Proof.Machine
end

section
/-! PROOFS. The life of an entry (R59, R78, R80, R92 to R94, R376): a row acts once, and the entry at the head of a queue is accepted or found
malformed. -/

namespace Sys2Proof.Machine

open Sys2Proof.Claims

/-! ### An entry's row acts once (R59, R80) -/

theorem State.started_same {s : State} {e : EntryId} (h : ∀ a, s.acc e = some a → a.phase ≠ .accepted ∨ a.fin ≠ none)
    (k : Acc → State → State) : s.started e k = s := by
  unfold State.started
  split
  · rfl
  · next a ha =>
    refine if_neg fun hp => ?_
    rw [Bool.and_eq_true, decide_eq_true_eq, Option.isNone_iff_eq_none] at hp
    exact (h a ha).elim (· hp.1) (· hp.2)

theorem State.startedRead_same {s : State} {e : EntryId} (h : ∀ a, s.acc e = some a → a.phase ≠ .accepted ∨ a.fin ≠ none)
    (k : Acc → State → State) : s.startedRead e k = s := by
  rw [State.startedRead, State.started_same h, ite_self]

theorem State.startedRead_noRoom {s : State} (h : s.readRoom = false) (e : EntryId) (k : Acc → State → State) : s.startedRead e k = s := by
  rw [State.startedRead, h]
  rfl

theorem entriesActOnce : Claims.EntriesActOnce := by
  intro c s e hc
  refine ⟨fun h => ?_, fun hroom hrow => ?_⟩
  · have hs := State.started_same h
    have hr := State.startedRead_same h
    cases c
    case queueCreate | queueDestroy | sliceCreate | sliceResize | sliceReset | sliceFreeze | sliceSave | attachEndpoint | copy | fill | cut
        | stamp | drain | restoreSpare | sheetArm | sheetRearm | sheetStop | cleatSignal | cleatWait | digest | kuBlock | snapLatch =>
      cases hc
      exact congrArg s.doneFixed (hs _)
    case sliceLoad | keyLoad | genOpen | protect | restore =>
      cases hc
      exact congrArg s.doneFixed (hr _)
    case rigStage =>
      cases hc
      exact congrArg s.doneRigs (hr _)
    case rigCommit | rigRollback =>
      cases hc
      exact congrArg s.doneRigs (hs _)
    case fwStage =>
      cases hc
      exact congrArg s.doneFw (hr _)
    case fwActivate =>
      cases hc
      exact congrArg s.doneFw (hs _)
    all_goals cases hc
  · have hr := fun k => State.startedRead_noRoom hroom e k
    rcases hrow with ⟨w, rfl | rfl | rfl | rfl | rfl⟩ | ⟨v, w, rfl⟩
    · exact congrArg s.doneFixed (hr _)
    · exact congrArg s.doneRigs (hr _)
    · exact congrArg s.doneFixed (hr _)
    · exact congrArg s.doneFw (hr _)
    · exact congrArg s.doneFixed (hr _)
    · exact congrArg s.doneFixed (hr _)

/-! ### What a fetch leaves (R73, R78) -/

@[simp] theorem Sq.fetch_head (q : Sq) (l : List HostRead) : (q.fetch l).head = q.head := rfl

@[simp] theorem Sq.fetch_tail (q : Sq) (l : List HostRead) : (q.fetch l).tail = q.tail := rfl

@[simp] theorem Sq.fetch_fn (q : Sq) (l : List HostRead) : (q.fetch l).fn = q.fn := rfl

@[simp] theorem Sq.fetch_state (q : Sq) (l : List HostRead) : (q.fetch l).state = q.state := rfl

@[simp] theorem Sq.fetch_log2 (q : Sq) (l : List HostRead) : (q.fetch l).log2 = q.log2 := rfl

/-- A fetch without data reads nothing. -/
theorem Sq.length_fetch_nil (q : Sq) : (q.fetch []).cache.length - q.cache.length = 0 := by
  simp only [Sq.fetch, List.append_nil, List.length_take]
  omega

/-- One entry is one request (R59, R73). -/
theorem State.readHost_entry (s : State) (f addr : Nat) : s.readHost f addr 64 = s.emit (.hostRead 0 (s.pasidOf f) addr 64) := rfl

/-- What the host master port drives for the reads of a fetch: each entry at base + 64 × its index, under the PASID of the queue's
function (R73, R337). -/
def State.ringReads (s : State) (q : Sq) (n : Nat) : List Out :=
  (List.range n).map fun i => Out.hostRead 0 (s.pasidOf q.fn) (q.base + 64 * ((q.head + q.cache.length + i) % ringSize q.log2)) 64

theorem State.readRing_eq (s : State) (q : Sq) (n : Nat) : s.readRing q n = { s with issued := s.issued ++ s.ringReads q n } := by
  induction n with
  | zero => simp [State.readRing, State.ringReads]
  | succ n ih =>
    rw [State.readRing, List.range_succ, List.foldl_append, ← State.readRing, ih]
    simp [State.readHost_entry, State.emit, State.pasidOf, State.ringReads, List.range_succ]

/-! ### Who may go next (R80, R376) -/

/-- The entry at the head of a queue's cache is accepted where the queue may accept and its turn has come, and a block in IDLE wakes
(R31, R80, R376). -/
def State.acceptNext (qid : Nat) (q : Sq) (s : State) : State :=
  match q.cache with
  | [] => s
  | e :: _ =>
    let s := if s.hasNext qid q && s.hasTurn qid then s.wake else s
    if s.hasNext qid q && s.hasTurn qid && s.glob.power != .idle then (s.countTurn qid).accept qid q e else s

/-- The state after a fetch has joined the cache of its queue. -/
def State.fetched (s : State) (qid : Nat) (q : Sq) (l : List HostRead) : State :=
  { s with sqs := FMap.put s.sqs qid (q.fetch l), issued := s.issued ++ s.ringReads q ((q.fetch l).cache.length - q.cache.length) }

/-- ENTRY_ACCEPT in RUN and IDLE at a RUNNING queue, where the port has room: the fetch, and the entry at the head where its turn has
come. -/
theorem State.fetchAccept_running {s : State} {qid : Nat} {q : Sq} {l : List HostRead} (hp : s.glob.power = .run ∨ s.glob.power = .idle)
    (hq : FMap.find s.sqs qid = some q) (hr : q.state = .running) (hl : (if s.readRoom then l else []) = l) :
    s.fetchAccept qid l = (s.fetched qid q l).acceptNext qid (q.fetch l) := by
  have hpow : (s.glob.power != .run && s.glob.power != .idle) = false := by rcases hp with h | h <;> simp [h]
  unfold State.fetchAccept
  rw [hpow, hq, hl]
  change (if (q.state != .running) = true then s else _) = _
  rw [hr, State.readRing_eq]
  rfl

theorem State.wake_running {s : State} (hp : s.glob.power = .run ∨ s.glob.power = .idle ∧ s.restarting .trim = false) :
    s.wake = { s with glob := { s.glob with power := .run } } := by
  rcases hp with hp | ⟨hp, ht⟩
  · rw [State.wake_awake (by rw [hp]; decide), ← hp]
  · exact State.wake_idle hp ht

theorem State.countTurn_eq (s : State) (qid : Nat) : ∃ r w, s.countTurn qid = { s with rounds := r, roundW := w } := by
  unfold State.countTurn
  split
  · exact ⟨_, _, rfl⟩
  · exact ⟨_, _, rfl⟩

/-- The block in RUN, with a round of acceptance that has been counted. -/
def State.turned (r w : FMap Nat) (s : State) : State := { s with glob := { s.glob with power := .run }, rounds := r, roundW := w }

/-- With its turn come, the entry at the head is accepted in RUN (R31, R80). -/
theorem State.acceptNext_turn {s : State} {qid : Nat} {q : Sq} {e : HostRead} {rest : List HostRead} (hq : q.cache = e :: rest)
    (hp : s.glob.power = .run ∨ s.glob.power = .idle ∧ s.restarting .trim = false) (hn : s.hasNext qid q = true)
    (ht : s.hasTurn qid = true) : ∃ r w, s.acceptNext qid q = (s.turned r w).accept qid q e := by
  have hn' : s.wake.hasNext qid q = true := by rw [State.wake_running hp]; exact hn
  have ht' : s.wake.hasTurn qid = true := by rw [State.wake_running hp]; exact ht
  have hp' : (s.wake.glob.power != .idle) = true := by rw [State.wake_running hp]; rfl
  obtain ⟨r, w, hv⟩ := s.wake.countTurn_eq qid
  refine ⟨r, w, ?_⟩
  simp only [State.acceptNext, hq, hn, ht, hn', ht', hp', Bool.and_true, if_true, hv]
  rw [State.wake_running hp]
  rfl

theorem State.acceptNext_same {s : State} {qid : Nat} {q : Sq} (h : s.hasNext qid q = false ∨ s.hasTurn qid = false) :
    s.acceptNext qid q = s := by
  unfold State.acceptNext
  split
  · rfl
  · have : (s.hasNext qid q && s.hasTurn qid) = false := by rcases h with h | h <;> simp [h]
    simp [this]

/-! ### Taking an entry into execution (R80, R92, R93) -/

/-- A queue whose entry at the head is taken. -/
def Sq.taken (q : Sq) : Sq := { q with head := (q.head + 1) % ringSize q.log2, cache := q.cache.drop 1 }

/-- The entry that comes of 64 bytes fetched at the head of a queue. -/
def State.entryAt (s : State) (qid : Nat) (q : Sq) (bs : List Byte) (op : Op) : Acc :=
  { id := s.nextId, sq := qid, idx := q.head, fn := q.fn, hdr := decodeHeader (fit 64 0 bs), op := op, tick := s.now }

/-- The state after an entry has been taken from the head of its queue. -/
def State.takenFrom (s : State) (qid : Nat) (q : Sq) (a : Acc) : State :=
  { s with nextId := s.nextId + 1, sqs := FMap.put s.sqs qid q.taken, accepted := s.accepted ++ [a] }

section
variable {s : State} {qid : Nat} {q : Sq} {bs : List Byte} {rest : List HostRead}

theorem State.accept_lawful (hb : entryBreach (qid == 0) (fit 64 0 bs) = none)
    (hf : ((decodeHeader (fit 64 0 bs)).fence && s.accepted.any (·.sq == qid)) = false) :
    s.accept qid q (.data bs) =
      ({ s.takenFrom qid q (s.entryAt qid q bs (decodeOp (qid == 0) (fit 64 0 bs))) with
        image := (decodeOp (qid == 0) (fit 64 0 bs)).imageLeft s.image } : State).bump (ctrId 8 qid 0) := by
  unfold State.accept
  simp only [readBytes, hf, hb, Bool.false_and, Bool.false_eq_true, if_false]
  rfl

theorem State.accept_breach {off reason : Nat} (hb : entryBreach (qid == 0) (fit 64 0 bs) = some (off, reason))
    (hf : ((decodeHeader (fit 64 0 bs)).fence && s.accepted.any (·.sq == qid)) = false) :
    s.accept qid q (.data bs) = (s.takenFrom qid q (s.entryAt qid q bs .snapLatch)).malformed s.nextId off reason := by
  unfold State.accept
  simp only [readBytes, hf, hb, Bool.false_and, Bool.false_eq_true, if_false]
  rfl

/-- An entry that may be accepted is not held back by its FENCE (R80). -/
theorem State.fence_hasNext (hc : q.cache = .data bs :: rest) (hn : s.hasNext qid q = true) :
    ((decodeHeader (fit 64 0 bs)).fence && s.accepted.any (·.sq == qid)) = false := by
  have h := (Bool.and_eq_true_iff.mp hn).2
  rwa [State.fenced, hc, Bool.not_eq_true'] at h

end

/-! ### A malformed entry of an I/O queue (R93, R94) -/

section
variable {s : State} {e off reason : Nat} {a : Acc} {x : Fn} (ha : s.acc e = some a) (hq : a.sq ≠ 0)
  (hx : FMap.find s.fns a.fn = some x) (hact : x.state = .active)
include ha hq hx hact

/-- Its function halts with cause 1 and its place, and it ends MALFORMED. -/
theorem State.malformed_active :
    s.malformed e off reason =
      ((((s.haltQueuesOf a.fn).modFn a.fn fun x =>
        if x.state = .halted || x.state = .frozen then x
        else { x with state := .halted, haltCause := 1, haltIndex := a.idx, haltQid := a.sq }).logFn 0x0201 a.fn
          [malformedInfo a off reason]).failEntry e 0x80 (malformedInfo a off reason)) := by
  simp [State.malformed, ha, hq, State.haltFn, hx, hact]

theorem State.find_fns_malformed :
    FMap.find (s.malformed e off reason).fns a.fn =
      some { x with state := .halted, haltCause := 1, haltIndex := a.idx, haltQid := a.sq } := by
  rw [State.malformed_active ha hq hx hact, State.failEntry_fns, State.logFn_fns]
  exact (FMap.find_modify_self ..).trans (by simp [State.haltQueuesOf, hx, hact])

theorem State.acc_malformed (hfin : a.fin = none) (hconds : a.conds = []) :
    (s.malformed e off reason).acc e = some { a with conds := [⟨0x80, malformedInfo a off reason⟩], fin := some 0 } := by
  have hid := s.acc_id ha
  subst hid
  rw [State.malformed_active ha hq hx hact]
  refine State.acc_failEntry_some ?_ hfin hconds _ _
  rw [State.acc, State.logFn_accepted]
  exact ha

/-- Its own queue, if it ran, is HALTED. -/
theorem State.find_sqs_malformed {q : Sq} (hz : FMap.find s.sqs a.sq = some q) (hfn : q.fn = a.fn) (hr : q.state = .running) :
    FMap.find (s.malformed e off reason).sqs a.sq = some (q.stop .halted) := by
  rw [State.malformed_active ha hq hx hact, State.failEntry_sqs, State.logFn_sqs, State.modFn_sqs, State.haltQueuesOf, FMap.find_mapV, hz]
  simp [hfn, hr, hq]

end

/-! ### The acceptance of an entry -/

theorem State.fetched_nil (s : State) (qid : Nat) (q : Sq) : s.fetched qid q [] = { s with sqs := FMap.put s.sqs qid (q.fetch []) } := by
  rw [State.fetched, Sq.length_fetch_nil, State.ringReads, List.range_zero, List.map_nil, List.append_nil]

theorem acts_entryAccept {s t : State} {qid : Nat} {l : List HostRead} (h : s.fetchAccept qid l = t) : Acts (.entryAccept qid l) s t := by
  rw [← h]
  rfl

section
variable {s : State} {qid : Nat} {q : Sq} (hp : s.glob.power = .run ∨ s.glob.power = .idle ∧ s.restarting .trim = false)
  (hq : FMap.find s.sqs qid = some q) (hr : q.state = .running)
include hp hq hr

/-- The entry at the head of the cache is taken in RUN, with its turn counted (R31, R376). -/
theorem State.fetchAccept_turn {bs : List Byte} {rest : List HostRead} (hc : (q.fetch []).cache = .data bs :: rest)
    (hn : (s.fetched qid q []).hasNext qid (q.fetch []) = true) (ht : (s.fetched qid q []).hasTurn qid = true) :
    ∃ r w, s.fetchAccept qid [] = ((s.fetched qid q []).turned r w).accept qid (q.fetch []) (.data bs) := by
  rw [State.fetchAccept_running (hp.imp_right (·.1)) hq hr (ite_self _)]
  exact State.acceptNext_turn (s := s.fetched qid q []) hc hp hn ht

/-- An entry whose layout breaks no rule joins the accepted ones with its number (R80, R92). -/
theorem State.fetchAccept_lawful {bs : List Byte} {rest : List HostRead} (hc : (q.fetch []).cache = .data bs :: rest)
    (hn : (s.fetched qid q []).hasNext qid (q.fetch []) = true) (ht : (s.fetched qid q []).hasTurn qid = true)
    (hb : entryBreach (qid == 0) (fit 64 0 bs) = none) :
    let t := s.fetchAccept qid []
    FMap.find t.sqs qid = some (q.fetch []).taken ∧ t.nextId = s.nextId + 1 ∧
      t.accepted = s.accepted ++ [s.entryAt qid q bs (decodeOp (qid == 0) (fit 64 0 bs))] ∧ t.glob.power = .run ∧
      ∀ k, k ≠ qid → FMap.find t.sqs k = FMap.find s.sqs k := by
  obtain ⟨r, w, ht⟩ := State.fetchAccept_turn hp hq hr hc hn ht
  rw [ht, State.accept_lawful (s := (s.fetched qid q []).turned r w) hb (State.fence_hasNext (s := s.fetched qid q []) hc hn)]
  refine ⟨FMap.find_put_self _ _ _, rfl, rfl, rfl, fun k hk => ?_⟩
  exact (FMap.find_put_ne _ _ hk).trans (FMap.find_put_ne _ _ hk)

/-- An entry that breaks a rule of its layout ends MALFORMED and halts its function, and its queue with it (R92 to R94, log 74). -/
theorem State.fetchAccept_breach {bs : List Byte} {rest : List HostRead} (hc : (q.fetch []).cache = .data bs :: rest)
    (hn : (s.fetched qid q []).hasNext qid (q.fetch []) = true) (ht : (s.fetched qid q []).hasTurn qid = true) {off reason : Nat}
    (h0 : qid ≠ 0) (hnew : ∀ a ∈ s.accepted, a.id ≠ s.nextId) (hb : entryBreach (qid == 0) (fit 64 0 bs) = some (off, reason)) {x : Fn}
    (hx : FMap.find s.fns q.fn = some x) (hact : x.state = .active) :
    let t := s.fetchAccept qid []
    t.acc s.nextId = some { s.entryAt qid q bs .snapLatch with
      conds := [⟨0x80, malformedInfo (s.entryAt qid q bs .snapLatch) off reason⟩], fin := some 0 } ∧
    FMap.find t.fns q.fn = some { x with state := .halted, haltCause := 1, haltIndex := q.head, haltQid := qid } ∧
    FMap.find t.sqs qid = some ((q.fetch []).taken.stop .halted) := by
  obtain ⟨r, w, hf⟩ := State.fetchAccept_turn hp hq hr hc hn ht
  rw [hf, State.accept_breach (s := (s.fetched qid q []).turned r w) hb (State.fence_hasNext (s := s.fetched qid q []) hc hn)]
  have ha : (((s.fetched qid q []).turned r w).takenFrom qid (q.fetch []) (s.entryAt qid q bs .snapLatch)).acc s.nextId =
      some (s.entryAt qid q bs .snapLatch) := by
    have hnone : s.accepted.find? (·.id == s.nextId) = none := by simpa using hnew
    change (s.accepted ++ [s.entryAt qid q bs .snapLatch]).find? (·.id == s.nextId) = _
    rw [List.find?_append, hnone]
    simp [State.entryAt]
  exact ⟨State.acc_malformed ha h0 hx hact rfl rfl, State.find_fns_malformed ha h0 hx hact,
    State.find_sqs_malformed ha h0 hx hact (FMap.find_put_self _ _ _) rfl hr⟩

end

theorem entriesAccepted : Claims.EntriesAccepted := by
  intro s qid q hp hq hr
  rw [← State.fetched_nil s qid q]
  intro u
  refine ⟨fun bs rest hc hn ht => ⟨fun hb => ?_, fun off reason h0 hnew hb x hx hact => ?_⟩, fun fetched hroom => ?_⟩
  · obtain ⟨hsq, hid, hacc, hpow, hrest⟩ := State.fetchAccept_lawful hp hq hr hc hn ht hb
    exact ⟨_, _, acts_entryAccept rfl, hsq, rfl, by simp [Sq.taken, hc], rfl, hid, hacc, hpow, hrest⟩
  · obtain ⟨hacc, hfn, hsq⟩ := State.fetchAccept_breach hp hq hr hc hn ht h0 hnew hb hx hact
    refine ⟨_, _, _, acts_entryAccept rfl, hacc, rfl, ?_, hfn, rfl, rfl, fun z hz => ?_⟩
    · simp [malformedInfo, State.entryAt, h0, b2n]
    · rw [Option.some.inj (hsq.symm.trans hz).symm]
      rfl
  · intro v hno
    have hf : s.fetchAccept qid fetched = s.fetched qid q fetched := by
      rw [State.fetchAccept_running (hp.imp_right (·.1)) hq hr (if_pos hroom)]
      exact State.acceptNext_same hno
    exact ⟨_, acts_entryAccept hf, FMap.find_put_self _ _ _, rfl, rfl, rfl⟩

/-- Settles O51: an entry's row acts once, and the entry at the head of a queue is accepted where its turn has come. -/
theorem entryLife : Obligations.EntryLife := ⟨entriesActOnce, entriesAccepted⟩

end Sys2Proof.Machine
end

section
/-! PROOFS. The ends of entries (R82 to R86, R382 to R385): the rows that refuse an entry, and the completion of an entry that met nothing. -/

namespace Sys2Proof.Machine

open Sys2Proof.Claims

/-! ### Refused entries (R82, R86) -/

theorem State.startedRead_room {s : State} (h : s.readRoom = true) (e : EntryId) (k : Acc → State → State) :
    s.startedRead e k = s.started e k := if_pos h


theorem State.haltedRefusal_none {s : State} {f : Nat} (h : s.queuesHalted f = false) : s.haltedRefusal f = none := by
  rw [State.haltedRefusal, h]
  rfl

/-- A refusal changes the accepted entries only. -/
theorem State.onlyEntries_failEntry (s : State) (e status info : Nat) : OnlyEntries s (s.failEntry e status info) := rfl

section
variable {s : State} {a : Acc} (h : Fresh s a) {c : Instr} {k : Acc → State → State}
include h

/-- An entry's row acts by what it does with the accepted entry (R80). -/
theorem acts_started (hc : exec c s = s.doneFixed (s.started a.id k)) {t : State} (hk : k a s = t) : Acts c s t := by
  obtain ⟨ha, hp, hf⟩ := h
  rw [Acts, hc, State.started_accepted ha hp hf, hk]
  rfl

theorem exec_startedRigs (hc : exec c s = s.doneRigs (s.started a.id k)) {t : State} (hk : k a s = t) :
    exec c s = .next { s.keepFixed t.settle with rigs := t.rigs } := by
  obtain ⟨ha, hp, hf⟩ := h
  rw [hc, State.started_accepted ha hp hf, hk]
  rfl

variable (hconds : a.conds = [])
include hconds

theorem endsWith_failEntry {t : State} (ht : t.acc a.id = s.acc a.id) (status info : Nat) :
    EndsWith (t.failEntry a.id status info) a status info := by
  obtain ⟨ha, hp, hf⟩ := h
  rw [EndsWith, hconds]
  exact State.acc_failEntry_some (ht.trans ha) hf hconds status info

theorem acts_refused (hc : exec c s = s.doneFixed (s.started a.id k)) {status info : Nat} (hk : k a s = s.failEntry a.id status info) :
    ∃ t, Acts c s t ∧ OnlyEntries s t ∧ EndsWith t a status info :=
  ⟨_, acts_started h hc hk, s.onlyEntries_failEntry .., endsWith_failEntry h hconds rfl ..⟩

theorem exec_refusedRigs (hc : exec c s = s.doneRigs (s.started a.id k)) {status info : Nat}
    (hk : k a s = s.failEntry a.id status info) :
    ∃ t, exec c s = .next { s.keepFixed t.settle with rigs := t.rigs } ∧ OnlyEntries s t ∧ EndsWith t a status info :=
  ⟨_, exec_startedRigs h hc hk, s.onlyEntries_failEntry .., endsWith_failEntry h hconds rfl ..⟩

end

/-! ### The refusals of the rig-set entries (R382 to R385) -/

section
variable {s : State} {a : Acc} (hsig : a.hdr.sig = false)
include hsig

theorem State.runRigCommit_unstaged {gen : Nat} (h : s.rigs.staged.map (·.gen) ≠ some gen) :
    s.runRigCommit a gen = s.failEntry a.id 0x40 16 := by
  have hne : ((s.rigs.staged.map (·.gen)) != some gen) = true := bne_iff_ne.mpr h
  rw [State.runRigCommit, State.signalRefusal_none _ _ _ hsig, hne]
  rfl

theorem State.runRigCommit_breach {gen : Nat} {r : RigSet} {b : Nat × Nat} (hr : s.rigs.staged = some r) (hg : r.gen = gen)
    (hb : s.commitBreach r = some b) : s.runRigCommit a gen = s.failEntry a.id 0x40 (breachInfo b) := by
  simp [State.runRigCommit, State.signalRefusal_none _ _ _ hsig, hr, hg, hb]

theorem State.runRigRollback_stale {gen : Nat} (h : s.rigs.cur.gen ≠ gen ∨ s.rigs.prev = none) :
    s.runRigRollback a gen = s.failEntry a.id 0x40 16 := by
  have hne : (s.rigs.cur.gen != gen || s.rigs.prev.isNone) = true := by rcases h with h | h <;> simp [h]
  rw [State.runRigRollback, State.signalRefusal_none _ _ _ hsig, hne]
  rfl

theorem State.runRigRollback_breach {gen : Nat} {r : RigSet} {b : Nat × Nat} (hg : s.rigs.cur.gen = gen) (hr : s.rigs.prev = some r)
    (hb : s.commitBreach r = some b) : s.runRigRollback a gen = s.failEntry a.id 0x40 (breachInfo b) := by
  simp [State.runRigRollback, State.signalRefusal_none _ _ _ hsig, hr, hg, hb]

/-- An image that keeps its layout, whose generation is not a newer one. -/
theorem State.runRigStage_old {len gen : Nat} {bs : List Byte} (hlen : bs.length = len) (hok : rigImageOk bs len gen = true)
    (hgt : serialGt (BitVec.ofNat 32 gen) (BitVec.ofNat 32 s.rigs.cur.gen) = false) :
    s.runRigStage a len gen (.data bs) = s.failEntry a.id 0x40 36 := by
  have hfit : fit len 0 bs = bs := by simp [fit, ← hlen]
  simp only [State.runRigStage, readBytes, hfit, hok, hgt, State.signalRefusal_none _ _ _ hsig]
  rfl

end

/-! ### Reads of what an entry points to (R59, R337) -/

theorem State.foldl_emit {α : Type} (f : State → α → Out) (hf : ∀ s o a, f (State.emit o s) a = f s a) (l : List α) (s : State) :
    l.foldl (fun s a => s.emit (f s a)) s = { s with issued := s.issued ++ l.map (f s) } := by
  induction l generalizing s with
  | nil => simp
  | cons a l ih =>
    rw [List.foldl_cons, ih, funext fun b => hf s (f s a) b]
    simp [State.emit]

/-- A structure in host memory is read, and nothing else changes. -/
theorem State.readStruct_eq (s : State) (f addr : Nat) (r : HostRead) :
    ∃ os, s.readStruct f addr r = { s with issued := s.issued ++ os } := by
  have hread : ∀ n, ∃ os, s.readHost f addr n = { s with issued := s.issued ++ os } := fun n =>
    ⟨_, State.foldl_emit (fun s i => .hostRead 0 (s.pasidOf f) (addr + 4096 * i) (min 4096 (n - 4096 * i))) (fun _ _ _ => rfl) _ s⟩
  cases r <;> exact hread _

/-- RIG_STAGE has read its image when it is refused for its generation (R382). -/
theorem rigStage_old {s : State} {a : Acc} (h : Fresh s a) (hc : a.conds = []) {src len gen : Nat} {bs : List Byte}
    (hop : a.op = .rigStage src len gen) (hsig : a.hdr.sig = false) (hroom : s.readRoom = true) (hlen : bs.length = len)
    (hok : rigImageOk bs len gen = true) (hgt : serialGt (BitVec.ofNat 32 gen) (BitVec.ofNat 32 s.rigs.cur.gen) = false) :
    ∃ t, exec (.rigStage a.id (.data bs)) s = .next { s.keepFixed t.settle with rigs := t.rigs } ∧ EndsWith t a 0x40 36 ∧
      t = { s with accepted := t.accepted, issued := t.issued } := by
  obtain ⟨os, hos⟩ := s.readStruct_eq a.fn src (.data bs)
  refine ⟨(s.readStruct a.fn src (.data bs)).failEntry a.id 0x40 36, ?_, ?_, ?_⟩
  · refine exec_startedRigs (c := .rigStage a.id (.data bs)) h (congrArg s.doneRigs (State.startedRead_room hroom _ _)) ?_
    rw [hop]
    exact State.runRigStage_old hsig hlen hok (by rwa [hos])
  · exact endsWith_failEntry h hc (by rw [hos]; rfl) ..
  · rw [hos]
    rfl

theorem entriesRefused : Claims.EntriesRefused := by
  intro s a c h hc
  refine ⟨?_, ?_, ?_, ?_, ?_, ?_, ?_, ?_, ?_, ?_, ?_, ?_, ?_, ?_⟩
  · intro k n ep hop hr
    exact acts_refused h hc rfl (by simp [hop, State.runCleatSignal, hr])
  · intro k n timeout hop hr
    exact acts_refused h hc rfl (by simp [hop, State.runCleatWait, hr])
  · intro f hop hr
    exact acts_refused h hc rfl (by simp [hop, State.runCopy, hr])
  · intro f hop hr
    exact acts_refused h hc rfl (by simp [hop, State.runFill, hr])
  · intro f hop hr
    exact acts_refused h hc rfl (by simp [hop, State.runDrain, hr])
  · intro f hop he hr
    exact acts_refused h hc rfl (by simp [hop, State.runQueueCreate, he, hr])
  · intro qid ring disable hop hr
    exact acts_refused h hc rfl (by simp [hop, State.runQueueDestroy, hr])
  · intro f pasid al hop hsig hh hr
    exact acts_refused h hc rfl (by
      simp [hop, State.runSliceCreate, State.signalRefusal_none _ _ _ hsig, State.haltedRefusal_none hh, hr])
  · intro f hop hb hsig hr
    exact acts_refused h hc rfl (by simp [hop, State.runDigest, State.signalRefusal_none _ _ _ hsig, hb, hr])
  · intro hop hsig hfn
    exact acts_refused h hc rfl (by simp [hop, State.runSnapLatch, State.signalRefusal_none _ _ _ hsig, bne_iff_ne.mpr hfn])
  · intro f hop hr
    exact acts_refused h hc rfl (by simp [hop, State.runStamp, hr])
  · intro src len gen bs hop hsig hroom hlen hok hgt
    exact rigStage_old h hc hop hsig hroom hlen hok hgt
  · intro gen hop hsig
    refine ⟨fun hne => ?_, fun r b hr hg hb => ?_⟩
    · exact exec_refusedRigs h hc rfl (by rw [hop]; exact State.runRigCommit_unstaged hsig hne)
    · exact exec_refusedRigs h hc rfl (by rw [hop]; exact State.runRigCommit_breach hsig hr hg hb)
  · intro gen hop hsig
    refine ⟨fun hne => ?_, fun r b hg hr hb => ?_⟩
    · exact exec_refusedRigs h hc rfl (by rw [hop]; exact State.runRigRollback_stale hsig hne)
    · exact exec_refusedRigs h hc rfl (by rw [hop]; exact State.runRigRollback_breach hsig hg hr hb)

/-! ### The completion of an entry that met no condition (R82 to R86) -/

theorem Acc.finalConds_nil {a : Acc} (h : a.conds = []) : a.finalConds = [] := by
  simp [Acc.finalConds, Acc.ordered, h]

/-- A notice that a CUT met changes jobs and generations only (R138, R140). -/
theorem State.settleNotice_eq (s : State) (a : Acc) (status : Nat) : ∃ j g, s.settleNotice a status = { s with jobs := j, gens := g } := by
  have hraise : ∀ (u : State) (job : Nat), ∃ g, u.raiseOpen job = { u with gens := g } := by
    intro u job
    unfold State.raiseOpen
    split
    · exact ⟨_, rfl⟩
    · exact ⟨_, rfl⟩
  unfold State.settleNotice
  split
  · split
    · exact ⟨_, _, rfl⟩
    · split
      · exact ⟨_, _, rfl⟩
      · split
        · exact ⟨_, _, rfl⟩
        · dsimp only
          split
          · obtain ⟨g, hg⟩ := hraise (s.modJob _ fun j => { j with noticeLate := [], notice := true }) _
            exact ⟨_, g, hg⟩
          · exact ⟨_, _, rfl⟩
  · exact ⟨_, _, rfl⟩

/-- The completion that an entry with no condition leaves (Table 3-7). -/
def Acc.okCompletion (a : Acc) (info : Nat) : Completion := ⟨a.id, a.hdr.tag, 0, a.sq, false, info⟩

theorem Acc.okCompletion_bytes (a : Acc) (info : Nat) (phase : Bool) :
    (a.okCompletion info).bytes phase =
      toLe 4 a.hdr.tag ++ toLe 1 0 ++ toLe 3 (a.sq * 2 ^ 12 + b2n phase) ++ toLe 8 info := by
  simp [Completion.bytes, Acc.okCompletion, b2n]

section
variable {s : State} {a : Acc} {info : Nat} (hc : a.conds = []) (hfin : a.fin = some info) (h0 : a.sq ≠ 0)
include hc hfin h0

/-- The entry leaves the accepted ones; its completion is written, or suppressed (R82, R83). -/
theorem State.complete_ok {q : Sq} (hq : FMap.find s.sqs a.sq = some q) :
    ∃ j g, s.complete a =
      (let u : State := { s with accepted := s.accepted.filter (·.id != a.id), jobs := j, gens := g }
       if a.hdr.noCqe then u.countDone a.fn 0 else u.writeCompletion q.cq (a.okCompletion info)) := by
  obtain ⟨j, g, hn⟩ := ({ s with accepted := s.accepted.filter (·.id != a.id) } : State).settleNotice_eq a 0
  refine ⟨j, g, ?_⟩
  simp [State.complete, Acc.finalConds_nil hc, chosen, hn, hfin, h0, hq, Acc.okCompletion]

end

@[simp] theorem State.countDone_cqs (f st : Nat) (s : State) : (s.countDone f st).cqs = s.cqs := rfl

@[simp] theorem State.countDone_issued (f st : Nat) (s : State) : (s.countDone f st).issued = s.issued := rfl

@[simp] theorem State.countDone_accepted (f st : Nat) (s : State) : (s.countDone f st).accepted = s.accepted := rfl

section
variable {s : State} {n : Nat} {c : Completion} {r : Cq} (hr : FMap.find s.cqs n = some r)
include hr

/-- The ring after a completion at its tail (R83, R85). -/
def Cq.written (r : Cq) (now : Nat) : Cq :=
  { r with tail := (r.tail + 1) % ringSize r.log2, phase := if (r.tail + 1) % ringSize r.log2 = 0 then !r.phase else r.phase
           unsig := r.unsig + 1, firstUnsig := r.firstUnsig.orElse fun _ => some now }

/-- A ring without an interrupt takes a completion at its tail by one host write (R83, R85). -/
theorem State.writeCompletion_room (hs : r.state = .running) (hfull : r.full = false) (hheld : r.held = []) (hint : r.intAddr = 0) :
    s.writeCompletion n c =
      (({ s with cqs := FMap.put s.cqs n (r.written s.now) } : State).hostWrite r.fn (r.base + 16 * r.tail) (c.bytes r.phase)
        (.completion n r.tail)).countDone r.fn c.status := by
  simp [State.writeCompletion, State.placeCompletion, hr, hs, hfull, hheld, hint, Cq.written]

/-- A full ring holds the completion (R84). -/
theorem State.writeCompletion_full (hfull : r.full = true) :
    s.writeCompletion n c = { s with cqs := FMap.put s.cqs n { r with held := r.held ++ [c] } } := by
  simp [State.writeCompletion, hr, hfull]

end

/-- What a completion leaves of the accepted entries, wherever it goes. -/
theorem State.writeCompletion_accepted (n : Nat) (c : Completion) (s : State) : (s.writeCompletion n c).accepted = s.accepted := by
  have hint : ∀ u : State, (u.interrupt n).accepted = u.accepted := by
    intro u
    unfold State.interrupt
    split
    · rfl
    · dsimp only
      split <;> rfl
  unfold State.writeCompletion
  split
  · rfl
  · split
    · unfold State.placeCompletion
      split
      · rfl
      · dsimp only
        split
        · rfl
        · exact hint _
    · rfl

theorem completionsWritten : Claims.CompletionsWritten := by
  intro s a q r info hc hfin hq hr h0
  obtain ⟨j, g, hcomp⟩ := State.complete_ok (s := s) hc hfin h0 hq
  rw [hcomp]
  refine ⟨fun hcqe hs hfull hheld hint => ?_, fun hcqe hfull => ?_, fun hcqe => ?_, ?_⟩
  · simp only [hcqe, Bool.false_eq_true, if_false]
    rw [State.writeCompletion_room (s := { s with accepted := _, jobs := j, gens := g }) hr hs hfull hheld hint,
      Acc.okCompletion_bytes]
    exact ⟨_, FMap.find_put_self _ _ _, rfl, rfl⟩
  · simp only [hcqe, Bool.false_eq_true, if_false]
    rw [State.writeCompletion_full (s := { s with accepted := _, jobs := j, gens := g }) hr hfull]
    exact ⟨rfl, FMap.find_put_self _ _ _⟩
  · simp [hcqe]
  · have hacc : ∀ u : State, (if a.hdr.noCqe then u.countDone a.fn 0 else u.writeCompletion q.cq (a.okCompletion info)).accepted =
        u.accepted := by
      intro u
      split
      · rfl
      · exact State.writeCompletion_accepted ..
    simp only [hacc, List.mem_filter, bne_iff_ne]
    exact ⟨fun b hb => hb.2, fun b hb hne => ⟨hb, hne⟩⟩

/-- Settles O52: a completion by its ring, and every refusal by the condition that it ends its entry with. -/
theorem entryEnds : Obligations.EntryEnds := ⟨completionsWritten, entriesRefused⟩

end Sys2Proof.Machine
end

section
/-! PROOFS. QUEUE_CREATE and QUEUE_DESTROY (R84, R87 to R89). -/

namespace Sys2Proof.Machine

open Sys2Proof.Claims

/-! ### QUEUE_CREATE (R87) -/

/-- The submission queue that a QUEUE_CREATE makes. -/
def QCreate.sq (f : QCreate) : Sq :=
  { state := .running, fn := f.func, slot := f.slot, log2 := f.log2, base := f.base, cq := f.cqId, maxOut := f.maxOut }

/-- The completion ring that a QUEUE_CREATE makes. -/
def QCreate.cq (f : QCreate) : Cq :=
  { state := .running, fn := f.func, slot := f.slot, log2 := f.log2, base := f.base, intAddr := f.intAddr, intData := f.intData,
    coalCount := f.coalCount, coalTicks := f.coalTicks }

section
variable {s : State} {a : Acc} {f : QCreate}

theorem State.runQueueCreate_sq (he : f.enable = false) (hr : f.ring = false) (hno : s.createRefusal a f = none) :
    s.runQueueCreate a f = (({ s with sqs := FMap.put s.sqs f.qid f.sq } : State).zeroCtr 8 f.qid).endEntry a.id 0 := by
  simp [State.runQueueCreate, he, hr, hno, QCreate.sq]

theorem State.runQueueCreate_cq (he : f.enable = false) (hr : f.ring = true) (hno : s.createRefusal a f = none) :
    s.runQueueCreate a f = (({ s with cqs := FMap.put s.cqs f.qid f.cq } : State).zeroCtr 9 f.qid).endEntry a.id 0 := by
  simp [State.runQueueCreate, he, hr, hno, QCreate.cq]

theorem State.enableRefusal_none {q : Sq} (hsig : a.hdr.sig = false) (hr : f.ring = false) (hq : FMap.find s.sqs f.qid = some q)
    (hs : q.state = .disabled) (hh : s.queuesHalted q.fn = false) (hx : ∀ x, FMap.find s.fns q.fn = some x → x.state ≠ .frozen) :
    s.enableRefusal a f = none := by
  have hfrozen : ((FMap.find s.fns q.fn).map fun x => x.state == .frozen).getD false = false := by
    cases h : FMap.find s.fns q.fn with
    | none => rfl
    | some x => simpa using hx x h
  simp [State.enableRefusal, hq, State.haltedRefusal_none hh, State.signalRefusal_none _ _ _ hsig, hr, hs, hfrozen]

theorem State.runQueueCreate_enable (he : f.enable = true) (hno : s.enableRefusal a f = none) :
    s.runQueueCreate a f =
      ({ s with sqs := FMap.modify s.sqs f.qid fun q => { q with state := .running } } : State).endEntry a.id 0 := by
  simp [State.runQueueCreate, he, hno]

end

theorem queuesCreated : Claims.QueuesCreated := by
  intro s a f hfresh hplain hop
  obtain ⟨ha, hp, hf⟩ := hfresh
  have hacts : Acts (.queueCreate a.id) s (s.runQueueCreate a f) := acts_started ⟨ha, hp, hf⟩ rfl (by rw [hop])
  refine ⟨fun he hr hno => ?_, fun he hr hno => ?_, fun he hr q hq hs hh hx => ?_⟩
  · rw [State.runQueueCreate_sq he hr hno] at hacts
    exact ⟨_, hacts, FMap.find_put_self _ _ _, fun k hk => FMap.find_put_ne _ _ hk, rfl, State.acc_endEntry_some ha hf 0⟩
  · rw [State.runQueueCreate_cq he hr hno] at hacts
    exact ⟨_, f.cq, hacts, FMap.find_put_self _ _ _, rfl, rfl, rfl, rfl, rfl, rfl, rfl, rfl, rfl, rfl,
      fun k hk => FMap.find_put_ne _ _ hk, rfl, State.acc_endEntry_some ha hf 0⟩
  · rw [State.runQueueCreate_enable he (State.enableRefusal_none hplain.1 hr hq hs hh hx)] at hacts
    refine ⟨_, hacts, ?_, fun k hk => FMap.find_modify_ne _ _ hk, rfl, State.acc_endEntry_some ha hf 0⟩
    exact (FMap.find_modify_self ..).trans (by rw [hq]; rfl)

/-! ### QUEUE_DESTROY (R84, R88, R89) -/

section
variable {s : State} {a : Acc} {qid : Nat} (hsig : a.hdr.sig = false) (h0 : qid ≠ 0)
include hsig h0

theorem State.destroyRefusal_ring {r : Cq} (hr : FMap.find s.cqs qid = some r) (hh : s.queuesHalted r.fn = false)
    (huse : ∀ p ∈ s.sqs, p.2.cq = qid → p.2.state = .absent) : s.destroyRefusal a qid true false = none := by
  have hany : (s.sqs.any fun p => p.2.cq == qid && p.2.state != .absent) = false := by
    rw [List.any_eq_false]
    intro p hp
    by_cases hc : p.2.cq = qid <;> simp [hc, huse p hp]
  simp [State.destroyRefusal, hr, State.haltedRefusal_none hh, State.signalRefusal_none _ _ _ hsig, beq_false_of_ne h0, hany]

theorem State.destroyRefusal_queue {q : Sq} (hq : FMap.find s.sqs qid = some q) (hs : q.state = .running)
    (hh : s.queuesHalted q.fn = false) (disable : Bool) : s.destroyRefusal a qid false disable = none := by
  have hstate : (SqState.running == SqState.destroying) = false := rfl
  simp [State.destroyRefusal, hq, State.haltedRefusal_none hh, State.signalRefusal_none _ _ _ hsig, beq_false_of_ne h0, hs, hstate]

end

theorem acts_queueDestroy {s : State} {a : Acc} (h : Fresh s a) {qid : Nat} {ring disable : Bool}
    (hop : a.op = .queueDestroy qid ring disable) : Acts (.queueDestroy a.id) s (s.runQueueDestroy a qid ring disable) :=
  acts_started h rfl (by rw [hop])

/-- The entry waits for its queue or ring. -/
def State.awaits (s : State) (e : Nat) : State := s.modAcc e fun a => { a with phase := .waiting }

theorem State.acc_awaits {s : State} {a : Acc} (h : s.acc a.id = some a) : (s.awaits a.id).acc a.id = some { a with phase := .waiting } :=
  State.acc_modAcc_some _ (fun _ => rfl) h

section
variable {s : State} {a : Acc} {qid : Nat} {disable : Bool}

theorem State.runQueueDestroy_ring {r : Cq} (hno : s.destroyRefusal a qid true disable = none) (hr : FMap.find s.cqs qid = some r)
    (hheld : r.held = []) :
    s.runQueueDestroy a qid true disable =
      ({ s.awaits a.id with cqs := FMap.del s.cqs qid } : State).endEntry a.id r.tail := by
  simp [State.runQueueDestroy, hno, State.dropRing, hr, hheld, State.awaits]

theorem State.runQueueDestroy_holding {r : Cq} (hno : s.destroyRefusal a qid true disable = none) (hr : FMap.find s.cqs qid = some r)
    (hheld : r.held ≠ []) (hs : r.state = .running) : s.runQueueDestroy a qid true disable = s.awaits a.id := by
  simp [State.runQueueDestroy, hno, State.dropRing, hr, hheld, hs, State.awaits]

theorem State.runQueueDestroy_queue (hno : s.destroyRefusal a qid false disable = none) :
    s.runQueueDestroy a qid false disable =
      State.awaits { s with sqs := FMap.modify s.sqs qid fun q => q.stop (if disable then .disabled else .destroying) } a.id := by
  simp [State.runQueueDestroy, hno, State.awaits]

end

theorem queuesDestroyed : Claims.QueuesDestroyed := by
  intro s a qid hfresh hplain h0
  obtain ⟨ha, hp, hf⟩ := hfresh
  refine ⟨fun r hop hsorted hr hh huse => ⟨fun hheld => ?_, fun hheld hs => ?_⟩, fun q disable hop hq hs hh => ?_⟩
  · have hacts := acts_queueDestroy ⟨ha, hp, hf⟩ hop
    rw [State.runQueueDestroy_ring (State.destroyRefusal_ring hplain.1 h0 hr hh huse) hr hheld] at hacts
    exact ⟨_, hacts, FMap.find_del_self _ _ hsorted, fun k hk => FMap.find_del_ne _ hk, rfl,
      (State.acc_endEntry ..).trans (by rw [State.acc_with_cqs, State.acc_awaits ha]; simp [hf])⟩
  · have hacts := acts_queueDestroy ⟨ha, hp, hf⟩ hop
    rw [State.runQueueDestroy_holding (State.destroyRefusal_ring hplain.1 h0 hr hh huse) hr hheld hs] at hacts
    exact ⟨_, hacts, rfl, rfl, _, State.acc_awaits ha, rfl, hf, rfl, rfl⟩
  · have hacts := acts_queueDestroy ⟨ha, hp, hf⟩ hop
    rw [State.runQueueDestroy_queue (State.destroyRefusal_queue hplain.1 h0 hq hs hh disable)] at hacts
    refine ⟨_, hacts, (FMap.find_modify_self ..).trans ?_, fun k hk => FMap.find_modify_ne _ _ hk, _, State.acc_awaits ha, rfl, hf, rfl, rfl⟩
    rw [hq]
    rfl

/-- Settles O53: a queue or ring is created, enabled, destroyed or waited for. -/
theorem queueEntries : Obligations.QueueEntries := ⟨queuesCreated, queuesDestroyed⟩

end Sys2Proof.Machine
end

section
/-! PROOFS. -/

namespace Sys2Proof.Machine

open Sys2Proof.Claims

-- Theorem after theorem: side by side, so many short ones take too many threads.
set_option Elab.async false

variable {α : Type}

/-! ### Maps that keep the canonical form -/

/-- A change of one value keeps the canonical form. -/
theorem FMap.sorted_modify (m : FMap α) (n : Nat) (f : α → α) (h : FMap.Sorted m) : FMap.Sorted (FMap.modify m n f) := by
  unfold FMap.modify
  split
  · exact h
  · exact FMap.sorted_put m n _ h

/-- A change of every value keeps the canonical form. -/
theorem FMap.sorted_mapV (m : FMap α) (f : Nat → α → α) (h : FMap.Sorted m) : FMap.Sorted (FMap.mapV m f) := by
  rw [FMap.sorted_iff, FMap.keys, FMap.keys_mapV]
  exact (FMap.sorted_iff m).mp h

/-- What a filter keeps of a map is in the canonical form. -/
theorem FMap.sorted_filter (m : FMap α) (p : Nat × α → Bool) (h : FMap.Sorted m) : FMap.Sorted (m.filter p) := by
  rw [FMap.sorted_iff, FMap.keys] at h ⊢
  exact h.sublist (List.filter_sublist.map _)

/-- An entry of a map after a put is the new one or was there. -/
theorem FMap.mem_put {m : FMap α} {n : Nat} {a : α} {p : Nat × α} (h : p ∈ FMap.put m n a) : p = (n, a) ∨ p ∈ m := by
  induction m with
  | nil => exact .inl (List.mem_singleton.mp h)
  | cons q m ih =>
    obtain ⟨k, v⟩ := q
    rw [FMap.put] at h
    split_ifs at h with hlt heq
    · exact List.mem_cons.mp h
    · exact (List.mem_cons.mp h).imp_right (List.mem_cons_of_mem _)
    · rcases List.mem_cons.mp h with rfl | h
      · exact .inr (List.mem_cons_self ..)
      · exact (ih h).imp_right (List.mem_cons_of_mem _)

/-- An entry of a map after a removal was there. -/
theorem FMap.mem_del {m : FMap α} {n : Nat} {p : Nat × α} (h : p ∈ FMap.del m n) : p ∈ m := by
  induction m with
  | nil => exact h
  | cons q m ih =>
    obtain ⟨k, v⟩ := q
    rw [FMap.del] at h
    split_ifs at h
    · exact List.mem_cons_of_mem _ h
    · rcases List.mem_cons.mp h with rfl | h
      · exact List.mem_cons_self ..
      · exact List.mem_cons_of_mem _ (ih h)

/-- What all entries of a map have, and a put entry as well. -/
theorem FMap.forall_put {P : Nat × α → Prop} {m : FMap α} {n : Nat} {a : α} (h : ∀ p ∈ m, P p) (ha : P (n, a)) :
    ∀ p ∈ FMap.put m n a, P p := by
  intro p hp
  rcases FMap.mem_put hp with rfl | hp
  · exact ha
  · exact h p hp

/-- What all entries of a map have, and a change of one keeps. -/
theorem FMap.forall_modify {P : Nat × α → Prop} {m : FMap α} {n : Nat} {f : α → α} (h : ∀ p ∈ m, P p)
    (hf : ∀ a, P (n, a) → P (n, f a)) : ∀ p ∈ FMap.modify m n f, P p := by
  unfold FMap.modify
  split
  · exact h
  · next v hv => exact FMap.forall_put h (hf v (h _ (FMap.mem_of_find hv)))

/-- What all entries of a map have, and a change of all keeps. -/
theorem FMap.forall_mapV {P : Nat × α → Prop} {m : FMap α} {f : Nat → α → α} (h : ∀ p ∈ m, P p)
    (hf : ∀ k a, P (k, a) → P (k, f k a)) : ∀ p ∈ FMap.mapV m f, P p := by
  intro p hp
  obtain ⟨q, hq, rfl⟩ := List.mem_map.mp hp
  exact hf q.1 q.2 (h q hq)

/-- What all counts of a map have, and one that is set as well where it is not zero. -/
theorem NMap.forall_set {P : Nat × Nat → Prop} {m : FMap Nat} {k v : Nat} (h : ∀ p ∈ m, P p) (hv : v ≠ 0 → P (k, v)) :
    ∀ p ∈ NMap.set m k v, P p := by
  unfold NMap.set
  split
  · exact fun p hp => h p (FMap.mem_del hp)
  · next hz => exact FMap.forall_put h (hv hz)

/-! ### How states are put together -/

theorem State.Canonical.ite {c : Prop} [Decidable c] {s t : State} (hs : s.Canonical) (ht : t.Canonical) :
    (if c then s else t).Canonical := by
  split
  · exact hs
  · exact ht

/-- One step that is taken under a condition, after what came before it. -/
theorem State.Canonical.iteThen {c : Prop} [Decidable c] {s t : State} (h : s.Canonical) (hf : s.Canonical → t.Canonical) :
    (if c then t else s).Canonical := (hf h).ite h

/-- One step that is taken unless a condition holds. -/
theorem State.Canonical.iteElse {c : Prop} [Decidable c] {s t : State} (h : s.Canonical) (hf : s.Canonical → t.Canonical) :
    (if c then s else t).Canonical := h.ite (hf h)

theorem State.Canonical.iteSnd {c : Prop} [Decidable c] {p q : α × State} (hp : p.2.Canonical) (hq : q.2.Canonical) :
    (if c then p else q).2.Canonical := by
  split
  · exact hp
  · exact hq

theorem State.Canonical.foldlSnd {β : Type} {l : List α} {p : β × State} {f : β × State → α → β × State} (h : p.2.Canonical)
    (hf : ∀ q a, q.2.Canonical → (f q a).2.Canonical) : (l.foldl f p).2.Canonical :=
  List.foldlRecOn l f (motive := fun q => q.2.Canonical) h fun q hq a _ => hf q a hq

theorem State.Canonical.foldl {l : List α} {s : State} {f : State → α → State} (h : s.Canonical)
    (hf : ∀ t a, t.Canonical → (f t a).Canonical) : (l.foldl f s).Canonical :=
  List.foldlRecOn l f (motive := State.Canonical) h fun t ht a _ => hf t a ht

/-- The state of a pair, by the name that a match gives it. -/
theorem State.Canonical.snd {p : α × State} {a : α} {s : State} (h : p.2.Canonical) (e : p = (a, s)) : s.Canonical := by
  rw [e] at h
  exact h

/-! ### The fields that the forms speak of -/

/-- The indices of a submission queue are below its size. -/
def Sq.Inside (q : Sq) : Prop := q.head < ringSize q.log2 ∧ q.tail < ringSize q.log2

/-- The indices of a completion ring are below its size. -/
def Cq.Inside (r : Cq) : Prop := r.head < ringSize r.log2 ∧ r.tail < ringSize r.log2

/-- A counter's value fits its class. -/
def ctrFits (id v : Nat) : Prop :=
  (ctrClass id = some .event → v ≤ 2 ^ 48 - 1) ∧ (ctrClass id = some .activity → v < 2 ^ 64)

theorem ringSize_pos (n : Nat) : 0 < ringSize n := Nat.two_pow_pos n

theorem Sq.inside_empty {q : Sq} (hh : q.head = 0) (ht : q.tail = 0) : q.Inside := by
  rw [Sq.Inside, hh, ht]
  exact ⟨ringSize_pos _, ringSize_pos _⟩

theorem Cq.inside_empty {r : Cq} (hh : r.head = 0) (ht : r.tail = 0) : r.Inside := by
  rw [Cq.Inside, hh, ht]
  exact ⟨ringSize_pos _, ringSize_pos _⟩

/-- A value below the bound of the event counters fits every class. -/
theorem ctrFits_of_lt {id v : Nat} (hv : v < 2 ^ 48) : ctrFits id v :=
  ⟨fun _ => Nat.le_sub_one_of_lt hv, fun _ => hv.trans (by decide)⟩

/-- The fields of a state that its forms speak of. -/
structure Forms where
  cleats : FMap Nat
  sqs : FMap Sq
  cqs : FMap Cq
  asqLog2 : Nat
  fns : FMap Fn
  eps : FMap Ep
  jobs : FMap Job
  keys : FMap KeySlot
  beats : FMap Nat
  dues : FMap Due
  accepted : List Acc
  freqs : List FabReq
  nextId : Nat
  stores : List LogEnt × List LogEnt × Nat × List LogEnt
  live : FMap Nat

def State.forms (s : State) : Forms :=
  ⟨s.cleats, s.sqs, s.cqs, s.adm.asqLog2, s.fns, s.eps, s.jobs, s.keys.store, s.hbInt, s.pen.dues, s.accepted, s.freqs, s.nextId,
    (s.log.always, s.log.persist, s.log.slot, s.log.held), s.ctr.live⟩

/-- A change of other fields leaves the forms as they are. -/
theorem State.Canonical.frame {s t : State} (h : s.Canonical) (e : t.forms = s.forms := by rfl) : t.Canonical := by
  rw [State.forms, State.forms] at e
  injection e with hcl hsq hcq hlog2 hfn hep hjob hkey hbeat hdue hacc hreq hid hstores hlive
  obtain ⟨halw, hper, hslot, hheld⟩ := (by simpa only [Prod.mk.injEq] using hstores)
  constructor
  all_goals simp only [hcl, hsq, hcq, hlog2, hfn, hep, hjob, hkey, hbeat, hdue, hacc, hreq, hid, halw, hper, hslot, hheld, hlive]
  exacts [h.cleats, h.counts, h.sqs, h.cqs, h.queues, h.rings, h.admin, h.fns, h.eps, h.jobs, h.keys, h.beats, h.dues, h.entries,
    h.numbers, h.requests, h.always, h.persist, h.place, h.held, h.live, h.counters]

theorem State.dues_readyPen (s : State) : s.readyPen.dues = s.pen.dues := by
  unfold State.readyPen
  split <;> rfl

theorem Pen.dues_writeRec (p : Pen) : p.writeRec.dues = p.dues := by
  unfold Pen.writeRec
  split <;> rfl

namespace State.Canonical

variable {s : State} (h : s.Canonical)
include h

theorem sq_inside {n : Nat} {q : Sq} (hq : FMap.find s.sqs n = some q) : q.Inside := h.queues _ (FMap.mem_of_find hq)

theorem cq_inside {n : Nat} {r : Cq} (hr : FMap.find s.cqs n = some r) : r.Inside := h.rings _ (FMap.mem_of_find hr)

/-- The numbers stay below the next one when one is given out. -/
theorem next : ({ s with nextId := s.nextId + 1 } : State).Canonical :=
  { h with
    numbers := fun a ha => (h.numbers a ha).trans (Nat.lt_succ_self _)
    requests := ⟨h.requests.1, fun r hr => (h.requests.2 r hr).trans (Nat.lt_succ_self _)⟩ }

/-- A queue is put whose indices are inside it, and which has the size of ASQ_CTRL where it is queue 0. -/
theorem putSq {n : Nat} {q : Sq} (hq : q.Inside) (ha : n = 0 → q.log2 = s.adm.asqLog2) :
    ({ s with sqs := FMap.put s.sqs n q } : State).Canonical := by
  refine { h with sqs := FMap.sorted_put _ _ _ h.sqs, queues := FMap.forall_put h.queues hq, admin := fun x hx => ?_ }
  by_cases hn : n = 0
  · subst hn
    rw [FMap.find_put_self] at hx
    rw [← Option.some.inj hx]
    exact ha rfl
  · rw [FMap.find_put_ne _ _ (Ne.symm hn)] at hx
    exact h.admin x hx

/-- A queue is changed, with its indices inside it and its size as it was. -/
theorem modSq {n : Nat} {f : Sq → Sq} (hf : ∀ q, q.Inside → (f q).Inside) (hl : ∀ q, (f q).log2 = q.log2) :
    ({ s with sqs := FMap.modify s.sqs n f } : State).Canonical := by
  refine { h with sqs := FMap.sorted_modify _ _ _ h.sqs, queues := FMap.forall_modify h.queues hf, admin := fun x hx => ?_ }
  by_cases hn : n = 0
  · subst hn
    rw [FMap.find_modify_self] at hx
    obtain ⟨q, hq, rfl⟩ := Option.map_eq_some_iff.mp hx
    exact (hl q).trans (h.admin q hq)
  · rw [FMap.find_modify_ne _ _ (Ne.symm hn)] at hx
    exact h.admin x hx

/-- Every queue is changed, with its indices inside it and its size as it was. -/
theorem mapSqs {f : Nat → Sq → Sq} (hf : ∀ n q, q.Inside → (f n q).Inside) (hl : ∀ n q, (f n q).log2 = q.log2) :
    ({ s with sqs := FMap.mapV s.sqs f } : State).Canonical := by
  refine { h with sqs := FMap.sorted_mapV _ _ h.sqs, queues := FMap.forall_mapV h.queues hf, admin := fun x hx => ?_ }
  rw [FMap.find_mapV] at hx
  obtain ⟨q, hq, rfl⟩ := Option.map_eq_some_iff.mp hx
  exact (hl 0 q).trans (h.admin q hq)

/-- A queue is removed. -/
theorem delSq {n : Nat} : ({ s with sqs := FMap.del s.sqs n } : State).Canonical := by
  refine { h with sqs := FMap.sorted_del _ _ h.sqs, queues := fun p hp => h.queues p (FMap.mem_del hp), admin := fun x hx => ?_ }
  exact h.admin x (FMap.find_of_mem h.sqs (FMap.mem_del (FMap.mem_of_find hx)))

theorem putCq {n : Nat} {r : Cq} (hr : r.Inside) : ({ s with cqs := FMap.put s.cqs n r } : State).Canonical :=
  { h with cqs := FMap.sorted_put _ _ _ h.cqs, rings := FMap.forall_put h.rings hr }

theorem delCq {n : Nat} : ({ s with cqs := FMap.del s.cqs n } : State).Canonical :=
  { h with cqs := FMap.sorted_del _ _ h.cqs, rings := fun p hp => h.rings p (FMap.mem_del hp) }

/-- Every ring is changed, with its indices inside it. -/
theorem mapCqs {f : Nat → Cq → Cq} (hf : ∀ n r, r.Inside → (f n r).Inside) :
    ({ s with cqs := FMap.mapV s.cqs f } : State).Canonical :=
  { h with cqs := FMap.sorted_mapV _ _ h.cqs, rings := FMap.forall_mapV h.rings hf }

theorem mapQueues {f : Nat → Sq → Sq} {g : Nat → Cq → Cq} (hf : ∀ n q, q.Inside → (f n q).Inside)
    (hl : ∀ n q, (f n q).log2 = q.log2) (hg : ∀ n r, r.Inside → (g n r).Inside) :
    ({ s with sqs := FMap.mapV s.sqs f, cqs := FMap.mapV s.cqs g } : State).Canonical := (h.mapSqs hf hl).mapCqs hg

theorem modFns {n : Nat} {f : Fn → Fn} : ({ s with fns := FMap.modify s.fns n f } : State).Canonical :=
  { h with fns := FMap.sorted_modify _ _ _ h.fns }

theorem putFn {n : Nat} {x : Fn} : ({ s with fns := FMap.put s.fns n x } : State).Canonical :=
  { h with fns := FMap.sorted_put _ _ _ h.fns }

theorem mapFns {f : Nat → Fn → Fn} : ({ s with fns := FMap.mapV s.fns f } : State).Canonical :=
  { h with fns := FMap.sorted_mapV _ _ h.fns }

theorem modEp {n : Nat} {f : Ep → Ep} : ({ s with eps := FMap.modify s.eps n f } : State).Canonical :=
  { h with eps := FMap.sorted_modify _ _ _ h.eps }

theorem putJob {n : Nat} {j : Job} : ({ s with jobs := FMap.put s.jobs n j } : State).Canonical :=
  { h with jobs := FMap.sorted_put _ _ _ h.jobs }

theorem modJobs {n : Nat} {f : Job → Job} : ({ s with jobs := FMap.modify s.jobs n f } : State).Canonical :=
  { h with jobs := FMap.sorted_modify _ _ _ h.jobs }

theorem mapJobs {f : Nat → Job → Job} : ({ s with jobs := FMap.mapV s.jobs f } : State).Canonical :=
  { h with jobs := FMap.sorted_mapV _ _ h.jobs }

/-- A counter is set to a value that fits its class. -/
theorem setCtr {id v : Nat} {c : Counters} (hv : ctrFits id v) (hc : c.live = NMap.set s.ctr.live id v) :
    ({ s with ctr := c } : State).Canonical :=
  { h with
    live := by rw [hc]; exact NMap.sorted_set _ _ _ h.live
    counters := by rw [hc]; exact NMap.forall_set (P := fun p => ctrFits p.1 p.2) h.counters fun _ => hv }

/-- A Cleat is set to a count that it can hold. -/
theorem setCleat {c n : Nat} (hn : n ≤ cleatMax) : (s.setCleat c n).Canonical :=
  { h with
    cleats := NMap.sorted_set _ _ _ h.cleats
    counts := NMap.forall_set (P := fun p => 0 < p.2 ∧ p.2 ≤ cleatMax) h.counts fun hz => ⟨Nat.pos_of_ne_zero hz, hn⟩ }

/-- Every Cleat counts at most 2^31 - 1. -/
theorem cleat_le (c : Nat) : s.cleat c ≤ cleatMax := by
  unfold State.cleat NMap.get FMap.getD
  cases hc : FMap.find s.cleats c with
  | none => exact Nat.zero_le _
  | some n => exact (h.counts _ (FMap.mem_of_find hc)).2

end State.Canonical

/-- A change of entries that keeps their numbers. -/
theorem State.Canonical.modAcc {s : State} (h : s.Canonical) {e : Nat} {g : Acc → Acc} (hg : ∀ a, (g a).id = a.id := by intro _; rfl) :
    (s.modAcc e g).Canonical := by
  have hids : (s.modAcc e g).accepted.map (·.id) = s.accepted.map (·.id) := by
    simp only [State.modAcc, List.map_map]
    refine List.map_congr_left fun a _ => ?_
    simp only [Function.comp]
    split
    · exact hg a
    · rfl
  refine { h with entries := ?_, numbers := ?_ }
  · rw [hids]
    exact h.entries
  · intro a ha
    obtain ⟨b, hb, hab⟩ : ∃ b ∈ s.accepted, b.id = a.id := by
      have : a.id ∈ s.accepted.map (·.id) := by
        rw [← hids]
        exact List.mem_map_of_mem ha
      simpa using this
    rw [← hab]
    exact h.numbers b hb

end Sys2Proof.Machine
end

section
/-! PROOFS. The forms of the state's parts (R74, R320, R401, R404): what stopping a queue, writing the log, reading a word
and booting leave in form. -/

namespace Sys2Proof.Machine

open Sys2Proof.Claims

-- Theorem after theorem: side by side, so many short ones take too many threads.
set_option Elab.async false

/-- Entries that are changed in one of two ways keep their numbers. -/
theorem Acc.id_ite {c : Prop} [Decidable c] {a x y : Acc} (hx : x.id = a.id := by rfl) (hy : y.id = a.id := by rfl) :
    (if c then x else y).id = a.id := by
  split
  · exact hx
  · exact hy

/-- The always-on store keeps to its size: the oldest entry leaves a full one. -/
theorem Log.write_always_le {l : Log} (h : l.always.length ≤ 16384) (persistent : Bool) (e : LogEnt) :
    (l.write persistent e).always.length ≤ 16384 := by
  rw [Log.always_write, List.length_drop, List.length_append, List.length_singleton]
  omega

theorem Log.write_persist_le {l : Log} (h : l.persist.length ≤ 524288) (persistent : Bool) (e : LogEnt) :
    (l.write persistent e).persist.length ≤ 524288 := by
  cases persistent
  · exact h
  · simp only [Log.write, if_true, List.length_drop, List.length_append, List.length_singleton]
    omega

theorem Log.write_slot_lt {l : Log} (h : l.slot < 524288) (persistent : Bool) (e : LogEnt) : (l.write persistent e).slot < 524288 := by
  unfold Log.write
  split
  · exact Nat.mod_lt _ (by norm_num)
  · exact h

theorem Log.write_held (l : Log) (persistent : Bool) (e : LogEnt) : (l.write persistent e).held = l.held := by
  unfold Log.write
  split <;> rfl

theorem Sq.inside_stopIf {q : Sq} {c : Prop} [Decidable c] {st : SqState} (h : q.Inside) : (if c then q.stop st else q).Inside := by
  split
  · exact h
  · exact h

theorem Sq.log2_stopIf {q : Sq} {c : Prop} [Decidable c] {st : SqState} : (if c then q.stop st else q).log2 = q.log2 := by
  split <;> rfl

theorem State.adm_wakeIf (s : State) (c : Prop) [Decidable c] : (if c then s.wake else s).adm = s.adm := by
  split
  · rw [State.wake_eq]
  · rfl

/-- A QUEUE_CREATE of queue 0 is refused: the admin queue is there (Table 6-1). -/
theorem State.createRefusal_qid {s : State} {a : Acc} {f : QCreate} (h : s.createRefusal a f = none) : f.qid ≠ 0 := by
  intro h0
  have hall := List.findSome?_eq_none_iff.mp h
  have hqid := hall _ (List.mem_cons_of_mem _ (List.mem_cons_self ..))
  simp [refuse, h0] at hqid

theorem eccH_lt (d : Nat) : eccH d < 128 := by
  refine List.foldlRecOn _ _ (motive := (· < 128)) (by decide) fun acc hacc c hc => ?_
  split
  · refine Nat.xor_lt_two_pow (n := 7) hacc ?_
    have hcol : c.1 ∈ eccColumns := (List.mem_zipIdx' hc).2 ▸ List.getElem_mem _
    exact List.mem_range.mp (List.mem_of_mem_filter (List.mem_of_mem_take hcol))
  · exact hacc

theorem eccF_lt (a : Nat) : eccF a < 128 := by
  refine List.foldlRecOn _ _ (motive := (· < 128)) (by decide) fun acc hacc i _ => ?_
  refine Nat.xor_lt_two_pow (n := 7) hacc (Nat.lt_of_lt_of_le (Nat.mod_lt _ (Nat.two_pow_pos _)) ?_)
  exact Nat.pow_le_pow_right (by decide) (by omega)

/-- A syndrome has seven bits (R320). -/
theorem eccRead_syndrome_lt {d c a pattern v syn : Nat} (hr : eccRead d c a pattern = .corrected v syn) : syn < 2 ^ 48 := by
  have hs : eccH d ^^^ (c % 128) ^^^ eccF a < 2 ^ 7 :=
    Nat.xor_lt_two_pow (Nat.xor_lt_two_pow (eccH_lt d) (Nat.mod_lt _ (by decide))) (eccF_lt a)
  have hlt : eccH d ^^^ (c % 128) ^^^ eccF a < 2 ^ 48 := hs.trans (by decide)
  unfold eccRead at hr
  dsimp only at hr
  split_ifs at hr
  · cases hr
    decide
  · cases hr
    exact hlt
  · split at hr
    · cases hr
      exact hlt
    · cases hr

theorem readGranule_syndrome_lt (port unitAddr : Nat) (data check : List Byte) :
    ∀ c ∈ (readGranule port unitAddr data check).corrected, c.2 < 2 ^ 48 := by
  have hws : ∀ c ∈ (((List.range 8).map fun w =>
      (w, eccRead (leAt data (8 * w) 8) (leAt check w 1) (stagingWordAddr port unitAddr w) (poisonPattern w))).filterMap fun p =>
        match p.2 with
        | .corrected _ syn => some (p.1, syn)
        | _ => none), c.2 < 2 ^ 48 := by
    intro c hc
    obtain ⟨p, hp, hpc⟩ := List.mem_filterMap.mp hc
    obtain ⟨w, _, rfl⟩ := List.mem_map.mp hp
    split at hpc
    · next hr =>
      cases hpc
      exact eccRead_syndrome_lt hr
    · cases hpc
  unfold readGranule
  dsimp only
  split_ifs
  · exact fun c hc => absurd hc List.not_mem_nil
  · exact hws
  · exact hws

theorem sorted_bootJob {m : FMap Job} {g : Gen} (h : FMap.Sorted m) : FMap.Sorted (bootJob m g) := by
  unfold bootJob
  split
  · exact h
  · exact FMap.sorted_put _ _ _ h

theorem State.canonical_reset : State.reset.Canonical where
  cleats := trivial
  counts := fun _ hp => absurd hp List.not_mem_nil
  sqs := trivial
  cqs := trivial
  queues := fun _ hp => absurd hp List.not_mem_nil
  rings := fun _ hp => absurd hp List.not_mem_nil
  admin := fun _ hq => nomatch hq
  fns := trivial
  eps := trivial
  jobs := trivial
  keys := trivial
  beats := trivial
  dues := trivial
  entries := List.nodup_nil
  numbers := fun _ ha => absurd ha List.not_mem_nil
  requests := ⟨List.nodup_nil, fun _ hr => absurd hr List.not_mem_nil⟩
  always := Nat.zero_le _
  persist := Nat.zero_le _
  place := Nat.zero_lt_of_lt (by decide : 0 < 524288)
  held := Nat.zero_le _
  live := trivial
  counters := fun _ hp => absurd hp List.not_mem_nil

theorem Pen.dues_tornRec (p : Pen) : p.tornRec.dues = p.dues := by
  unfold Pen.tornRec
  split <;> rfl

/-! ### What a command keeps of the state before it -/

theorem State.Canonical.commit {s t : State} (h : t.Canonical) {u tally} : (s.commit u tally t).Canonical := h.frame

theorem State.Canonical.keepSetup {s t : State} (h : t.Canonical) : (s.keepSetup t).Canonical := h.commit

theorem State.Canonical.keepTimed {s t : State} (hs : s.Canonical) (h : t.Canonical) : (s.keepTimed t).Canonical :=
  { h with beats := hs.beats }

theorem State.Canonical.keepFixed {s t : State} (hs : s.Canonical) (h : t.Canonical) : (s.keepFixed t).Canonical :=
  { h with beats := hs.beats, dues := hs.dues }

theorem State.Canonical.keepSettled {s t : State} (hs : s.Canonical) (h : t.Canonical) : (s.keepSettled t).Canonical := by
  have hids : (t.accepted.map Acc.stepOver).map (·.id) = t.accepted.map (·.id) := List.map_map
  refine { h with dues := hs.dues, beats := hs.beats, entries := ?_, numbers := fun a ha => ?_ }
  · exact hids ▸ h.entries
  · obtain ⟨b, hb, rfl⟩ := List.mem_map.mp ha
    exact h.numbers b hb

end Sys2Proof.Machine
end

section
/-! PROOFS. The shared operations and Cleats keep the forms. -/

namespace Sys2Proof.Machine

open Sys2Proof.Claims

-- Theorem after theorem: side by side, so many short ones take too many threads.
set_option Elab.async false

section
variable {s : State} (h : s.Canonical)
include h

/-! ### Shared operations -/

theorem State.Canonical.drbgReady : s.drbgReady.2.Canonical := by
  unfold State.drbgReady
  split
  · exact h.frame
  · split_ifs
    · exact h.frame
    · exact h

theorem State.Canonical.draw {n} : (s.draw n).2.Canonical := by
  unfold State.draw
  exact h.drbgReady.frame

theorem State.Canonical.emit {o} : (s.emit o).Canonical := h.frame

theorem State.Canonical.addCtr {id n : Nat} {c : Counters} (hc : c.live = (s.ctr.add id n).live) :
    ({ s with ctr := c } : State).Canonical := by
  unfold Counters.add at hc
  dsimp only at hc
  split at hc
  · next he =>
    refine h.setCtr ⟨fun _ => min_le_right _ _, fun ha => ?_⟩ hc
    rw [he] at ha
    cases ha
  · next ha =>
    refine h.setCtr ⟨fun he => ?_, fun _ => Nat.mod_lt _ (by decide)⟩ hc
    rw [ha] at he
    cases he
  · next he ha => exact h.setCtr ⟨fun e => absurd e he, fun e => absurd e ha⟩ hc

theorem State.Canonical.count {id n} : (s.count id n).Canonical := h.addCtr rfl

theorem State.Canonical.bump {id} : (s.bump id).Canonical := h.count

theorem State.Canonical.countBytes {id n} : (s.countBytes id n).Canonical := h.addCtr rfl

theorem State.Canonical.zeroCtr {scope inst} : (s.zeroCtr scope inst).Canonical :=
  { h with
    live := FMap.sorted_filter _ _ h.live
    counters := fun p hp => h.counters p (List.mem_of_mem_filter hp) }

theorem State.Canonical.writeLog {persistent : Bool} {e : LogEnt} :
    ({ s with log := s.log.write persistent e } : State).Canonical :=
  { h with
    always := Log.write_always_le h.always _ _
    persist := Log.write_persist_le h.persist _ _
    place := Log.write_slot_lt h.place _ _
    held := (Log.write_held ..).symm ▸ h.held }

theorem State.Canonical.logEntry {e} : (s.logEntry e).Canonical := by
  unfold State.logEntry
  split_ifs with hr hl
  · refine { h with held := ?_ }
    rw [List.length_append]
    exact hl
  · exact (h.count (id := ctrId 0 0 1) (n := 1)).frame
  · exact h.writeLog

theorem State.Canonical.logWith {code sev src mast func d} : (s.logWith code sev src mast func d).Canonical := h.logEntry

theorem State.Canonical.logEvent {code d} : (s.logEvent code d).Canonical := h.logWith

theorem State.Canonical.logFn {code f d} : (s.logFn code f d).Canonical := h.logWith

theorem State.Canonical.logMast {code mast d} : (s.logMast code mast d).Canonical := h.logWith

theorem State.Canonical.logBadAccess {offset size} : (s.logBadAccess offset size).Canonical := h.logEvent

theorem State.Canonical.modFn {f g} : (s.modFn f g).Canonical := h.modFns

theorem State.Canonical.wake : s.wake.Canonical := (h.frame.ite h.frame).ite h

theorem State.Canonical.ungate {y} : (s.ungate y).Canonical := h.frame

theorem State.Canonical.modLink {p g} : (s.modLink p g).Canonical := h.frame

theorem State.Canonical.sendAt {port p payload} : (s.sendAt port p payload).Canonical := h.emit.modLink.count.ite h.emit.countBytes

theorem State.Canonical.keepPort {p port} : (s.keepPort p port).Canonical := h.ite h.modEp

theorem State.Canonical.sendProto {p payload} : (s.sendProto p payload).Canonical := by
  unfold State.sendProto
  dsimp only
  split
  · exact h.frame
  · exact h.frame.ite h.keepPort.sendAt

theorem State.Canonical.readHost {f addr len} : (s.readHost f addr len).Canonical := h.foldl fun _ _ h => h.emit

theorem State.Canonical.readStruct {f addr r} : (s.readStruct f addr r).Canonical := by
  unfold State.readStruct
  split <;> exact h.readHost

theorem State.Canonical.hostWrite {f addr bs use} : (s.hostWrite f addr bs use).Canonical := h.next.frame

theorem State.Canonical.report {f g} : (s.report f g).Canonical := h.modFn

theorem State.Canonical.countDone {f status} : (s.countDone f status).Canonical := h.report

theorem State.Canonical.interrupt {q} : (s.interrupt q).Canonical := by
  unfold State.interrupt
  split
  · exact h
  · next c hc =>
    have hr : c.Inside := h.cq_inside hc
    refine .ite ?_ (.hostWrite ?_)
    all_goals exact h.putCq hr

theorem State.Canonical.placeCompletion {q c} : (s.placeCompletion q c).Canonical := by
  unfold State.placeCompletion
  split
  · exact h
  · next r hr =>
    dsimp only
    refine .ite ?_ (.interrupt ?_)
    all_goals
      refine .countDone (.hostWrite (h.putCq ?_))
      exact ⟨(h.cq_inside hr).1, Nat.mod_lt _ (ringSize_pos _)⟩

theorem State.Canonical.writeCompletion {q c} : (s.writeCompletion q c).Canonical := by
  unfold State.writeCompletion
  split
  · exact h
  · next r hr =>
    have hin : r.Inside := h.cq_inside hr
    refine .ite h.placeCompletion (h.putCq ?_)
    exact hin

theorem State.Canonical.flushHeld {q n : Nat} : (State.flushHeld q n s).Canonical := by
  induction n generalizing s with
  | zero => exact h
  | succ n ih =>
    rw [State.flushHeld]
    split
    · exact h
    · next r hr =>
      split
      · exact h
      · have hin : r.Inside := h.cq_inside hr
        refine .ite (ih (.placeCompletion (h.putCq ?_))) h
        exact hin

theorem State.Canonical.flushRing {q} : (s.flushRing q).Canonical := by
  unfold State.flushRing
  split
  · exact h.ite h.flushHeld
  · exact h

theorem State.Canonical.meet {e status info} : (s.meet e status info).Canonical := h.modAcc fun _ => Acc.id_ite

theorem State.Canonical.meetOnce {e status info} : (s.meetOnce e status info).Canonical := h.modAcc fun _ => Acc.id_ite

theorem State.Canonical.endEntry {e okInfo} : (s.endEntry e okInfo).Canonical := h.modAcc fun _ => Acc.id_ite

theorem State.Canonical.failEntry {e status info} : (s.failEntry e status info).Canonical := h.meet.endEntry

theorem State.Canonical.haltQueue {q} : (s.haltQueue q).Canonical :=
  h.modSq (fun _ => Sq.inside_stopIf) fun _ => Sq.log2_stopIf

theorem State.Canonical.haltQueuesOf {f} : (s.haltQueuesOf f).Canonical :=
  h.mapSqs (fun _ _ => Sq.inside_stopIf) fun _ _ => Sq.log2_stopIf

theorem State.Canonical.haltFn {f cause index qid} : (s.haltFn f cause index qid).Canonical := h.ite h.haltQueuesOf.modFn

theorem State.Canonical.setFault {bit} : (s.setFault bit).Canonical := h.frame

theorem State.Canonical.orphan {f} : (s.orphan f).Canonical := h.modFn.frame.logFn

theorem State.Canonical.restartBeat {f} : (s.restartBeat f).Canonical := h.modFn

/-! ### Cleats (R277 to R291) -/

theorem State.Canonical.serveWait {c a} : (s.serveWait c a).Canonical :=
  h.failEntry.ite (h.setCleat ((Nat.sub_le _ _).trans (h.cleat_le c))).endEntry

theorem State.Canonical.evaluate {c} : (s.evaluate c).Canonical := h.foldl fun _ _ h => h.serveWait

theorem State.Canonical.takeUnits {n} : (s.takeUnits n).Canonical := by
  unfold State.takeUnits
  split
  · exact h
  · next x _ =>
    dsimp only
    refine .ite h (.count (h.frame.setCleat ?_))
    exact (Nat.sub_le _ _).trans (h.cleat_le _)

theorem State.Canonical.applySignal {c n} : (s.applySignal c n).2.Canonical := by
  unfold State.applySignal
  dsimp only
  split_ifs with hr hm
  · exact h
  · exact h
  · have hset : (s.setCleat c (s.cleat c + n)).Canonical := h.setCleat (Nat.le_of_not_lt hm)
    split
    · exact hset.count.takeUnits
    · exact hset.evaluate

theorem State.Canonical.fabricSignal {src c n} : (s.fabricSignal src c n).Canonical := by
  unfold State.fabricSignal
  refine .ite h.bump.logFn ?_
  split
  · next e => exact h.applySignal.snd e
  · next e => exact ((h.applySignal.snd e).bump).logFn

theorem State.Canonical.entrySignalOwn {e c n} : (s.entrySignalOwn e c n).Canonical := by
  unfold State.entrySignalOwn
  dsimp only
  split
  · next e => exact (h.applySignal.snd e).modAcc
  · next e => exact (h.applySignal.snd e).modAcc

theorem State.Canonical.signalGone {e} : (s.signalGone e).Canonical := h.modAcc fun _ => Acc.id_ite

theorem State.Canonical.entrySignalFar {e ep c n} : (s.entrySignalFar e ep c n).Canonical := by
  unfold State.entrySignalFar
  dsimp only
  split
  · exact h.sendAt.signalGone
  · exact h.frame.modAcc

theorem State.Canonical.entrySignal {e c n ep} : (s.entrySignal e c n ep).Canonical := h.entrySignalOwn.ite h.entrySignalFar

theorem State.Canonical.pauseSignal {job f ep c} : (s.pauseSignal job f ep c).Canonical := by
  unfold State.pauseSignal
  refine .ite ?_ h.sendProto
  split
  · next e => exact h.applySignal.snd e
  · next e => exact (h.applySignal.snd e).logFn

theorem State.Canonical.bindCleat {c} : (s.bindCleat c).Canonical :=
  State.Canonical.setCleat (h.foldl fun _ _ h => h.failEntry) (Nat.zero_le _)

theorem State.Canonical.clearCleatsOf {f} : (s.clearCleatsOf f).Canonical :=
  { h with
    cleats := FMap.sorted_filter _ _ h.cleats
    counts := fun p hp => h.counts p (List.mem_of_mem_filter hp) }

theorem State.Canonical.flushPkts : s.flushPkts.Canonical := by
  unfold State.flushPkts
  refine .foldl h.frame fun s a h => ?_
  refine .ite h.sendProto ?_
  split
  · exact h.sendAt.signalGone
  · exact h.frame

/-! ### Faults (R66, R445) -/

theorem State.Canonical.modYard {y g} : (s.modYard y g).Canonical := h.frame

theorem State.Canonical.logDegraded {y} : (s.logDegraded y).Canonical := h.logMast

theorem State.Canonical.logCut {loss} : (s.logCut loss).Canonical := h.ite h.logDegraded

end

end Sys2Proof.Machine
end

section
/-! PROOFS. Transfers, generations and cuts keep the forms. -/

namespace Sys2Proof.Machine

open Sys2Proof.Claims

-- Theorem after theorem: side by side, so many short ones take too many threads.
set_option Elab.async false

section
variable {s : State} (h : s.Canonical)
include h

/-! ### Transfers -/

theorem State.Canonical.queueXfer {fn w srcs dsts} : (s.queueXfer fn w srcs dsts).Canonical :=
  h.next.frame

theorem State.Canonical.modXfer {x g} : (s.modXfer x g).Canonical := h.frame

/-- Fabric requests are dropped. -/
theorem State.Canonical.filterFreqs {p : FabReq → Bool} :
    ({ s with freqs := s.freqs.filter p } : State).Canonical :=
  { h with
    requests := ⟨h.requests.1.sublist (List.filter_sublist.map _), fun r hr => h.requests.2 r (List.mem_of_mem_filter hr)⟩ }

/-- Fabric requests are changed, with their numbers as they were. -/
theorem State.Canonical.mapFreqs {f : FabReq → FabReq} (hf : ∀ r, (f r).num = r.num) :
    ({ s with freqs := s.freqs.map f } : State).Canonical := by
  refine { h with requests := ⟨?_, fun r hr => ?_⟩ }
  · rw [List.map_map]
    exact (congrArg List.Nodup (List.map_congr_left fun r _ => hf r)).mpr h.requests.1
  · obtain ⟨q, hq, rfl⟩ := List.mem_map.mp hr
    rw [hf q]
    exact h.requests.2 q hq

/-- A fabric request is added under the next number. -/
theorem State.Canonical.addFreq {r : FabReq} (hr : r.num = s.nextId) :
    ({ s with nextId := s.nextId + 1, freqs := s.freqs ++ [r] } : State).Canonical := by
  refine { h.next with requests := ⟨?_, fun q hq => ?_⟩ }
  · rw [List.map_append, List.nodup_append]
    refine ⟨h.requests.1, List.nodup_singleton _, fun n hn m hm => ?_⟩
    obtain ⟨q, hq, rfl⟩ := List.mem_map.mp hn
    rw [List.map_singleton, List.mem_singleton, hr] at hm
    exact hm ▸ (h.requests.2 q hq).ne
  · rcases List.mem_append.mp hq with hq | hq
    · exact h.next.requests.2 q hq
    · rw [List.mem_singleton.mp hq, hr]
      exact Nat.lt_succ_self _

theorem State.Canonical.forget {x} : (s.forget x).Canonical :=
  h.filterFreqs.frame

theorem State.Canonical.dropXfer {x} : (s.dropXfer x).Canonical := h.forget.frame

theorem State.Canonical.dropWork {p} : (s.dropWork p).Canonical := h.foldl fun _ _ h => h.dropXfer

theorem State.Canonical.takeFlip {target unit} : (s.takeFlip target unit).2.Canonical := by
  unfold State.takeFlip
  dsimp only
  split
  · exact h.frame
  · exact h

theorem State.Canonical.staleLines {l len} : (s.staleLines l len).Canonical := h.frame

theorem State.Canonical.stgRead {x i rel off rmw} : (s.stgRead x i rel off rmw).Canonical := h.frame.emit.countBytes

theorem State.Canonical.stgWrite {x i rel off bs} : (s.stgWrite x i rel off bs).Canonical := h.takeFlip.frame.emit.countBytes

theorem State.Canonical.scrubRun {base len : Nat} {fill : FillKind} {n next : Nat} :
    (State.scrubRun base len fill n next s).2.Canonical := by
  induction n generalizing next s with
  | zero => exact h
  | succ n ih =>
    rw [State.scrubRun]
    split
    · exact ih h.staleLines.stgWrite
    · exact h

theorem State.Canonical.scrubOn {k} : (s.scrubOn k).Canonical := h.ite h.scrubRun.frame

theorem State.Canonical.settleScrubs : s.settleScrubs.Canonical := (h.foldl fun _ _ h => h.scrubOn).frame

theorem State.Canonical.startScrub {entry base len fill} : (s.startScrub entry base len fill).Canonical := h.ite h.frame

theorem State.Canonical.scrubQuota {entry f base len} : (s.scrubQuota entry f base len).Canonical := h.ite h.frame

theorem State.Canonical.settleLog : s.settleLog.Canonical := h.foldl fun _ _ h => h.ite h.frame.staleLines.stgWrite

theorem State.Canonical.fabRead {fn x i port a off len} : (s.fabRead fn x i port a off len).Canonical :=
  .sendAt (h.addFreq rfl)

theorem State.Canonical.fabWrite {fn x i port a off bs sig} :
    (s.fabWrite fn x i port a off bs sig).Canonical := (h.addFreq rfl).foldl fun _ _ h => h.sendAt

theorem State.Canonical.hostData {pasid a x i off len bs} :
    (s.hostData pasid a x i off len bs).Canonical := h.next.frame

theorem State.Canonical.readPart {x i port p} : (s.readPart x i port p).Canonical := by
  unfold State.readPart
  split
  · exact h.foldl fun _ _ h => h.fabRead
  · exact h.foldl fun _ _ h => h.stgRead
  · exact h.foldl fun _ _ h => h.hostData

theorem State.Canonical.writePart {x i port lastPart p} : (s.writePart x i port lastPart p).Canonical := by
  unfold State.writePart
  dsimp only
  split
  · exact h.staleLines.foldl fun _ _ h => h.fabWrite
  · exact h.staleLines.foldl fun _ _ h => h.stgWrite.ite h.stgRead
  · exact h.staleLines.foldl fun _ _ h => h.hostData

theorem State.Canonical.startReads {x port} : (s.startReads x port).Canonical := h.foldl fun _ _ h => h.readPart

theorem State.Canonical.startWrites {x port} : (s.startWrites x port).Canonical := h.foldl fun _ _ h => h.writePart

theorem State.Canonical.putBytes {x i off bs dirty} : (s.putBytes x i off bs dirty).Canonical := by
  unfold State.putBytes
  split
  · exact h
  · exact h.takeFlip.modXfer

theorem State.Canonical.putChunk {x i off bs} : (s.putChunk x i off bs).Canonical := h.putBytes

theorem State.Canonical.putBad {x i off n} : (s.putBad x i off n).Canonical := h.ite h.putBytes

theorem State.Canonical.storeOut {x} : (s.storeOut x).Canonical := by
  unfold State.storeOut
  split
  · exact h
  · exact h.ite h.takeFlip.modXfer

theorem State.Canonical.failPart {x i write} : (s.failPart x i write).Canonical := h.modXfer

theorem State.Canonical.uncEvent {owner mem cause unit word n} : (s.uncEvent owner mem cause unit word n).Canonical := by
  unfold State.uncEvent
  dsimp only
  split
  · exact h.count.haltQueue.logFn
  · exact h.count.logEvent

theorem State.Canonical.meetPoison {e n} : (s.meetPoison e n).Canonical := h.ite (h.meet.modAcc (fun _ => Acc.id_ite))

theorem State.Canonical.meetHost {e n} : (s.meetHost e n).Canonical := h.meet.modAcc fun _ => Acc.id_ite

theorem State.Canonical.meetNew {e status info} : (s.meetNew e status info).Canonical := h.modAcc fun _ => Acc.id_ite

theorem State.Canonical.meetLong {e n} : (s.meetLong e n).Canonical :=
  h.modAcc fun _ => Acc.id_ite (hy := Acc.id_ite)

/-! ### Generations -/

theorem State.Canonical.modGen {e f} : (s.modGen e f).Canonical := h.frame

theorem State.Canonical.dirStore {idx isFree ok} : (s.dirStore idx isFree ok).Canonical := h.frame

theorem State.Canonical.writeManBuffer {e} : (s.writeManBuffer e).Canonical := by
  unfold State.writeManBuffer
  split
  · exact h
  · exact (h.foldl fun _ _ h => h.queueXfer).ite h

theorem State.Canonical.disarm {ep e} : (s.disarm ep e).Canonical := h.sendProto.frame.modGen

theorem State.Canonical.resume {ep e arg} : (s.resume ep e arg).Canonical := h.sendProto.modEp

theorem State.Canonical.resumeAll {e} : (s.resumeAll e).Canonical := h.foldl fun _ _ h => h.resume

theorem State.Canonical.cleanJob {job} : (s.cleanJob job).Canonical := by
  unfold State.cleanJob
  split
  · exact h
  · exact .ite { h with jobs := FMap.sorted_del _ _ h.jobs } h

theorem State.Canonical.dropChanges {idx} : (s.dropChanges idx).Canonical := (h.foldl fun _ _ h => h.dropXfer).frame

theorem State.Canonical.freeEntry {idx epoch} : (s.freeEntry idx epoch).Canonical := h.ite h.frame

theorem State.Canonical.freePlaces {g} : (s.freePlaces g).Canonical := h.ite h.frame.dropChanges.freeEntry

theorem State.Canonical.abandon {e cause ep} : (s.abandon e cause ep).Canonical := by
  unfold State.abandon
  split
  · exact h
  · refine .ite h ?_
    refine .cleanJob (.freePlaces (.modGen ?_))
    split
    · exact ((((h.foldl fun _ _ h => h.disarm).resumeAll).foldl fun _ _ h => h.failEntry).dropWork).dropWork
    · exact (((h.foldl fun _ _ h => h.disarm).resumeAll).foldl fun _ _ h => h.failEntry).dropWork

theorem State.Canonical.release {e} : (s.release e).Canonical := by
  unfold State.release
  split
  · exact h
  · exact h.ite (((((h.foldl fun _ _ h => h.failEntry).dropWork).modGen).freePlaces).cleanJob)

theorem State.Canonical.abandonLoose {job cause ep} : (s.abandonLoose job cause ep).Canonical := h.foldl fun _ _ h => h.abandon

theorem State.Canonical.protectDone {e} : (s.protectDone e).Canonical := by
  unfold State.protectDone
  split
  · exact h
  · exact h.foldl fun _ _ h => h.meetPoison.endEntry

theorem State.Canonical.startRecord {e code} : (s.startRecord e code).Canonical := by
  unfold State.startRecord
  split
  · exact h
  · exact h.frame

theorem State.Canonical.noteChange {e} : (s.noteChange e).Canonical := by
  unfold State.noteChange
  split
  · exact h.ite h.startRecord
  · exact h

theorem State.Canonical.advance {e} : (s.advance e).Canonical := by
  unfold State.advance
  split
  · exact h
  · split
    · exact h.startRecord
    · exact h

theorem State.Canonical.becameSafe {e} : (s.becameSafe e).Canonical := by
  unfold State.becameSafe
  split
  · exact h
  · exact h.protectDone.report

theorem State.Canonical.recordWritten {e code} : (s.recordWritten e code).Canonical := by
  unfold State.recordWritten
  split
  · exact h
  · exact h.ite ((((h.modGen.iteThen (·.modGen)).iteThen (·.writeManBuffer)).iteThen (·.becameSafe)).advance)

theorem State.Canonical.recordFailed {e code info} : (s.recordFailed e code info).Canonical := by
  unfold State.recordFailed
  split
  · exact h
  · refine .ite h ?_
    split
    · exact h.abandon
    · exact h.abandon
    · refine .modGen ?_
      split
      · exact h.meetOnce.endEntry
      · exact h
    · exact h.modGen
    · exact h

theorem State.Canonical.changeOver {c fail} : (s.changeOver c fail).Canonical := by
  unfold State.changeOver
  dsimp only
  split
  · exact h.frame.dirStore.recordWritten
  · exact h.frame.dirStore.recordFailed

theorem State.Canonical.writeCopy {c} : (s.writeCopy c).Canonical := by
  unfold State.writeCopy
  dsimp only
  split
  · exact h.queueXfer
  · exact h.frame

theorem State.Canonical.writeManStore {c g} : (s.writeManStore c g).Canonical := h.foldl fun _ _ h => h.queueXfer

theorem State.Canonical.startChange {c} : (s.startChange c).Canonical := by
  unfold State.startChange
  refine .ite h.changeOver ?_
  dsimp only
  split
  · exact h.frame.writeManStore
  · exact h.frame.writeCopy

theorem State.Canonical.settleDir : s.settleDir.Canonical := h.foldl fun _ _ h => h.startChange.ite h

theorem State.Canonical.manPieceDone {idx epoch code fail} : (s.manPieceDone idx epoch code fail).Canonical := by
  unfold State.manPieceDone
  split
  · exact h
  · split
    · exact (h.foldl fun _ _ h => h.dropXfer).changeOver
    · exact h.ite h.writeCopy

theorem State.Canonical.copyDone {idx epoch code fail} : (s.copyDone idx epoch code fail).Canonical := by
  unfold State.copyDone
  split
  · exact h
  · exact h.changeOver

/-! ### Cuts and Belay (R108 to R140) -/

theorem State.Canonical.modSeg {e i f} : (s.modSeg e i f).Canonical := h.modGen

theorem State.Canonical.sendBatch {e ep watch idxs} : (s.sendBatch e ep watch idxs).Canonical := by
  unfold State.sendBatch
  split
  · exact h
  · exact (h.foldl fun _ _ h => h.sendProto).modGen

theorem State.Canonical.watchAll {e} : (s.watchAll e).Canonical := by
  unfold State.watchAll
  split
  · exact h
  · exact h.ite (h.foldl fun _ _ h => h.sendBatch)

theorem State.Canonical.queueTier1 {e i} : (s.queueTier1 e i).Canonical := by
  unfold State.queueTier1
  split
  · exact h
  · split
    · exact h
    · exact h.queueXfer

theorem State.Canonical.countJob {job num n} : (s.countJob job num n).Canonical := by
  unfold State.countJob
  split
  · exact h.countBytes
  · exact h

theorem State.Canonical.startProvisional {e i} : (s.startProvisional e i).Canonical := by
  unfold State.startProvisional
  split
  · exact h
  · exact h.ite h.modGen.queueTier1

theorem State.Canonical.countPrecopy {g} : (s.countPrecopy g).Canonical := h.countJob.countJob

theorem State.Canonical.watchHit {e i} : (s.watchHit e i).Canonical := by
  unfold State.watchHit
  split
  · exact h
  · split
    · exact h
    · exact h.modGen.iteThen (·.modGen)

theorem State.Canonical.stepMark {e} : (s.stepMark e).Canonical := by
  unfold State.stepMark
  split
  · exact h
  · exact h.ite ((h.modGen.foldl fun _ _ h => h.startProvisional).foldl fun _ _ h => h.ite h.sendBatch)

theorem State.Canonical.sendRelease {ep e addr} : (s.sendRelease ep e addr).Canonical := h.sendProto

theorem State.Canonical.sendRemap {ep e addr spare} : (s.sendRemap ep e addr spare).Canonical := h.sendProto

theorem State.Canonical.endpointRead {e ep} : (s.endpointRead e ep).Canonical := by
  unfold State.endpointRead
  split
  · exact h
  · exact h.ite ((h.disarm.ite h).ite (h.ite ((h.modGen.iteThen (·.resume)).iteThen (·.pauseSignal))))

theorem State.Canonical.segRead {e i} : (s.segRead e i).Canonical := by
  unfold State.segRead
  split
  · exact h
  · split
    · exact h
    · exact ((h.ite (h.sendRemap.ite h.sendRelease)).modGen).endpointRead

theorem State.Canonical.belayHit {e i fork} : (s.belayHit e i fork).Canonical := by
  unfold State.belayHit
  split
  · exact h
  · split
    · exact h
    · refine .ite (h.sendRemap.ite h.sendRelease) ?_
      dsimp only
      split
      · exact h.sendProto.frame.modSeg
      · exact (h.bump.ite h).modGen

theorem State.Canonical.takeHit {ep e addr fork} : (s.takeHit ep e addr fork).Canonical := by
  unfold State.takeHit
  dsimp only
  split
  · exact h.bump.sendRemap.ite h.bump.sendRelease
  · split
    · exact h.bump.sendRemap.ite h.bump.sendRelease
    · refine .ite (.ite h.bump.modGen ?_) (.ite h.bump.belayHit ?_)
      all_goals exact h.bump.sendRemap.ite h.bump.sendRelease

theorem State.Canonical.modJob {job f} : (s.modJob job f).Canonical := h.modJobs

theorem State.Canonical.testIntervals : s.testIntervals.Canonical := h.mapJobs

theorem State.Canonical.raiseOpen {job} : (s.raiseOpen job).Canonical := by
  unfold State.raiseOpen
  split
  · exact h.modGen
  · exact h

theorem State.Canonical.noticeJob {job} : (s.noticeJob job).Canonical := by
  unfold State.noticeJob
  dsimp only
  split
  · split
    · exact (h.modJob.ite h.modJob).modGen
    · exact h.modJob.ite h.modJob
  · refine .ite ?_ ?_
    · refine .raiseOpen ?_
      split
      · exact (h.modJob.ite h.modJob).modGen
      · exact h.modJob.ite h.modJob
    · refine .foldl ?_ fun _ _ h => h.startProvisional
      refine .raiseOpen ?_
      split
      · exact (h.modJob.ite h.modJob).modGen
      · exact h.modJob.ite h.modJob

theorem State.Canonical.noticeOf {f job} : (s.noticeOf f job).Canonical := by
  unfold State.noticeOf
  split
  · exact h
  · exact h.ite h.noticeJob

theorem State.Canonical.notice {f job} : (s.notice f job).Canonical := h.foldl fun _ _ h => h.noticeOf

theorem State.Canonical.completeCut {g c} : (s.completeCut g c).Canonical := (h.meet.ite h).endEntry

theorem State.Canonical.enterCut {e} : (s.enterCut e).Canonical := by
  unfold State.enterCut
  split
  · exact h
  · split
    · exact h
    · refine .foldl (.completeCut ?_) fun _ _ h => h.endpointRead
      refine .iteThen (.modGen ?_) fun h => h.foldl fun _ _ h => h.resume
      refine .foldl (.foldl ?_ fun _ _ h => h.queueTier1) fun _ _ h => h.belayHit
      refine .foldl ?_ fun _ _ h => h.sendRelease.ite h
      exact h.dropWork.modGen.modJob.countPrecopy.foldl fun _ _ h => h.modGen

theorem State.Canonical.awaitCut {e stage eps} : (s.awaitCut e stage eps).Canonical := h.modGen

theorem State.Canonical.markPoint {e} : (s.markPoint e).Canonical := h.modGen.modFn

theorem State.Canonical.armCut {e} : (s.armCut e).Canonical := by
  unfold State.armCut
  split
  · exact h
  · refine .ite (.enterCut (.iteElse ?_ (·.markPoint))) ?_
    all_goals exact h.awaitCut.foldl fun _ _ h => h.sendBatch

theorem State.Canonical.startCut {entry step g} : (s.startCut entry step g).Canonical :=
  (h.modGen.modAcc.awaitCut.foldl fun _ _ h => h.sendProto).ite h.modGen.modAcc.armCut

theorem State.Canonical.failCut {e status info} : (s.failCut e status info).Canonical := by
  unfold State.failCut
  split
  · exact h
  · split
    · exact h
    · exact (((((h.foldl fun _ _ h => h.disarm).resumeAll).dropWork).modGen).modJob).failEntry

theorem State.Canonical.cutTimeout {e} : (s.cutTimeout e).Canonical := by
  unfold State.cutTimeout
  split
  · exact h
  · exact h.failCut

theorem State.Canonical.takeArmed {ep e} : (s.takeArmed ep e).Canonical := by
  unfold State.takeArmed
  split
  · exact h
  · split
    · exact h
    · refine .ite h.modGen.modGen ?_
      split
      · exact h.modGen
      · exact h.modGen.sendBatch.ite (((h.modGen.modGen.iteElse (·.markPoint)).enterCut).ite h.modGen.modGen)

theorem State.Canonical.cutQuiesced {ep e} : (s.cutQuiesced ep e).Canonical := by
  unfold State.cutQuiesced
  split
  · exact h
  · split
    · exact h
    · exact h.ite (h.modEp.modGen.ite (h.modEp.modGen.markPoint.awaitCut.foldl fun _ _ h => h.sendProto))

theorem State.Canonical.mapComplete {g c ep count bs} : (s.mapComplete g c ep count bs).Canonical := by
  unfold State.mapComplete
  refine .ite (.failCut (.logFn ?_)) (.ite (.failCut ?_) ?_)
  · exact h.modAcc.meetOnce.ite (h.modAcc.iteThen (·.meetLong))
  · exact h.modAcc.meetOnce.ite (h.modAcc.iteThen (·.meetLong))
  · dsimp only
    split
    · exact (h.modAcc.meetOnce.ite (h.modAcc.iteThen (·.meetLong))).modGen
    · refine .ite (.modGen ?_) (.armCut (.modGen (.modGen ?_)))
      all_goals exact h.modAcc.meetOnce.ite (h.modAcc.iteThen (·.meetLong))

theorem State.Canonical.takeMap {ep count data last} : (s.takeMap ep count data last).Canonical := by
  unfold State.takeMap
  split
  · exact h
  · split
    · exact h
    · exact h.mapComplete.ite h.modGen

theorem State.Canonical.takeWatchHit {port ep e addr} : (s.takeWatchHit port ep e addr).Canonical := by
  unfold State.takeWatchHit
  split
  · exact h.bump.ite h.bump
  · split
    · exact h
    · dsimp only
      split
      · exact h.watchHit
      · exact h.watchHit.iteElse (·.modGen.sendBatch)

end

end Sys2Proof.Machine
end

section
/-! PROOFS. Rings, queues and the capture entries keep the forms. -/

namespace Sys2Proof.Machine

open Sys2Proof.Claims

-- Theorem after theorem: side by side, so many short ones take too many threads.
set_option Elab.async false

section
variable {s : State} (h : s.Canonical)
include h

/-! ### Rings and queues (R73 to R97) -/

theorem State.Canonical.haltBlock {bit} : (s.haltBlock bit).Canonical := by
  have hq : ({ s with sqs := FMap.mapV s.sqs fun _ q => if q.state = .running || q.state = .disabled then q.stop .halted else q } :
      State).Canonical := h.mapSqs (fun _ _ => Sq.inside_stopIf) fun _ _ => Sq.log2_stopIf
  exact .setFault ((hq.mapFns.foldl fun _ _ h => h.disarm).foldl fun _ _ h => h.abandon).frame

theorem State.Canonical.malformed {e offset reason} : (s.malformed e offset reason).Canonical := by
  unfold State.malformed
  split
  · exact h
  · exact ((h.haltBlock.ite h.haltFn).logFn).failEntry

theorem State.Canonical.cqWriteError {ring index} : (s.cqWriteError ring index).Canonical := by
  unfold State.cqWriteError
  split
  · exact h
  · next r hr =>
    have hin : r.Inside := h.cq_inside hr
    have hput : ({ s with cqs := FMap.put s.cqs ring { r with state := .halted } } : State).Canonical :=
      h.putCq (r := { r with state := .halted }) hin
    exact .ite hput.logFn.haltBlock hput.logFn.haltQueuesOf.modFn

theorem State.Canonical.sqDoorbell {f slot tail inv} : (s.sqDoorbell f slot tail inv).Canonical := by
  unfold State.sqDoorbell
  split
  · exact h
  · split
    · exact h
    · next n q hq =>
      have hmem : (n, q) ∈ s.sqs := List.mem_of_find?_eq_some hq
      refine .ite ?_ h
      split
      · exact h.bump
      · next ht =>
        refine .wake (h.putSq ?_ fun h0 => h.admin q (FMap.find_of_mem h.sqs (h0 ▸ hmem)))
        exact ⟨(h.queues _ hmem).1, Nat.lt_of_not_le ht⟩

theorem State.Canonical.cqDoorbell {f slot head} : (s.cqDoorbell f slot head).Canonical := by
  unfold State.cqDoorbell
  split
  · exact h
  · split
    · exact h
    · next n r hr =>
      have hmem : (n, r) ∈ s.cqs := List.mem_of_find?_eq_some hr
      split_ifs with hh hst
      · exact h.bump
      · refine .flushRing (.wake (h.putCq ?_))
        exact ⟨Nat.lt_of_not_le hh, (h.rings _ hmem).2⟩
      · exact h

/-- ASQ_CTRL's size changes and queue 0 starts empty with it. -/
theorem State.Canonical.asqReset {adm : Adm} : ({ s with adm := adm }.asqReset).Canonical := by
  have hempty := FMap.forall_modify (P := fun p => p.2.Inside) (n := 0) (f := fun q : Sq =>
    { q with head := 0, tail := 0, cache := [], base := adm.asqBase, log2 := adm.asqLog2 }) h.queues
    fun _ _ => Sq.inside_empty rfl rfl
  refine { h with sqs := FMap.sorted_modify _ _ _ h.sqs, queues := hempty, admin := fun x hx => ?_ }
  rw [State.asqReset, FMap.find_modify_self] at hx
  obtain ⟨q, _, rfl⟩ := Option.map_eq_some_iff.mp hx
  rfl

theorem State.Canonical.enableAsq {adm : Adm} (ha : adm.asqLog2 = s.adm.asqLog2) :
    ({ s with
      adm := adm
      sqs := FMap.modify s.sqs 0 fun q => { q with state := .running, base := s.adm.asqBase, log2 := s.adm.asqLog2 } } :
        State).Canonical := by
  have hs : ({ s with adm := adm } : State).Canonical := { h with admin := fun q hq => (h.admin q hq).trans ha.symm }
  unfold FMap.modify
  split
  · exact hs
  · next q hq =>
    refine hs.putSq ?_ fun _ => ha.symm
    have hin := h.sq_inside hq
    rw [Sq.Inside, h.admin q hq] at hin
    exact hin

theorem State.Canonical.writeAsqCtrl {v} : (s.writeAsqCtrl v).Canonical := by
  have hstop : ({ s with
      adm := { s.adm with asqEnable := false }
      sqs := FMap.modify s.sqs 0 fun q => if q.state = .running then q.stop .disabled else q } : State).Canonical :=
    (h.modSq (fun _ => Sq.inside_stopIf) fun _ => Sq.log2_stopIf).frame
  have hsize : ∀ (c : Prop) [Decidable c],
      (if c then { s with adm := { s.adm with asqLog2 := bits v 4 0 } }.asqReset else s).Canonical := fun _ _ => h.asqReset.ite h
  exact h.ite ((h.ite hstop).ite ((hsize _).ite (.ite (.wake ((hsize _).enableAsq rfl)) (hsize _).logBadAccess)))

theorem State.Canonical.writeAcqCtrl {v} : (s.writeAcqCtrl v).Canonical := by
  have hsize : ∀ (c : Prop) [Decidable c],
      (if c then { s with adm := { s.adm with acqLog2 := bits v 4 0 } } else s).Canonical := fun _ _ => h.frame.ite h
  refine h.ite ((h.ite h.frame).ite ((hsize _).ite (.ite ?_ (hsize _).logBadAccess)))
  exact .frame ((hsize _).putCq (n := 0) (Cq.inside_empty rfl rfl))

theorem State.Canonical.stopAcq : s.stopAcq.Canonical := (h.delCq (n := 0)).frame.ite h

/-- An entry is accepted: it takes the next number, and its queue is put with the head moved on. -/
theorem State.Canonical.addAcc {a : Acc} (ha : a.id = s.nextId) :
    ({ s with nextId := s.nextId + 1, accepted := s.accepted ++ [a] } : State).Canonical := by
  refine { h.next with entries := ?_, numbers := fun b hb => ?_ }
  · rw [List.map_append, List.nodup_append]
    refine ⟨h.entries, List.nodup_singleton _, fun n hn m hm => ?_⟩
    obtain ⟨b, hb, rfl⟩ := List.mem_map.mp hn
    rw [List.map_singleton, List.mem_singleton, ha] at hm
    exact hm ▸ (h.numbers b hb).ne
  · rcases List.mem_append.mp hb with hb | hb
    · exact h.next.numbers b hb
    · rw [List.mem_singleton.mp hb, ha]
      exact Nat.lt_succ_self _

theorem State.Canonical.accept {qid q e} (hq : q.Inside) (ha : qid = 0 → q.log2 = s.adm.asqLog2) :
    (s.accept qid q e).Canonical := by
  have hput : ∀ c : List HostRead, ({ s with
      sqs := FMap.put s.sqs qid { q with head := (q.head + 1) % ringSize q.log2, cache := c } } : State).Canonical :=
    fun c => h.putSq ⟨Nat.mod_lt _ (ringSize_pos _), hq.2⟩ ha
  unfold State.accept
  dsimp only
  refine .ite h ?_
  split
  · exact .malformed ((hput _).addAcc rfl)
  · split
    · exact .malformed ((hput _).addAcc rfl)
    · exact .bump (.frame ((hput _).addAcc rfl))

theorem State.Canonical.countTurn {qid} : (s.countTurn qid).Canonical := h.ite h.frame

theorem State.Canonical.acceptNext {qid q} (hq : q.Inside) (ha : qid = 0 → q.log2 = s.adm.asqLog2) :
    (s.acceptNext qid q).Canonical := by
  have hturn : ∀ t : State, t.adm = s.adm → qid = 0 → q.log2 = (t.countTurn qid).adm.asqLog2 := by
    intro t ht h0
    unfold State.countTurn
    split
    · exact ht ▸ ha h0
    · exact ht ▸ ha h0
  unfold State.acceptNext
  split
  · exact h
  · have hw : ∀ (c : Prop) [Decidable c], (if c then s.wake else s).Canonical := fun _ _ => h.wake.ite h
    exact .ite ((hw _).countTurn.accept hq (hturn _ (s.adm_wakeIf _))) (hw _)

theorem State.Canonical.fetchAccept {qid fetched} : (s.fetchAccept qid fetched).Canonical := by
  unfold State.fetchAccept
  refine .ite h ?_
  split
  · exact h
  · next q hfind =>
    have hq : q.Inside := h.sq_inside hfind
    have hfetch : ∀ n reads, (State.acceptNext qid (q.fetch reads)
        { s.readRing q n with sqs := FMap.put (s.readRing q n).sqs qid (q.fetch reads) }).Canonical := by
      intro n reads
      rw [State.readRing_eq]
      have hin : (q.fetch reads).Inside := hq
      refine State.Canonical.acceptNext (State.Canonical.frame (h.putSq hin ?_)) hin ?_
      all_goals exact fun h0 => h.admin q (h0 ▸ hfind)
    exact .ite h (hfetch _ _)

theorem State.Canonical.orRefuse {e r f} (hf : ∀ t : State, t.Canonical → (f t).Canonical) :
    (s.orRefuse e r f).Canonical := by
  unfold State.orRefuse
  split
  · exact h.failEntry
  · exact hf s h

theorem State.Canonical.runQueueCreate {a f} : (s.runQueueCreate a f).Canonical := by
  unfold State.runQueueCreate
  refine .ite (h.orRefuse fun t ht => .endEntry (ht.modSq ?_ ?_)) ?_
  · exact fun _ hq => hq
  · exact fun _ => rfl
  · unfold State.orRefuse
    split
    · exact h.failEntry
    · next hno =>
      refine .ite (.endEntry (.zeroCtr (h.putCq (Cq.inside_empty ?_ ?_))))
        (.endEntry (.zeroCtr (h.putSq (Sq.inside_empty ?_ ?_) fun h0 => ?_)))
      · rfl
      · rfl
      · rfl
      · rfl
      · exact absurd h0 (State.createRefusal_qid hno)

theorem State.Canonical.dropRing {e qid} : (s.dropRing e qid).Canonical := by
  unfold State.dropRing
  split
  · exact h.ite h.delCq.endEntry
  · exact h.endEntry

theorem State.Canonical.runQueueDestroy {a qid ring disable} :
    (s.runQueueDestroy a qid ring disable).Canonical := by
  refine h.orRefuse fun t h => .ite h.modAcc.dropRing (.modAcc (h.modSq ?_ ?_))
  · exact fun _ hq => hq
  · exact fun _ => rfl

theorem State.Canonical.settleDestroy {a} : (s.settleDestroy a).Canonical := by
  unfold State.settleDestroy
  split
  · exact .ite (.endEntry (h.ite h.delSq)) h
  · exact h.dropRing.ite h
  · exact h

theorem State.Canonical.orphanMissed : s.orphanMissed.Canonical := h.foldl fun _ _ h => h.orphan

theorem State.Canonical.settleNotice {a status} : (s.settleNotice a status).Canonical := by
  unfold State.settleNotice
  split
  · split
    · exact h
    · exact h.ite (h.modJob.ite (h.modJob.raiseOpen.ite h.modJob))
  · exact h

/-- Entries leave the accepted ones. -/
theorem State.Canonical.filterAcc {p : Acc → Bool} :
    ({ s with accepted := s.accepted.filter p } : State).Canonical :=
  { h with
    entries := h.entries.sublist (List.filter_sublist.map _)
    numbers := fun a ha => h.numbers a (List.mem_of_mem_filter ha) }

theorem State.Canonical.complete {a} : (s.complete a).Canonical := by
  have hend : ∀ (l : List Cond) (status : Nat), (({ l.foldl (fun s c => s.logFn 0x0202 a.fn [a.hdr.tag, a.sq, c.status, c.info]) s with
      accepted := (l.foldl (fun s c => s.logFn 0x0202 a.fn [a.hdr.tag, a.sq, c.status, c.info]) s).accepted.filter (·.id != a.id) } :
      State).settleNotice a status).Canonical := fun _ _ => ((h.foldl fun _ _ h => h.logFn).filterAcc).settleNotice
  have hwrite : ∀ t : State, t.Canonical → ∀ c : Completion, (match FMap.find t.sqs a.sq with
      | some q => t.writeCompletion q.cq c
      | none => t).Canonical := by
    intro t ht c
    split
    · exact ht.writeCompletion
    · exact ht
  exact .ite (.orphanMissed (.ite (hend _ _).countDone (hwrite _ (hend _ _) _))) (.ite (hend _ _).countDone (hwrite _ (hend _ _) _))

theorem State.Canonical.signalEnd {a} : (s.signalEnd a).Canonical := h.entrySignal

/-! ### GEN_OPEN, PROTECT, STAMP and CUT -/

theorem State.Canonical.bindJob {job fn} : (s.bindJob job fn).Canonical := by
  unfold State.bindJob
  refine .ite h ?_
  dsimp only
  split
  · exact h.zeroCtr.putJob
  · exact h.putJob

theorem State.Canonical.runGenOpen {a f list input} : (s.runGenOpen a f list input).Canonical := by
  unfold State.runGenOpen
  dsimp only
  split
  · exact h.malformed
  · split
    · exact (h.logFn.ite h).failEntry
    · exact ((h.bindJob.frame.iteThen (·.raiseOpen)).watchAll).endEntry

theorem State.Canonical.supply {a g gr slot} : (s.supply a g gr slot).Canonical := by
  have hrel : (match slot.2.1 with | some r => s.release r.epoch | none => s).Canonical := by
    split
    · exact h.release
    · exact h
  exact .modAcc (.modGen (.ite (.startScrub hrel.frame) hrel.frame))

theorem State.Canonical.runProtect {a f list} : (s.runProtect a f list).Canonical := by
  unfold State.runProtect
  refine .ite h.malformed ?_
  refine .ite h.malformed ?_
  refine h.orRefuse fun _ h => ?_
  split
  · exact h
  · dsimp only
    split
    · refine h.orRefuse fun _ h => ?_
      split
      · exact h.supply
      · exact h
    · exact h.orRefuse (fun _ h => h.meetPoison.endEntry.ite h.modAcc)

theorem State.Canonical.putStamp {a f blob} : (s.putStamp a f blob).Canonical := by
  unfold State.putStamp
  split
  · exact h.failEntry
  · exact h.modGen.endEntry.advance

theorem State.Canonical.runStamp {a f} : (s.runStamp a f).Canonical := h.orRefuse (fun _ h => h.putStamp.ite h.modAcc.queueXfer)

theorem State.Canonical.runCut {a job step} : (s.runCut a job step).Canonical := by
  unfold State.runCut
  refine h.orRefuse fun _ h => ?_
  split
  · exact h
  · refine .ite h.modJob.failEntry ?_
    refine h.orRefuse fun _ h => ?_
    refine .ite h.modJob.stepMark.endEntry ?_
    refine .ite ?_ h.modJob.startCut
    refine .endEntry (.stepMark ?_)
    split
    · exact h.modJob.modJob.bump
    · exact h.modJob.modJob

/-! ### Sealed objects -/

theorem State.Canonical.sealed {slot} : (s.sealed slot).Canonical :=
  { h with keys := FMap.sorted_modify _ _ _ h.keys }

end

end Sys2Proof.Machine
end

section
/-! PROOFS. Sheets, the passing of time and digests keep the forms. -/

namespace Sys2Proof.Machine

open Sys2Proof.Claims

-- Theorem after theorem: side by side, so many short ones take too many threads.
set_option Elab.async false

section
variable {s : State} (h : s.Canonical)
include h

/-! ### Sheets (R244 to R276) -/

theorem State.Canonical.modSheet {n f} : (s.modSheet n f).Canonical := h.frame

theorem State.Canonical.hdrAnswered {port} : (s.hdrAnswered port).Canonical := h.count.modLink.ite h.countBytes

theorem State.Canonical.readHeader {fn v} : (s.readHeader fn v).Canonical := by
  unfold State.readHeader
  split
  · exact h.readStruct
  · split
    · exact h
    · exact h.next.sendAt.hdrAnswered
  · exact h.ite (h.foldl fun _ _ h => h.emit.countBytes)

theorem State.Canonical.failHeader {a c} : (s.failHeader a c).Canonical := (h.uncEvent.ite h).failEntry

theorem State.Canonical.readArm {a f r} : (s.readArm a f r).Canonical := h.readStruct.iteElse (fun h => h.foldl fun _ _ h => h.readHeader)

theorem State.Canonical.readRearm {a n base dimBlock r} : (s.readRearm a n base dimBlock r).Canonical := by
  unfold State.readRearm
  split
  · exact h
  · exact (h.ite h.readStruct).foldl fun _ _ h => h.readHeader

theorem State.Canonical.runSheetArm {a f r} : (s.runSheetArm a f r).Canonical := by
  unfold State.runSheetArm
  dsimp only
  split
  · exact h.malformed
  · exact h.failEntry
  · exact h.failHeader
  · exact h.malformed
  · exact h.orRefuse (fun _ h => h.bindCleat.frame.zeroCtr.modAcc)

theorem State.Canonical.beginArming {n x} : (s.beginArming n x).Canonical := by
  unfold State.beginArming
  refine .modSheet ?_
  split
  · exact h.ite h.bindCleat
  · exact h

theorem State.Canonical.runSheetRearm {a n base dimBlock r} : (s.runSheetRearm a n base dimBlock r).Canonical := by
  unfold State.runSheetRearm
  split
  · exact h.failEntry
  · refine .ite h.failEntry ?_
    refine .ite h.failEntry ?_
    dsimp only
    split
    · exact h.malformed
    · exact h.failEntry
    · exact h.failHeader
    · exact h.malformed
    · exact h.orRefuse (fun _ h => h.endEntry.ite (h.beginArming.endEntry.ite h.modSheet.endEntry))

theorem State.Canonical.stopSheet {n atOnce} : (s.stopSheet n atOnce).Canonical := h.modSheet

theorem State.Canonical.runSheetStop {a n atOnce} : (s.runSheetStop a n atOnce).Canonical := by
  unfold State.runSheetStop
  split
  · exact h.failEntry
  · exact h.orRefuse (fun _ h => h.stopSheet.modSheet.modAcc)

theorem State.Canonical.settleSheets : s.settleSheets.Canonical := by
  unfold State.settleSheets
  refine .foldl h fun s a h => ?_
  refine .ite ?_ h
  refine .report ?_
  split
  · exact h.frame.endEntry.modAcc.endEntry
  · exact h.frame.endEntry

theorem State.Canonical.tackleRead {mast gen l} : (s.tackleRead mast gen l).2.Canonical := by
  unfold State.tackleRead
  split
  · exact h
  · next t _ =>
    have ht : ({ s with
        nextId := s.nextId + 1
        tackle := s.tackle.map fun x => if x = t then { x with used := s.nextId } else x } : State).Canonical := h.next.frame
    split
    · exact ht.countBytes
    · split
      · exact ht.countBytes
      · exact ht.countBytes.bump
      · exact h.frame.bump

theorem State.Canonical.tackleEnter {mast gen l bs} : (s.tackleEnter mast gen l bs).Canonical :=
  h.ite (h.takeFlip (target := 1) (unit := mast)).next.frame

theorem State.Canonical.issueLine {x i} : (s.issueLine x i).Canonical := by
  unfold State.issueLine
  split
  · exact h
  · split
    · exact h
    · split
      · split
        · exact h.modXfer.readPart
        · exact h
      · exact h.readPart.ite h

theorem State.Canonical.fetchLines {n x} : (s.fetchLines n x).2.Canonical := by
  unfold State.fetchLines
  split
  · split
    · refine .foldlSnd h fun acc l hs => ?_
      dsimp only
      split
      · next e => exact (hs.tackleRead.snd e).modXfer.putBytes.countBytes
      · next e => exact (hs.tackleRead.snd e).modXfer.countBytes.issueLine
    · exact h
  · exact h

theorem State.Canonical.sheetCond {n slot status info} : (s.sheetCond n slot status info).Canonical := by
  unfold State.sheetCond
  split
  · exact h
  · exact (h.meetNew.ite h.meet).logFn

theorem State.Canonical.enterLines {n x} : (s.enterLines n x).Canonical := by
  unfold State.enterLines
  split
  · exact h.foldl fun _ _ h => h.ite h.tackleEnter
  · exact h

theorem State.Canonical.rereadLines {n x} : (s.rereadLines n x).Canonical := by
  unfold State.rereadLines
  split
  · exact h
  · exact h.modXfer.count.countBytes.foldl fun _ _ h => h.issueLine

theorem State.Canonical.meetAt {x q status info} : (s.meetAt x q status info).Canonical := by
  unfold State.meetAt
  split
  · exact h.sheetCond
  · exact h.sheetCond
  · split
    · exact h.meet
    · exact h

theorem State.Canonical.uncorrectable {x q mem cause unit word n} : (s.uncorrectable x q mem cause unit word n).Canonical := by
  unfold State.uncorrectable
  dsimp only
  split
  · exact h.uncEvent.meetAt.ite h.uncEvent.meet
  · exact h.uncEvent

/-- A last value below 2^48 fits every class of counters. -/
theorem State.Canonical.last {id v : Nat} (hv : v < 2 ^ 48) :
    ({ s with ctr := s.ctr.last id v } : State).Canonical := h.setCtr (ctrFits_of_lt hv) rfl

theorem State.Canonical.readFlip {x q m} : (s.readFlip x q m).2.Canonical := by
  unfold State.readFlip
  dsimp only
  split
  · exact h.frame
  · next hc =>
    have hword : Config.eccWord s.free % 131072 < 2 ^ 48 := (Nat.mod_lt _ (by decide)).trans (by decide)
    have hbump : ({ s with free := s.free + 1 }.bump (ctrId 2 x.yard 1)).Canonical := h.frame.bump
    exact (hbump.last hword).last (eccRead_syndrome_lt hc)
  · exact h.frame.uncorrectable

theorem State.Canonical.readDsts {x} : (s.readDsts x).Canonical := h.foldl fun _ _ h => h.readFlip

theorem State.Canonical.recordCond {n v c} : (s.recordCond n v c).Canonical :=
  h.sheetCond.bump.ite (h.sheetCond.bump.ite (h.sheetCond.iteThen (·.bump)))

theorem State.Canonical.sheetPoison {n v pieces} : (s.sheetPoison n v pieces).Canonical := h.meetPoison.foldl fun _ _ h => h.logFn

theorem State.Canonical.produceUnit {n x u} : (s.produceUnit n x u).Canonical := by
  unfold State.produceUnit
  split
  · exact ((((((h.foldl fun _ _ h => h.recordCond).sheetPoison).iteThen (·.bump)).count).takeFlip).modSheet).modXfer
  · exact h

theorem State.Canonical.slotFailed {n info} : (s.slotFailed n info).Canonical := by
  unfold State.slotFailed
  split
  · exact h
  · exact h.ite ((h.meet.foldl fun _ _ h => h.dropXfer).modSheet)

theorem State.Canonical.writeSlots {t} : (s.writeSlots t).Canonical := h.foldl fun _ _ h => h.writePart

theorem State.Canonical.writeUnit {n x} : (s.writeUnit n x).Canonical := by
  unfold State.writeUnit
  split
  · split
    · exact h.slotFailed.dropXfer.ite (h.ite h.readDsts.modXfer.modSheet.writeSlots.countBytes)
    · exact h
  · exact h

theorem State.Canonical.startUnit {n v lane} : (s.startUnit n v lane).Canonical := by
  have hstart : ∀ x : Xfer, ({ s with nextId := s.nextId + 1, xfers := FMap.put s.xfers s.nextId x } : State).Canonical :=
    fun _ => h.next.frame
  exact ((hstart _).modSheet.ite (hstart _).modSheet.modFn).ungate.bump.fetchLines

theorem State.Canonical.slotSignalled {n} : (s.slotSignalled n).Canonical := h.modSheet.count.takeUnits

theorem State.Canonical.holdTail {n v p} : (s.holdTail n v p).Canonical := h.ite h.next.frame

theorem State.Canonical.sendTail {n v port p} : (s.sendTail n v port p).Canonical := by
  unfold State.sendTail
  dsimp only
  split
  · exact h.holdTail.readDsts.modXfer.startWrites
  · exact h.holdTail

theorem State.Canonical.signalSlot {n} : (s.signalSlot n).2.Canonical := by
  unfold State.signalSlot
  dsimp only
  split
  · exact h
  · split
    · exact h
    · split
      · split
        · split
          · next e => exact (h.applySignal.snd e).slotSignalled
          · next e => exact ((h.applySignal.snd e).meet).slotSignalled
        · exact h
      · split
        · split
          · exact h.slotFailed
          · split
            · exact h.sendTail.slotSignalled
            · exact h.holdTail
            · exact h
        · exact h

theorem State.Canonical.signalSlots {n f : Nat} : (State.signalSlots n f s).Canonical := by
  induction f generalizing s with
  | zero => exact h
  | succ f ih =>
    rw [State.signalSlots]
    split
    · next e => exact ih (h.signalSlot.snd e)
    · next e => exact h.signalSlot.snd e

theorem State.Canonical.unitDone {x n u} : (s.unitDone x n u).Canonical := h.dropXfer.modSheet

theorem State.Canonical.armingEnd {n} : (s.armingEnd n).Canonical := by
  unfold State.armingEnd
  split
  · exact h
  · refine .ite h ?_
    split
    · exact h.beginArming
    · exact h.beginArming.ite h.modSheet

/-! ### Ticks and lane cycles -/

theorem State.Canonical.countShort {n} : (s.countShort n).Canonical := h.frame

theorem State.Canonical.laneCycles {n} : (s.laneCycles n).Canonical := by
  have hbusy : (s.busy.foldl (fun s i => s.count i n) (s.count (ctrId 0 0 0) n)).Canonical := h.count.foldl fun _ _ h => h.count
  exact (((hbusy.foldl fun _ _ h => h.count).foldl fun _ _ h => h.count).countShort.mapFns).frame

theorem State.Canonical.flitsTaken {d n p} : (s.flitsTaken d n p).Canonical := h.ite h.count.modLink

theorem State.Canonical.openCounts {n} : (s.openCounts n).Canonical := (h.foldl fun _ _ h => h.flitsTaken).foldl fun _ _ h => h.count

theorem State.Canonical.ticks {n} : (s.ticks n).Canonical := by
  have hdues : (s.pen.advance n).dues = s.pen.dues := by
    unfold Pen.advance
    split <;> rfl
  have hpen : ({ s with pen := s.pen.advance n } : State).Canonical := { h with dues := hdues ▸ h.dues }
  have hfree : ∀ t : State, t.Canonical → ({ t with free := t.free + 1 } : State).Canonical := fun _ ht => ht.frame
  exact .ite (hfree _ hpen.openCounts.laneCycles) hpen

theorem State.Canonical.expire {t} : (s.expire t).Canonical := h.ticks.ite h

/-! ### Digests (R311 to R314) -/

theorem State.Canonical.putCtx {c x} : (s.putCtx c x).Canonical := h.frame

theorem State.Canonical.freeCtxs {f} : (s.freeCtxs f).Canonical := h.frame

theorem State.Canonical.digestTaken {a f data} : (s.digestTaken a f data).Canonical := by
  unfold State.digestTaken
  refine .ite h.putCtx.endEntry ?_
  split
  · exact h.failEntry
  · exact h.modAcc.putCtx.endEntry.ite h.modAcc.putCtx.queueXfer

theorem State.Canonical.restartCtx {f} : (s.restartCtx f).Canonical := by
  unfold State.restartCtx
  split
  · exact h.ite h.putCtx
  · exact h

theorem State.Canonical.runDigest {a f} : (s.runDigest a f).Canonical := by
  refine h.orRefuse fun _ h => .ite h (h.orRefuse fun _ h => ?_)
  exact h.restartCtx.modAcc.digestTaken.ite (h.restartCtx.modAcc.foldl fun _ _ h => h.queueXfer)

end

end Sys2Proof.Machine
end

section
/-! PROOFS. Draining, RESTORE and the engines of a Yard keep the forms. -/

namespace Sys2Proof.Machine

open Sys2Proof.Claims

-- Theorem after theorem: side by side, so many short ones take too many threads.
set_option Elab.async false

section
variable {s : State} (h : s.Canonical)
include h

/-! ### Draining (R163 to R168) -/

theorem State.Canonical.loseStay {e i} : (s.loseStay e i).Canonical := by
  unfold State.loseStay
  split
  · exact h
  · exact h.ite h.modGen.noteChange

theorem State.Canonical.loseTier2 {e r} : (s.loseTier2 e r).Canonical := by
  unfold State.loseTier2
  split
  · exact h
  · exact h.ite h.modGen.noteChange

theorem State.Canonical.loseBuddy {ep} : (s.loseBuddy ep).Canonical := h.foldl fun _ _ h => h.foldl fun _ _ h => h.loseStay

theorem State.Canonical.runDrain {a f} : (s.runDrain a f).Canonical := by
  unfold State.runDrain
  refine h.orRefuse fun _ h => ?_
  split
  · exact h
  · exact h.modGen.modAcc

theorem State.Canonical.endDrain {a status info} : (s.endDrain a status info).Canonical := by
  unfold State.endDrain
  split
  · exact h
  · exact h.dropWork.modGen.failEntry

theorem State.Canonical.sealFor {a slot i text use}
    (hu : ∀ (b : List Byte) (t : State), t.Canonical → (use b t).Canonical) : (s.sealFor a slot i text use).Canonical := by
  unfold State.sealFor
  split
  · exact h.endDrain
  · exact h.endDrain.ite (hu _ _ h.sealed)

theorem State.Canonical.queueDrainSeg {a g i n} : (s.queueDrainSeg a g i n).Canonical := h.endDrain.ite h.queueXfer

theorem State.Canonical.startDrain {e} : (s.startDrain e).Canonical := by
  unfold State.startDrain
  split
  · exact h
  · split
    · exact h
    · split
      · exact h
      · split
        · exact h.endDrain
        · exact h.modGen.modAcc.queueXfer.foldl fun _ _ h => h.foldl fun _ _ h => h.queueDrainSeg.ite h

theorem State.Canonical.drainLoaded {x a n i seg how} : (s.drainLoaded x a n i seg how).Canonical := by
  unfold State.drainLoaded
  split
  · exact (h.meetPoison.countBytes.countBytes.iteThen (·.bump)).modXfer
  · exact h

theorem State.Canonical.drainReadFailed {x a i seg how part} : (s.drainReadFailed x a i seg how part).Canonical := by
  unfold State.drainReadFailed
  split
  · exact h
  · dsimp only
    split
    · exact ((h.loseStay.ite (h.loseStay.ite h.loseTier2)).dropXfer).queueDrainSeg
    · exact (h.loseStay.ite (h.loseStay.ite h.loseTier2)).dropXfer

theorem State.Canonical.replanSeg {g x} : (s.replanSeg g x).Canonical := by
  unfold State.replanSeg
  split
  · exact h.ite h.dropXfer.queueDrainSeg
  · exact h

theorem State.Canonical.replanDrain {e} : (s.replanDrain e).Canonical := by
  unfold State.replanDrain
  refine .foldl h fun s a h => ?_
  split
  · exact h.replanSeg
  · exact h

theorem State.Canonical.drainStep {e} : (s.drainStep e).Canonical := by
  unfold State.drainStep
  split
  · exact h
  · split
    · exact h.ite h.queueXfer
    · exact h

theorem State.Canonical.drainRecorded {a} : (s.drainRecorded a).Canonical := by
  unfold State.drainRecorded
  split
  · exact h
  · exact h.modGen.startRecord

theorem State.Canonical.drainDone {e} : (s.drainDone e).Canonical := by
  unfold State.drainDone
  split
  · exact h
  · split
    · exact h.modGen.endEntry.report.ite h
    · exact h

theorem State.Canonical.settleDrains : s.settleDrains.Canonical := by
  unfold State.settleDrains
  refine .foldl h fun s a h => ?_
  split
  · exact h
  · exact h.ite (h.drainDone.ite (h.startDrain.ite h.replanDrain.drainStep))

theorem State.Canonical.startParity {e} : (s.startParity e).Canonical := by
  unfold State.startParity
  split
  · exact h
  · exact h.foldl fun _ _ h => h.foldl fun _ _ h => h.queueXfer

theorem State.Canonical.stripeLoaded {x e} : (s.stripeLoaded x e).Canonical := by
  unfold State.stripeLoaded
  split
  · exact h
  · exact h.modXfer

theorem State.Canonical.stripeDone {e r j} : (s.stripeDone e r j).Canonical := h.modGen.advance

theorem State.Canonical.settleParity : s.settleParity.Canonical := h.foldl fun _ _ h => h.startParity.ite h

/-! ### RESTORE and RESTORE_SPARE -/

theorem State.Canonical.modRest {e f} : (s.modRest e f).Canonical := h.frame

theorem State.Canonical.queueRest {e g member tier a len inType outType dst scaleDst} :
    (s.queueRest e g member tier a len inType outType dst scaleDst).Canonical :=
  h.ite h.queueXfer

theorem State.Canonical.queueGather {e g tier x} : (s.queueGather e g tier x).Canonical :=
  h.foldl fun _ _ h => h.foldl fun _ _ h => h.queueRest

theorem State.Canonical.queueRegion {e g tier ri dst} : (s.queueRegion e g tier ri dst).Canonical := by
  unfold State.queueRegion
  split
  · exact h
  · exact h.foldl fun _ _ h => h.queueRest

theorem State.Canonical.queueMembers {e ms} : (s.queueMembers e ms).Canonical := by
  unfold State.queueMembers
  split
  · exact h
  · split
    · exact h
    · dsimp only
      split
      · exact h.foldl fun _ _ h => h.foldl fun _ _ h => h.queueRegion
      · refine .foldl (h.foldl fun _ _ h => h.queueGather.ite h) fun s a h => ?_
        split
        · exact h.queueRegion.ite h
        · exact h

theorem State.Canonical.queueCheck {e} : (s.queueCheck e).Canonical := by
  unfold State.queueCheck
  split
  · exact h
  · split
    · exact h
    · exact h.queueXfer.ite h

theorem State.Canonical.putChoice {e g src} : (s.putChoice e g src).Canonical := by
  unfold State.putChoice
  dsimp only
  split
  · exact h.modRest.modAcc.meet
  · exact h.modRest.modAcc

theorem State.Canonical.quiesceDests {e} : (s.quiesceDests e).Canonical := by
  unfold State.quiesceDests
  split
  · exact h
  · split
    · exact h
    · exact h.ite ((h.ite h.modRest).foldl fun _ _ h => h.sendProto)

theorem State.Canonical.startRest {r g src} : (s.startRest r g src).Canonical :=
  h.frame.modAcc.modJob.putChoice.quiesceDests.queueCheck.queueMembers

theorem State.Canonical.groupLost {e f ep} : (s.groupLost e f ep).Canonical := h.haltFn.failEntry

theorem State.Canonical.beginRestore {a f map waited} : (s.beginRestore a f map waited).Canonical := by
  unfold State.beginRestore
  refine .ite ((h.readStruct.ite h).malformed) ?_
  refine .ite ((h.readStruct.ite h).malformed) ?_
  refine (h.readStruct.ite h).orRefuse fun _ h => ?_
  refine h.orRefuse fun _ h => ?_
  split
  · exact h.failEntry
  · exact h.abandonLoose.startRest

theorem State.Canonical.beginSpare {a job lost spare} : (s.beginSpare a job lost spare).Canonical := by
  unfold State.beginSpare
  dsimp only
  split
  · exact h.abandonLoose.groupLost
  · exact h.abandonLoose.startRest

theorem State.Canonical.queueRestore {a job} : (s.queueRestore a job).Canonical := h.modAcc.modJob

theorem State.Canonical.runRestore {a f map} : (s.runRestore a f map).Canonical :=
  (h.orRefuse (fun _ h => h.queueRestore)).ite h.beginRestore

theorem State.Canonical.dropRest {e} : (s.dropRest e).Canonical := by
  unfold State.dropRest
  split
  · exact h
  · exact (((h.dropWork.foldl fun _ _ h => h.resume).frame).modJob).cleanJob

theorem State.Canonical.rechoose {e groups} : (s.rechoose e groups).Canonical := by
  unfold State.rechoose
  split
  · exact h
  · split
    · exact h.dropRest.groupLost.ite h.dropRest.failEntry
    · exact h.dropWork.modRest.putChoice.quiesceDests.queueCheck.queueMembers

theorem State.Canonical.restReadFailed {x e member hows part} : (s.restReadFailed x e member hows part).Canonical := by
  unfold State.restReadFailed
  split
  · split
    · exact h
    · exact (h.dropXfer.loseStay.ite ((h.dropXfer.loseStay.ite h.dropXfer.loseTier2).ite h.dropXfer.modRest)).rechoose
  · exact h

theorem State.Canonical.stopWrites {ep x} : (s.stopWrites ep x).Canonical :=
  h.ite (h.dropXfer.ite h.filterFreqs.modXfer)

theorem State.Canonical.stopDest {e ep} : (s.stopDest e ep).Canonical := by
  unfold State.stopDest
  split
  · exact h
  · exact (h.foldl fun _ _ h => h.stopWrites).modRest

theorem State.Canonical.restWriteFailed {e ep info} : (s.restWriteFailed e ep info).Canonical := by
  unfold State.restWriteFailed
  split
  · exact h
  · exact h.ite h.meetOnce.stopDest

theorem State.Canonical.restDetached {ep} : (s.restDetached ep).Canonical := h.foldl fun _ _ h => h.restWriteFailed.ite h

theorem State.Canonical.runRestoreSpare {a job lost spare} : (s.runRestoreSpare a job lost spare).Canonical := by
  unfold State.runRestoreSpare
  refine h.orRefuse fun _ h => ?_
  refine .ite ((((h.frame.ite h).loseBuddy).abandonLoose).beginSpare) ?_
  refine .foldl ((((h.frame.ite h).loseBuddy).abandonLoose).queueRestore) fun s a h => ?_
  dsimp only
  split
  · exact h.stopDest.rechoose
  · exact h.stopDest

theorem State.Canonical.startQueued {e map} : (s.startQueued e map).Canonical := by
  unfold State.startQueued
  split
  · exact h
  · refine .ite h ?_
    dsimp only
    split
    · exact (h.modAcc.beginRestore.iteElse (·.modJob.cleanJob)).ite h
    · exact (h.modAcc.beginSpare.iteElse (·.modJob.cleanJob)).ite h
    · exact h

theorem State.Canonical.restLoaded {x e member hows} : (s.restLoaded x e member hows).Canonical := by
  unfold State.restLoaded
  split
  · exact h
  · split
    · exact h
    · dsimp only
      split
      · exact (((h.foldl fun _ _ h => h.meet.bump.ite (h.meet.iteThen (·.bump))).iteThen (·.meet)).count).restReadFailed
      · exact (((h.foldl fun _ _ h => h.meet.bump.ite (h.meet.iteThen (·.bump))).iteThen (·.meet)).count).modXfer

theorem State.Canonical.checkLoaded {x e failed} : (s.checkLoaded x e failed).Canonical := by
  unfold State.checkLoaded
  split
  · exact h.dropXfer
  · split
    · exact h.dropXfer
    · exact h.dropXfer.modRest.queueMembers.ite h.dropXfer.modRest.rechoose

theorem State.Canonical.restDone {e member hows} : (s.restDone e member hows).Canonical := h.modRest

theorem State.Canonical.reloadDone {r} : (s.reloadDone r).Canonical := by
  unfold State.reloadDone
  split
  · exact h
  · exact h.ite (h.foldl fun _ _ h => h.resume.modRest)

theorem State.Canonical.restQuiesced {ep epoch} : (s.restQuiesced ep epoch).Canonical := by
  unfold State.restQuiesced
  split
  · exact h
  · exact h.modEp.modRest

theorem State.Canonical.restTimeout {e} : (s.restTimeout e).Canonical := by
  unfold State.restTimeout
  split
  · exact h
  · split
    · exact h
    · exact h.dropRest.failEntry

theorem State.Canonical.countRestored {e n} : (s.countRestored e n).Canonical := h.modAcc.ite h.meetPoison

theorem State.Canonical.finishRest {r} : (s.finishRest r).Canonical := by
  unfold State.finishRest
  split
  · refine .modRest (.iteElse (.countRestored ?_) fun h => h.foldl fun _ _ h => h.modGen.noteChange)
    refine .foldl (.foldl ?_ fun _ _ h => h.logFn) fun _ _ h => h.meet
    exact h.foldl fun _ _ h => h.logFn
  · exact h

theorem State.Canonical.endRest {r} : (s.endRest r).Canonical := by
  unfold State.endRest
  refine .ite h ?_
  refine .endEntry (.dropRest ?_)
  split
  · exact h.modJob
  · exact h

theorem State.Canonical.settleRests : s.settleRests.Canonical := by
  unfold State.settleRests
  refine .foldl h fun s a h => ?_
  dsimp only
  split
  · exact h.reloadDone.endRest.ite (h.reloadDone.iteElse (·.finishRest))
  · exact h.reloadDone

/-! ### The shared engines of a Yard -/

theorem State.Canonical.enterStages {id} : (s.enterStages id).Canonical := by
  unfold State.enterStages
  split
  · exact h.modXfer
  · exact h

theorem State.Canonical.modArb {y f} : (s.modArb y f).Canonical := h.frame

theorem State.Canonical.unitDispatched {y waiting c} : (s.unitDispatched y waiting c).Canonical := h.modArb

theorem State.Canonical.putSealed {id bs} : (s.putSealed id bs).Canonical := h.modXfer.storeOut

theorem State.Canonical.takeSeal {x} : (s.takeSeal x).Canonical := by
  unfold State.takeSeal
  split
  · split
    · exact h.sealFor (fun _ _ h => h.putSealed)
    · exact h
  · split
    · refine .ite h ?_
      split
      · exact h.endDrain
      · exact h.endDrain.ite h.sealed.frame
    · exact h
  · split
    · split
      · split
        · exact h.endDrain
        · exact h.endDrain.ite h.sealed.putSealed
      · exact h
    · exact h
  · exact h

theorem State.Canonical.takePipe {x objs} : (s.takePipe x objs).Canonical := h.takeSeal.modXfer

theorem State.Canonical.grantPipes {y n : Nat} : (State.grantPipes y n s).Canonical := by
  induction n generalizing s with
  | zero => exact h
  | succ n ih =>
    rw [State.grantPipes]
    refine .ite h ?_
    dsimp only
    split
    · split
      · exact ih h.modArb.takePipe
      · exact h
    · exact h

theorem State.Canonical.grantUnit {y} : (s.grantUnit y).Canonical := by
  unfold State.grantUnit
  refine .ite h ?_
  dsimp only
  split
  · exact h.unitDispatched.modXfer
  · exact h

theorem State.Canonical.manifestOn {id n : Nat} : (State.manifestOn id n s).Canonical := by
  induction n generalizing s with
  | zero => exact h
  | succ n ih =>
    rw [State.manifestOn]
    split
    · split
      · exact h.ite (h.frame.putSealed.modXfer.ite (h.frame.modXfer.ite (ih h.frame.modXfer)))
      · exact h
    · exact h

theorem State.Canonical.stageEnds {id} : (s.stageEnds id).Canonical := by
  unfold State.stageEnds
  split
  · exact h
  · split
    · exact h.manifestOn
    · exact h.ite h.modXfer
    · exact h.ite h.modXfer
    · exact h

theorem State.Canonical.settleStages : s.settleStages.Canonical :=
  (h.frame.foldl fun _ _ h => h.stageEnds).foldl fun _ _ h => h.grantPipes.grantUnit

end

end Sys2Proof.Machine
end

section
/-! PROOFS. What the ports answer, transfers and dispatch keep the forms. -/

namespace Sys2Proof.Machine

open Sys2Proof.Claims

-- Theorem after theorem: side by side, so many short ones take too many threads.
set_option Elab.async false

section
variable {s : State} (h : s.Canonical)
include h

/-! ### Answers at the ports and the course of transfers -/

theorem State.Canonical.xferMeet {x i status info} : (s.xferMeet x i status info).Canonical := h.meetAt

theorem State.Canonical.poisonFound {x poisoned} : (s.poisonFound x poisoned).Canonical := by
  unfold State.poisonFound
  refine .ite h ?_
  split
  · exact h.meet
  · exact h

theorem State.Canonical.entryDone {e} : (s.entryDone e).Canonical := h.ite h.endEntry

theorem State.Canonical.eccReadFailed {x i} : (s.eccReadFailed x i).Canonical := by
  unfold State.eccReadFailed
  split
  · exact h.failPart
  · exact h.ite h.failPart
  · exact h.failPart
  · exact h.failPart.iteElse (·.modGen)
  · exact h

theorem State.Canonical.readSrcs {x} : (s.readSrcs x).Canonical := by
  unfold State.readSrcs
  refine .foldl h fun s a h => ?_
  split
  · next e => exact (h.readFlip.snd e).eccReadFailed
  · next e => exact h.readFlip.snd e

theorem State.Canonical.readLost {x i info} : (s.readLost x i info).Canonical := h.failPart.iteThen (·.xferMeet)

theorem State.Canonical.writeLost {x i ep info} : (s.writeLost x i ep info).Canonical := by
  unfold State.writeLost
  split
  · exact h.meet.failPart
  · exact h.meet.failPart
  · exact h.abandon.dropXfer
  · exact h.endDrain
  · exact h.endDrain
  · exact h.endDrain
  · exact h.restWriteFailed
  · exact h.slotFailed
  · exact h.slotFailed.dropXfer
  · exact h

theorem State.Canonical.readLong {x i n} : (s.readLong x i n).Canonical := by
  unfold State.readLong
  split
  · split
    · exact h.meetNew.logFn
    · exact h
  · split
    · exact h.meetLong
    · exact h

theorem State.Canonical.lose {r cause} : (s.lose r cause).Canonical := by
  unfold State.lose
  dsimp only
  split
  · exact h.filterFreqs
  · exact h.filterFreqs.writeLost.ite (h.filterFreqs.readLong.ite h.filterFreqs.readLost)

theorem State.Canonical.loseAll {p cause} : (s.loseAll p cause).Canonical := h.foldl fun _ _ h => h.lose.ite h

theorem State.Canonical.dropPort {port} : (s.dropPort port).Canonical := h.loseAll

theorem State.Canonical.stopLink {port} : (s.stopLink port).Canonical := h.modLink.dropPort

theorem State.Canonical.badPacket {port} : (s.badPacket port).Canonical := h.bump.ite h.bump

theorem State.Canonical.readAnswered {r x} : (s.readAnswered r x).Canonical :=
  h.filterFreqs.putBad.xferMeet.ite (h.filterFreqs.readLong.ite h.filterFreqs)

theorem State.Canonical.readData {r x rel data} : (s.readData r x rel data).Canonical := by
  unfold State.readData
  have hput : ∀ (c : Prop) [Decidable c] (off : Nat) (bs : List PByte),
      (if c then s else s.putChunk x.id r.part off bs).Canonical := fun _ _ _ _ => h.ite h.putChunk
  have hmore : ∀ (q : FabReq) (c : Prop) [Decidable c], (if c then { q with got := q.got + data.length } else q).num = q.num := by
    intro q c _
    split <;> rfl
  refine .poisonFound ?_
  split
  · exact .modAcc (.mapFreqs (hput _ _ _) fun q => hmore q _)
  · exact .mapFreqs (hput _ _ _) fun q => hmore q _

theorem State.Canonical.rdRsp {port p data} : (s.rdRsp port p data).Canonical := by
  unfold State.rdRsp
  split
  · exact h.badPacket
  · split
    · exact h.filterFreqs
    · exact h.badPacket.ite (h.lose.ite (h.readData.readAnswered.ite h.readData))

theorem State.Canonical.wrAck {port p} : (s.wrAck port p).Canonical := by
  unfold State.wrAck
  split
  · exact h.badPacket
  · exact h.badPacket.ite (h.filterFreqs.lose.ite h.filterFreqs.filterFreqs)

theorem State.Canonical.deliver {x r bs} : (s.deliver x r bs).Canonical := by
  unfold State.deliver
  split
  · exact h
  · exact h.putChunk

theorem State.Canonical.mergeWrite {x r old} : (s.mergeWrite x r old).Canonical := by
  unfold State.mergeWrite
  split
  · exact h
  · split
    · exact h.stgWrite
    · exact h

theorem State.Canonical.holdUnknown {port unitAddr} : (s.holdUnknown port unitAddr).Canonical := h.haltBlock.ite (h.ite h.frame)

theorem State.Canonical.dropUnknown {port unitAddr} : (s.dropUnknown port unitAddr).Canonical := h.frame

theorem State.Canonical.stgWriteFailed {x r cause} : (s.stgWriteFailed x r cause).Canonical := by
  unfold State.stgWriteFailed
  dsimp only
  split
  · exact h.holdUnknown.uncorrectable.abandon
  · exact h.holdUnknown.uncorrectable.failPart

theorem State.Canonical.ownWriteFailed {r cause} : (s.ownWriteFailed r cause).Canonical := by
  unfold State.ownWriteFailed
  dsimp only
  split
  · exact h.holdUnknown.uncEvent.meet.frame.ite h.holdUnknown.uncEvent.meet
  · exact h.holdUnknown.uncEvent.frame.ite h.holdUnknown.uncEvent

theorem State.Canonical.ownAnswer {r answer} : (s.ownAnswer r answer).Canonical := by
  unfold State.ownAnswer
  split
  · exact h.staleLines.dropUnknown
  · exact h.ownWriteFailed
  · exact h.ownWriteFailed

theorem State.Canonical.stgReadBad {x r cause n} : (s.stgReadBad x r cause n).Canonical :=
  h.uncorrectable.mergeWrite.ite h.uncorrectable.eccReadFailed.deliver

theorem State.Canonical.countGranule {port unitAddr g} (hg : ∀ c ∈ g.corrected, c.2 < 2 ^ 48) :
    (s.countGranule port unitAddr g).Canonical := by
  have hsyn : (g.corrected.foldl (fun s c => { s with
      ctr := (s.ctr.last (ctrId 5 port 8) ((unitAddr * 8 + c.1) % 2 ^ 32)).last (ctrId 5 port 9) c.2 })
      (s.count (ctrId 5 port 2) g.corrected.length)).Canonical := by
    refine List.foldlRecOn _ _ (motive := State.Canonical) h.count fun t ht c hc => ?_
    exact (ht.last ((Nat.mod_lt _ (by decide)).trans (by decide))).last (hg c hc)
  exact hsyn.bump.ite hsyn

theorem State.Canonical.stgClassify {port unitAddr answer} :
    (s.stgClassify port unitAddr answer).2.Canonical := by
  unfold State.stgClassify
  split
  · exact h
  · split
    · exact h
    · split
      · exact h
      · exact h.countGranule (readGranule_syndrome_lt _ _ _ _)

theorem State.Canonical.stgReadBack {x r answer} : (s.stgReadBack x r answer).Canonical := by
  unfold State.stgReadBack
  split
  · next e => exact (h.stgClassify.snd e).stgReadBad
  · next e => exact (((h.stgClassify.snd e).poisonFound).mergeWrite).ite (((h.stgClassify.snd e).poisonFound).deliver)

theorem State.Canonical.oldReadBack {x r answer} : (s.oldReadBack x r answer).Canonical := by
  unfold State.oldReadBack
  split
  · next e => exact (h.stgClassify.snd e).uncorrectable
  · next e => exact (h.stgClassify.snd e).uncEvent
  · next e => exact h.stgClassify.snd e

theorem State.Canonical.oldWriteBack {x r answer} : (s.oldWriteBack x r answer).Canonical := by
  unfold State.oldWriteBack
  dsimp only
  split
  · exact h.staleLines.dropUnknown
  · exact h.holdUnknown.uncorrectable
  · exact h.holdUnknown.uncEvent

theorem State.Canonical.stgAnswer {port tag answer} : (s.stgAnswer port tag answer).Canonical := by
  unfold State.stgAnswer
  split
  · exact h
  · refine .ite h.frame.ownAnswer ?_
    refine .ite (h.frame.oldWriteBack.ite h.frame.oldReadBack) ?_
    split
    · exact h.frame
    · refine .ite ?_ h.frame.stgReadBack
      split
      · exact h.frame.dropUnknown
      · exact h.frame.stgWriteFailed
      · exact h.frame.stgWriteFailed

theorem State.Canonical.hostFailed {x i off len write} : (s.hostFailed x i off len write).Canonical := by
  unfold State.hostFailed
  dsimp only
  split
  · split
    · exact ((h.ite h.putBad).meetHost).logFn
    · exact h.ite h.putBad
  · split
    · exact (h.ite h.putBad).meetHost
    · exact h.ite h.putBad

theorem State.Canonical.hostAnswer {req answer} : (s.hostAnswer req answer).Canonical := by
  unfold State.hostAnswer
  split
  · exact h
  · dsimp only
    split
    · exact h.frame.cqWriteError
    · exact h.frame
    · exact h.frame
    · split
      · exact h.frame
      · split
        · exact h.frame.hostFailed
        · exact h.frame.iteElse (·.putChunk)

theorem State.Canonical.readComplete {id} : (s.readComplete id).Canonical := by
  unfold State.readComplete
  split
  · exact h
  · split
    · exact h.ite ((h.readSrcs.modSeg.modXfer.iteThen (·.modGen)).ite h.readSrcs.modSeg.modXfer.modGen.segRead)
    · exact h

theorem State.Canonical.digestLoaded {x e} : (s.digestLoaded x e).Canonical := by
  unfold State.digestLoaded
  refine .ite h.modXfer ?_
  dsimp only
  split
  · split
    · exact h.modXfer.dropWork.digestTaken
    · exact h.modXfer
  · exact h.modXfer.dropWork

theorem State.Canonical.copyLoaded {x e} : (s.copyLoaded x e).Canonical := h.dropXfer.entryDone.ite ((h.ite h.meetPoison).modXfer)

theorem State.Canonical.stampLoaded {x e} : (s.stampLoaded x e).Canonical := by
  unfold State.stampLoaded
  dsimp only
  split
  · exact h.dropXfer
  · split
    · exact h.dropXfer.putStamp.ite h.dropXfer.endEntry
    · exact h.dropXfer

theorem State.Canonical.loaded {x} : (s.loaded x).Canonical := by
  unfold State.loaded
  dsimp only
  split
  · exact h.copyLoaded
  · exact h.stampLoaded
  · exact h.digestLoaded
  · exact ((h.stripeLoaded.foldl fun _ _ h => h.loseStay).modXfer).storeOut
  · split
    · exact h.drainReadFailed
    · exact h.drainLoaded.modXfer.storeOut
  · exact h.checkLoaded
  · split
    · exact h.restReadFailed
    · exact h.restLoaded.modXfer.storeOut
  · exact h.modXfer

theorem State.Canonical.stagesOver {x} : (s.stagesOver x).Canonical := by
  unfold State.stagesOver
  dsimp only
  split
  · exact h.modXfer.produceUnit.writeUnit
  · exact h.modXfer.loaded
  · exact h.modXfer.loaded
  · exact h.modXfer

theorem State.Canonical.startStages {id} : (s.startStages id).Canonical := by
  unfold State.startStages
  dsimp only
  split
  · exact h.enterStages.iteThen (·.stagesOver)
  · exact h.enterStages

theorem State.Canonical.sheetLoaded {n x} : (s.sheetLoaded n x).Canonical := by
  unfold State.sheetLoaded
  split
  · exact h
  · refine .ite (h.foldl fun _ _ h => h.issueLine) ?_
    refine .ite h.rereadLines ?_
    refine .ite h.enterLines.fetchLines.modXfer ?_
    split
    · exact h.enterLines.fetchLines.modXfer.readSrcs.startStages
    · exact h.enterLines.fetchLines.modXfer

theorem State.Canonical.arrived {x} : (s.arrived x).Canonical := by
  unfold State.arrived
  refine .ite h.loaded ?_
  split
  · exact h.loaded.startStages
  · exact h.startStages
  · exact h.startStages
  · exact h.loaded

theorem State.Canonical.pieceDone {x e} : (s.pieceDone x e).Canonical := h.dropXfer.modAcc.entryDone

theorem State.Canonical.written {x} : (s.written x).Canonical := by
  unfold State.written
  dsimp only
  split
  · exact (h.foldl fun _ _ h => h.staleLines).pieceDone
  · exact (h.foldl fun _ _ h => h.staleLines).pieceDone
  · exact ((h.foldl fun _ _ h => h.staleLines).dropXfer).entryDone
  · exact (((h.foldl fun _ _ h => h.staleLines).dropXfer).modSeg).advance
  · exact ((h.foldl fun _ _ h => h.staleLines).dropXfer).stripeDone
  · exact ((h.foldl fun _ _ h => h.staleLines).dropXfer).manPieceDone
  · exact ((h.foldl fun _ _ h => h.staleLines).dropXfer).copyDone
  · exact ((h.foldl fun _ _ h => h.staleLines).dropXfer).drainRecorded
  · exact ((h.foldl fun _ _ h => h.staleLines).dropXfer).restDone
  · exact (h.foldl fun _ _ h => h.staleLines).unitDone
  · exact (h.foldl fun _ _ h => h.staleLines).dropXfer

theorem State.Canonical.moveOn {id} : (s.moveOn id).Canonical := by
  unfold State.moveOn
  split
  · exact h
  · refine .ite h ?_
    split
    · exact h
    · exact h.ite h.sheetLoaded
    · dsimp only
      split
      · exact h.readSrcs.arrived
      · exact h.readSrcs
    · refine .ite h ?_
      refine .ite h.stagesOver ?_
      split
      · exact h.writeUnit.ite h
      · exact h
    · exact h.written.ite h
    · exact h.written

theorem State.Canonical.settleXfers : s.settleXfers.Canonical := h.foldl fun _ _ h => h.moveOn

theorem State.Canonical.portTimeout {id} : (s.portTimeout id).Canonical := by
  unfold State.portTimeout
  split
  · exact h
  · dsimp only
    split
    · exact (h.foldl fun _ _ h => h.readLost).ite h
    · split
      · exact h
      · exact h.modXfer.foldl fun _ _ h => h.writeLost.ite h.readLost
    · exact h

theorem State.Canonical.signalTimeout {e} : (s.signalTimeout e).Canonical := by
  unfold State.signalTimeout
  split
  · exact h
  · exact h.ite h.frame.modAcc

/-! ### Dispatch -/

theorem State.Canonical.countRound {y c} : (s.countRound y c).Canonical := h.modArb

theorem State.Canonical.countLane {y lane ps} : (s.countLane y lane ps).Canonical := h.countBytes

theorem State.Canonical.beginWrites {x y lane port} : (s.beginWrites x y lane port).Canonical := by
  have hsig : ∀ (sig : Option Acc), (match sig with
      | some a => s.modAcc a.id fun a => { a with sigSent := true }
      | none => s).Canonical := by
    intro sig
    split
    · exact h.modAcc
    · exact h
  have hrest : ∀ (w : Work) (t : State), t.Canonical → (match w with
      | .rest e _ _ => t.modRest e fun r => { r with wrote := true }
      | _ => t).Canonical := by
    intro w t ht
    split
    · exact ht.modRest
    · exact ht
  have hstore : ∀ (c : Prop) [Decidable c] (t : State), t.Canonical → ∀ (xs : FMap Xfer) (n : Nat),
      (if c then { t with xfers := xs }.storeOut n else { t with xfers := xs }).Canonical :=
    fun _ _ _ ht _ _ => ht.frame.storeOut.ite ht.frame
  unfold State.beginWrites
  dsimp only
  split
  · exact State.Canonical.startWrites (.countLane (.ungate (.readDsts (hstore _ _ (hrest _ _ (hsig _)) _ _))))
  · exact hstore _ _ (hrest _ _ (hsig _)) _ _

theorem State.Canonical.beginReads {x y lane port} : (s.beginReads x y lane port).Canonical := by
  unfold State.beginReads
  dsimp only
  split
  · exact h.frame.ungate.countLane.startReads
  · exact h.frame.ungate.countLane.startReads

theorem State.Canonical.beginSeal {x y lane} : (s.beginSeal x y lane).Canonical := h.frame.ungate.storeOut.startStages

theorem State.Canonical.unpark {x lane} : (s.unpark x lane).Canonical := by
  unfold State.unpark
  dsimp only
  split
  · exact h.frame.fetchLines
  · exact h.frame.readDsts.writeSlots
  · exact h.frame.readDsts.startWrites
  · exact h.frame

theorem State.Canonical.dispatch {id y lane port} : (s.dispatch id y lane port).Canonical := by
  unfold State.dispatch
  split
  · exact h
  · refine .ite h ?_
    refine .ite h.countRound.unpark ?_
    split
    · exact h.beginSeal.ite (h.ite (h.countRound.beginWrites.ite h.countRound.beginReads))
    · exact h

theorem State.Canonical.sheetStart {y lane} : (s.sheetStart y lane).Canonical := by
  unfold State.sheetStart
  split
  · exact h
  · exact h.ite h.countRound.startUnit

end

end Sys2Proof.Machine
end

section
/-! PROOFS. Links, packets and keys keep the forms. -/

namespace Sys2Proof.Machine

open Sys2Proof.Claims

-- Theorem after theorem: side by side, so many short ones take too many threads.
set_option Elab.async false

section
variable {s : State} (h : s.Canonical)
include h

/-! ### Links and packets (R43 to R56) -/

theorem State.Canonical.drawHalf : (s.drawHalf).2.Canonical := by
  unfold State.drawHalf
  exact h.draw

theorem State.Canonical.settleLink {port} : (s.settleLink port).Canonical :=
  h.ite (h.drawHalf.sendAt.modLink.flushPkts.ite (h.drawHalf.sendAt.modLink.ite h))

theorem State.Canonical.settleLinks : s.settleLinks.Canonical := (h.frame.ite h).foldl fun _ _ h => h.settleLink

theorem State.Canonical.linkRises {port} : (s.linkRises port).Canonical := h.ite ((h.ite h.frame.flushPkts).ite h.modLink)

theorem State.Canonical.linkFalls {port} : (s.linkFalls port).Canonical := h.ite (h.frame.dropPort.ite h.modLink.dropPort)

theorem State.Canonical.takeHello {port half} : (s.takeHello port half).Canonical := h.modLink.flushPkts

theorem State.Canonical.startRekey {port} : (s.startRekey port).Canonical := h.modLink.bump.logEvent.ite h

theorem State.Canonical.finishRekey {port half} : (s.finishRekey port half).Canonical := by
  unfold State.finishRekey
  dsimp only
  split
  · exact h.sendAt.modLink.logEvent.ite h.badPacket
  · exact h.badPacket

theorem State.Canonical.stopLimit {port} : (s.stopLimit port).Canonical := h.stopLink.ite h

theorem State.Canonical.fromEp {port ep k} (hk : ∀ t : State, t.Canonical → (k t).Canonical) :
    (s.fromEp port ep k).Canonical := (hk s h).ite h.badPacket

theorem State.Canonical.answerRead {port p} : (s.answerRead port p).Canonical := h.sendAt

theorem State.Canonical.signalIn {port p} : (s.signalIn port p).Canonical := h.badPacket.ite h.fabricSignal

theorem State.Canonical.noticeIn {port p} : (s.noticeIn port p).Canonical := by
  unfold State.noticeIn
  split
  · exact h.badPacket.ite h.notice
  · exact h.badPacket

theorem State.Canonical.takeQuiesced {ep e} : (s.takeQuiesced ep e).Canonical := h.cutQuiesced.restQuiesced

theorem State.Canonical.takeResumed {ep} : (s.takeResumed ep).Canonical := h.modEp

theorem State.Canonical.resumeLate {ep} : (s.resumeLate ep).Canonical := by
  unfold State.resumeLate
  split
  · exact h.takeResumed.logFn
  · exact h

theorem State.Canonical.belayIn {port p} : (s.belayIn port p).Canonical := h.takeArmed.ite (h.takeWatchHit.ite h.takeHit)

theorem State.Canonical.actOn {port p data} : (s.actOn port p data).Canonical := by
  unfold State.actOn
  split
  · exact h.answerRead
  · exact h.rdRsp
  · exact h.signalIn.ite h
  · exact h.wrAck
  · exact h.fromEp (fun _ h => h.takeQuiesced)
  · exact h.fromEp (fun _ h => h.takeMap)
  · exact h.fromEp (fun _ h => h.takeResumed)
  · exact h.noticeIn
  · exact h.finishRekey
  · exact h.fromEp (fun _ h => h.belayIn)
  · exact h.signalIn
  · exact h.badPacket

theorem State.Canonical.countPoison {port n} : (s.countPoison port n).Canonical := h.count.ite h

theorem State.Canonical.admitPacket {port v dataFlits data} : (s.admitPacket port v dataFlits data).Canonical := h.badPacket.ite h.actOn

theorem State.Canonical.openPacket {port k v data} : (s.openPacket port k v data).Canonical :=
  h.countPoison.badPacket.ite (h.countPoison.admitPacket.ite (h.countPoison.admitPacket.ite h.logEvent.stopLink))

theorem State.Canonical.helloPacket {port v data} : (s.helloPacket port v data).Canonical :=
  h.countPoison.badPacket.ite (h.badPacket.ite (h.takeHello.ite h))

theorem State.Canonical.arrive {port fs} : (s.arrive port fs).Canonical := by
  unfold State.arrive
  split
  · exact h
  · exact h.ite ((h.countBytes.openPacket.ite h).ite (h.count.helloPacket.ite (h.count.modLink.openPacket.ite h)))

/-! ### Keys (R296 to R309) -/

theorem State.Canonical.redraw {used : List Nat} {n : Nat} : (State.redraw used n s).2.Canonical := by
  induction n generalizing s with
  | zero => exact h
  | succ n ih =>
    rw [State.redraw]
    exact .iteSnd (ih h.draw) h.draw

theorem State.Canonical.drawSalt {slot keyId} : (s.drawSalt slot keyId).2.Canonical := by
  unfold State.drawSalt
  exact h.redraw

theorem State.Canonical.putKey {slot : Nat} {k : KeySlot} :
    ({ s with keys := { s.keys with store := FMap.put s.keys.store slot k } } : State).Canonical :=
  { h with keys := FMap.sorted_put _ _ _ h.keys }

theorem State.Canonical.loadSlot {slot b key wrapKeyId} : (s.loadSlot slot b key wrapKeyId).Canonical := by
  unfold State.loadSlot
  refine .ite h.frame ?_
  split
  · next e =>
    refine .putKey ?_
    split at e
    · exact h.drawSalt.snd e
    · cases e
      exact h

theorem State.Canonical.emptySlots {bulk hmac} : (s.emptySlots bulk hmac).Canonical :=
  { h with keys := FMap.sorted_filter _ _ h.keys }

theorem State.Canonical.queueKu {a wrapper} : (s.queueKu a wrapper).Canonical := h.frame.modAcc

theorem State.Canonical.drawMasks {n} : (s.drawMasks n).Canonical := h.foldl fun _ _ h => h.draw

theorem State.Canonical.runKeyLoad {a slot typ len blob} : (s.runKeyLoad a slot typ len blob).Canonical :=
  h.malformed.ite (h.malformed.ite (h.orRefuse (fun _ h => h.modAcc.queueKu)))

theorem State.Canonical.runKuBlock {a slot} : (s.runKuBlock a slot).Canonical := h.orRefuse (fun _ h => h.queueKu)

theorem State.Canonical.keyUnwrapped {a slot wrapper} : (s.keyUnwrapped a slot wrapper).Canonical := by
  unfold State.keyUnwrapped
  dsimp only
  split
  · exact h.drawMasks.failEntry
  · exact h.drawMasks.failEntry.ite h.drawMasks.loadSlot.endEntry

theorem State.Canonical.blockRun {a decrypt data out wrapper} : (s.blockRun a decrypt data out wrapper).Canonical := h.drawMasks.queueXfer

theorem State.Canonical.failKu {code} : (s.failKu code).Canonical := h.frame.foldl fun _ _ h => h.failEntry

theorem State.Canonical.failSeals {code} : (s.failSeals code).Canonical := by
  unfold State.failSeals
  refine .foldl h fun s a h => ?_
  split
  · exact h.endDrain.ite h
  · exact h

theorem State.Canonical.eraseKeys {code} : (s.eraseKeys code).Canonical := by
  refine .setFault (.logEvent (.foldl ?_ fun _ _ h => h.stopLink))
  exact { h.failSeals.failKu with keys := trivial }

theorem State.Canonical.nativeAlarm {code} : (s.nativeAlarm code).Canonical := by
  unfold State.nativeAlarm
  split
  · split
    · exact h.frame.failEntry.ite h
    · exact h
  · exact h.frame.failKu.setFault
  · exact h.eraseKeys
  · exact h

theorem State.Canonical.keyAlarm {code} : (s.keyAlarm code).Canonical :=
  ((h.logEvent.iteThen (·.setFault)).eraseKeys).ite h.logEvent.nativeAlarm

/-! ### The Pennant timer -/

theorem State.Canonical.timerServe {deadline} : (s.timerServe deadline).Canonical := h.expire.frame.wake

end

end Sys2Proof.Machine
end

section
/-! PROOFS. Slices keep the forms. -/

namespace Sys2Proof.Machine

open Sys2Proof.Claims

-- Theorem after theorem: side by side, so many short ones take too many threads.
set_option Elab.async false

section
variable {s : State} (h : s.Canonical)
include h

/-! ### Slices (R337 to R362) -/

theorem State.Canonical.makeSlice {f pasid a} : (s.makeSlice f pasid a).Canonical := h.putFn.zeroCtr.clearCleatsOf.freeCtxs.emptySlots

theorem State.Canonical.bindRecognised {f pasid} : (s.bindRecognised f pasid).Canonical := h.foldl fun _ _ h => h.ite h.release

theorem State.Canonical.runSliceCreate {a f pasid al} : (s.runSliceCreate a f pasid al).Canonical :=
  h.orRefuse (fun _ h => h.bindRecognised.makeSlice.logCut.endEntry)

theorem State.Canonical.applyResize {entry f} : (s.applyResize entry f).Canonical := by
  unfold State.applyResize
  split
  · exact h
  · split
    · exact h
    · exact ((h.modFn.iteThen (·.scrubQuota)).logFn).logCut

theorem State.Canonical.settleResized {a} : (s.settleResized a).Canonical := h.endEntry.ite h

theorem State.Canonical.runSliceResize {a f al} : (s.runSliceResize a f al).Canonical :=
  h.orRefuse (fun _ h => h.modFn.endEntry.ite (h.modFn.applyResize.modAcc.ite h.modFn.applyResize.endEntry))

theorem State.Canonical.settleResize : s.settleResize.Canonical := h.foldl fun _ _ h => h.applyResize

theorem State.Canonical.detach {ep} : (s.detach ep).Canonical := by
  refine .restDetached (.loseBuddy ?_)
  exact { h with eps := FMap.sorted_del _ _ h.eps }

theorem State.Canonical.runAttach {a f} : (s.runAttach a f).Canonical := by
  refine .ite (h.orRefuse fun _ h => h.detach.endEntry) (h.orRefuse fun t h => .endEntry (.zeroCtr ?_))
  exact { h with eps := FMap.sorted_put _ _ _ h.eps }

theorem State.Canonical.squashEntry {e info} : (s.squashEntry e info).Canonical := h.frame.modAcc

theorem State.Canonical.withdraw {c} : (s.withdraw c).Canonical := h.dropWork.frame.iteThen (·.dirStore)

theorem State.Canonical.squashDrain {e} : (s.squashDrain e).Canonical := by
  unfold State.squashDrain
  split
  · exact h
  · exact (h.dropWork.foldl fun _ _ h => h.withdraw).modGen

theorem State.Canonical.squash {a info} : (s.squash a info).Canonical := by
  unfold State.squash
  dsimp only
  split
  · exact h.squashDrain.dropRest.modJob.cleanJob.dropWork.squashEntry.frame
  · exact h.squashDrain.dropRest.dropWork.squashEntry.frame

theorem State.Canonical.resetStart {f squash} : (s.resetStart f squash).Canonical := by
  have hq : ({ s.modFn f fun x => { x with resetting := true } with
      sqs := FMap.mapV s.sqs fun k q => if k != 0 && q.fn == f && q.state == SqState.running then q.stop .disabled else q } :
      State).Canonical := h.modFn.mapSqs (fun _ _ => Sq.inside_stopIf) fun _ _ => Sq.log2_stopIf
  refine .foldl (.foldl ((hq.foldl fun _ _ h => h.stopSheet).foldl fun _ _ h => h.disarm) fun t p h => ?_) fun _ _ h => h.abandon
  split
  · exact h.resume
  · exact h

theorem State.Canonical.resetEnd {f info} : (s.resetEnd f info).Canonical := by
  have hend : ∀ t : State, t.Canonical → ({ t with sheets := t.sheets.filter fun h => h.2.fn != f } : State).Canonical :=
    fun _ ht => ht.frame
  have hlost : ∀ t : State, t.Canonical → ({ t with hreqs := t.hreqs.filter fun h => !t.reportsFor f h } : State).Canonical :=
    fun _ ht => ht.frame
  exact (hlost _ ((hend _ (h.foldl fun _ _ h => h.squash)).foldl fun _ _ h => h.dropXfer)).foldl fun _ _ h => h.abandon

theorem State.Canonical.resetClear {f info} : (s.resetClear f info).Canonical := by
  have hclear : (((((s.unended f).filter Acc.isWait).foldl (fun s a => s.squashEntry a.id info) s).clearCleatsOf f).freeCtxs f).Canonical :=
    (h.foldl fun _ _ h => h.squashEntry).clearCleatsOf.freeCtxs
  unfold State.resetClear
  dsimp only
  refine .modFn (.foldl (hclear.mapQueues ?_ ?_ ?_) fun _ _ h => h.flushHeld)
  · intro n q hq
    split
    · exact hq
    · exact hq
  · intro n q
    split <;> rfl
  · intro n r hr
    split
    · exact hr
    · exact hr

/-- Queues leave. -/
theorem State.Canonical.filterSqs {p : Nat × Sq → Bool} :
    ({ s with sqs := s.sqs.filter p } : State).Canonical :=
  { h with
    sqs := FMap.sorted_filter _ _ h.sqs
    queues := fun q hq => h.queues q (List.mem_of_mem_filter hq)
    admin := fun x hx => h.admin x (FMap.find_of_mem h.sqs (List.mem_of_mem_filter (FMap.mem_of_find hx))) }

theorem State.Canonical.filterCqs {p : Nat × Cq → Bool} :
    ({ s with cqs := s.cqs.filter p } : State).Canonical :=
  { h with
    cqs := FMap.sorted_filter _ _ h.cqs
    rings := fun r hr => h.rings r (List.mem_of_mem_filter hr) }

theorem State.Canonical.delFn {f : Nat} : ({ s with fns := FMap.del s.fns f } : State).Canonical :=
  { h with fns := FMap.sorted_del _ _ h.fns }

theorem State.Canonical.teardown {entry f} : (s.teardown entry f).Canonical :=
  ((h.filterSqs.filterCqs.foldl fun _ _ h => h.detach).foldl fun _ _ h => h.release).emptySlots.scrubQuota.delFn.frame

theorem State.Canonical.resetLeave {a f} : (s.resetLeave a f).Canonical := h.ite (h.teardown.modAcc.ite h.modFn.endEntry)

theorem State.Canonical.resetFinish {a f squash} : (s.resetFinish a f squash).Canonical :=
  h.resetEnd.resetClear.settleResize.modAcc.resetLeave

theorem State.Canonical.runSliceReset {a f squash} : (s.runSliceReset a f squash).Canonical :=
  h.orRefuse (fun _ h => h.resetStart.settleResize.modAcc.iteThen (·.resetFinish))

theorem State.Canonical.settleReset {a} : (s.settleReset a).Canonical := by
  unfold State.settleReset
  split
  · exact h
  · exact (h.ite h.resetFinish).ite (h.resetLeave.ite (h.ite h.endEntry))

theorem State.Canonical.resetTimeout {e} : (s.resetTimeout e).Canonical := by
  unfold State.resetTimeout
  split
  · exact h
  · split
    · exact h.expire.resetFinish.ite h
    · exact h

theorem State.Canonical.runSliceFreeze {a f} : (s.runSliceFreeze a f).Canonical := h.orRefuse (fun _ h => h.modFn.modAcc)

theorem State.Canonical.settleFreeze {a} : (s.settleFreeze a).Canonical := by
  unfold State.settleFreeze
  split
  · exact h.modFn.endEntry.ite h
  · exact h

theorem State.Canonical.imageReady {a f dest x k} : (s.imageReady a f dest x k).Canonical :=
  (((h.foldl fun _ _ h => h.drawMasks).draw).modAcc).foldl fun _ _ h => h.queueXfer

theorem State.Canonical.runSliceSave {a f dest len slot} : (s.runSliceSave a f dest len slot).Canonical := by
  unfold State.runSliceSave
  refine h.orRefuse fun _ h => ?_
  split
  · exact h.orRefuse (fun _ h => h.imageReady.ite h.queueKu)
  · exact h

theorem State.Canonical.loadImage {a f pasid k bs} : (s.loadImage a f pasid k bs).Canonical := by
  refine .ite (.failEntry ?_) (.endEntry (.foldl (.makeSlice (.bindRecognised ?_)) fun _ _ h => h.loadSlot))
  all_goals exact h.foldl fun _ _ h => h.drawMasks

theorem State.Canonical.runSliceLoad {a f pasid len slot image} : (s.runSliceLoad a f pasid len slot image).Canonical := by
  unfold State.runSliceLoad
  refine .ite h.malformed ?_
  refine .ite h.malformed ?_
  refine h.orRefuse fun _ h => ?_
  split
  · exact h
  · exact h.loadImage.ite h.modAcc.queueKu

theorem State.Canonical.kuServe : s.kuServe.Canonical := by
  unfold State.kuServe
  split
  · exact h
  · refine .ite h ?_
    dsimp only
    split
    · exact h.frame
    · split
      · exact h.frame.keyUnwrapped
      · exact h.frame.blockRun
      · split
        · exact h.frame.imageReady
        · exact h.frame.failEntry
        · exact h.frame.failEntry
      · split
        · exact h.frame.loadImage
        · exact h.frame.failEntry
      · exact h.frame

theorem State.Canonical.heartbeatMiss {f} : (s.heartbeatMiss f).Canonical := by
  unfold State.heartbeatMiss
  split
  · exact h
  · exact h.ite (h.ite (h.timerServe.modFn.ite h.timerServe.orphan))

end

end Sys2Proof.Machine
end

section
/-! PROOFS. Processors, lanes, rig sets and firmware keep the forms. -/

namespace Sys2Proof.Machine

open Sys2Proof.Claims

-- Theorem after theorem: side by side, so many short ones take too many threads.
set_option Elab.async false

section
variable {s : State} (h : s.Canonical)
include h

/-! ### Processors and lanes -/

theorem State.Canonical.safetyEvent : s.safetyEvent.Canonical := h.haltBlock.ite h

theorem State.Canonical.replayXfer {laneServed x} : (s.replayXfer laneServed x).Canonical := by
  have hput : ∀ y : Xfer, ({ s.forget x.id with xfers := FMap.put s.xfers x.id y } : State).Canonical := fun _ => h.forget.frame
  unfold State.replayXfer
  dsimp only
  refine .ite (hput _) (.ite ((hput _).unpark.ite (hput _)) ?_)
  split
  · split
    · exact .ite (State.Canonical.startWrites (.readDsts (h.forget (x := x.id)).frame)) (h.forget (x := x.id)).frame.startReads
    · exact hput _
  · exact hput _

theorem State.Canonical.replayLane {y k} : (s.replayLane y k).Canonical := h.foldl fun _ _ h => h.replayXfer

theorem State.Canonical.replayAll : s.replayAll.Canonical := h.foldl fun _ _ h => h.replayXfer

theorem State.Canonical.fence {y p cause} : (s.fence y p cause).Canonical := h.modYard.logMast

theorem State.Canonical.standIn {y p k} : (s.standIn y p k).Canonical := h.modYard.logMast

theorem State.Canonical.testFail {y p check context} : (s.testFail y p check context).Canonical := h.fence.logMast.setFault.safetyEvent

theorem State.Canonical.takeOver {y k : Nat} {fails : List (Nat × Nat)} {ps : List Nat} :
    (State.takeOver y k fails ps s).2.Canonical := by
  induction ps generalizing s with
  | nil => exact h
  | cons p ps ih =>
    rw [State.takeOver]
    split
    · exact h.standIn
    · exact ih h.testFail

theorem State.Canonical.vacate {y loss} : (s.vacate y loss).Canonical :=
  (((h.modYard.iteElse (·.logDegraded)).iteThen (·.setFault)).safetyEvent).iteThen (·.haltBlock)

theorem State.Canonical.replaceLane {y k loss fails} : (s.replaceLane y k loss fails).Canonical := by
  unfold State.replaceLane
  split
  · next e => exact (h.takeOver.snd e).replayLane
  · next e => exact ((h.takeOver.snd e).vacate).replayLane

theorem State.Canonical.renumber {y k k'} : (s.renumber y k k').Canonical := h.frame

theorem State.Canonical.dropTrial {t} : (s.dropTrial t).Canonical := h.frame

theorem State.Canonical.startTrial {t} : (s.startTrial t).Canonical := by
  unfold State.startTrial
  dsimp only
  split
  · exact h.frame
  · exact h

theorem State.Canonical.endTrial {y} : (s.endTrial y).Canonical := by
  unfold State.endTrial
  split
  · exact h
  · split
    · exact h.dropTrial
    · exact h.modYard.renumber.dropTrial.foldl fun _ _ h => h.replayXfer

theorem State.Canonical.failTrial {t} : (s.failTrial t).Canonical := by
  unfold State.failTrial
  dsimp only
  split
  · exact h.dropTrial.testFail.logMast
  · exact h.dropTrial.testFail.replaceLane
  · exact h.dropTrial.testFail

theorem State.Canonical.runTrial {t} : (s.runTrial t).Canonical := by
  unfold State.runTrial
  refine .ite h ?_
  refine .ite h.dropTrial ?_
  dsimp only
  split
  · exact h.startTrial.iteThen (·.failTrial)
  · exact h.startTrial

theorem State.Canonical.loseLane {y p cause fails} : (s.loseLane y p cause fails).Canonical := by
  unfold State.loseLane
  dsimp only
  split
  · exact h.endTrial.fence.replaceLane
  · exact h.endTrial.fence

theorem State.Canonical.serveParity {lane fails} : (s.serveParity lane fails).Canonical := by
  unfold State.serveParity
  refine .ite h ?_
  refine .ite ?_ h.modYard.loseLane
  dsimp only
  split
  · exact h.modYard.logMast.replayLane
  · exact h.modYard.logMast

theorem State.Canonical.serveStall {lane fails} : (s.serveStall lane fails).Canonical := by
  unfold State.serveStall
  dsimp only
  split
  · exact h
  · exact h.ite h.loseLane

theorem State.Canonical.laneFault {lane cause fails} : (s.laneFault lane cause fails).Canonical :=
  h.frame.ite (h.serveParity.ite h.serveStall)

theorem State.Canonical.parityFault {lane fails} : (s.parityFault lane fails).Canonical := h.ite h.bump.laneFault

theorem State.Canonical.stallFault {lane fails} : (s.stallFault lane fails).Canonical := by
  unfold State.stallFault
  refine .ite h ?_
  split
  · exact h
  · exact h.ite h.laneFault

theorem State.Canonical.testStarts {item due} : (s.testStarts item due).Canonical := h.ite h.logEvent

theorem State.Canonical.runTrials : s.runTrials.Canonical := h.foldl fun _ _ h => h.runTrial

theorem State.Canonical.startSelfTest {due fails} : (s.startSelfTest due fails).Canonical := h.testStarts.frame.runTrials

theorem State.Canonical.selfTest {fails} : (s.selfTest fails).Canonical := h.ite (h.timerServe.iteThen (·.startSelfTest))

theorem State.Canonical.bistFail {y f} : (s.bistFail y f).Canonical := h.logMast.setFault.safetyEvent

theorem State.Canonical.runBist : s.runBist.Canonical := by
  unfold State.runBist
  split
  · exact h
  · exact (h.frame.foldl fun _ _ h => h.bistFail).ite (h.ite h.frame.logEvent)

theorem State.Canonical.startBist {due fails} : (s.startBist due fails).Canonical := by
  unfold State.startBist
  exact h.ungate.testStarts.frame.runBist

theorem State.Canonical.bist {fails} : (s.bist fails).Canonical := h.ite (h.timerServe.iteThen (·.startBist))

theorem State.Canonical.settleTests : s.settleTests.Canonical := h.runTrials.runBist.iteThen (·.setFault)

theorem State.Canonical.refreshDispatch : s.refreshDispatch.Canonical := by
  have hproc : ∀ t : State, t.Canonical → ∀ p, ({ t with procs := p } : State).Canonical := fun _ ht _ => ht.frame
  exact (hproc _ ((hproc _ h _).foldl fun _ _ h => h.logEvent.setFault.safetyEvent) _).foldl fun _ _ h => h.laneFault

theorem State.Canonical.startRestart {p} : (s.startRestart p).Canonical := by
  have hcaches : ({ s with sqs := FMap.mapV s.sqs fun _ q => { q with cache := [] } } : State).Canonical :=
    h.mapSqs (f := fun _ q => { q with cache := [] }) (fun _ _ hq => hq) fun _ _ => rfl
  unfold State.startRestart
  dsimp only
  split
  · exact h.frame.refreshDispatch
  · exact hcaches.frame
  · exact h.frame
  · exact h.frame
  · exact h.frame

theorem State.Canonical.logCrash {p cause pc} : (s.logCrash p cause pc).Canonical := h.logWith

theorem State.Canonical.crash {p cause pc} : (s.crash p cause pc).Canonical :=
  h.ite ((h.logCrash.haltBlock.ite h).ite h.startRestart.logCrash)

theorem State.Canonical.watchdog {p pc} : (s.watchdog p pc).Canonical := (h.frame.wake.ite h).crash

theorem State.Canonical.trap {p pc ecc} : (s.trap p pc ecc).Canonical := by
  unfold State.trap
  dsimp only
  split
  · exact h.ite h.logWith.crash
  · exact h.crash

/-- What was held is written, and every store keeps to its size. -/
theorem State.Canonical.flushLog : s.flushLog.Canonical := by
  have hwrite : ({ s with log := s.log.held.foldl (fun l e => l.write (s.setup.hasStaging && s.glob.power != .pennant) e) s.log } :
      State).Canonical :=
    List.foldlRecOn s.log.held _ (motive := fun l => ({ s with log := l } : State).Canonical) h fun l hl e _ => hl.writeLog
  have hflush : ∀ n, ({ s with log := { s.log.held.foldl (fun l e => l.write (s.setup.hasStaging && s.glob.power != .pennant) e)
      s.log with held := [], lost := n } } : State).Canonical := fun _ => { hwrite with held := Nat.zero_le _ }
  exact (hflush 0).ite (hflush 0).logEvent

theorem State.Canonical.mastheadBack : s.mastheadBack.Canonical := h.frame.flushLog

theorem State.Canonical.clockReact {clock relocked} : (s.clockReact clock relocked).Canonical :=
  (h.replayAll.logWith.ite h.haltBlock.logWith).keyAlarm

theorem State.Canonical.trimBack : s.trimBack.Canonical := by
  have hproc : ∀ t : State, t.Canonical → ∀ p, ({ t with procs := p } : State).Canonical := fun _ ht _ => ht.frame
  unfold State.trimBack
  dsimp only
  split
  · exact (hproc _ (h.frame.ite h) _).clockReact
  · exact h.frame.ite h

theorem State.Canonical.restarted {p} : (s.restarted p).Canonical := by
  unfold State.restarted
  dsimp only
  split
  · exact h.frame.refreshDispatch
  · exact h.frame
  · exact h.frame.mastheadBack
  · exact h.frame.trimBack
  · exact h.frame

theorem State.Canonical.unpairedLong : s.unpairedLong.Canonical := by
  unfold State.unpairedLong
  split
  · exact h.expire.safetyEvent
  · exact h

theorem State.Canonical.clockFault {clock relocked} : (s.clockFault clock relocked).Canonical := h.ite (h.frame.ite h.clockReact)

theorem State.Canonical.voltageFault {m mv} : (s.voltageFault m mv).Canonical := h.ite (h.haltBlock.logEvent.iteThen (·.keyAlarm))

theorem State.Canonical.thermalTrip {d} : (s.thermalTrip d).Canonical := h.haltBlock.ite h

theorem State.Canonical.unlockDebug : s.unlockDebug.Canonical := h.ite h.frame.keyAlarm

/-! ### Rig sets (R378 to R385) -/

theorem State.Canonical.runRigStage {a len gen image} : (s.runRigStage a len gen image).Canonical :=
  h.malformed.ite (h.malformed.ite (h.orRefuse (fun _ h => h.frame.endEntry)))

theorem State.Canonical.rebase : s.rebase.Canonical := h.frame

theorem State.Canonical.applyRigs {r} : (s.applyRigs r).Canonical := by
  delta State.applyRigs
  extract_lets old t u _ _ v
  have ht : t.Canonical :=
    { h with
      cleats := FMap.sorted_filter _ _ h.cleats
      counts := fun p hp => h.counts p (List.mem_of_mem_filter hp) }
  have hu : u.Canonical := ht.emptySlots
  have hv : v.Canonical := hu.mapFns.frame
  exact hv.ite hv.frame.rebase

theorem State.Canonical.runRigCommit {a gen} : (s.runRigCommit a gen).Canonical := by
  unfold State.runRigCommit
  refine h.orRefuse fun _ h => ?_
  split
  · exact h
  · exact h.applyRigs.frame.endEntry

theorem State.Canonical.runRigRollback {a gen} : (s.runRigRollback a gen).Canonical := by
  unfold State.runRigRollback
  refine h.orRefuse fun _ h => ?_
  split
  · exact h
  · exact h.applyRigs.frame.endEntry

/-! ### Firmware (R363 to R370) -/

theorem State.Canonical.modFw {code g} : (s.modFw code g).Canonical := h.frame

theorem State.Canonical.fwSelect {code} : (s.fwSelect code).2.Canonical := by
  have hlog : ∀ (c : Prop) [Decidable c], (if c then (s.modFw code fun c => { c with pending := false }).logEvent 0x0504 [code]
      else s.modFw code fun c => { c with pending := false }).Canonical := fun _ _ => h.modFw.logEvent.ite h.modFw
  unfold State.fwSelect
  dsimp only
  refine State.Canonical.iteSnd h.modFw.modFw (.iteSnd (hlog _) (.iteSnd (hlog _).modFw.logEvent (hlog _)))

theorem State.Canonical.fwSelectAll : s.fwSelectAll.2.Canonical :=
  .foldlSnd h fun _ _ h => h.fwSelect

theorem State.Canonical.fwStageCheck {a code len tally image} : (s.fwStageCheck a code len tally image).Canonical := by
  unfold State.fwStageCheck
  refine .ite h.malformed.modFw ?_
  refine .ite h.malformed.modFw ?_
  split
  · exact h.failEntry.modFw
  · exact h.modFw.endEntry

theorem State.Canonical.runFwStage {a code len image} : (s.runFwStage a code len image).Canonical := by
  unfold State.runFwStage
  refine .ite ?_ h.fwStageCheck
  split
  · exact h.fwStageCheck.ite (h.orRefuse (fun _ h => h.modAcc))
  · exact h.fwStageCheck

theorem State.Canonical.settleStage {a} : (s.settleStage a).Canonical := by
  unfold State.settleStage
  split
  · exact h.fwStageCheck.ite h
  · exact h

theorem State.Canonical.restartAll {ps} : (s.restartAll ps).Canonical := h.foldl fun _ _ h => h.ite h.startRestart

theorem State.Canonical.runFwActivate {a code now} : (s.runFwActivate a code now).Canonical :=
  h.orRefuse (fun _ h => h.modAcc.ite h.modFw.endEntry)

theorem State.Canonical.settleActivate {a} : (s.settleActivate a).Canonical := by
  unfold State.settleActivate
  split
  · exact h
  · exact h.ite (h.modFw.endEntry.ite (h.restartAll.modAcc.ite h.modAcc))

theorem State.Canonical.procBack {p checksPass} : (s.procBack p checksPass).Canonical := by
  unfold State.procBack
  refine .ite h ?_
  split
  · exact h.restarted.ite h.failEntry
  · exact h.restarted

end

end Sys2Proof.Machine
end

section
/-! PROOFS. Masthead, SPDM, resets and boot keep the forms. -/

namespace Sys2Proof.Machine

open Sys2Proof.Claims

-- Theorem after theorem: side by side, so many short ones take too many threads.
set_option Elab.async false

section
variable {s : State} (h : s.Canonical)
include h

/-! ### Masthead (R387 to R415) -/

theorem State.Canonical.modSensor {i g} : (s.modSensor i g).Canonical := h.frame

theorem State.Canonical.droop : s.droop.Canonical := h.bump.logEvent

theorem State.Canonical.droopTest : s.droopTest.Canonical := (h.frame.droop.ite h).ite (h.frame.ite h)

theorem State.Canonical.judged {i x} : (s.judged i x).Canonical :=
  (((h.modSensor.iteThen (·.logEvent)).logEvent).setFault).ite (h.modSensor.iteThen (·.logEvent))

theorem State.Canonical.takeReading {i v} : (s.takeReading i v).Canonical := h.ite (h.judged.iteThen (·.droopTest))

theorem State.Canonical.takeBusWord {i w} : (s.takeBusWord i w).Canonical := h.takeReading.ite h.frame.takeReading

theorem State.Canonical.sensorPoll {i v} : (s.sensorPoll i v).Canonical := h.takeReading.ite h

theorem State.Canonical.sensorTransaction {i reading} : (s.sensorTransaction i reading).Canonical := by
  unfold State.sensorTransaction
  refine .ite h ?_
  split
  · exact h.takeBusWord
  · exact h.modSensor.logEvent.ite h.modSensor

theorem State.Canonical.inBand {target v} : (s.inBand target v).Canonical := h.takeBusWord.ite h

theorem State.Canonical.serveAlert {undervoltage} : (s.serveAlert undervoltage).Canonical := h.frame.droop.ite h

theorem State.Canonical.pmbAlert {undervoltage} : (s.pmbAlert undervoltage).Canonical := h.frame.ite (h.frame.ite h.frame.serveAlert)

theorem State.Canonical.backUp {p checksPass} : (s.backUp p checksPass).Canonical := by
  unfold State.backUp
  dsimp only
  split
  · exact h.procBack.iteThen (·.frame.serveAlert)
  · exact h.procBack

theorem State.Canonical.settleThrottle : s.settleThrottle.Canonical := by
  unfold State.settleThrottle
  refine .ite h ?_
  split <;> exact h.frame.logEvent

theorem State.Canonical.sample : s.sample.Canonical := h.ite ((h.timerServe.frame.rebase.iteElse (·.logEvent)).testIntervals)

theorem State.Canonical.startSampling : s.startSampling.Canonical := h.frame.rebase

theorem State.Canonical.countEdge {n} : (s.countEdge n).Canonical := h.frame

theorem State.Canonical.dueEntry {n} : (s.dueEntry n).Canonical := by
  unfold State.dueEntry
  split
  · exact h
  · next d _ =>
    have hserve : (s.timerServe (s.tickOfLife d.due)).Canonical := h.timerServe
    refine .ite h (.ite (.logEvent ?_) hserve)
    exact { hserve with dues := FMap.sorted_del _ _ hserve.dues }

theorem State.Canonical.latch : s.latch.Canonical := h.frame

theorem State.Canonical.runSnapLatch {a} : (s.runSnapLatch a).Canonical := h.orRefuse (fun _ h => h.latch.endEntry)

theorem State.Canonical.respond {r p} : (s.respond r p).Canonical := h.frame

theorem State.Canonical.mbServe {wanted v} (hv : ∀ (r : MbReq) (t : State), t.Canonical → (v r t).2.Canonical) :
    (s.mbServe wanted v).Canonical := by
  unfold State.mbServe
  split
  · exact h
  · exact h.ite (h.respond.ite (h.respond.ite (hv _ _ h).respond))

theorem State.Canonical.mbCmd {cmd v} (hv : ∀ (r : MbReq) (t : State), t.Canonical → (v r t).2.Canonical) :
    (s.mbCmd cmd v).Canonical := h.mbServe hv

theorem State.Canonical.mbDoorbell : s.mbDoorbell.Canonical := h.bump.ite (h.ite (h.frame.iteElse (·.respond)))

theorem State.Canonical.mbSpoil : s.mbSpoil.Canonical := by
  unfold State.mbSpoil
  split
  · exact h
  · exact h.frame

theorem State.Canonical.mbSensorLimits {r} : (s.mbSensorLimits r).2.Canonical := by
  unfold State.mbSensorLimits
  dsimp only
  split
  · exact h
  · split
    · exact h
    · exact h.judged.ite h.modSensor

theorem State.Canonical.mbCalSet {r} : (s.mbCalSet r).2.Canonical := by
  unfold State.mbCalSet
  split
  · exact h
  · exact h.frame

theorem State.Canonical.mbDueSet {r} : (s.mbDueSet r).2.Canonical := by
  refine .iteSnd h (.iteSnd h ?_)
  have hdues : FMap.Sorted (if leAt r.payload 4 4 = 0 then FMap.del s.pen.dues (leAt r.payload 0 1)
      else FMap.put s.pen.dues (leAt r.payload 0 1) ⟨leAt r.payload 1 1 == 1, leAt r.payload 4 4, leAt r.payload 8 4⟩) := by
    split
    · exact FMap.sorted_del _ _ h.dues
    · exact FMap.sorted_put _ _ _ h.dues
  exact { h with dues := hdues }

theorem State.Canonical.mbTallyBurn {r} : (s.mbTallyBurn r).2.Canonical := by
  unfold State.mbTallyBurn
  dsimp only
  refine .iteSnd h (.iteSnd h (.iteSnd h (.logEvent ?_)))
  split
  · exact h.frame
  · exact h.frame

theorem State.Canonical.mbImageBegin {r} : (s.mbImageBegin r).2.Canonical := by
  unfold State.mbImageBegin
  dsimp only
  split
  · exact h
  · split
    · exact h
    · split
      · exact h
      · exact h.frame

theorem State.Canonical.mbImageData {r} : (s.mbImageData r).2.Canonical := by
  unfold State.mbImageData
  dsimp only
  split
  · exact h
  · split
    · exact h
    · split
      · exact h
      · exact h.frame

theorem State.Canonical.mbImageEnd {r} : (s.mbImageEnd r).2.Canonical := by
  have hstore : ∀ (i : Nat) (f : FwCode → FwCode) (a : Reply), (a, { s with image := none }.modFw i f).2.Canonical :=
    fun _ _ _ => h.frame.modFw
  unfold State.mbImageEnd
  refine .iteSnd h ?_
  split
  · exact h
  · refine .iteSnd (hstore _ _ _) ?_
    split
    · exact hstore _ _ _
    · exact hstore _ _ _

theorem State.Canonical.mbTelltaleInput {r} : (s.mbTelltaleInput r).2.Canonical := by
  unfold State.mbTelltaleInput
  dsimp only
  split
  · exact h
  · split
    · exact h
    · exact h.frame

/-! ### What a boot reads back -/

theorem State.Canonical.bootRead {r unit asWritten} : (s.bootRead r unit asWritten).2.Canonical := by
  unfold State.bootRead
  dsimp only
  split
  · refine .iteSnd ?_ h
    dsimp only
    exact h.uncEvent
  · split
    · next e =>
      dsimp only
      exact (h.stgClassify.snd e).uncEvent
    · next e => exact h.stgClassify.snd e

theorem State.Canonical.bootBytes {r first n asWritten} : (s.bootBytes r first n asWritten).2.Canonical :=
  State.Canonical.foldlSnd (p := (([] : List PByte), s)) h fun _ _ h => h.bootRead

theorem State.Canonical.bootEnt {r idx} : (s.bootEnt r idx).2.Canonical := by
  have hcopies : ∀ (e : BootEnt) (f m n : Nat) (g k : Nat → List Byte),
      (e, ((s.bootBytes r f 16 g).2.bootBytes r m n k).2).2.Canonical := fun _ _ _ _ _ _ => h.bootBytes.bootBytes
  unfold State.bootEnt
  dsimp only
  split
  · exact hcopies _ _ _ _ _ _
  · refine .iteSnd (hcopies _ _ _ _ _ _) (.iteSnd (hcopies _ _ _ _ _ _) ?_)
    dsimp only
    exact h.bootBytes.bootBytes.bootBytes

theorem State.Canonical.bootDirectory {r} : (s.bootDirectory r).2.Canonical := by
  unfold State.bootDirectory
  refine .foldlSnd h fun acc i hs => ?_
  dsimp only
  exact hs.bootEnt

theorem State.Canonical.recognise {r} : (s.recognise r).Canonical := by
  have hjobs : ∀ l : List Gen, FMap.Sorted (l.foldl bootJob []) := fun l =>
    List.foldlRecOn l bootJob (motive := FMap.Sorted) trivial fun m hm g _ => sorted_bootJob hm
  have hread : (s.bootDirectory r).2.Canonical := h.bootDirectory
  unfold State.recognise
  refine .ite h.frame ?_
  generalize s.bootDirectory r = p at hread ⊢
  exact { hread with jobs := hjobs _ }

/-! ### Resets, boot and power states -/

theorem State.Canonical.recordLife : s.recordLife.Canonical := by
  have hlife : (s.expire (s.tickOfLife (s.pen.lastRec.lifeS + 64))).Canonical := h.expire
  refine h.ite ?_
  exact { hlife with dues := (Pen.dues_writeRec _).symm ▸ hlife.dues }

theorem State.Canonical.blockHeld : s.blockHeld.Canonical :=
  { State.canonical_reset with
    dues := h.dues
    numbers := fun _ ha => absurd ha List.not_mem_nil
    requests := ⟨List.nodup_nil, fun _ hr => absurd hr List.not_mem_nil⟩
    always := h.always
    persist := h.persist
    place := h.place
    held := h.held }

theorem State.Canonical.powerHeld : s.powerHeld.Canonical :=
  { h.blockHeld with
    dues := trivial
    always := Nat.zero_le _
    persist := Nat.zero_le _
    place := Nat.succ_pos _
    held := Nat.zero_le _ }

theorem State.Canonical.porstLow : s.porstLow.Canonical := h.frame.powerHeld

theorem State.Canonical.blkRstLow : s.blkRstLow.Canonical := h.frame.blockHeld

theorem State.Canonical.bootSense : s.bootSense.Canonical := by
  have hdues : s.pen.sense.restoreLife.dues = s.pen.dues := by
    unfold Pen.restoreLife
    split <;> rfl
  refine .ite ?_ h
  exact { h with dues := hdues ▸ h.dues }

theorem State.Canonical.bootCount : s.bootCount.Canonical :=
  { h with dues := (Pen.dues_writeRec _).symm ▸ h.dues }

theorem State.Canonical.bootLanes {fails} : (s.bootLanes fails).Canonical := h.foldl fun _ _ h => h.loseLane

theorem State.Canonical.bootFaults : s.bootFaults.Canonical := h.setFault.ite h

theorem State.Canonical.bootUp {fails r} : (s.bootUp fails r).Canonical := by
  delta State.bootUp
  extract_lets write torn _ _ t u v w x
  have ht : t.Canonical :=
    { h with
      fns := trivial
      sqs := trivial
      queues := fun p hp => by
        rw [List.mem_singleton.mp hp]
        exact Sq.inside_empty rfl rfl
      admin := fun q hq => by
        rw [← Option.some.inj hq] }
  have hv : v.Canonical := State.Canonical.ite ht.flushLog.startScrub.startScrub ht.flushLog
  have hw : w.Canonical := hv.foldl fun _ _ h => h.logEvent
  have hx : x.Canonical := hw.recognise.bootLanes.bootFaults
  exact hx.ite hx.startSampling

theorem State.Canonical.bootDone : s.bootDone.Canonical := by
  refine .ite (.startSampling (.restartBeat ?_)) h
  exact { h with dues := s.dues_readyPen ▸ h.dues }

theorem State.Canonical.bootRecovery : s.bootRecovery.Canonical := h.frame

theorem State.Canonical.boot {fails r} : (s.boot fails r).Canonical := by
  delta State.boot
  extract_lets _ t
  have ht : t.Canonical := h.frame.bootSense.bootCount
  have hdues : ∀ c : Bool, FMap.Sorted (if c then t.pen else t.readyPen).dues := by
    intro c
    split
    · exact ht.dues
    · exact t.dues_readyPen ▸ ht.dues
  clear_value t
  split
  · next u e =>
    have hu : (u.bootUp fails r).Canonical := (ht.fwSelectAll.snd e).bootUp
    exact { hu with dues := hdues _ }
  · next u e => exact { (ht.fwSelectAll.snd e).bootRecovery with dues := ht.dues }

theorem State.Canonical.porstHigh {present size fails} : (s.porstHigh present size fails).Canonical := h.ite (h.frame.iteElse (·.boot))

theorem State.Canonical.blkRstHigh {fails r} : (s.blkRstHigh fails r).Canonical := h.ite (h.frame.iteElse (·.boot))

theorem State.Canonical.blkReset {fails r} : (s.blkReset fails r).Canonical := h.blockHeld.boot

theorem State.Canonical.settleIdle : s.settleIdle.Canonical := h.frame

theorem State.Canonical.idleEntry : s.idleEntry.Canonical := by
  unfold State.idleEntry
  split
  · exact h
  · exact h.expire.iteThen (·.frame)

theorem State.Canonical.yardGate {y} : (s.yardGate y).Canonical := h.ite (h.frame.ite h.modYard)

theorem State.Canonical.rails {code} : (s.rails code).Canonical := h.foldl fun _ _ h => h.emit

theorem State.Canonical.enterPennant : s.enterPennant.Canonical := by
  have hpen : ({ s with pen := s.pen.writeRec } : State).Canonical := { h with dues := (Pen.dues_writeRec _).symm ▸ h.dues }
  exact hpen.blockHeld.frame.rails

theorem State.Canonical.pwrDown : s.pwrDown.Canonical := h.frame.ite (h.logEvent.ite (h.logEvent.ite (h.logEvent.ite h.enterPennant)))

theorem State.Canonical.pwrHeld : s.pwrHeld.Canonical := h.frame.pwrDown.ite h

theorem State.Canonical.awaitRails {good fails r} : (s.awaitRails good fails r).Canonical := h.frame.boot.ite h.frame

theorem State.Canonical.wakePin {good fails r} : (s.wakePin good fails r).Canonical :=
  h.frame.wake.ite (h.frame.iteThen (·.rails.awaitRails))

theorem State.Canonical.railsLate {rail good fails r} : (s.railsLate rail good fails r).Canonical :=
  h.ite (h.frame.rails.rails.awaitRails.ite h.frame.rails.logEvent)

theorem State.Canonical.pinNotice {bit} : (s.pinNotice bit).Canonical := h.wake.foldl fun _ _ h => h.noticeOf

theorem State.Canonical.preemptPin : s.preemptPin.Canonical := h.frame.iteThen (·.pinNotice)

theorem State.Canonical.sbEdge {n} : (s.sbEdge n).Canonical := by
  unfold State.sbEdge
  refine .ite h ?_
  refine .ite h.frame ?_
  split
  · exact h.frame.pinNotice
  · exact h.frame.iteThen (·.countEdge)
  · exact h.frame

theorem State.Canonical.supplyLoss {t} : (s.supplyLoss t).Canonical := by
  have hlow : ∀ u : State, u.Canonical → ∀ (life : Bool) (tally : List TallyRec), ({ u.porstLow with
      pen := { if life then u.porstLow.pen.tornRec else u.porstLow.pen with tally := tally, powered := false, lostSupply := true } } :
      State).Canonical := by
    intro u hu life tally
    have hdues : FMap.Sorted (if life then u.porstLow.pen.tornRec else u.porstLow.pen).dues := by
      split
      · exact (Pen.dues_tornRec _).symm ▸ hu.porstLow.dues
      · exact hu.porstLow.dues
    exact { hu.porstLow with dues := hdues }
  unfold State.supplyLoss
  dsimp only
  split
  · exact hlow _ h.modFw _ _
  · exact hlow _ h _ _

theorem State.Canonical.mainRemoved : s.mainRemoved.Canonical := h.frame.ite h

/-! ### SPDM -/

theorem State.Canonical.spdmMeasurements {r} : (s.spdmMeasurements r).2.Canonical := by
  unfold State.spdmMeasurements
  dsimp only
  split
  · exact h
  · exact h.frame

theorem State.Canonical.spdmChallenge {r} : (s.spdmChallenge r).2.Canonical := by
  unfold State.spdmChallenge
  exact h.frame

theorem State.Canonical.spdmSet {r} : (s.spdmSet r).2.Canonical := by
  unfold State.spdmSet
  dsimp only
  split
  · exact h.frame
  · exact h

theorem State.Canonical.spdmServe {q v} (hv : ∀ (r : MbReq) (t : State), t.Canonical → (v r t).2.Canonical) :
    (s.spdmServe q v).Canonical := by
  refine .ite h (h.mbServe fun r t ht => ?_)
  exact State.Canonical.frame (hv r { t with spdm := t.spdm.heard q r.payload } ht.frame)

end

end Sys2Proof.Machine
end

section
/-! PROOFS. The control window, COPY and FILL, and settling keep the forms. -/

namespace Sys2Proof.Machine

open Sys2Proof.Claims

-- Theorem after theorem: side by side, so many short ones take too many threads.
set_option Elab.async false

section
variable {s : State} (h : s.Canonical)
include h

/-! ### The control window -/

theorem State.Canonical.badAccess {off size} : (s.badAccess off size).Canonical := h.ite h.emit.logBadAccess

theorem State.Canonical.samplePins : s.samplePins.Canonical := h.ite h.frame

theorem State.Canonical.ctlRead {off} : (s.ctlRead off).Canonical := by
  unfold State.ctlRead
  refine .ite h ?_
  refine .ite h.badAccess ?_
  refine .emit ?_
  split
  · exact (h.samplePins.ite h).frame
  · exact h.samplePins.ite h

theorem State.Canonical.clearFault {v} : (s.clearFault v).Canonical := h.ite h.frame

theorem State.Canonical.writeCtrl {v fails r} : (s.writeCtrl v fails r).Canonical :=
  h.ite (h.logBadAccess.ite (h.blkReset.ite (h.pwrDown.ite h)))

theorem State.Canonical.writeSetup {off v} : (s.writeSetup off v).Canonical := h.frame

theorem State.Canonical.noteIgnored {b} : (s.noteIgnored b).Canonical := h.logBadAccess.ite h

theorem State.Canonical.writeLock {v} : (s.writeLock v).Canonical := h.ite h.writeSetup.noteIgnored.noteIgnored.noteIgnored.flushPkts

theorem State.Canonical.writePasid {v} : (s.writePasid v).Canonical := h.ite h.frame

theorem State.Canonical.writeFab {v} : (s.writeFab v).Canonical := h.writeSetup.ite h.frame

theorem State.Canonical.writeFlip {v} : (s.writeFlip v).Canonical := h.frame

theorem State.Canonical.writeInterval {f v} : (s.writeInterval f v).Canonical := by
  refine .ite h (.restartBeat ?_)
  have hbeats : FMap.Sorted (if v % 65536 = 0x40 then FMap.del s.hbInt f else FMap.put s.hbInt f (v % 65536)) := by
    split
    · exact FMap.sorted_del _ _ h.beats
    · exact FMap.sorted_put _ _ _ h.beats
  exact { h with beats := hbeats }

theorem State.Canonical.hostBeat {f} : (s.hostBeat f).Canonical := h.restartBeat.ite h

theorem State.Canonical.writeGlobal {off v} : (s.writeGlobal off v).Canonical := by
  refine .ite (h.writeInterval.ite h) (h.clearFault.ite (h.writeCtrl.ite (h.writeLock.ite ?_)))
  exact h.writePasid.ite (h.writeFab.ite (h.writeSetup.ite (h.writeFlip.ite h)))

theorem State.Canonical.holdLo {off v} : (s.holdLo off v).Canonical := h.frame.ite h

theorem State.Canonical.dropHeld {lo} : (s.dropHeld lo).Canonical := h.frame

theorem State.Canonical.newAsqBase {b} : (s.newAsqBase b).Canonical := h.ite h.frame.asqReset

theorem State.Canonical.writeHi {off v} : (s.writeHi off v).Canonical := by
  refine .ite h (.ite (h.dropHeld.iteElse (·.newAsqBase)) ?_)
  exact (h.dropHeld.ite h.frame).ite ((h.dropHeld.ite (h.frame.ite h.dropHeld)).ite h)

theorem State.Canonical.writeAdm {off v} : (s.writeAdm off v).Canonical :=
  h.holdLo.ite (h.writeAsqCtrl.ite (h.writeAcqCtrl.ite ((h.frame.ite h).ite ((h.frame.ite h).ite h.writeHi))))

theorem State.Canonical.writeBell {f off v} : (s.writeBell f off v).Canonical := by
  unfold State.writeBell
  split
  · exact h.sqDoorbell
  · exact h.cqDoorbell
  · exact h

theorem State.Canonical.writeMasthead {off v} : (s.writeMasthead off v).Canonical :=
  (h.frame.iteThen (·.mbSpoil)).ite (h.mbDoorbell.ite h.writeSetup)

theorem State.Canonical.writeReg {off v} : (s.writeReg off v).Canonical := by
  refine .ite h (h.badAccess.ite (h.writeGlobal.ite (h.writeAdm.ite ?_)))
  exact h.ite (h.writeBell.ite (h.ite ((h.hostBeat.ite h).ite (h.writeMasthead.ite h))))

/-! ### COPY and FILL, Cleat entries, expiries -/

theorem State.Canonical.queueCopy {a f} : (s.queueCopy a f).Canonical := h.foldl fun _ _ h => h.queueXfer

theorem State.Canonical.runCopy {a f} : (s.runCopy a f).Canonical := h.orRefuse (fun _ h => h.modAcc.queueCopy)

theorem State.Canonical.queueFill {a f} : (s.queueFill a f).Canonical := h.foldl fun _ _ h => h.queueXfer

theorem State.Canonical.runFill {a f} : (s.runFill a f).Canonical := h.orRefuse (fun _ h => h.modAcc.queueFill)

theorem State.Canonical.signalOwn {a c n} : (s.signalOwn a c n).Canonical := by
  unfold State.signalOwn
  split
  · next e => exact (h.applySignal.snd e).endEntry
  · next e => exact (h.applySignal.snd e).failEntry

theorem State.Canonical.runCleatSignal {a c n ep} : (s.runCleatSignal a c n ep).Canonical :=
  h.orRefuse (fun _ h => h.modAcc.signalOwn.ite h.modAcc.entrySignalFar)

theorem State.Canonical.runCleatWait {a c} : (s.runCleatWait a c).Canonical := h.orRefuse (fun _ h => h.modAcc.evaluate)

theorem State.Canonical.timerWakes {k} (hk : ∀ t : State, t.Canonical → (k t).Canonical) :
    (s.timerWakes k).Canonical := h.wake.ite (hk _ h.wake)

theorem State.Canonical.waitTimeout {e} : (s.waitTimeout e).Canonical := by
  unfold State.waitTimeout
  split
  · exact h
  · split
    · exact h.expire.timerWakes (fun _ h => h.failEntry)
    · exact h

theorem State.Canonical.coalExpiry {ring} : (s.coalExpiry ring).Canonical := by
  unfold State.coalExpiry
  split
  · exact h
  · split
    · exact h
    · exact h.ite (h.expire.timerWakes (fun _ h => h.interrupt))

theorem State.Canonical.fabTimeoutAt {port tag} : (s.fabTimeoutAt port tag).Canonical := by
  unfold State.fabTimeoutAt
  split
  · exact h
  · exact h.expire.lose

theorem State.Canonical.portWaitOver {w} : (s.portWaitOver w).Canonical := by
  unfold State.portWaitOver
  split
  · exact h.portTimeout
  · split
    · exact h.expire.signalTimeout.ite h
    · exact h

/-! ### Settling -/

theorem State.Canonical.settleEntry {e} : (s.settleEntry e).Canonical := by
  unfold State.settleEntry
  split
  · exact h
  · refine .ite ((h.complete.ite h).ite (h.ite h.signalEnd)) ?_
    split
    · exact h.settleDestroy
    · exact h.settleResized
    · exact h.settleReset
    · exact h.settleFreeze
    · exact h.settleStage
    · exact h.settleActivate
    · exact h

theorem State.Canonical.settleEntries : s.settleEntries.Canonical := h.foldl fun _ _ h => h.settleEntry

theorem State.Canonical.settleSlots : s.settleSlots.Canonical := h.foldl fun _ _ h => h.signalSlots

theorem State.Canonical.settleOwn : s.settleOwn.Canonical := by
  refine .ite (.settleDir (.settleLog (.settleScrubs ?_))) ?_
  all_goals exact (h.foldl fun _ _ h => h.flushRing).ite h

theorem State.Canonical.settleRecords : s.settleRecords.Canonical := h.foldl fun _ _ h => h.advance

theorem State.Canonical.settleRound : s.settleRound.Canonical :=
  have howned := h.settleLinks.settleStages.settleXfers.settleEntries.settleOwn
  have hrested := howned.settleRecords.settleDrains.settleParity.settleRests
  hrested.settleSlots.settleSheets.settleResize.settleTests.settleThrottle.stopAcq.settleIdle

theorem State.Canonical.settleRounds {n : Nat} : (State.settleRounds n s).Canonical := by
  induction n generalizing s with
  | zero => exact h
  | succ n ih => exact ih h.settleRound

theorem State.Canonical.settle : s.settle.Canonical := h.keepSettled h.settleRounds

theorem State.Canonical.bootOn : s.bootOn.Canonical := h.bootDone.settle.ite h

theorem State.Canonical.answerTimeout {e} : (s.answerTimeout e).Canonical := by
  unfold State.answerTimeout
  split
  · split
    · exact h.ite h.expire.cutTimeout
    · exact h
  · split
    · exact h.ite h.expire.restTimeout
    · exact h

end

end Sys2Proof.Machine
end

section
/-! PROOFS. Every step keeps the canonical forms (O21): each command by the functions of its meaning, and the tick. -/

namespace Sys2Proof.Machine

open Sys2Proof.Claims

-- Theorem after theorem: side by side, so many short ones take too many threads.
set_option Elab.async false

/-! ### Outcomes -/

/-- A step's outcome has the forms where it goes on. -/
def KeepsForms (o : Host.Outcome State Fault Refusal) : Prop := ∀ t, o = .next t → t.Canonical

theorem KeepsForms.next {s : State} (h : s.Canonical) : KeepsForms (.next s) := fun _ e => Host.Outcome.next.inj e ▸ h

theorem KeepsForms.fault {r : Fault} : KeepsForms (.fault r) := fun _ e => nomatch e

theorem KeepsForms.ite {c : Prop} [Decidable c] {o p : Host.Outcome State Fault Refusal} (ho : KeepsForms o) (hp : KeepsForms p) :
    KeepsForms (if c then o else p) := by
  split
  · exact ho
  · exact hp

theorem State.Canonical.done {s t : State} (ht : t.Canonical) : KeepsForms (s.done t) := .next ht.keepSetup

section
variable {s t : State} (h : s.Canonical) (ht : t.Canonical)
include h ht

theorem State.Canonical.doneFixed : KeepsForms (s.doneFixed t) := .next (h.keepFixed ht)

theorem State.Canonical.doneTimed : KeepsForms (s.doneTimed t) := .next (h.keepTimed ht)

theorem State.Canonical.doneRigs : KeepsForms (s.doneRigs t) := .next (h.keepFixed ht).frame

theorem State.Canonical.doneFw : KeepsForms (s.doneFw t) := .next (h.keepFixed ht).frame

theorem State.Canonical.doneSpdm : KeepsForms (s.doneSpdm t) := .next (h.keepFixed ht).frame

theorem State.Canonical.doneBeat : KeepsForms (s.doneBeat t) := .next { h.keepFixed ht with beats := ht.beats }

end

section
variable {s : State} (h : s.Canonical)
include h

/-! ### Admin entries -/

theorem State.Canonical.started {e k} (hk : ∀ (a : Acc) (t : State), t.Canonical → (k a t).Canonical) :
    (s.started e k).Canonical := by
  unfold State.started
  split
  · exact h
  · exact (hk _ s h).settle.ite h

theorem State.Canonical.startedRead {e k} (hk : ∀ (a : Acc) (t : State), t.Canonical → (k a t).Canonical) :
    (s.startedRead e k).Canonical := (h.started hk).ite h

theorem State.Canonical.execQueueCreate {e} : KeepsForms (execQueueCreate e s) := by
  refine h.doneFixed (h.started fun _ _ h => ?_)
  split
  · exact h.runQueueCreate
  · exact h

theorem State.Canonical.execQueueDestroy {e} : KeepsForms (execQueueDestroy e s) := by
  refine h.doneFixed (h.started fun _ _ h => ?_)
  split
  · exact h.runQueueDestroy
  · exact h

theorem State.Canonical.execSliceCreate {e} : KeepsForms (execSliceCreate e s) := by
  refine h.doneFixed (h.started fun _ _ h => ?_)
  split
  · exact h.runSliceCreate
  · exact h

theorem State.Canonical.execSliceResize {e} : KeepsForms (execSliceResize e s) := by
  refine h.doneFixed (h.started fun _ _ h => ?_)
  split
  · exact h.runSliceResize
  · exact h

theorem State.Canonical.execSliceReset {e} : KeepsForms (execSliceReset e s) := by
  refine h.doneFixed (h.started fun _ _ h => ?_)
  split
  · exact h.runSliceReset
  · exact h

theorem State.Canonical.execSliceFreeze {e} : KeepsForms (execSliceFreeze e s) := by
  refine h.doneFixed (h.started fun _ _ h => ?_)
  split
  · exact h.runSliceFreeze
  · exact h

theorem State.Canonical.execSliceSave {e} : KeepsForms (execSliceSave e s) := by
  refine h.doneFixed (h.started fun _ _ h => ?_)
  split
  · exact h.runSliceSave
  · exact h

theorem State.Canonical.execSliceLoad {e image} : KeepsForms (execSliceLoad e image s) := by
  refine h.doneFixed (h.startedRead fun _ _ h => ?_)
  split
  · exact h.readStruct.runSliceLoad
  · exact h

theorem State.Canonical.execRigStage {e image} : KeepsForms (execRigStage e image s) := by
  refine h.doneRigs (h.startedRead fun _ _ h => ?_)
  split
  · exact h.readStruct.runRigStage
  · exact h

theorem State.Canonical.execRigCommit {e} : KeepsForms (execRigCommit e s) := by
  refine h.doneRigs (h.started fun _ _ h => ?_)
  split
  · exact h.runRigCommit
  · exact h

theorem State.Canonical.execRigRollback {e} : KeepsForms (execRigRollback e s) := by
  refine h.doneRigs (h.started fun _ _ h => ?_)
  split
  · exact h.runRigRollback
  · exact h

theorem State.Canonical.execAttachEndpoint {e} : KeepsForms (execAttachEndpoint e s) := by
  refine h.doneFixed (h.started fun _ _ h => ?_)
  split
  · exact h.runAttach
  · exact h

theorem State.Canonical.execKeyLoad {e blob} : KeepsForms (execKeyLoad e blob s) := by
  refine h.doneFixed (h.startedRead fun _ _ h => ?_)
  split
  · exact h.readStruct.runKeyLoad
  · exact h

theorem State.Canonical.execFwStage {e image} : KeepsForms (execFwStage e image s) := by
  refine h.doneFw (h.startedRead fun _ _ h => ?_)
  split
  · exact h.readStruct.runFwStage
  · exact h

theorem State.Canonical.execFwActivate {e} : KeepsForms (execFwActivate e s) := by
  refine h.doneFw (h.started fun _ _ h => ?_)
  split
  · exact h.runFwActivate
  · exact h

/-! ### Faults, restarts and supplies -/

theorem State.Canonical.execLockstepMismatch {p pc} : KeepsForms (execLockstepMismatch p pc s) := by
  refine h.doneFixed (.settle ?_)
  split
  · exact h.crash
  · exact h.crash
  · exact h

theorem State.Canonical.execWatchdogExpiry {p pc} : KeepsForms (execWatchdogExpiry p pc s) := h.doneFixed h.watchdog.settle

theorem State.Canonical.execTrap {p pc ecc} : KeepsForms (execTrap p pc ecc s) := h.doneFixed h.trap.settle

theorem State.Canonical.execProcessorRestartComplete {p checksPass} : KeepsForms (execProcessorRestartComplete p checksPass s) :=
  h.backUp.settle.pwrHeld.settle.done

theorem State.Canonical.execDatapathParityFault {lane spareFails} : KeepsForms (execDatapathParityFault lane spareFails s) :=
  h.doneFixed h.parityFault.settle

theorem State.Canonical.execLaneStall {lane spareFails} : KeepsForms (execLaneStall lane spareFails s) := h.doneFixed h.stallFault.settle

theorem State.Canonical.execClockFault {clock relocked} : KeepsForms (execClockFault clock relocked s) := h.doneFixed h.clockFault.settle

theorem State.Canonical.execVoltageFault {monitor mv} : KeepsForms (execVoltageFault monitor mv s) := h.doneFixed h.voltageFault.settle

theorem State.Canonical.execThermalTrip {diode} : KeepsForms (execThermalTrip diode s) := h.doneFixed h.thermalTrip.settle

theorem State.Canonical.execKeyUnitParityMismatch : KeepsForms (execKeyUnitParityMismatch s) := h.doneFixed ((h.keyAlarm.ite h).settle)

theorem State.Canonical.execEntropyHealthFailure : KeepsForms (execEntropyHealthFailure s) := h.doneFixed ((h.keyAlarm.ite h).settle)

theorem State.Canonical.execDebugUnlock : KeepsForms (execDebugUnlock s) := h.doneFixed h.unlockDebug.settle

theorem State.Canonical.execAlwaysOnSupplyLoss {torn} : KeepsForms (execAlwaysOnSupplyLoss torn s) := .next h.supplyLoss.commit

theorem State.Canonical.execMainSupplyRemoval : KeepsForms (execMainSupplyRemoval s) := h.doneFixed h.mainRemoved

theorem State.Canonical.execKeyUnitRequestDone : KeepsForms (execKeyUnitRequestDone s) := h.doneFixed h.kuServe.settle

theorem State.Canonical.execMainstayUnpairedTimeout : KeepsForms (execMainstayUnpairedTimeout s) := h.doneTimed h.unpairedLong.settle

/-! ### I/O entries -/

theorem State.Canonical.execCopy {e} : KeepsForms (execCopy e s) := by
  refine h.doneFixed (h.started fun _ _ h => ?_)
  split
  · exact h.runCopy
  · exact h

theorem State.Canonical.execFill {e} : KeepsForms (execFill e s) := by
  refine h.doneFixed (h.started fun _ _ h => ?_)
  split
  · exact h.runFill
  · exact h

theorem State.Canonical.execGenOpen {e regionList manifest} : KeepsForms (execGenOpen e regionList manifest s) := by
  refine h.doneFixed (h.startedRead fun _ _ h => ?_)
  split
  · exact h.readStruct.readStruct.runGenOpen
  · exact h

theorem State.Canonical.execCut {e} : KeepsForms (execCut e s) := by
  refine h.doneFixed (h.started fun _ _ h => ?_)
  split
  · exact h.runCut
  · exact h

theorem State.Canonical.execStamp {e} : KeepsForms (execStamp e s) := by
  refine h.doneFixed (h.started fun _ _ h => ?_)
  split
  · exact h.runStamp
  · exact h

theorem State.Canonical.execProtect {e groupList} : KeepsForms (execProtect e groupList s) := by
  refine h.doneFixed (h.startedRead fun _ _ h => ?_)
  split
  · exact h.readStruct.runProtect
  · exact h

theorem State.Canonical.execDrain {e} : KeepsForms (execDrain e s) := by
  refine h.doneFixed (h.started fun _ _ h => ?_)
  split
  · exact h.runDrain
  · exact h

theorem State.Canonical.execRestore {e targetMap} : KeepsForms (execRestore e targetMap s) := by
  refine h.doneFixed (h.startedRead fun _ _ h => ?_)
  split
  · exact h.runRestore
  · exact h

theorem State.Canonical.execRestoreSpare {e} : KeepsForms (execRestoreSpare e s) := by
  refine h.doneFixed (h.started fun _ _ h => ?_)
  split
  · exact h.runRestoreSpare
  · exact h

theorem State.Canonical.execSheetArm {e dimBlock header adapter} : KeepsForms (execSheetArm e dimBlock header adapter s) := by
  refine h.doneFixed (h.started fun _ _ h => ?_)
  split
  · exact h.readArm.runSheetArm.ite h
  · exact h

theorem State.Canonical.execSheetRearm {e dimBlock header adapter} : KeepsForms (execSheetRearm e dimBlock header adapter s) := by
  refine h.doneFixed (h.started fun _ _ h => ?_)
  split
  · exact h.readRearm.runSheetRearm.ite h
  · exact h

theorem State.Canonical.execSheetStop {e} : KeepsForms (execSheetStop e s) := by
  refine h.doneFixed (h.started fun _ _ h => ?_)
  split
  · exact h.runSheetStop
  · exact h

theorem State.Canonical.execCleatSignal {e} : KeepsForms (execCleatSignal e s) := by
  refine h.doneFixed (h.started fun _ _ h => ?_)
  split
  · exact h.runCleatSignal
  · exact h

theorem State.Canonical.execCleatWait {e} : KeepsForms (execCleatWait e s) := by
  refine h.doneFixed (h.started fun _ _ h => ?_)
  split
  · exact h.runCleatWait
  · exact h

theorem State.Canonical.execDigest {e} : KeepsForms (execDigest e s) := by
  refine h.doneFixed (h.started fun _ _ h => ?_)
  split
  · exact h.runDigest
  · exact h

theorem State.Canonical.execKuBlock {e} : KeepsForms (execKuBlock e s) := by
  refine h.doneFixed (h.started fun _ _ h => ?_)
  split
  · exact h.runKuBlock
  · exact h

theorem State.Canonical.execSnapLatch {e} : KeepsForms (execSnapLatch e s) := by
  refine h.doneFixed (h.started fun _ _ h => ?_)
  split
  · exact h.runSnapLatch
  · exact h

/-! ### Mailbox commands -/

theorem State.Canonical.execSensorRead : KeepsForms (execSensorRead s) := h.doneFixed (h.mbCmd (fun _ _ h => h))

theorem State.Canonical.execSensorLimits : KeepsForms (execSensorLimits s) := h.doneFixed (h.mbCmd (fun _ _ h => h.mbSensorLimits))

theorem State.Canonical.execLogRead : KeepsForms (execLogRead s) := h.doneFixed (h.mbCmd (fun _ _ h => h))

theorem State.Canonical.execClockRead : KeepsForms (execClockRead s) := h.doneFixed (h.mbCmd (fun _ _ h => h))

theorem State.Canonical.execCalSet : KeepsForms (execCalSet s) := h.doneTimed (h.mbCmd (fun _ _ h => h.mbCalSet))

theorem State.Canonical.execDueSet : KeepsForms (execDueSet s) := h.doneTimed (h.mbCmd (fun _ _ h => h.mbDueSet))

theorem State.Canonical.execCounterRead : KeepsForms (execCounterRead s) := h.doneFixed (h.mbCmd (fun _ _ h => h))

theorem State.Canonical.execJobLookup : KeepsForms (execJobLookup s) := h.doneFixed (h.mbCmd (fun _ _ h => h))

theorem State.Canonical.execTallyRead : KeepsForms (execTallyRead s) := h.doneFixed (h.mbCmd (fun _ _ h => h))

theorem State.Canonical.execTallyBurn : KeepsForms (execTallyBurn s) := .next ((h.mbCmd (fun _ _ h => h.mbTallyBurn)).commit)

theorem State.Canonical.execImageBegin : KeepsForms (execImageBegin s) := h.doneFixed (h.mbCmd (fun _ _ h => h.mbImageBegin))

theorem State.Canonical.execImageData : KeepsForms (execImageData s) := h.doneFixed (h.mbCmd (fun _ _ h => h.mbImageData))

theorem State.Canonical.execImageEnd : KeepsForms (execImageEnd s) := h.doneFw (h.ite (h.mbCmd (fun _ _ h => h.mbImageEnd)))

theorem State.Canonical.execTelltaleInput : KeepsForms (execTelltaleInput s) := h.doneFixed (h.mbCmd (fun _ _ h => h.mbTelltaleInput))

theorem State.Canonical.execTelltaleRead : KeepsForms (execTelltaleRead s) := h.doneFixed (h.mbCmd (fun _ _ h => h))

/-! ### What the ports receive -/

theorem State.Canonical.execRdRsp {port flits} : KeepsForms (execRdRsp port flits s) := h.doneFixed h.arrive.settle

theorem State.Canonical.execWrAck {port flits} : KeepsForms (execWrAck port flits s) := h.doneFixed h.arrive.settle

theorem State.Canonical.execRdReqToBlock {port flits} : KeepsForms (execRdReqToBlock port flits s) := h.doneFixed h.arrive.settle

theorem State.Canonical.execWrToBlock {port flits} : KeepsForms (execWrToBlock port flits s) := h.doneFixed h.arrive.settle

theorem State.Canonical.execCleatSignalPacket {port flits} : KeepsForms (execCleatSignalPacket port flits s) := h.doneFixed h.arrive.settle

theorem State.Canonical.execMalformedPacket {port flits} : KeepsForms (execMalformedPacket port flits s) := h.doneFixed h.arrive.settle

theorem State.Canonical.execPreemptNotice {port flits} : KeepsForms (execPreemptNotice port flits s) := h.doneFixed h.arrive.settle

theorem State.Canonical.execQuiesceDone {port flits} : KeepsForms (execQuiesceDone port flits s) := h.doneFixed h.arrive.settle

theorem State.Canonical.execExportMap {port flits} : KeepsForms (execExportMap port flits s) := h.doneFixed h.arrive.settle

theorem State.Canonical.execResumeDone {port flits} : KeepsForms (execResumeDone port flits s) := h.doneFixed h.arrive.settle

theorem State.Canonical.execArmed {port flits} : KeepsForms (execArmed port flits s) := h.doneFixed h.arrive.settle

theorem State.Canonical.execWatchHit {port flits} : KeepsForms (execWatchHit port flits s) := h.doneFixed h.arrive.settle

theorem State.Canonical.execHoldRequest {port flits} : KeepsForms (execHoldRequest port flits s) := h.doneFixed h.arrive.settle

theorem State.Canonical.execForkRequest {port flits} : KeepsForms (execForkRequest port flits s) := h.doneFixed h.arrive.settle

theorem State.Canonical.execReadComplete {x} : KeepsForms (execReadComplete x s) := h.doneFixed h.readComplete.settle

theorem State.Canonical.execStagingResponse {port tag err data check} : KeepsForms (execStagingResponse port tag err data check s) :=
  h.doneTimed h.stgAnswer.settle.bootOn

theorem State.Canonical.execStagingResponseTimeout {port tag} : KeepsForms (execStagingResponseTimeout port tag s) :=
  h.doneTimed h.stgAnswer.settle.bootOn

theorem State.Canonical.execHostResponse {req answer} : KeepsForms (execHostResponse req answer s) := h.doneFixed h.hostAnswer.settle

theorem State.Canonical.execSensorTransaction {index reading} : KeepsForms (execSensorTransaction index reading s) :=
  h.doneFixed h.sensorTransaction.settle

theorem State.Canonical.execInBandInterrupt {target reading} : KeepsForms (execInBandInterrupt target reading s) :=
  h.doneFixed h.inBand.settle

/-! ### Pins and link events -/

theorem State.Canonical.execPorstAssertion : KeepsForms (execPorstAssertion s) := .next h.porstLow.commit

theorem State.Canonical.execPorstDeassertion {stagePresent stageSizeSel laneFails} :
    KeepsForms (execPorstDeassertion stagePresent stageSizeSel laneFails s) :=
  .next h.porstHigh.settle.commit

theorem State.Canonical.execBlkRstAssertion : KeepsForms (execBlkRstAssertion s) := h.blkRstLow.done

theorem State.Canonical.execBlkRstDeassertion {laneFails stored} : KeepsForms (execBlkRstDeassertion laneFails stored s) :=
  h.blkRstHigh.settle.done

theorem State.Canonical.execPreemptN : KeepsForms (execPreemptN s) := h.doneFixed h.preemptPin.settle

theorem State.Canonical.execWakeN {railsGood laneFails stored} : KeepsForms (execWakeN railsGood laneFails stored s) :=
  h.wakePin.settle.done

theorem State.Canonical.execSbFallingEdge {line} : KeepsForms (execSbFallingEdge line s) := h.doneFixed h.sbEdge.settle

theorem State.Canonical.execPmbAlertN {undervoltage} : KeepsForms (execPmbAlertN undervoltage s) := h.doneFixed h.pmbAlert.settle

theorem State.Canonical.execLinkUpRise {port} : KeepsForms (execLinkUpRise port s) := h.doneFixed h.linkRises.settle

theorem State.Canonical.execLinkUpFall {port} : KeepsForms (execLinkUpFall port s) := h.doneFixed h.linkFalls.settle

theorem State.Canonical.execLinkHello {port flits} : KeepsForms (execLinkHello port flits s) := h.doneFixed h.arrive.settle

theorem State.Canonical.execRekey {port} : KeepsForms (execRekey port s) := h.doneFixed h.startRekey.settle

theorem State.Canonical.execKeyRollAck {port flits} : KeepsForms (execKeyRollAck port flits s) := h.doneFixed h.arrive.settle

theorem State.Canonical.execLinkStopLimit {port} : KeepsForms (execLinkStopLimit port s) := h.doneFixed h.stopLimit.settle

/-! ### SPDM requests -/

theorem State.Canonical.execGetVersion : KeepsForms (execGetVersion s) := h.doneSpdm (h.spdmServe (fun _ _ h => h))

theorem State.Canonical.execGetCapabilities : KeepsForms (execGetCapabilities s) := h.doneSpdm (h.spdmServe (fun _ _ h => h))

theorem State.Canonical.execNegotiateAlgorithms : KeepsForms (execNegotiateAlgorithms s) := h.doneSpdm (h.spdmServe (fun _ _ h => h))

theorem State.Canonical.execGetDigests : KeepsForms (execGetDigests s) := h.doneSpdm (h.spdmServe (fun _ _ h => h))

theorem State.Canonical.execGetCertificate : KeepsForms (execGetCertificate s) := h.doneSpdm (h.spdmServe (fun _ _ h => h))

theorem State.Canonical.execChallenge : KeepsForms (execChallenge s) := h.doneSpdm (h.spdmServe (fun _ _ h => h.spdmChallenge))

theorem State.Canonical.execGetMeasurements : KeepsForms (execGetMeasurements s) :=
  h.doneSpdm (h.spdmServe (fun _ _ h => h.spdmMeasurements))

theorem State.Canonical.execSetCertificate : KeepsForms (execSetCertificate s) := h.doneSpdm (h.spdmServe (fun _ _ h => h.spdmSet))

theorem State.Canonical.execUnsupportedRequest : KeepsForms (execUnsupportedRequest s) := h.doneSpdm (h.spdmServe (fun _ _ h => h))

/-! ### Acceptance, dispatch, expiries and periodic work -/

theorem State.Canonical.execFabricResponseTimeout {port tag} : KeepsForms (execFabricResponseTimeout port tag s) :=
  h.doneTimed h.fabTimeoutAt.settle

theorem State.Canonical.execUsablePortTimeout {w} : KeepsForms (execUsablePortTimeout w s) := h.doneTimed h.portWaitOver.settle

theorem State.Canonical.execEntryAccept {qid fetched} : KeepsForms (execEntryAccept qid fetched s) := h.doneFixed h.fetchAccept.settle

theorem State.Canonical.execQueuedEntryStart {e targetMap} : KeepsForms (execQueuedEntryStart e targetMap s) :=
  h.doneFixed h.startQueued.settle

theorem State.Canonical.execTransferDispatch {x yard lane port} : KeepsForms (execTransferDispatch x yard lane port s) :=
  h.doneFixed h.dispatch.settle

theorem State.Canonical.execSheetWorkUnitStart {yard lane} : KeepsForms (execSheetWorkUnitStart yard lane s) :=
  h.doneFixed h.sheetStart.settle

theorem State.Canonical.execArmingEnd {sheet} : KeepsForms (execArmingEnd sheet s) := h.doneFixed h.armingEnd.settle

theorem State.Canonical.execCoalTicksExpiry {ring} : KeepsForms (execCoalTicksExpiry ring s) := h.doneTimed h.coalExpiry.settle

theorem State.Canonical.execWaitTimeout {e} : KeepsForms (execWaitTimeout e s) := h.doneTimed h.waitTimeout.settle

theorem State.Canonical.execCutTimeout {e} : KeepsForms (execCutTimeout e s) := h.doneTimed h.answerTimeout.settle

theorem State.Canonical.execResumeLate {ep} : KeepsForms (execResumeLate ep s) := h.doneFixed h.resumeLate

theorem State.Canonical.execSliceResetTimeout {e} : KeepsForms (execSliceResetTimeout e s) := h.doneTimed h.resetTimeout.settle

theorem State.Canonical.execHeartbeatMiss {f} : KeepsForms (execHeartbeatMiss f s) := h.doneTimed h.heartbeatMiss.settle

theorem State.Canonical.execTelltaleSample : KeepsForms (execTelltaleSample s) := h.doneTimed h.sample.settle

theorem State.Canonical.execSensorPoll {index reading} : KeepsForms (execSensorPoll index reading s) := h.doneFixed h.sensorPoll.settle

theorem State.Canonical.execSpareSelfTest {fails} : KeepsForms (execSpareSelfTest fails s) := h.doneTimed h.selfTest.settle

theorem State.Canonical.execYardBist {fails} : KeepsForms (execYardBist fails s) := h.doneTimed h.bist.settle

theorem State.Canonical.execDueEntry {n} : KeepsForms (execDueEntry n s) := h.doneTimed h.dueEntry

theorem State.Canonical.execLifeRecordWrite : KeepsForms (execLifeRecordWrite s) := h.doneTimed h.recordLife

theorem State.Canonical.execIdleEntry : KeepsForms (execIdleEntry s) := h.doneTimed h.idleEntry.settle

theorem State.Canonical.execYardGate {yard} : KeepsForms (execYardGate yard s) := h.doneFixed h.yardGate

theorem State.Canonical.execPowerGoodTimeout {rail railsGood laneFails stored} :
    KeepsForms (execPowerGoodTimeout rail railsGood laneFails stored s) :=
  h.railsLate.settle.done

/-! ### The control window -/

theorem State.Canonical.execSqDoorbell {f slot tail} : KeepsForms (execSqDoorbell f slot tail s) := h.doneFixed h.sqDoorbell

theorem State.Canonical.execInv {f slot tail} : KeepsForms (execInv f slot tail s) := h.doneFixed h.sqDoorbell

theorem State.Canonical.execCqDoorbell {f slot head} : KeepsForms (execCqDoorbell f slot head s) := h.doneFixed h.cqDoorbell.settle

theorem State.Canonical.execBlkReset {value laneFails stored} : KeepsForms (execBlkReset value laneFails stored s) :=
  h.writeCtrl.settle.done

theorem State.Canonical.execPwrDown {value} : KeepsForms (execPwrDown value s) := h.writeCtrl.settle.done

theorem State.Canonical.execGlobalFaultW1c {value} : KeepsForms (execGlobalFaultW1c value s) := h.doneFixed h.clearFault

theorem State.Canonical.execFabLock : KeepsForms (execFabLock s) := .next h.writeLock.settle.commit

theorem State.Canonical.execDrainLock : KeepsForms (execDrainLock s) := .next h.writeLock.settle.commit

theorem State.Canonical.execSensorLock : KeepsForms (execSensorLock s) := .next h.writeLock.settle.commit

theorem State.Canonical.execHbInterval {f value} : KeepsForms (execHbInterval f value s) := h.doneBeat h.writeInterval

theorem State.Canonical.execAsqCtrl {value} : KeepsForms (execAsqCtrl value s) := h.doneFixed h.writeAsqCtrl.settle

theorem State.Canonical.execAcqCtrl {value} : KeepsForms (execAcqCtrl value s) := h.doneFixed h.writeAcqCtrl.settle

theorem State.Canonical.execLoRead {offset} : KeepsForms (execLoRead offset s) := .ite .fault (h.doneFixed h.ctlRead)

theorem State.Canonical.execHiWrite {offset value} : KeepsForms (execHiWrite offset value s) := h.doneFixed h.writeHi

theorem State.Canonical.execRegisterWrite {offset value} : KeepsForms (execRegisterWrite offset value s) :=
  .ite .fault (.next h.writeReg.settle.commit)

theorem State.Canonical.execCtlBadAccess {offset size} : KeepsForms (execCtlBadAccess offset size s) := h.doneFixed h.badAccess

end

/-! ### The step -/

/-- Whatever the command, the forms stay (R74, R77, R277, R401, R404, R406, R453). -/
theorem State.Canonical.exec {s : State} (h : s.Canonical) (c : Instr) : KeepsForms (exec c s) := by
  cases c with
  | queueCreate _ => exact h.execQueueCreate
  | queueDestroy _ => exact h.execQueueDestroy
  | sliceCreate _ => exact h.execSliceCreate
  | sliceResize _ => exact h.execSliceResize
  | sliceReset _ => exact h.execSliceReset
  | sliceFreeze _ => exact h.execSliceFreeze
  | sliceSave _ => exact h.execSliceSave
  | sliceLoad _ _ => exact h.execSliceLoad
  | rigStage _ _ => exact h.execRigStage
  | rigCommit _ => exact h.execRigCommit
  | rigRollback _ => exact h.execRigRollback
  | attachEndpoint _ => exact h.execAttachEndpoint
  | keyLoad _ _ => exact h.execKeyLoad
  | fwStage _ _ => exact h.execFwStage
  | fwActivate _ => exact h.execFwActivate
  | copy _ => exact h.execCopy
  | fill _ => exact h.execFill
  | genOpen _ _ _ => exact h.execGenOpen
  | cut _ => exact h.execCut
  | stamp _ => exact h.execStamp
  | protect _ _ => exact h.execProtect
  | drain _ => exact h.execDrain
  | restore _ _ => exact h.execRestore
  | restoreSpare _ => exact h.execRestoreSpare
  | sheetArm _ _ _ _ => exact h.execSheetArm
  | sheetRearm _ _ _ _ => exact h.execSheetRearm
  | sheetStop _ => exact h.execSheetStop
  | cleatSignal _ => exact h.execCleatSignal
  | cleatWait _ => exact h.execCleatWait
  | digest _ => exact h.execDigest
  | kuBlock _ => exact h.execKuBlock
  | snapLatch _ => exact h.execSnapLatch
  | sensorRead => exact h.execSensorRead
  | sensorLimits => exact h.execSensorLimits
  | logRead => exact h.execLogRead
  | clockRead => exact h.execClockRead
  | calSet => exact h.execCalSet
  | dueSet => exact h.execDueSet
  | counterRead => exact h.execCounterRead
  | jobLookup => exact h.execJobLookup
  | tallyRead => exact h.execTallyRead
  | tallyBurn => exact h.execTallyBurn
  | imageBegin => exact h.execImageBegin
  | imageData => exact h.execImageData
  | imageEnd => exact h.execImageEnd
  | telltaleInput => exact h.execTelltaleInput
  | telltaleRead => exact h.execTelltaleRead
  | getVersion => exact h.execGetVersion
  | getCapabilities => exact h.execGetCapabilities
  | negotiateAlgorithms => exact h.execNegotiateAlgorithms
  | getDigests => exact h.execGetDigests
  | getCertificate => exact h.execGetCertificate
  | challenge => exact h.execChallenge
  | getMeasurements => exact h.execGetMeasurements
  | setCertificate => exact h.execSetCertificate
  | unsupportedRequest => exact h.execUnsupportedRequest
  | sqDoorbell _ _ _ => exact h.execSqDoorbell
  | inv _ _ _ => exact h.execInv
  | cqDoorbell _ _ _ => exact h.execCqDoorbell
  | blkReset _ _ _ => exact h.execBlkReset
  | pwrDown _ => exact h.execPwrDown
  | globalFaultW1c _ => exact h.execGlobalFaultW1c
  | fabLock => exact h.execFabLock
  | drainLock => exact h.execDrainLock
  | sensorLock => exact h.execSensorLock
  | hostHeartbeat _ _ => exact h.doneFixed h.hostBeat
  | hbInterval _ _ => exact h.execHbInterval
  | asqCtrl _ => exact h.execAsqCtrl
  | acqCtrl _ => exact h.execAcqCtrl
  | loRead _ => exact h.execLoRead
  | hiWrite _ _ => exact h.execHiWrite
  | registerWrite _ _ => exact h.execRegisterWrite
  | ctlBadAccess _ _ => exact h.execCtlBadAccess
  | porstAssertion => exact h.execPorstAssertion
  | porstDeassertion _ _ _ => exact h.execPorstDeassertion
  | blkRstAssertion => exact h.execBlkRstAssertion
  | blkRstDeassertion _ _ => exact h.execBlkRstDeassertion
  | preemptN => exact h.execPreemptN
  | wakeN _ _ _ => exact h.execWakeN
  | sbFallingEdge _ => exact h.execSbFallingEdge
  | pmbAlertN _ => exact h.execPmbAlertN
  | linkUpRise _ => exact h.execLinkUpRise
  | linkUpFall _ => exact h.execLinkUpFall
  | linkHello _ _ => exact h.execLinkHello
  | rekey _ => exact h.execRekey
  | keyRollAck _ _ => exact h.execKeyRollAck
  | linkStopLimit _ => exact h.execLinkStopLimit
  | rdRsp _ _ => exact h.execRdRsp
  | wrAck _ _ => exact h.execWrAck
  | rdReqToBlock _ _ => exact h.execRdReqToBlock
  | wrToBlock _ _ => exact h.execWrToBlock
  | cleatSignalPacket _ _ => exact h.execCleatSignalPacket
  | malformedPacket _ _ => exact h.execMalformedPacket
  | preemptNotice _ _ => exact h.execPreemptNotice
  | quiesceDone _ _ => exact h.execQuiesceDone
  | exportMap _ _ => exact h.execExportMap
  | resumeDone _ _ => exact h.execResumeDone
  | armed _ _ => exact h.execArmed
  | watchHit _ _ => exact h.execWatchHit
  | holdRequest _ _ => exact h.execHoldRequest
  | forkRequest _ _ => exact h.execForkRequest
  | readComplete _ => exact h.execReadComplete
  | stagingResponse _ _ _ _ _ => exact h.execStagingResponse
  | stagingResponseTimeout _ _ => exact h.execStagingResponseTimeout
  | hostResponse _ _ => exact h.execHostResponse
  | sensorTransaction _ _ => exact h.execSensorTransaction
  | inBandInterrupt _ _ => exact h.execInBandInterrupt
  | fabricResponseTimeout _ _ => exact h.execFabricResponseTimeout
  | usablePortTimeout _ => exact h.execUsablePortTimeout
  | entryAccept _ _ => exact h.execEntryAccept
  | queuedEntryStart _ _ => exact h.execQueuedEntryStart
  | transferDispatch _ _ _ _ => exact h.execTransferDispatch
  | sheetWorkUnitStart _ _ => exact h.execSheetWorkUnitStart
  | armingEnd _ => exact h.execArmingEnd
  | coalTicksExpiry _ => exact h.execCoalTicksExpiry
  | waitTimeout _ => exact h.execWaitTimeout
  | cutTimeout _ => exact h.execCutTimeout
  | resumeLate _ => exact h.execResumeLate
  | sliceResetTimeout _ => exact h.execSliceResetTimeout
  | heartbeatMiss _ => exact h.execHeartbeatMiss
  | telltaleSample => exact h.execTelltaleSample
  | sensorPoll _ _ => exact h.execSensorPoll
  | spareSelfTest _ => exact h.execSpareSelfTest
  | yardBist _ => exact h.execYardBist
  | dueEntry _ => exact h.execDueEntry
  | lifeRecordWrite => exact h.execLifeRecordWrite
  | idleEntry => exact h.execIdleEntry
  | yardGate _ => exact h.execYardGate
  | powerGoodTimeout _ _ _ _ => exact h.execPowerGoodTimeout
  | lockstepMismatch _ _ => exact h.execLockstepMismatch
  | watchdogExpiry _ _ => exact h.execWatchdogExpiry
  | trap _ _ _ => exact h.execTrap
  | processorRestartComplete _ _ => exact h.execProcessorRestartComplete
  | datapathParityFault _ _ => exact h.execDatapathParityFault
  | laneStall _ _ => exact h.execLaneStall
  | clockFault _ _ => exact h.execClockFault
  | voltageFault _ _ => exact h.execVoltageFault
  | thermalTrip _ => exact h.execThermalTrip
  | keyUnitParityMismatch => exact h.execKeyUnitParityMismatch
  | entropyHealthFailure => exact h.execEntropyHealthFailure
  | debugUnlock => exact h.execDebugUnlock
  | alwaysOnSupplyLoss _ => exact h.execAlwaysOnSupplyLoss
  | mainSupplyRemoval => exact h.execMainSupplyRemoval
  | keyUnitRequestDone => exact h.execKeyUnitRequestDone
  | mainstayUnpairedTimeout => exact h.execMainstayUnpairedTimeout

theorem State.Canonical.aoTick {s : State} (h : s.Canonical) : (aoTick s).Canonical := h.ticks.settle

/-- Settles O21: every command and every tick keeps the forms, function by function. -/
theorem formsStayCanonical : Obligations.FormsStayCanonical := by
  unfold Obligations.FormsStayCanonical
  intro s t h hstep
  unfold step at hstep
  split at hstep
  · exact KeepsForms.next h.aoTick t hstep
  · exact State.Canonical.exec h.frame _ t hstep

end Sys2Proof.Machine
end

section
/-! PROOFS. STAMP, PROTECT and DRAIN (R141, R142, R148, R152, R163): what each does to the generation that it names, and how its entry goes on. -/

namespace Sys2Proof.Machine

open Sys2Proof.Claims

/-! ### Entries that read what they point to (R59) -/

/-- What a read of host memory changes: the block has put out some requests more. -/
def State.issuing (os : List Out) (s : State) : State := { s with issued := s.issued ++ os }

theorem State.readStruct_issuing (s : State) (f addr : Nat) (r : HostRead) : ∃ os, s.readStruct f addr r = s.issuing os :=
  s.readStruct_eq f addr r

section
variable {s : State} {a : Acc}

/-- An entry's row that reads a structure acts by what it does with the accepted entry, where the reads have room (R59, R80). -/
theorem acts_startedRead (h : Fresh s a) (hroom : s.readRoom = true) {c : Instr} {k : Acc → State → State}
    (hc : exec c s = s.doneFixed (s.startedRead a.id k)) {t : State} (hk : k a s = t) : Acts c s t :=
  acts_started h (hc.trans (congrArg s.doneFixed (State.startedRead_room hroom _ _))) hk

/-- An entry that has met nothing works on in a phase, with any count. -/
theorem works_modAcc {f : Acc → Acc} {phase : Phase} (h : s.acc a.id = some a) (hfin : a.fin = none) (hid : ∀ b, (f b).id = b.id)
    (hphase : (f a).phase = phase) (hsame : (f a).fin = a.fin ∧ (f a).conds = a.conds ∧ (f a).op = a.op) :
    Works (s.modAcc a.id f) a phase := by
  obtain ⟨hf, hc, hop⟩ := hsame
  exact ⟨f a, State.acc_modAcc_some f hid h, hphase, hf.trans hfin, hc, hop⟩

end

/-! ### STAMP (R141, R142) -/

/-- What a STAMP entry records, with its blob. -/
def StampF.stamp (f : StampF) (blob : List Byte) : Stamp := ⟨f.ep, f.draws, f.samples, f.perSample, blob⟩

/-- A generation in which a stamp takes the place of its endpoint's earlier one. -/
def Gen.stamped (t : Stamp) (g : Gen) : Gen := { g with stamps := g.stamps.filter (·.ep != t.ep) ++ [t] }

/-- An OPEN generation without its tier-1 record is due no record (R144). -/
theorem State.dueRecord_opened (s : State) {g : Gen} (hopen : g.state = .opened) (hrec : g.recorded 0 = false) : s.dueRecord g = none := by
  simp [State.dueRecord, Gen.safe, hopen, hrec]

theorem State.advance_of_dueRecord_none {s : State} {e : Nat} {g : Gen} (hg : s.gen e = some g) (hdue : s.dueRecord g = none) :
    s.advance e = s := by
  simp only [State.advance, hg, hdue]

section
variable {s : State} {a : Acc} {f : StampF}

section
variable {g : Gen} (hg : s.gen f.epoch = some g) (hjob : g.job = f.job) (hopen : g.state = .opened) (hep : f.ep ∈ g.allHolders)
include hg hjob hopen hep

theorem State.stampRefusal_opened : s.stampRefusal f = none := by
  simp [State.stampRefusal, Option.filter, hg, hjob, hopen, hep]

/-- A stamp of an OPEN generation is recorded, and ends its entry with the epoch; no record of the generation falls due by it. -/
theorem State.putStamp_opened (hrec : g.recorded 0 = false) (blob : List Byte) :
    s.putStamp a f blob = (s.modGen f.epoch (Gen.stamped (f.stamp blob))).endEntry a.id f.epoch := by
  have hgen : ((s.modGen f.epoch (Gen.stamped (f.stamp blob))).endEntry a.id f.epoch).gen f.epoch = some (g.stamped (f.stamp blob)) :=
    State.gen_modGen hg fun _ => rfl
  have hdue := State.advance_of_dueRecord_none hgen (State.dueRecord_opened _ hopen hrec)
  simp only [State.putStamp, State.stampRefusal_opened hg hjob hopen hep]
  exact hdue

end

variable (hsig : a.hdr.sig = false) (hjob : s.jobRefusal a.fn f.job = none) (hno : s.stampRefusal f = none)
include hsig hjob hno

theorem State.runStamp_noBlob (hlen : f.blobLen = 0) : s.runStamp a f = s.putStamp a f [] := by
  simp [State.runStamp, hjob, hno, State.signalRefusal_none _ _ _ hsig, hlen]

/-- With a blob the entry reads it from host memory first. -/
theorem State.runStamp_blob (hlen : f.blobLen ≠ 0) :
    s.runStamp a f = (s.modAcc a.id fun a => { a with phase := .running }).queueXfer a.fn (.stamp a.id)
      [Part.at (.host (s.pasidOf a.fn) f.blob) f.blobLen] [] := by
  simp [State.runStamp, hjob, hno, State.signalRefusal_none _ _ _ hsig, hlen]

end

theorem acts_stamp {s : State} {a : Acc} (h : Fresh s a) {f : StampF} (hop : a.op = .stamp f) : Acts (.stamp a.id) s (s.runStamp a f) :=
  acts_started h rfl (by rw [hop])

/-! ### PROTECT (R148, R152) -/

/-- A generation with its group list, its slot, its directory entry and its place in the manifest store. -/
def Gen.supplied (gr : Groups) (slot idx unit len : Nat) (g : Gen) : Gen :=
  { g with groups := some gr, slot := slot, dirIdx := idx, manUnit := unit, manLen := len }

/-- An entry that waits for a generation. -/
def Acc.waitsFor (e : Nat) (a : Acc) : Acc := { a with phase := .waiting, count := e }

theorem works_waitsFor {s : State} {a : Acc} (h : s.acc a.id = some a) (hfin : a.fin = none) (e : Nat) :
    Works (s.modAcc a.id (Acc.waitsFor e)) a .waiting :=
  works_modAcc h hfin (fun _ => rfl) rfl ⟨rfl, rfl, rfl⟩

theorem State.startScrub_eq (entry base len : Nat) (fill : FillKind) (s : State) :
    ∃ q, s.startScrub entry base len fill = { s with scrubs := q } := by
  unfold State.startScrub
  split_ifs
  · exact ⟨s.scrubs, rfl⟩
  · exact ⟨_, rfl⟩

/-- A supplying PROTECT that takes a free slot gives it to its generation, and its entry waits (R152). -/
theorem State.supply_free {s : State} {a : Acc} {g : Gen} (ha : s.acc a.id = some a) (hfin : a.fin = none) (hg : s.gen g.epoch = some g)
    (gr : Groups) (slot unit : Nat) :
    Works (s.supply a g gr (slot, none, unit)) a .waiting ∧
      ∃ idx len, (s.supply a g gr (slot, none, unit)).gen g.epoch = some (g.supplied gr slot idx unit len) := by
  have hsupply : ∃ m q, s.supply a g gr (slot, none, unit) = (({ s with manStore := m, scrubs := q } : State).modGen g.epoch
      (Gen.supplied gr slot s.freeDir unit (g.manTotal gr.members.length))).modAcc a.id (Acc.waitsFor g.epoch) := by
    unfold State.supply
    dsimp only
    split_ifs
    · obtain ⟨q, hq⟩ := State.startScrub_eq _ _ _ _ _
      rw [hq]
      exact ⟨_, q, rfl⟩
    · exact ⟨_, s.scrubs, rfl⟩
  obtain ⟨m, q, hs⟩ := hsupply
  rw [hs]
  exact ⟨works_waitsFor ha hfin _, _, _,
    State.gen_modGen (f := Gen.supplied gr slot s.freeDir unit (g.manTotal gr.members.length)) hg fun _ => rfl⟩

/-- Tier 2 is refused only where there is no staging (R39). -/
theorem tier2_staged {f : ProtectF} {staging : Bool} (h : f.tiers / 2 % 2 = 0 ∨ staging = true) : (bitOf f.tiers 1 && !staging) = false := by
  rcases h with h | h <;> simp [bitOf, h]

section
variable {s : State} {a : Acc} {f : ProtectF} {bs : List Byte} {g : Gen} (hok : groupListOk f bs = true)
  (hjob : s.jobRefusal a.fn f.job = none) (hstage : f.tiers / 2 % 2 = 0 ∨ s.setup.hasStaging = true) (hg : s.protectGen f = some g)
include hok hjob hstage hg

theorem State.runProtect_supplying (hgroups : g.groups = none) (hno : s.supplyRefusal a f g (s.groupsOf f bs) = none)
    {slot : Nat × Option Gen × Nat}
    (hslot : s.assignSlot g.job (s.groupsOf f bs).slots (g.manTotal (s.groupsOf f bs).members.length) = some slot) :
    s.runProtect a f (.data bs) = s.supply a g (s.groupsOf f bs) slot := by
  simp [State.runProtect, readBytes, hok, hjob, tier2_staged hstage, hg, hgroups, hno, hslot]

theorem State.runProtect_repeating (hsig : a.hdr.sig = false) {held : Groups} (hgroups : g.groups = some held)
    (hno : repeatRefusal f g held (s.groupsOf f bs) = none) (hsafe : g.safe = true) (hpoison : g.poisonCount = 0) :
    s.runProtect a f (.data bs) = s.endEntry a.id g.epoch := by
  simp [State.runProtect, readBytes, hok, hjob, tier2_staged hstage, hg, hgroups, hno, State.signalRefusal_none _ _ _ hsig, hsafe, hpoison,
    State.meetPoison]

end

/-- PROTECT reads its group list, and then acts on it. -/
theorem acts_protect {s : State} {a : Acc} (h : Fresh s a) (hroom : s.readRoom = true) {f : ProtectF} {bs : List Byte}
    (hop : a.op = .protect f) : ∃ os, Acts (.protect a.id (.data bs)) s
      ((s.issuing os).runProtect a f (.data bs)) := by
  obtain ⟨os, hos⟩ := s.readStruct_issuing a.fn f.groupList (.data bs)
  exact ⟨os, acts_startedRead h hroom rfl (by rw [hop, ← hos])⟩

/-! ### DRAIN (R163) -/

/-- A generation that a DRAIN entry is to drain, with the entry's priority. -/
def Gen.drainFor (e prio : Nat) (g : Gen) : Gen := { g with drainBy := some e, prio := prio }

theorem State.runDrain_unrefused {s : State} {a : Acc} {f : DrainF} {g : Gen} (hno : s.drainRefusal a f = none)
    (hg : s.drainGen f = some g) :
    s.runDrain a f = (s.modGen g.epoch (Gen.drainFor a.id f.priority)).modAcc a.id (Acc.waitsFor g.epoch) := by
  simp only [State.runDrain, hno, State.orRefuse_none, hg]
  rfl

/-- Settles O26, entry by entry: a stamp without a blob at once and one with a blob by a read; a PROTECT by whether its generation holds a
group list; a DRAIN by the mark of its generation. -/
theorem gensProtected : Obligations.GensProtected := by
  intro s a g hfresh hplain
  have ⟨ha, _, hfin⟩ := hfresh
  obtain ⟨hsig, -⟩ := hplain
  refine ⟨fun f hop hlen hjob hg hgjob hopen hrec hep => ?_, fun f hop hlen hjob hno => ?_,
    fun f bs hop hroom hok hjob hstage hg hgen => ?_, fun f hop hno hg hgen => ?_⟩
  · have hacts := acts_stamp hfresh hop
    rw [State.runStamp_noBlob hsig hjob (State.stampRefusal_opened hg hgjob hopen hep) hlen,
      State.putStamp_opened hg hgjob hopen hep hrec] at hacts
    exact ⟨_, hacts, State.acc_endEntry_some ha hfin _, State.gen_modGen (f := Gen.stamped (f.stamp [])) hg fun _ => rfl⟩
  · have hacts := acts_stamp hfresh hop
    rw [State.runStamp_blob hsig hjob hno hlen] at hacts
    exact ⟨_, _, hacts, works_modAcc ha hfin (fun _ => rfl) rfl ⟨rfl, rfl, rfl⟩, FMap.find_put_self _ _ _, rfl, rfl, rfl⟩
  · obtain ⟨os, hacts⟩ := acts_protect (bs := bs) hfresh hroom hop
    refine ⟨fun slot unit hgroups hno hslot => ?_, fun held hgroups hno hsafe hpoison => ?_⟩
    · rw [State.runProtect_supplying (s := s.issuing os) hok hjob hstage hg hgroups hno hslot] at hacts
      obtain ⟨hworks, idx, len, hsupplied⟩ := State.supply_free (s := s.issuing os) ha hfin hgen (s.groupsOf f bs) slot unit
      exact ⟨_, _, hacts, hworks, hsupplied, rfl, rfl, rfl, rfl, rfl⟩
    · rw [State.runProtect_repeating (s := s.issuing os) hok hjob hstage hg hsig hgroups hno hsafe hpoison] at hacts
      exact ⟨_, hacts, State.acc_endEntry_some ha hfin _, rfl⟩
  · have hacts : Acts (.drain a.id) s (s.runDrain a f) := acts_started hfresh rfl (by rw [hop])
    rw [State.runDrain_unrefused hno hg] at hacts
    exact ⟨_, hacts, works_waitsFor ha hfin _, State.gen_modGen (f := Gen.drainFor a.id f.priority) hgen fun _ => rfl, rfl⟩

end Sys2Proof.Machine
end

section
/-! PROOFS. GEN_OPEN and CUT (R26, R101, R106 to R109, R132, R136, logs 77, 101 and 148): a generation opens, and a step of its job is marked,
deferred, refused or cut. -/

namespace Sys2Proof.Machine

open Sys2Proof.Claims

/-! ### Entries that are malformed as they are read (R26, R94) -/

theorem State.haltFn_accepted (f cause index qid : Nat) (s : State) : (s.haltFn f cause index qid).accepted = s.accepted := by
  unfold State.haltFn
  split_ifs
  · rfl
  · rfl

theorem State.haltFn_gens (f cause index qid : Nat) (s : State) : (s.haltFn f cause index qid).gens = s.gens := by
  unfold State.haltFn
  split_ifs
  · rfl
  · rfl

theorem State.haltFn_epochSeq (f cause index qid : Nat) (s : State) : (s.haltFn f cause index qid).epochSeq = s.epochSeq := by
  unfold State.haltFn
  split_ifs
  · rfl
  · rfl

section
variable {s : State} {a : Acc} (ha : s.acc a.id = some a) (hq : a.sq ≠ 0) (off reason : Nat)
include ha hq

/-- A malformed entry of an I/O queue halts its function, is logged and ends. -/
theorem State.malformed_eq : s.malformed a.id off reason =
    ((s.haltFn a.fn 1 a.idx a.sq).logFn 0x0201 a.fn [malformedInfo a off reason]).failEntry a.id 0x80 (malformedInfo a off reason) := by
  simp [State.malformed, ha, hq]

theorem endsWith_malformed (hfin : a.fin = none) (hconds : a.conds = []) :
    EndsWith (s.malformed a.id off reason) a 0x80 (malformedInfo a off reason) := by
  rw [State.malformed_eq ha hq, EndsWith, hconds]
  refine State.acc_failEntry_some ((State.acc_of_accepted ?_ a.id).trans ha) hfin hconds _ _
  rw [State.logFn_accepted, State.haltFn_accepted]

theorem State.malformed_gens : (s.malformed a.id off reason).gens = s.gens := by
  rw [State.malformed_eq ha hq, State.failEntry_gens, State.logFn_gens, State.haltFn_gens]

theorem State.malformed_epochSeq : (s.malformed a.id off reason).epochSeq = s.epochSeq := by
  rw [State.malformed_eq ha hq, State.failEntry_epochSeq, State.logFn_epochSeq, State.haltFn_epochSeq]

end

/-! ### Where nothing attaches with Belay (R107, R113) -/

theorem State.belayHolders_nil {s : State} (h : ∀ ep, s.belayOf ep = 0) (g : Gen) : s.belayHolders g = [] := by
  simp [State.belayHolders, h]

/-- No segment is watched. -/
theorem State.watchAll_noBelay {s : State} (h : ∀ ep, s.belayOf ep = 0) (e : Nat) : s.watchAll e = s := by
  unfold State.watchAll
  split
  · rfl
  · rw [State.belayHolders_nil h, List.foldl_nil, ite_self]

theorem State.epochs_modGen {e : Nat} {f : Gen → Gen} (hf : ∀ g, (f g).epoch = g.epoch) (s : State) :
    (s.modGen e f).gens.map (·.epoch) = s.gens.map (·.epoch) := by
  unfold State.modGen
  rw [List.map_map]
  refine List.map_congr_left fun g _ => ?_
  simp only [Function.comp]
  split_ifs
  · exact hf g
  · rfl

/-- A segment at a step mark: a hit begins its stable steps anew (R113). -/
def Seg.marked (x : Seg) : Seg :=
  if x.hit then { x with stable := 0, hit := false } else if x.watch then { x with stable := x.stable + 1 } else x

/-- A generation at a step mark. -/
def Gen.marked (g : Gen) : Gen := { g with segs := g.segs.map Seg.marked }

/-- Without LOOKAHEAD a step mark starts no copy, and without Belay it arms nothing: it counts steps in segments. -/
theorem State.stepMark_noBelay {s : State} {e : Nat} {g : Gen} (hg : s.gen e = some g) (hlook : g.lookahead = 0)
    (h : ∀ ep, s.belayOf ep = 0) : ∃ gs, s.stepMark e = { s with gens := gs } ∧ gs.map (·.epoch) = s.gens.map (·.epoch) := by
  unfold State.stepMark
  split
  · exact ⟨s.gens, rfl, rfl⟩
  · rename_i k hk
    obtain rfl := Option.some.inj (hk.symm.trans hg)
    split
    · exact ⟨s.gens, rfl, rfl⟩
    · extract_lets hit u m start v
      have hm : m = k.marked := congrArg (Option.getD · k) (State.gen_modGen (f := Gen.marked) hg fun _ => rfl)
      have hstart : start = [] := if_pos (by rw [hm, Bool.or_eq_true]; exact .inl (decide_eq_true hlook))
      have hv : v = u := by rw [show v = start.foldl _ u from rfl, hstart, List.foldl_nil]
      rw [hv, State.belayHolders_nil (s := u) h]
      exact ⟨_, rfl, s.epochs_modGen (e := e) (f := Gen.marked) fun _ => rfl⟩

/-! ### GEN_OPEN (R101, R107) -/

/-- A job that is bound changes jobs and counters only. -/
theorem State.bindJob_eq (job fn : Nat) (s : State) : ∃ c j, s.bindJob job fn = { s with ctr := c, jobs := j } := by
  unfold State.bindJob
  split_ifs
  · exact ⟨s.ctr, s.jobs, rfl⟩
  · dsimp only
    split
    · exact ⟨_, _, rfl⟩
    · exact ⟨s.ctr, _, rfl⟩

/-- A job that is bound is as it was, or new without a notice (R107). -/
theorem State.find_bindJob {s : State} {job fn : Nat} (hno : ∀ j, FMap.find s.jobs job = some j → j.notice = false) :
    ∃ j, FMap.find (s.bindJob job fn).jobs job = some j ∧ j.notice = false := by
  unfold State.bindJob
  split_ifs with hhas
  · obtain ⟨j, hj⟩ := Option.isSome_iff_exists.mp hhas
    exact ⟨j, hj, hno j hj⟩
  · exact ⟨_, FMap.find_put_self _ _ _, rfl⟩

/-- The state after a GEN_OPEN's job is bound and its generation made. -/
def State.opened (s : State) (a : Acc) (f : GenOpenF) (list input : List Byte) : State :=
  let u := s.bindJob f.job a.fn
  { u with epochSeq := u.epochSeq + 1, gens := u.gens ++ [newGen f a.fn (u.pasidOf a.fn) s.nextEpoch list input] }

section
variable {s : State} {a : Acc} {f : GenOpenF} {list input : List Byte}
  (hlist : regionListOk f list (some (inputCounts input).1) = true) (hpause : s.pauseForeign a.fn list = false)
include hlist hpause

/-- A list that is well formed but for its bases is looked at before the input section (log 77). -/
theorem State.runGenOpen_misaligned (hmis : misaligned (parseRegions list f.regions) = true) :
    s.runGenOpen a f (.data list) (.data input) = s.malformed a.id 32 4 := by
  simp [State.runGenOpen, readBytes, hlist, hpause, hmis]

theorem State.runGenOpen_opened (hmis : misaligned (parseRegions list f.regions) = false)
    (hinput : inputOk f (parseRegions list f.regions) input = true)
    (hno : s.genOpenRefusal a f (parseRegions list f.regions) = none) (hbelay : ∀ ep, s.belayOf ep = 0)
    (hnotice : ∀ j, FMap.find s.jobs f.job = some j → j.notice = false) :
    s.runGenOpen a f (.data list) (.data input) = (s.opened a f list input).endEntry a.id s.nextEpoch := by
  obtain ⟨j, hj, hjn⟩ := State.find_bindJob (fn := a.fn) hnotice
  obtain ⟨c, js, hbind⟩ := State.bindJob_eq f.job a.fn s
  have hwatch : (s.opened a f list input).watchAll s.nextEpoch = s.opened a f list input :=
    State.watchAll_noBelay (by unfold State.opened; rw [hbind]; exact hbelay) _
  rw [← hwatch]
  simp [State.runGenOpen, readBytes, hlist, hpause, hmis, hinput, hno, hj, hjn, State.opened]

end

theorem acts_genOpen {s : State} {a : Acc} (h : Fresh s a) (hroom : s.readRoom = true) {f : GenOpenF} {list input : List Byte}
    (hop : a.op = .genOpen f) : ∃ os, Acts (.genOpen a.id (.data list) (.data input)) s
      ((s.issuing os).runGenOpen a f (.data list) (.data input)) := by
  obtain ⟨os, hos⟩ := s.readStruct_issuing a.fn f.regionList (.data list)
  obtain ⟨ps, hps⟩ := (s.issuing os).readStruct_issuing a.fn f.manifest (.data input)
  have htwice : (s.issuing os).issuing ps = s.issuing (os ++ ps) := by simp [State.issuing]
  exact ⟨os ++ ps, acts_startedRead h hroom rfl (by rw [hop, ← htwice, ← hps, ← hos])⟩

theorem gensOpened : Claims.GensOpened := by
  intro s a f list input hfresh hplain hop hroom hlist hpause
  have ⟨ha, _, hfin⟩ := hfresh
  obtain ⟨hsig, hconds⟩ := hplain
  obtain ⟨os, hacts⟩ := acts_genOpen (list := list) (input := input) hfresh hroom hop
  refine ⟨fun hmis hq => ?_, fun hmis hinput hno hbelay hnotice => ?_⟩
  · rw [State.runGenOpen_misaligned (s := s.issuing os) hlist hpause hmis] at hacts
    exact ⟨_, hacts, endsWith_malformed (s := s.issuing os) ha hq _ _ hfin hconds, State.malformed_gens (s := s.issuing os) ha hq _ _,
      State.malformed_epochSeq (s := s.issuing os) ha hq _ _⟩
  · rw [State.runGenOpen_opened (s := s.issuing os) hlist hpause hmis hinput hno hbelay hnotice] at hacts
    obtain ⟨c, js, hbind⟩ := State.bindJob_eq f.job a.fn (s.issuing os)
    obtain ⟨j, hj, -⟩ := State.find_bindJob (s := s.issuing os) (fn := a.fn) hnotice
    have hopened : (s.issuing os).opened a f list input = { s.issuing os with
        ctr := c, jobs := js, epochSeq := s.epochSeq + 1,
        gens := s.gens ++ [newGen f a.fn (s.pasidOf a.fn) s.nextEpoch list input] } := by
      rw [State.opened, hbind]
      rfl
    rw [hbind] at hj
    rw [hopened] at hacts
    exact ⟨_, hacts, State.acc_endEntry_some ha hfin _, rfl, rfl, Option.isSome_iff_exists.mpr ⟨j, hj⟩, rfl, rfl⟩

/-! ### CUT (R108, R109, R132) -/

/-- A cut of the generation is under way, or a generation of its job is CUT (R109). -/
def State.cutBusy (s : State) (job : Nat) (g : Gen) : Bool := g.cutting.isSome || (s.gensOf job).any (·.state == .cut)

/-- A job that stands so after a mark at a step. -/
def State.markJob (job step : Nat) (m : Job) (s : State) : State := s.modJob job fun _ => { m with lastStep := some step }

/-- A trigger that stays due while another cut is under way, which the job counts (log 101). -/
def State.defer (job : Nat) (m : Job) (s : State) : State :=
  match m.idx with
  | some i => (s.modJob job fun j => { j with interval := true }).bump (ctrId 0xB i 2)
  | none => s.modJob job fun j => { j with interval := true }

/-- What a CUT that is in order does with the OPEN generation of its job, which stands at the mark as given. -/
def State.takeCut (a : Acc) (job step : Nat) (g : Gen) (m : Job) (s : State) : State :=
  if m.cutDue step && !s.cutBusy job g && g.groups.isNone then
    (s.modJob job fun _ => { m with interval := true }).failEntry a.id 0x40 16
  else if !m.cutDue step then ((s.markJob job step m).stepMark g.epoch).endEntry a.id 0
  else if s.cutBusy job g then (((s.markJob job step m).defer job m).stepMark g.epoch).endEntry a.id 0
  else (s.markJob job step m).startCut a.id step g

/-- Baselines that are set stay (R136). -/
theorem State.jobAtMark_based {s : State} {job : Nat} {j : Job} (hj : FMap.find s.jobs job = some j) (hbase : j.base ≠ none) (a : Acc)
    (step : Nat) : s.jobAtMark a job step = s.markLevel j := by
  obtain ⟨b, hb⟩ := Option.ne_none_iff_exists'.mp hbase
  have hsame : { j with base := j.base.orElse fun _ => some (step, s.lifeAt a) } = j := by rw [hb, Option.orElse_some, ← hb]
  simp only [State.jobAtMark, hj, Option.getD_some, hsame]

section
variable {s : State} {a : Acc} {job step : Nat} {j : Job} (hfn : j.fn = a.fn) (hj : FMap.find s.jobs job = some j)
include hfn hj

theorem State.jobRefusal_own : s.jobRefusal a.fn job = none := by
  simp [State.jobRefusal, hj, hfn]

theorem State.runCut_stepOrder {l : Nat} (hl : j.lastStep = some l) (hle : step ≤ l) :
    s.runCut a job step = s.failEntry a.id 0x64 l := by
  simp [State.runCut, State.jobRefusal_own hfn hj, hj, hl, hle]

theorem State.runCut_inOrder {g : Gen} (hbase : j.base ≠ none) (hg : s.openGen job = some g)
    (horder : ∀ l, j.lastStep = some l → l < step) (hsig : a.hdr.sig = false) :
    s.runCut a job step = s.takeCut a job step g (s.markLevel j) := by
  have hmark := State.jobAtMark_based hj hbase a step
  have hown := State.jobRefusal_own hfn hj
  have hsignal := s.signalRefusal_none a.fn a.hdr hsig
  cases hl : j.lastStep with
  | none =>
    simp only [State.runCut, hown, hj, Option.bind_some, hl, hg, Option.isNone_some, refuse_false, firstCond_cons_none, firstCond_nil,
      State.orRefuse_none, hmark, hsignal]
    rfl
  | some l =>
    simp only [State.runCut, hown, hj, Option.bind_some, hl, decide_eq_false (Nat.not_le.mpr (horder l hl)), hg, Option.isNone_some,
      refuse_false, firstCond_cons_none, firstCond_nil, State.orRefuse_none, hmark, hsignal]
    rfl

end

section
variable {s : State} {job step : Nat} {g : Gen} {m : Job} (a : Acc)

theorem State.takeCut_notDue (hdue : m.cutDue step = false) :
    s.takeCut a job step g m = ((s.markJob job step m).stepMark g.epoch).endEntry a.id 0 := by
  simp [State.takeCut, hdue]

theorem State.cutBusy_of_cutting (h : g.cutting ≠ none) : s.cutBusy job g = true := by
  simp [State.cutBusy, Option.isSome_iff_ne_none.mpr h]

theorem State.cutBusy_eq_false (h : g.cutting = none) (hall : (s.gensOf job).all (fun k => k.state != .cut) = true) :
    s.cutBusy job g = false := by
  simpa [State.cutBusy, h] using hall

variable (hdue : m.cutDue step = true)
include hdue

theorem State.takeCut_deferred (hbusy : s.cutBusy job g = true) :
    s.takeCut a job step g m = (((s.markJob job step m).defer job m).stepMark g.epoch).endEntry a.id 0 := by
  simp [State.takeCut, hdue, hbusy]

theorem State.takeCut_ungrouped (hbusy : s.cutBusy job g = false) (hgroups : g.groups = none) :
    s.takeCut a job step g m = (s.modJob job fun _ => { m with interval := true }).failEntry a.id 0x40 16 := by
  simp [State.takeCut, hdue, hbusy, hgroups]

theorem State.takeCut_starts (hbusy : s.cutBusy job g = false) (hgroups : g.groups ≠ none) :
    s.takeCut a job step g m = (s.markJob job step m).startCut a.id step g := by
  simp [State.takeCut, hdue, hbusy, hgroups]

end

theorem State.find_modJob {s : State} {job : Nat} {j : Job} (hj : FMap.find s.jobs job = some j) (f : Job → Job) :
    FMap.find (s.modJob job f).jobs job = some (f j) :=
  (FMap.find_modify_self ..).trans (congrArg _ hj)

/-- A deferred trigger changes jobs and counters only. -/
theorem State.defer_eq (job : Nat) (m : Job) (s : State) :
    ∃ c, s.defer job m = { s.modJob job fun j => { j with interval := true } with ctr := c } := by
  unfold State.defer
  split
  · exact ⟨_, rfl⟩
  · exact ⟨s.ctr, rfl⟩

/-- What the packets to several endpoints change. -/
theorem State.foldl_sendProto (s : State) (f : State → Nat → Pkt) (eps : List Nat) : ∃ l c i w e,
    eps.foldl (fun s ep => s.sendProto (f s ep) []) s = { s with links := l, ctr := c, issued := i, waitPkts := w, eps := e } := by
  induction eps generalizing s with
  | nil => exact ⟨s.links, s.ctr, s.issued, s.waitPkts, s.eps, rfl⟩
  | cons ep eps ih =>
    obtain ⟨_, _, _, _, _, hsend⟩ := s.sendProto_eq (f s ep) []
    obtain ⟨l, c, i, w, e, hrest⟩ := ih (s.sendProto (f s ep) [])
    exact ⟨l, c, i, w, e, by rw [List.foldl_cons, hrest, hsend]⟩

/-- The cut that a CUT entry begins by asking endpoints to quiesce (R132). -/
def quiesceCut (entry step since : Nat) (await : List Nat) : Cutting :=
  { entry := entry, step := step, stage := .quiesce, await := await, since := since }

/-- A generation whose cut has come so far. -/
def Gen.cutBegun (c : Cutting) (g : Gen) : Gen := { g with cutting := some c }

/-- A cut of the generation begins, and its entry waits (R132). -/
def State.beginCut (c : Cutting) (g : Gen) (s : State) : State :=
  (s.modGen g.epoch (Gen.cutBegun c)).modAcc c.entry (Acc.waitsFor g.epoch)

/-- A full-image cut begins with the endpoints asked to quiesce, and its entry waits (R132). -/
theorem State.startCut_fullImage {s : State} {a : Acc} {g : Gen} (ha : s.acc a.id = some a) (hfin : a.fin = none) (hfull : g.fullImage = true)
    (hg : s.gen g.epoch = some g) (step : Nat) :
    Works (s.startCut a.id step g) a .waiting ∧
      (s.startCut a.id step g).gen g.epoch = some (g.cutBegun (quiesceCut a.id step s.now g.holders)) ∧
      (s.startCut a.id step g).jobs = s.jobs := by
  have hbegun : (s.beginCut (quiesceCut a.id step s.now []) g).gen g.epoch = some (g.cutBegun (quiesceCut a.id step s.now [])) :=
    State.gen_modGen hg fun _ => rfl
  obtain ⟨l, c, i, w, e, hsent⟩ :=
    ((s.beginCut (quiesceCut a.id step s.now []) g).awaitCut g.epoch .quiesce g.holders).foldl_sendProto
      (fun s ep => { s.pkt 0x3 0x01 ep with argA := g.epoch, slice := g.fn }) g.holders
  have hstart : s.startCut a.id step g =
      { (s.beginCut (quiesceCut a.id step s.now []) g).awaitCut g.epoch .quiesce g.holders with
        links := l, ctr := c, issued := i, waitPkts := w, eps := e } := by
    rw [← hsent]
    simp only [State.startCut, hfull, if_true]
    rfl
  rw [hstart]
  exact ⟨works_waitsFor ha hfin g.epoch, State.gen_modGen hbegun fun _ => rfl, rfl⟩

theorem cutsTaken : Claims.CutsTaken := by
  intro s a job step g j hfresh hplain hop hfn hj hbase hg hgen
  have ⟨ha, _, hfin⟩ := hfresh
  obtain ⟨hsig, hconds⟩ := hplain
  have hrun : Acts (.cut a.id) s (s.runCut a job step) := acts_started hfresh rfl (by rw [hop])
  refine ⟨fun l hl hle => ?_, fun horder => ?_⟩
  · rw [State.runCut_stepOrder hfn hj hl hle] at hrun
    exact ⟨endsWith_failEntry hfresh hconds rfl _ _, hrun⟩
  have hmarked : FMap.find (s.markJob job step (s.markLevel j)).jobs job = some { s.markLevel j with lastStep := some step } :=
    State.find_modJob hj _
  rw [State.runCut_inOrder hfn hj hbase hg horder hsig] at hrun
  refine ⟨fun hdue hbelay hlook => ?_, fun hdue hcutting hbelay hlook => ?_, fun hdue hcutting hall => ⟨fun hgroups => ?_,
    fun hgroups hfull => ?_⟩⟩
  · rw [State.takeCut_notDue a hdue] at hrun
    obtain ⟨gs, hmark, hepochs⟩ := State.stepMark_noBelay (s := s.markJob job step (s.markLevel j)) hgen hlook hbelay
    rw [hmark] at hrun
    exact ⟨_, hrun, State.acc_endEntry_some ha hfin 0, hmarked, rfl, hepochs⟩
  · rw [State.takeCut_deferred a hdue (State.cutBusy_of_cutting hcutting)] at hrun
    obtain ⟨c, hdefer⟩ := State.defer_eq job (s.markLevel j) (s.markJob job step (s.markLevel j))
    rw [hdefer] at hrun
    obtain ⟨gs, hmark, hepochs⟩ := State.stepMark_noBelay
      (s := { (s.markJob job step (s.markLevel j)).modJob job fun j => { j with interval := true } with ctr := c }) hgen hlook hbelay
    rw [hmark] at hrun
    exact ⟨_, hrun, State.acc_endEntry_some ha hfin 0, State.find_modJob hmarked _, rfl, hepochs⟩
  · rw [State.takeCut_ungrouped a hdue (State.cutBusy_eq_false hcutting hall) hgroups] at hrun
    exact ⟨_, hrun, endsWith_failEntry hfresh hconds rfl _ _, State.find_modJob hj _, rfl, rfl⟩
  · rw [State.takeCut_starts a hdue (State.cutBusy_eq_false hcutting hall) hgroups] at hrun
    obtain ⟨hworks, hcut, hjobs⟩ := State.startCut_fullImage (s := s.markJob job step (s.markLevel j)) ha hfin hfull hgen step
    exact ⟨_, _, _, hrun, hworks, hcut, rfl, rfl, rfl, rfl, rfl, rfl, hjobs ▸ hmarked⟩

/-- Settles O57: GEN_OPEN by what its region list holds, and CUT by the order of its step, its trigger, the cuts under way and the group
list. -/
theorem gensOpenedAndCut : Obligations.GensOpenedAndCut := ⟨gensOpened, cutsTaken⟩

end Sys2Proof.Machine
end

section
/-! PROOFS. RESTORE and RESTORE_SPARE (R170, R172, R173, R198, log 120): how a restore whose choice is made runs, and which entries come to
that, at their acceptance or out of the queue of their job. -/

namespace Sys2Proof.Machine

open Sys2Proof.Claims

/-! ### What leaves restores, entries and generations alone -/

/-- The restores, the accepted entries and the generations stay. -/
def State.KeepsRests (s t : State) : Prop := t.restores = s.restores ∧ t.accepted = s.accepted ∧ t.gens = s.gens

theorem State.KeepsRests.refl (s : State) : s.KeepsRests s := ⟨rfl, rfl, rfl⟩

theorem State.KeepsRests.trans {s t u : State} (h : s.KeepsRests t) (k : t.KeepsRests u) : s.KeepsRests u := by
  obtain ⟨hr, ha, hg⟩ := h
  obtain ⟨kr, ka, kg⟩ := k
  exact ⟨kr.trans hr, ka.trans ha, kg.trans hg⟩

theorem State.KeepsRests.foldl {α : Type} {f : State → α → State} (h : ∀ (s : State) a, s.KeepsRests (f s a)) (l : List α) (s : State) :
    s.KeepsRests (l.foldl f s) := by
  induction l generalizing s with
  | nil => exact .refl s
  | cons a l ih => exact (h s a).trans (ih (f s a))

theorem State.KeepsRests.ite {s t u : State} {c : Prop} [Decidable c] (h : s.KeepsRests t) (k : s.KeepsRests u) :
    s.KeepsRests (if c then t else u) := by
  split_ifs
  · exact h
  · exact k

theorem State.restoring_of_restores {s t : State} (h : t.restores = s.restores) (e : Nat) : t.restoring e = s.restoring e := by
  rw [State.restoring, h, State.restoring]

/-! ### The transfers of a restore are queued (R200, R208) -/

theorem State.keepsRests_queueXfer (fn : Nat) (w : Work) (srcs dsts : List Part) (s : State) :
    s.KeepsRests (s.queueXfer fn w srcs dsts) := ⟨rfl, rfl, rfl⟩

theorem State.keepsRests_queueRest (e : Nat) (g : Gen) (member tier a len inType outType dst scaleDst : Nat) (s : State) :
    s.KeepsRests (s.queueRest e g member tier a len inType outType dst scaleDst) :=
  .ite (.refl s) (s.keepsRests_queueXfer ..)

theorem State.keepsRests_queueRegion (e : Nat) (g : Gen) (tier ri dst : Nat) (s : State) : s.KeepsRests (s.queueRegion e g tier ri dst) := by
  unfold State.queueRegion
  split
  · exact .refl s
  · exact .foldl (fun s _ => s.keepsRests_queueRest ..) _ s

theorem State.keepsRests_queueGather (e : Nat) (g : Gen) (tier : Nat) (x : Gather) (s : State) : s.KeepsRests (s.queueGather e g tier x) :=
  .foldl (fun s _ => .foldl (fun s _ => s.keepsRests_queueRest ..) _ s) _ s

theorem State.keepsRests_queueMembers (e : Nat) (ms : List Nat) (s : State) : s.KeepsRests (s.queueMembers e ms) := by
  unfold State.queueMembers
  split
  · exact .refl s
  split
  · exact .refl s
  dsimp only
  split
  · exact .foldl (fun s _ => .foldl (fun s _ => s.keepsRests_queueRegion ..) _ s) _ s
  · refine .trans (.foldl (fun s _ => .ite (s.keepsRests_queueGather ..) (.refl s)) _ s) (.foldl (fun (s : State) c => ?_) _ _)
    split
    · exact .ite (s.keepsRests_queueRegion ..) (.refl s)
    · exact .refl s

theorem State.keepsRests_sendProto (p : Pkt) (bs : List PByte) (s : State) : s.KeepsRests (s.sendProto p bs) := by
  obtain ⟨_, _, _, _, _, hsend⟩ := s.sendProto_eq p bs
  exact hsend ▸ ⟨rfl, rfl, rfl⟩

theorem State.keepsRests_queueCheck (e : Nat) (s : State) : s.KeepsRests (s.queueCheck e) := by
  unfold State.queueCheck
  split
  · exact .refl s
  split
  · exact .refl s
  · exact .ite (s.keepsRests_queueXfer ..) (.refl s)

/-! ### A restore starts (R170, R173) -/

/-- In `t` the restore `r` runs with this choice, and its entry with it; the generations are those of `s`. -/
def State.StartsRest (s t : State) (r : Restoring) (g : Gen) (src : List Nat) : Prop :=
  ∃ x b, t.restoring r.entry = some x ∧ x.epoch = g.epoch ∧ x.src = src ∧ x.job = r.job ∧ x.lost = r.lost ∧ x.spare = r.spare ∧
    t.acc r.entry = some b ∧ b.phase = .running ∧ b.fin = none ∧ t.gens = s.gens

theorem State.StartsRest.keeps {s t u : State} {r : Restoring} {g : Gen} {src : List Nat} (h : s.StartsRest t r g src)
    (k : t.KeepsRests u) : s.StartsRest u r g src := by
  obtain ⟨kr, ka, kg⟩ := k
  rwa [State.StartsRest, State.restoring_of_restores kr, State.acc_of_accepted ka, kg]

/-- A change of a restore is found under its entry. -/
theorem State.restoring_modRest {s : State} {e : Nat} {r : Restoring} (h : s.restoring e = some r) {f : Restoring → Restoring}
    (hf : ∀ r, (f r).entry = r.entry) : (s.modRest e f).restoring e = some (f r) := by
  have hkeep : ((·.entry == e) ∘ fun r : Restoring => if r.entry = e then f r else r) = (·.entry == e) := by
    funext x
    simp only [Function.comp]
    split_ifs
    · rw [hf]
    · rfl
  have he : r.entry = e := by simpa using List.find?_some h
  rw [State.restoring] at h ⊢
  rw [State.modRest, List.find?_map, hkeep, h, Option.map_some, if_pos he]

/-- The restore that is added for an entry without one is the entry's. -/
theorem State.restoring_append {s : State} {r : Restoring} (h : ∀ x ∈ s.restores, x.entry ≠ r.entry) :
    ({ s with restores := s.restores ++ [r] } : State).restoring r.entry = some r := by
  have hnone : s.restores.find? (·.entry == r.entry) = none := List.find?_eq_none.mpr fun x hx => by simpa using h x hx
  simp [State.restoring, List.find?_append, hnone]

/-- An entry that runs. -/
def Acc.runs (a : Acc) : Acc := { a with phase := .running }

/-- A restore that begins, with the members that count as done and the endpoints that are not written (R176 item 4). -/
def Restoring.begun (done stops : List Nat) (r : Restoring) : Restoring := { r with doneMembers := done, stops := stops }

/-- The choice is put in force, with the warning that it gives (Table 5-8). -/
theorem State.startsRest_putChoice {s t : State} {r : Restoring} {a : Acc} {done stops : List Nat}
    (hr : t.restoring r.entry = some (r.begun done stops)) (ha : t.acc r.entry = some a.runs) (hfin : a.fin = none)
    (hgens : t.gens = s.gens) (g : Gen) (src : List Nat) : s.StartsRest (t.putChoice r.entry g src) r g src := by
  have hchosen := State.restoring_modRest hr (f := fun r => { r with
    t3Checked := r.t3Checked && r.epoch == g.epoch, epoch := g.epoch, src := src }) fun _ => rfl
  have hacc := State.acc_modAcc_some (fun b : Acc => { b with conds := b.conds.filter fun c => c.status != 0x12 && c.status != 0x13 })
    (fun _ => rfl) ha
  unfold State.putChoice
  extract_lets u v
  split
  · refine ⟨_, _, hchosen, rfl, rfl, rfl, rfl, rfl, (State.acc_meet v ..).trans (congrArg _ hacc), ?_, ?_, hgens⟩
    · dsimp only
      split_ifs <;> rfl
    · dsimp only
      split_ifs <;> exact hfin
  · exact ⟨_, _, hchosen, rfl, rfl, rfl, rfl, rfl, hacc, rfl, hfin, hgens⟩

/-- The destinations of a full-image restore are asked to quiesce (R201). -/
theorem State.StartsRest.quiesceDests {s t : State} {r : Restoring} {g : Gen} {src : List Nat} (h : s.StartsRest t r g src) :
    s.StartsRest (t.quiesceDests r.entry) r g src := by
  unfold State.quiesceDests
  split
  · exact h
  split
  · exact h
  split_ifs
  · exact h
  extract_lets eps u
  refine .keeps (t := u) ?_ (.foldl (fun s _ => s.keepsRests_sendProto ..) eps u)
  unfold u
  split_ifs
  · exact h
  · obtain ⟨x, b, hx, hrest⟩ := h
    exact ⟨_, b, State.restoring_modRest hx fun _ => rfl, hrest⟩

/-- A restore whose choice is made starts with it (R170). -/
theorem State.startsRest_startRest {s : State} {r : Restoring} {a : Acc} (ha : s.acc r.entry = some a) (hfin : a.fin = none)
    (hnew : ∀ x ∈ s.restores, x.entry ≠ r.entry) (g : Gen) (src : List Nat) : s.StartsRest (s.startRest r g src) r g src := by
  unfold State.startRest
  extract_lets lost done added begun bound chosen checked
  have hadded : added.restoring r.entry = some (r.begun done lost) := State.restoring_append (r := r.begun done lost) hnew
  have hbegun : begun.acc r.entry = some a.runs := State.acc_modAcc_some (s := added) Acc.runs (fun _ => rfl) ha
  have hchosen : s.StartsRest chosen r g src := State.startsRest_putChoice (t := bound) hadded hbegun hfin rfl g src
  exact (hchosen.quiesceDests.keeps (State.keepsRests_queueCheck ..)).keeps (State.keepsRests_queueMembers ..)

/-! ### What comes to the start (R170, R172, R173, R198) -/

/-- A job without a loose generation has none abandoned (Table 5-6). -/
theorem State.abandonLoose_none {s : State} {job : Nat} (h : (s.gensOf job).filter Gen.loose = []) (cause ep : Nat) :
    s.abandonLoose job cause ep = s := by
  rw [State.abandonLoose, h, List.foldl_nil]

/-- An endpoint that holds no stay copy takes none with it when it is lost (R168). -/
theorem State.loseBuddy_unused {s : State} {ep : Nat} (h : ∀ g ∈ s.gens, ∀ m ∈ g.members, m.buddy ≠ ep) : s.loseBuddy ep = s := by
  have hnone : ∀ g ∈ s.gens.filter Gen.retained, (g.members.zipIdx.filter fun m => m.1.buddy == ep) = [] := fun g hg =>
    List.filter_eq_nil_iff.mpr fun m hm => by
      simpa using h g (List.mem_of_mem_filter hg) m.1 (List.fst_mem_of_mem_zipIdx hm)
  rw [State.loseBuddy]
  generalize s.gens.filter Gen.retained = gs at hnone
  induction gs with
  | nil => rfl
  | cons g gs ih =>
    rw [List.foldl_cons, hnone g List.mem_cons_self]
    exact ih fun g hg => hnone g (List.mem_cons_of_mem _ hg)

/-- The restore of a RESTORE, before its choice (R173, Table 5-8). -/
def State.restoreOf (s : State) (e : Nat) (f : RestoreF) : Restoring :=
  { bareRest e f.job with
    tier := f.tier, only := f.epoch, keySlot := some f.keySlot
    ref := if f.epoch ≠ 0 then f.epoch else ((s.safeGens f.job).head?.map (·.epoch)).getD 0 }

/-- The restore of a RESTORE_SPARE, before its choice (R172, R173). -/
def State.spareOf (s : State) (e job lost spare : Nat) : Restoring :=
  { bareRest e job with lost := lost, spare := spare, ref := ((s.safeGens job).head?.map (·.epoch)).getD 0 }

section
variable {s : State} {a : Acc} {g : Gen} {src : List Nat}

/-- A plain RESTORE that nothing refuses starts with its choice (R173, Table 6-10). -/
theorem State.beginRestore_chosen {f : RestoreF} (hsig : a.hdr.sig = false) (hplain : f.rerig = false)
    (hjob : s.jobRefusal a.fn f.job = none) (hno : s.restoreRefusal f = none) (hloose : (s.gensOf f.job).filter Gen.loose = [])
    (hchoice : s.choose (s.restoreOf a.id f) = some (g, src)) (hmem : ∀ m ∈ g.members, m.ep ∉ s.lost) (map : HostRead) (waited : Bool) :
    s.beginRestore a f map waited = s.startRest (s.restoreOf a.id f) g src := by
  have hsame : s.restoreOf a.id f = { bareRest a.id f.job with
      tier := f.tier, only := f.epoch, keySlot := some f.keySlot
      ref := if f.epoch != 0 then f.epoch else ((s.safeGens f.job).head?.map (·.epoch)).getD 0 } := by
    simp only [State.restoreOf, bne_iff_ne]
  have hheld : (g.members.any fun m => s.lost.contains m.ep) = false := by simpa using hmem
  rw [hsame] at hchoice ⊢
  simp only [State.beginRestore, hplain, hjob, hno, hchoice, hheld, State.signalRefusal_none _ _ _ hsig, State.abandonLoose_none hloose,
    Bool.false_and, Bool.not_false, Bool.true_and, Bool.false_eq_true, if_false, ite_self, refuse_false, firstCond_cons_none, firstCond_nil,
    State.orRefuse_none]
  rfl

/-- RESTORE_SPARE of an endpoint that was lost before, and that holds no stay copy, starts with its choice where no restore of the job
runs or waits (R172). -/
theorem State.runRestoreSpare_chosen {job lost spare : Nat} (hsig : a.hdr.sig = false) (hno : s.spareRefusal a.fn job lost spare = none)
    (hfree : s.restBusy job = false) (hloose : (s.gensOf job).filter Gen.loose = []) (hlost : lost ∈ s.lost)
    (hbuddy : ∀ g ∈ s.gens, ∀ m ∈ g.members, m.buddy ≠ lost) (hchoice : s.choose (s.spareOf a.id job lost spare) = some (g, src)) :
    s.runRestoreSpare a job lost spare = s.startRest (s.spareOf a.id job lost spare) g src := by
  have hbegin : s.beginSpare a job lost spare = s.startRest (s.spareOf a.id job lost spare) g src := by
    rw [State.spareOf] at hchoice ⊢
    simp only [State.beginSpare, State.abandonLoose_none hloose, hchoice]
  simp [State.runRestoreSpare, hno, State.signalRefusal_none _ _ _ hsig, hlost, State.loseBuddy_unused hbuddy,
    State.abandonLoose_none hloose, hfree, hbegin]

/-- A RESTORE behind another restore of its job waits (R170). -/
theorem State.runRestore_busy {f : RestoreF} (hsig : a.hdr.sig = false) (hbusy : s.restBusy f.job = true)
    (hjob : s.jobRefusal a.fn f.job = none) (hroom : (s.waitingRests f.job).length < 4) (map : HostRead) :
    s.runRestore a f map = s.queueRestore a f.job := by
  simp [State.runRestore, hbusy, hjob, Nat.not_le.mpr hroom, State.signalRefusal_none _ _ _ hsig]

end

/-- A queued RESTORE that is the first of its job, of which none runs, begins, and holds its job while it runs (R170). Its choice is made
in the state of that moment (log 120). -/
theorem State.startQueued_front {s : State} {a : Acc} {f : RestoreF} (ha : s.acc a.id = some a) (hroom : s.readRoom = true)
    (hqueued : a.phase = .queued) (hfin : a.fin = none) (hop : a.op = .restore f) (hruns : s.restRuns f.job = false)
    (hfront : (s.waitingRests f.job).head? = some a) {map : HostRead} {t : State} {x : Restoring}
    (ht : (s.modAcc a.id Acc.runs).beginRestore a f map true = t) (hx : t.restoring a.id = some x) : s.startQueued a.id map = t := by
  have hbegun : (s.modAcc a.id fun a => { a with phase := .running }).beginRestore a f map true = t := ht
  simp [State.startQueued, Option.filter, ha, hroom, hqueued, hfin, hop, hruns, hfront, hbegun, hx]

/-- Settles O27, by the start that a RESTORE at its acceptance, one out of its job's queue and a RESTORE_SPARE share, and the wait of a
RESTORE behind another. That the queued one is chosen for when it starts is the model's reading, log 120. -/
theorem restoresStarted : Obligations.RestoresStarted := by
  intro s a ha hfin hplain hnew
  obtain ⟨hsig, -⟩ := hplain
  refine ⟨fun f g src map hop hroom hrerig hjob hno hloose hchoice _ hmem => ⟨fun hphase hfree => ?_, fun hphase hruns hfront => ?_⟩,
    fun f j map hop hroom hphase hjob hlen hbusy hj => ?_,
    fun job lost spare g src hop hphase hno hfree hloose hlost hbuddy hchoice _ => ?_⟩
  · have hstart : s.runRestore a f map = s.startRest (s.restoreOf a.id f) g src := by
      rw [State.runRestore, hfree]
      exact State.beginRestore_chosen hsig hrerig hjob hno hloose hchoice hmem map false
    have hacts : Acts (.restore a.id map) s (s.startRest (s.restoreOf a.id f) g src) :=
      acts_startedRead ⟨ha, hphase, hfin⟩ hroom rfl (by rw [hop, ← hstart])
    obtain ⟨x, b, hx, hepoch, hsrc, hxjob, -, -, hb⟩ := State.startsRest_startRest (r := s.restoreOf a.id f) ha hfin hnew g src
    exact ⟨_, x, b, hacts, hx, hepoch, hsrc, hxjob, hb⟩
  · obtain ⟨x, b, hx, hepoch, hsrc, hxjob, -, -, hb⟩ := State.startsRest_startRest (s := s.modAcc a.id Acc.runs) (r := s.restoreOf a.id f)
      (State.acc_modAcc_some Acc.runs (fun _ => rfl) ha) hfin hnew g src
    have hstart := State.startQueued_front ha hroom hphase hfin hop hruns hfront
      (State.beginRestore_chosen (s := s.modAcc a.id Acc.runs) hsig hrerig hjob hno hloose hchoice hmem map true) hx
    exact ⟨_, x, b, congrArg (fun t : State => s.doneFixed t.settle) hstart, hx, hepoch, hsrc, hxjob, hb⟩
  · have hacts : Acts (.restore a.id map) s (s.queueRestore a f.job) :=
      acts_startedRead ⟨ha, hphase, hfin⟩ hroom rfl (by rw [hop, ← State.runRestore_busy hsig hbusy hjob hlen map])
    exact ⟨_, hacts, works_modAcc ha hfin (fun _ => rfl) rfl ⟨rfl, rfl, rfl⟩, rfl, State.find_modJob hj _⟩
  · have hacts : Acts (.restoreSpare a.id) s (s.startRest (s.spareOf a.id job lost spare) g src) :=
      acts_started ⟨ha, hphase, hfin⟩ rfl (by
        rw [hop, ← State.runRestoreSpare_chosen hsig hno hfree hloose hlost hbuddy hchoice])
    obtain ⟨x, b, hx, hepoch, hsrc, -, hxlost, hxspare, hb⟩ :=
      State.startsRest_startRest (r := s.spareOf a.id job lost spare) ha hfin hnew g src
    exact ⟨_, x, b, hacts, hx, hepoch, hsrc, hxlost, hxspare, hb⟩

end Sys2Proof.Machine
end

section
/-! PROOFS. Sheets (R230, R244, R250, R254, R264, R266, R272 to R274, R349): what the reads of an arming's structures leave alone, how a
Sheet is armed, re-armed and stopped, how an arming ends, and how a work unit starts. -/

namespace Sys2Proof.Machine

open Sys2Proof.Claims

/-! ### The reads of an arming's structures (R59, R250, log 148) -/

/-- Reads were asked for at the ports: nothing else of `s` has changed in `t`. -/
def State.OnlyReads (s t : State) : Prop := ∃ l c n i, t = { s with links := l, ctr := c, nextId := n, issued := i }

theorem State.OnlyReads.refl (s : State) : s.OnlyReads s := ⟨s.links, s.ctr, s.nextId, s.issued, rfl⟩

theorem State.OnlyReads.trans {s t u : State} (h : s.OnlyReads t) (k : t.OnlyReads u) : s.OnlyReads u := by
  obtain ⟨_, _, _, _, rfl⟩ := h
  obtain ⟨_, _, _, _, rfl⟩ := k
  exact ⟨_, _, _, _, rfl⟩

theorem State.OnlyReads.foldl {α : Type} {f : State → α → State} (h : ∀ (s : State) a, s.OnlyReads (f s a)) (l : List α) (s : State) :
    s.OnlyReads (l.foldl f s) :=
  List.foldlRecOn l f (motive := fun t => s.OnlyReads t) (.refl s) fun _ ht a _ => ht.trans (h _ a)

theorem State.onlyReads_readStruct (s : State) (f addr : Nat) (r : HostRead) : s.OnlyReads (s.readStruct f addr r) := by
  obtain ⟨os, h⟩ := s.readStruct_eq f addr r
  exact ⟨s.links, s.ctr, s.nextId, _, h⟩

theorem State.onlyReads_sendAt (s : State) (port : Nat) (p : Pkt) (bs : List PByte) : s.OnlyReads (s.sendAt port p bs) := by
  obtain ⟨l, c, h⟩ := s.sendAt_eq port p bs
  exact ⟨l, c, s.nextId, _, h⟩

theorem State.onlyReads_hdrAnswered (s : State) (port : Nat) : s.OnlyReads (s.hdrAnswered port) := by
  unfold State.hdrAnswered
  extract_lets flits
  split_ifs
  · exact ⟨_, _, _, _, rfl⟩
  · exact ⟨_, _, _, _, rfl⟩

theorem State.onlyReads_readHeader (s : State) (fn : Nat) (h : HdrRead) : s.OnlyReads (s.readHeader fn h) := by
  have hnext : s.OnlyReads { s with nextId := s.nextId + 1 } := ⟨_, _, _, _, rfl⟩
  unfold State.readHeader
  split
  · exact s.onlyReads_readStruct ..
  · split
    · exact .refl s
    · exact (hnext.trans (State.onlyReads_sendAt ..)).trans (State.onlyReads_hdrAnswered ..)
  · split_ifs
    · exact .refl s
    · refine .foldl (fun t g => ?_) _ s
      exact ⟨_, _, _, _, rfl⟩

theorem State.onlyReads_readArm (s : State) (a : Acc) (f : ArmF) (r : ArmReads) : s.OnlyReads (s.readArm a f r) := by
  have hdim := s.onlyReads_readStruct a.fn f.dimBlock r.dim
  unfold State.readArm
  extract_lets t
  split_ifs
  · exact hdim
  · exact hdim.trans (.foldl (fun t h => t.onlyReads_readHeader a.fn h) _ _)

theorem State.onlyReads_readRearm (s : State) (a : Acc) (n base dims : Nat) (r : ArmReads) : s.OnlyReads (s.readRearm a n base dims r) := by
  unfold State.readRearm
  split
  · exact .refl s
  · next h _ =>
    extract_lets t
    have hdim : s.OnlyReads t := by
      simp only [t]
      split_ifs
      · exact .refl s
      · exact s.onlyReads_readStruct ..
    exact hdim.trans (.foldl (fun t h => t.onlyReads_readHeader a.fn h) _ _)

section
variable {s u : State} {a : Acc} (h : s.OnlyReads u)
include h

theorem State.OnlyReads.sheets : u.sheets = s.sheets := by
  obtain ⟨_, _, _, _, rfl⟩ := h
  rfl

theorem State.OnlyReads.accepted : u.accepted = s.accepted := by
  obtain ⟨_, _, _, _, rfl⟩ := h
  rfl

theorem State.OnlyReads.cleats : u.cleats = s.cleats := by
  obtain ⟨_, _, _, _, rfl⟩ := h
  rfl

theorem State.OnlyReads.orphaned (f : Nat) : u.orphaned f = s.orphaned f := by
  obtain ⟨_, _, _, _, rfl⟩ := h
  rfl

theorem State.OnlyReads.lastDone (n : Nat) (x : Sheet) : u.lastDone n x = s.lastDone n x := by
  obtain ⟨_, _, _, _, rfl⟩ := h
  rfl

theorem State.OnlyReads.fresh (ha : Fresh s a) : Fresh u a := by
  obtain ⟨_, _, _, _, rfl⟩ := h
  exact ha

end

/-! ### A release Cleat is bound (R289) -/

/-- A bound Cleat counts zero, and only entries that wait on it change. -/
theorem State.bindCleat_eq (c : Nat) (s : State) : ∃ as, s.bindCleat c = { s with accepted := as, cleats := NMap.set s.cleats c 0 } := by
  have hfold : ∀ l : List Acc, ∃ as, l.foldl (fun s a => s.failEntry a.id 0x40 16) s = { s with accepted := as } := fun l =>
    List.foldlRecOn l _ (motive := fun t : State => ∃ as, t = { s with accepted := as }) ⟨s.accepted, rfl⟩ fun t ht a _ => by
      obtain ⟨as, rfl⟩ := ht
      exact ⟨_, rfl⟩
  obtain ⟨as, h⟩ := hfold (s.waitsOf c)
  exact ⟨as, congrArg (State.setCleat c 0) h⟩

@[simp] theorem State.bindCleat_sheets (c : Nat) (s : State) : (s.bindCleat c).sheets = s.sheets := by
  obtain ⟨as, h⟩ := s.bindCleat_eq c
  rw [h]

theorem State.cleat_bindCleat {s : State} (hs : FMap.Sorted s.cleats) (c : Nat) : (s.bindCleat c).cleat c = 0 := by
  obtain ⟨as, h⟩ := s.bindCleat_eq c
  rw [h]
  exact NMap.get_set s.cleats c 0 hs

theorem State.acc_failEntry_ne (s : State) {d e : Nat} (hd : d ≠ e) (status info : Nat) : (s.failEntry e status info).acc d = s.acc d := by
  have hmeet : (s.meet e status info).acc d = s.acc d := s.acc_modAcc_ne _ (fun a => by split <;> rfl) hd
  exact ((s.meet e status info).acc_modAcc_ne _ (fun a => by split <;> rfl) hd).trans hmeet

/-- The entry that is being acted on waits on no Cleat. -/
theorem State.id_ne_of_mem_waitsOf {s : State} {a b : Acc} (ha : Fresh s a) (hids : (s.accepted.map (·.id)).Nodup) {c : Nat}
    (hb : b ∈ s.waitsOf c) : a.id ≠ b.id := by
  obtain ⟨hfound, hphase, -⟩ := ha
  obtain ⟨hmem, hwaits⟩ := List.mem_filter.mp hb
  intro hid
  have hsame : a = b := List.inj_on_of_nodup_map hids (List.mem_of_find?_eq_some hfound) hmem hid
  have hidle : b.waitsOn = none := by
    rw [← hsame, Acc.waitsOn]
    split <;> simp [hphase]
  simp [hidle] at hwaits

theorem State.acc_bindCleat {s : State} {a : Acc} (ha : Fresh s a) (hids : (s.accepted.map (·.id)).Nodup) (c : Nat) :
    (s.bindCleat c).acc a.id = some a :=
  List.foldlRecOn (s.waitsOf c) _ (motive := fun t : State => t.acc a.id = some a) ha.1 fun t ht _ hb =>
    (t.acc_failEntry_ne (State.id_ne_of_mem_waitsOf ha hids hb) 0x40 16).trans ht

/-! ### Changes of one Sheet -/

theorem State.find_modSheet {s : State} {n : Nat} {h : Sheet} (hn : FMap.find s.sheets n = some h) (f : Sheet → Sheet) :
    FMap.find (s.modSheet n f).sheets n = some (f h) :=
  (FMap.find_modify_self ..).trans (congrArg _ hn)

theorem State.find_modSheet_ne (s : State) {n k : Nat} (hk : k ≠ n) (f : Sheet → Sheet) :
    FMap.find (s.modSheet n f).sheets k = FMap.find s.sheets k := FMap.find_modify_ne _ _ hk

/-- A Sheet as an arming begins at slot W (R254, R272). -/
def Sheet.begins (x : ArmSrc) (h : Sheet) : Sheet :=
  { h with cur := x, pend := none, w0 := h.w, next := 0, sent := [], written := [], fresh := true
           bucket := if h.cur.dim.rate = 0 then x.dim.burst else min h.bucket x.dim.burst }

/-- The release Cleat of a new arming is bound where it is another than the last one's (log 15). -/
def State.rebind (h : Sheet) (x : ArmSrc) (s : State) : State :=
  if h.cur.dim.releaseCleat = x.dim.releaseCleat then s else s.bindCleat x.dim.releaseCleat

@[simp] theorem State.rebind_sheets (h : Sheet) (x : ArmSrc) (s : State) : (s.rebind h x).sheets = s.sheets := by
  unfold State.rebind
  split_ifs
  · rfl
  · exact State.bindCleat_sheets ..

section
variable {s : State} {n : Nat} {h : Sheet} (hn : FMap.find s.sheets n = some h)
include hn

theorem State.beginArming_eq (x : ArmSrc) : s.beginArming n x = (s.rebind h x).modSheet n (Sheet.begins x) := by
  rw [State.beginArming, hn]
  rfl

theorem State.find_beginArming (x : ArmSrc) : FMap.find (s.beginArming n x).sheets n = some (h.begins x) := by
  rw [State.beginArming_eq hn]
  exact State.find_modSheet (by rwa [State.rebind_sheets]) _

theorem State.find_beginArming_ne (x : ArmSrc) {k : Nat} (hk : k ≠ n) :
    FMap.find (s.beginArming n x).sheets k = FMap.find s.sheets k := by
  rw [State.beginArming_eq hn, State.find_modSheet_ne _ hk, State.rebind_sheets]

theorem State.acc_beginArming {a : Acc} (ha : Fresh s a) (hids : (s.accepted.map (·.id)).Nodup) (x : ArmSrc) :
    (s.beginArming n x).acc a.id = some a := by
  rw [State.beginArming_eq hn]
  show (s.rebind h x).acc a.id = some a
  unfold State.rebind
  split_ifs
  · exact ha.1
  · exact State.acc_bindCleat ha hids _

end

/-! ### SHEET_ARM (R230, R244, R247 to R250) -/

/-- The Sheet that an arming makes. -/
def State.newSheet (s : State) (a : Acc) (f : ArmF) (x : ArmSrc) : Sheet :=
  { fn := a.fn, entry := a.id, elem := f.elem, slots := f.slots, outType := f.outType, persistent := f.persistent,
    merge := f.merge, ring := f.ring, slotSize := f.slotSize, period := f.period, frameBytes := f.frameBytes, cur := x,
    yard := s.homeYard a.fn x.dim.affinity, bucket := x.dim.burst, tS := s.laneCycle }

/-- A new Sheet runs, and the SHEET_ARM with it. -/
def State.addSheet (a : Acc) (f : ArmF) (x : ArmSrc) (s : State) : State :=
  ({ s with sheets := FMap.put s.sheets f.sheet (s.newSheet a f x) }.zeroCtr 0xA f.sheet).modAcc a.id Acc.runs

theorem State.runSheetArm_taken {s : State} {a : Acc} {f : ArmF} {r : ArmReads} (hbreach : armBreach { f with base := f.ring } 48 r = none)
    (hstaging : s.noStaging (armSrc f f.base r) = none) (hquota : s.hdrRefusal a.fn (armHdrs f r) = none)
    (hcame : (armHdrs f r).findSome? (s.hdrLost a.fn) = none) (hhdr : s.headerRefusal a.fn f (armSrc f f.base r) = none)
    (hnew : FMap.find s.sheets f.sheet = none) (hno : s.armRefusal a f.sheet { f with base := f.ring } (armSrc f f.base r) true = none) :
    s.runSheetArm a f r = (s.bindCleat (armSrc f f.base r).dim.releaseCleat).addSheet a f (armSrc f f.base r) := by
  have hfree : FMap.has s.sheets f.sheet = false := by simp [FMap.has, hnew]
  simp only [State.runSheetArm, hbreach, hstaging, hquota, hcame, hhdr, hfree, hno, ite_self, refuse_false, firstCond_cons_none,
    firstCond_nil, State.orRefuse_none]
  rfl

theorem acts_sheetArm {s : State} {a : Acc} (h : Fresh s a) {f : ArmF} (hop : a.op = .sheetArm f) {r : ArmReads}
    (hopen : s.armOpen a f r = true) : Acts (.sheetArm a.id r.dim r.hdr r.ad) s ((s.readArm a f r).runSheetArm a f r) :=
  acts_started h rfl (by simp only [hop]; exact if_pos hopen)

/-! ### SHEET_REARM (R272, R273, R349) -/

section
variable {s : State} {a : Acc} {n : Nat} {h : Sheet}

/-- A re-arm that nothing refuses is discarded for an ORPHANED function, begins at once, or waits for the arming under way. -/
theorem State.runSheetRearm_taken {base dims : Nat} {r : ArmReads} (hn : FMap.find s.sheets n = some h) (hfn : h.fn = a.fn)
    (hgoes : h.stopping = false) (hpers : h.persistent = true) (hpend : h.pend = none) (hbreach : rearmBreach n dims h r = none)
    (hstaging : s.noStaging (rearmSrc n base dims h r) = none) (hquota : s.hdrRefusal a.fn (h.rearmHdrs base dims r) = none)
    (hcame : (h.rearmHdrs base dims r).findSome? (s.hdrLost a.fn) = none)
    (hhdr : s.headerRefusal a.fn (rearmForm n dims h) (rearmSrc n base dims h r) = none)
    (hno : s.armRefusal a n (rearmForm n dims h) (rearmSrc n base dims h r) false = none) :
    s.runSheetRearm a n base dims r =
      if s.orphaned h.fn then s.endEntry a.id 1
      else if s.lastDone n h || h.fresh then (s.beginArming n (rearmSrc n base dims h r)).endEntry a.id 0
      else (s.modSheet n fun h' => { h' with pend := some (rearmSrc n base dims h r) }).endEntry a.id 1 := by
  simp only [rearmBreach, rearmSrc, rearmForm] at hbreach hstaging hhdr hno ⊢
  have hruns : (h.fn != a.fn || h.stopping || !h.persistent) = false := by simp [hfn, hgoes, hpers]
  have hnone : h.pend.isSome = false := by simp [hpend]
  simp only [State.runSheetRearm, hn, hruns, hnone, decide_eq_true_eq, hbreach, hstaging, hquota, hcame, hhdr, hno, ite_self,
    firstCond_cons_none, firstCond_nil, State.orRefuse_none, Bool.false_eq_true, if_false]

theorem acts_sheetRearm (ha : Fresh s a) {base dims : Nat} (hop : a.op = .sheetRearm n base dims) {r : ArmReads}
    (hopen : s.rearmOpen a n base dims r = true) :
    Acts (.sheetRearm a.id r.dim r.hdr r.ad) s ((s.readRearm a n base dims r).runSheetRearm a n base dims r) :=
  acts_started ha rfl (by simp only [hop]; exact if_pos hopen)

theorem endsOk_endEntry (hacc : s.acc a.id = some a) (hfin : a.fin = none) (info : Nat) : EndsOk (s.endEntry a.id info) a info :=
  State.acc_endEntry_some hacc hfin info

/-! ### SHEET_STOP (R245, R274) -/

/-- A Sheet that a SHEET_STOP stops. -/
def Sheet.stops (e : Nat) (atOnce : Bool) (h : Sheet) : Sheet :=
  { h with stopping := true, atOnce := atOnce, pend := none, stopAfter := if atOnce then none else some h.w
           sigStop := some (if atOnce then h.firstOpen else h.w + 1), stopEntry := some e }

/-- The Sheet stops, and knows the SHEET_STOP that waits for it. -/
def State.stopFor (n e : Nat) (atOnce : Bool) (s : State) : State :=
  (s.stopSheet n atOnce).modSheet n fun h => { h with stopEntry := some e }

theorem State.find_stopFor (hn : FMap.find s.sheets n = some h) (hgoes : h.stopping = false) (e : Nat) (atOnce : Bool) :
    FMap.find (s.stopFor n e atOnce).sheets n = some (h.stops e atOnce) := by
  have hstop : FMap.find (s.stopSheet n atOnce).sheets n = some _ := State.find_modSheet hn _
  rw [State.stopFor, State.find_modSheet hstop, hgoes]
  rfl

theorem State.find_stopFor_ne (s : State) {n k : Nat} (hk : k ≠ n) (e : Nat) (atOnce : Bool) :
    FMap.find (s.stopFor n e atOnce).sheets k = FMap.find s.sheets k :=
  (State.find_modSheet_ne _ hk _).trans (s.find_modSheet_ne hk _)

theorem State.runSheetStop_taken (hn : FMap.find s.sheets n = some h) (hfn : h.fn = a.fn) (hgoes : h.stopping = false)
    (hsig : a.hdr.sig = false) (atOnce : Bool) : s.runSheetStop a n atOnce = (s.stopFor n a.id atOnce).awaits a.id := by
  simp [State.runSheetStop, hn, hfn, hgoes, State.signalRefusal_none _ _ _ hsig, State.stopFor, State.awaits]

end

theorem acts_sheetStop {s : State} {a : Acc} (ha : Fresh s a) {n : Nat} {atOnce : Bool} (hop : a.op = .sheetStop n atOnce) :
    Acts (.sheetStop a.id) s (s.runSheetStop a n atOnce) :=
  acts_started ha rfl (by rw [hop])

theorem sheetsArmed : Claims.SheetsArmed := by
  intro s a ha hplain hids
  obtain ⟨hsig, -⟩ := hplain
  have ⟨hacc, _, hfin⟩ := ha
  refine ⟨fun f r u hop hopen hu hbreach hstaging hquota hcame hhdr hnew hno => ?_, fun n h hn hfn hgoes => ⟨?_, fun atOnce hop => ?_⟩⟩
  · have hreads : s.OnlyReads u := hu ▸ s.onlyReads_readArm a f r
    have hidsU : (u.accepted.map (·.id)).Nodup := hreads.accepted.symm ▸ hids
    rw [← hreads.sheets] at hnew ⊢
    have hacts := acts_sheetArm ha hop hopen
    rw [← hu, State.runSheetArm_taken hbreach hstaging hquota hcame hhdr hnew hno] at hacts
    refine ⟨_, _, hacts, ?_, FMap.find_put_self _ _ _, rfl, rfl, rfl, rfl, rfl, rfl, rfl, rfl, rfl, rfl, rfl, fun k hk => ?_,
      fun hsorted => ?_⟩
    · exact works_modAcc (State.acc_bindCleat (hreads.fresh ha) hidsU _) hfin (fun _ => rfl) rfl ⟨rfl, rfl, rfl⟩
    · exact (FMap.find_put_ne _ _ hk).trans (by rw [State.bindCleat_sheets])
    · exact State.cleat_bindCleat (hreads.cleats.symm ▸ hsorted) _
  · intro base dims r u hop hopen hu hpers hpend hbreach hstaging hquota hcame hhdr hno
    have hreads : s.OnlyReads u := hu ▸ s.onlyReads_readRearm a n base dims r
    have hidsU : (u.accepted.map (·.id)).Nodup := hreads.accepted.symm ▸ hids
    have hfresh := hreads.fresh ha
    rw [← hreads.sheets] at hn ⊢
    rw [← hreads.orphaned, ← hreads.lastDone]
    have hacts := acts_sheetRearm ha hop hopen
    rw [← hu, State.runSheetRearm_taken hn hfn hgoes hpers hpend hbreach hstaging hquota hcame hhdr hno] at hacts
    refine ⟨fun horph => ?_, fun horph hdone => ?_, fun horph hdone hstarted => ?_⟩
    · rw [if_pos horph] at hacts
      exact ⟨_, hacts, endsOk_endEntry hfresh.1 hfin 1, rfl⟩
    · rw [if_neg (by simp [horph]), if_pos (by simpa using hdone)] at hacts
      exact ⟨_, _, hacts, endsOk_endEntry (State.acc_beginArming hn hfresh hidsU _) hfin 0, State.find_beginArming hn _, rfl, rfl, rfl,
        rfl, rfl, fun k hk => State.find_beginArming_ne hn _ hk⟩
    · rw [if_neg (by simp [horph]), if_neg (by simp [hdone, hstarted])] at hacts
      exact ⟨_, hacts, endsOk_endEntry hfresh.1 hfin 1, State.find_modSheet hn _, fun k hk => u.find_modSheet_ne hk _⟩
  · have hacts := acts_sheetStop ha hop
    rw [State.runSheetStop_taken hn hfn hgoes hsig] at hacts
    exact ⟨_, hacts, works_modAcc hacc hfin (fun _ => rfl) rfl ⟨rfl, rfl, rfl⟩, State.find_stopFor hn hgoes a.id atOnce,
      fun k hk => s.find_stopFor_ne hk a.id atOnce⟩

/-! ### The end of an arming (R272, R349) -/

section
variable {s : State} {n : Nat} {h : Sheet} (hn : FMap.find s.sheets n = some h)
include hn

theorem State.armingEnd_early (hearly : h.armEnded = false) : s.armingEnd n = s := by
  simp [State.armingEnd, hn, State.lastDone, hearly]

variable (hgoes : h.stopping = false) (hended : h.armEnded = true) (hidle : s.hasWork (Work.ofSheet n) = false)
include hgoes hended hidle

theorem State.armingEnd_pending {x : ArmSrc} (hpend : h.pend = some x) (horph : s.orphaned h.fn = false) :
    s.armingEnd n = s.beginArming n x := by
  simp [State.armingEnd, hn, State.lastDone, hgoes, hended, hidle, hpend, horph, Option.filter]

theorem State.armingEnd_persistent (hpend : h.pend = none) (hpers : h.persistent = true) (horph : s.orphaned h.fn = false) :
    s.armingEnd n = s.beginArming n h.cur := by
  simp [State.armingEnd, hn, State.lastDone, hgoes, hended, hidle, hpend, hpers, horph]

theorem State.armingEnd_last (hlast : h.pend = none ∧ h.persistent = false ∨ s.orphaned h.fn = true) :
    s.armingEnd n = s.modSheet n fun h => { h with stopping := true, atOnce := true, pend := none } := by
  have hpend : (h.pend.filter fun _ => !s.orphaned h.fn) = none := by
    rcases hlast with ⟨hpend, -⟩ | horph
    · simp [hpend]
    · simp [horph]
  have hpers : (h.persistent && !s.orphaned h.fn) = false := by
    rcases hlast with ⟨-, hpers⟩ | horph
    · simp [hpers]
    · simp [horph]
  simp [State.armingEnd, hn, State.lastDone, hgoes, hended, hidle, hpend, hpers]

end

/-! ### The start of a work unit (R264 to R267) -/

/-- The Sheets are these, and a lane reads for the transfer of this work. -/
structure State.ReadsFor (s : State) (id : Nat) (w : Work) (lane : Nat) (hs : FMap Sheet) : Prop where
  sheets : s.sheets = hs
  xfer : ∃ x, FMap.find s.xfers id = some x ∧ x.work = w ∧ x.lane = lane ∧ x.phase = .reading

/-- Steps that leave the Sheets alone do so one after another. -/
theorem foldl_sheets {α : Type} (l : List α) {f : State → α → State} (h : ∀ t a, (f t a).sheets = t.sheets) (s : State) :
    (l.foldl f s).sheets = s.sheets :=
  List.foldlRecOn l f (motive := fun t => t.sheets = s.sheets) rfl fun t ht a _ => (h t a).trans ht

theorem State.readPart_sheets (x : Xfer) (i port : Nat) (p : Part) (s : State) : (s.readPart x i port p).sheets = s.sheets := by
  unfold State.readPart
  split
  · refine foldl_sheets _ (fun _ _ => ?_) s
    exact (State.onlyReads_sendAt ..).sheets
  · refine foldl_sheets _ (fun _ _ => ?_) s
    rfl
  · refine foldl_sheets _ (fun _ _ => ?_) s
    rfl

/-- A look-up in the Tackle cache changes its lines, counters and the numbers given out. -/
theorem State.tackleRead_eq (mast gen : Nat) (l : Loc) (s : State) : ∃ k c m, (s.tackleRead mast gen l).2 =
    { s with tackle := k, ctr := c, nextId := m } := by
  unfold State.tackleRead
  split
  · exact ⟨s.tackle, s.ctr, s.nextId, rfl⟩
  · extract_lets touch
    split
    · exact ⟨_, _, _, rfl⟩
    · split <;> exact ⟨_, _, _, rfl⟩

namespace State.ReadsFor

variable {s : State} {id : Nat} {w : Work} {lane : Nat} {hs : FMap Sheet} (h : s.ReadsFor id w lane hs)
include h

theorem frame {t : State} (hsheets : t.sheets = s.sheets := by rfl) (hxfers : t.xfers = s.xfers := by rfl) : t.ReadsFor id w lane hs :=
  ⟨hsheets.trans h.sheets, hxfers ▸ h.xfer⟩

theorem modXfer {f : Xfer → Xfer}
    (hf : ∀ x, (f x).work = x.work ∧ (f x).lane = x.lane ∧ (f x).phase = x.phase := by exact fun _ => ⟨rfl, rfl, rfl⟩) :
    (s.modXfer id f).ReadsFor id w lane hs := by
  obtain ⟨x, hx, hwork, hlane, hphase⟩ := h.xfer
  obtain ⟨hfw, hfl, hfp⟩ := hf x
  exact ⟨h.sheets, f x, (FMap.find_modify_self ..).trans (congrArg _ hx), hfw.trans hwork, hfl.trans hlane, hfp.trans hphase⟩

theorem putBytes (i off : Nat) (bs : List PByte) (dirty : Bool) : (s.putBytes id i off bs dirty).ReadsFor id w lane hs := by
  unfold State.putBytes
  split
  · exact h
  · next t _ =>
    obtain ⟨f, v, hflip⟩ := s.takeFlip_eq 0 t.yard
    rw [hflip]
    exact (h.frame (t := { s with glob := { s.glob with eccFlip := v } })).modXfer

theorem countBytes (c k : Nat) : (s.countBytes c k).ReadsFor id w lane hs := h.frame

theorem readPart (x : Xfer) (i port : Nat) (p : Part) : (s.readPart x i port p).ReadsFor id w lane hs :=
  h.frame (State.readPart_sheets ..) (State.readPart_xfers ..)

theorem issueLine (i : Nat) : (s.issueLine id i).ReadsFor id w lane hs := by
  unfold State.issueLine
  split
  · exact h
  · split
    · exact h
    · split
      · split
        · exact h.modXfer.readPart ..
        · exact h
      · split_ifs
        · exact h.readPart ..
        · exact h

theorem tackleRead {mast gen : Nat} {l : Loc} {r : Option (List Byte) × State} (hr : s.tackleRead mast gen l = r) :
    r.2.ReadsFor id w lane hs := by
  obtain ⟨k, c, m, hread⟩ := s.tackleRead_eq mast gen l
  rw [← hr, hread]
  exact h.frame

/-- The lines of a unit come from the cache, or are asked for: its transfer reads on (R267). -/
theorem fetchLines (n : Nat) : (s.fetchLines n id).2.ReadsFor id w lane hs := by
  unfold State.fetchLines
  split
  · split
    · refine List.foldlRecOn _ _ (motive := fun acc : Bool × State => acc.2.ReadsFor id w lane hs) h fun acc hacc l _ => ?_
      dsimp only
      split
      · next hread =>
        exact ((hacc.tackleRead hread).modXfer.putBytes ..).countBytes ..
      · next hread =>
        exact ((hacc.tackleRead hread).modXfer.countBytes ..).issueLine _
    · exact h
  · exact h

end State.ReadsFor

/-- A Sheet that has started a unit of so many bytes (R263, R265). -/
def Sheet.startsUnit (u b : Nat) (h : Sheet) : Sheet :=
  { h with next := u + 1, fresh := false, bucket := if h.cur.dim.rate = 0 then h.bucket else h.bucket - b }

/-- A unit that starts reads for a transfer of its own, and its Sheet comes to the unit after it. -/
theorem State.readsFor_startUnit (s : State) (n : Nat) (h : Sheet) (lane : Nat) :
    (s.startUnit n h lane).ReadsFor s.nextId (.sheet n (h.nextUnit.getD h.next)) lane
      (FMap.modify s.sheets n (Sheet.startsUnit (h.nextUnit.getD h.next) (h.unitBytes (h.nextUnit.getD h.next)))) := by
  unfold State.startUnit
  extract_lets u b id x t v y z
  have hstarted : v.ReadsFor id (.sheet n u) lane (FMap.modify s.sheets n (Sheet.startsUnit u b)) :=
    ⟨rfl, x, FMap.find_put_self _ _ _, rfl, rfl, rfl⟩
  have hcharged : y.ReadsFor id (.sheet n u) lane (FMap.modify s.sheets n (Sheet.startsUnit u b)) := by
    simp only [y]
    split_ifs
    · exact hstarted
    · exact hstarted.frame
  exact (hcharged.frame (t := z)).fetchLines n

section
variable {s : State} {n y lane : Nat} {h : Sheet}

theorem State.sheetStart_starts (hrun : s.glob.power = .run) (hfree : s.laneFree y lane = true) (hnext : s.nextSheet y = some (n, h))
    (hfirst : s.goesNext y (s.sheetClaim h) (s.rivals y none false) = true) (hway : s.givesWay y (s.sheetClaim h) = false) :
    s.sheetStart y lane = (s.countRound y (s.sheetClaim h)).startUnit n h lane := by
  simp [State.sheetStart, hnext, hrun, hfree, hfirst, hway]

theorem State.sheetStart_waits (hwaits : s.laneFree y lane = false ∨ s.nextSheet y = none ∨ s.nextSheet y = some (n, h) ∧
    (s.goesNext y (s.sheetClaim h) (s.rivals y none false) = false ∨ s.givesWay y (s.sheetClaim h) = true)) :
    s.sheetStart y lane = s := by
  unfold State.sheetStart
  rcases hwaits with hlane | hnone | ⟨hnext, hfirst | hway⟩
  · split
    · rfl
    · simp [hlane]
  · rw [hnone]
  · simp [hnext, hfirst]
  · simp [hnext, hway]

end

theorem sheetsRun : Claims.SheetsRun := by
  intro s n h hn
  have hend : Acts (.armingEnd n) s (s.armingEnd n) := rfl
  refine ⟨fun hgoes hended hidle => ⟨fun x hpend horph => ?_, fun hpend hpers horph => ?_, fun hlast => ?_⟩, fun hearly => ?_,
    fun y lane hrun hfree hnext hfirst hway _ => ?_, fun y lane hwaits => ?_⟩
  · rw [State.armingEnd_pending hn hgoes hended hidle hpend horph] at hend
    exact ⟨_, _, hend, State.find_beginArming hn x, rfl, rfl, rfl, rfl, hgoes⟩
  · rw [State.armingEnd_persistent hn hgoes hended hidle hpend hpers horph] at hend
    exact ⟨_, _, hend, State.find_beginArming hn h.cur, rfl, rfl, rfl, hgoes⟩
  · rw [State.armingEnd_last hn hgoes hended hidle hlast] at hend
    exact ⟨_, hend, State.find_modSheet hn _, fun k hk => s.find_modSheet_ne hk _⟩
  · rwa [State.armingEnd_early hn hearly] at hend
  · have hstart : Acts (.sheetWorkUnitStart y lane) s (s.sheetStart y lane) := rfl
    rw [State.sheetStart_starts hrun hfree hnext hfirst hway] at hstart
    obtain ⟨hsheets, x, hx, hwork, hlane, hphase⟩ := (s.countRound y (s.sheetClaim h)).readsFor_startUnit n h lane
    have hz := (congrArg (FMap.find · n) hsheets).trans (State.find_modSheet (s := s) hn _)
    exact ⟨_, x, _, hstart, hx, hwork, hlane, hphase, hz, rfl⟩
  · have hstart : Acts (.sheetWorkUnitStart y lane) s (s.sheetStart y lane) := rfl
    rwa [State.sheetStart_waits hwaits] at hstart

/-- Settles O58: the rows of the Sheet entries by what they take and leave alone, and the end of an arming and the start of a unit by the
branch that each goes. -/
theorem sheetRules : Obligations.SheetRules := ⟨sheetsArmed, sheetsRun⟩

end Sys2Proof.Machine
end

section
/-! PROOFS. Cleat signals of accelerators (R279, R280, R285): a signal is added to its Cleat, or is counted and logged. -/

namespace Sys2Proof.Machine

open Sys2Proof.Claims

/-! ### Counters and the log -/

/-- A counter of any class that is below the largest event count goes up by one. -/
theorem Counters.value_add_one_of_lt {c : Counters} {id : Nat} (h : c.value id < 2 ^ 48 - 1) : (c.add id 1).value id = c.value id + 1 := by
  have hset : ∀ v, v = c.value id + 1 → NMap.get (NMap.set c.live id v) id = c.value id + 1 := fun v hv =>
    (NMap.get_set_pos _ _ (by omega)).trans hv
  unfold Counters.add
  split
  · exact hset _ (Nat.min_eq_left h)
  · exact hset _ (Nat.mod_eq_of_lt (by change c.value id + 1 < _; omega))
  · exact hset _ rfl

/-- What Masthead cannot hold is counted as lost, and no other counter changes with the log. -/
theorem State.value_logFn {id : Nat} (h : id ≠ ctrId 0 0 1) (code f : Nat) (d : List Nat) (s : State) :
    (s.logFn code f d).ctr.value id = s.ctr.value id := by
  unfold State.logFn State.logWith State.logEntry
  split_ifs
  · rfl
  · exact Counters.value_add_ne _ _ h
  · rfl

/-! ### A signal at its Cleat (R280, R284, R285) -/

/-- Without waits a Cleat's evaluation changes nothing. -/
theorem State.evaluate_none {s : State} {c : Nat} (h : s.waitsOf c = []) : s.evaluate c = s := by
  rw [State.evaluate, h]
  rfl

section
variable {s : State} {c f n : Nat} (h : PlainCleat s c f)
include h

/-- The owner of the Cleat is not being reset. -/
theorem not_resetting_of_plainCleat : ((FMap.find s.fns (s.cleatOwner c)).map (·.resetting)).getD false = false := by
  obtain ⟨hown, -, -, hreset⟩ := h
  rw [hown]
  cases hx : FMap.find s.fns f with
  | none => rfl
  | some x => exact hreset x hx

theorem State.applySignal_adds (hn : s.cleat c + n ≤ cleatMax) : s.applySignal c n = (false, s.setCleat c (s.cleat c + n)) := by
  have hidle := not_resetting_of_plainCleat h
  obtain ⟨-, hbound, hwaits, -⟩ := h
  have hbound' : (s.setCleat c (s.cleat c + n)).boundSheet c = none := hbound
  have hwaits' : (s.setCleat c (s.cleat c + n)).waitsOf c = [] := hwaits
  simp only [State.applySignal, hidle, Nat.not_lt.mpr hn, hbound', State.evaluate_none hwaits', Bool.false_eq_true, if_false]

theorem State.applySignal_overflows (hn : cleatMax < s.cleat c + n) : s.applySignal c n = (true, s) := by
  simp only [State.applySignal, not_resetting_of_plainCleat h, hn, Bool.false_eq_true, if_false, if_true]

end

/-- A Cleat's count after it is set to no zero. -/
theorem State.cleat_setCleat_pos (s : State) (c : Nat) {n : Nat} (h : n ≠ 0) : (s.setCleat c n).cleat c = n := NMap.get_set_pos _ _ h

/-! ### A signal from the fabric (R279, R285) -/

/-- An event of the function `f` is counted under the number `m` of its counters, and logged. -/
def State.noteFor (f m code : Nat) (d : List Nat) (s : State) : State := (s.bump (ctrId 7 f m)).logFn code f d

section
variable {s : State} {src c f n : Nat}

theorem State.fabricSignal_adds (h : PlainCleat s c f) (ha : s.attachedTo src f = true) (hn : s.cleat c + n ≤ cleatMax) :
    s.fabricSignal src c n = s.setCleat c (s.cleat c + n) := by
  simp only [State.fabricSignal, h.1, ha, State.applySignal_adds h hn, Bool.not_true, Bool.false_eq_true, if_false]

theorem State.fabricSignal_overflows (h : PlainCleat s c f) (ha : s.attachedTo src f = true) (hn : cleatMax < s.cleat c + n) :
    s.fabricSignal src c n = s.noteFor f 2 0x0403 [src, c] := by
  simp only [State.fabricSignal, h.1, ha, State.applySignal_overflows h hn, Bool.not_true, Bool.false_eq_true, if_false]
  rfl

theorem State.fabricSignal_foreign (hown : s.cleatOwner c = f) (ha : s.attachedTo src f = false) :
    s.fabricSignal src c n = s.noteFor f 1 0x0402 [src, c] := by
  simp only [State.fabricSignal, hown, ha, Bool.not_false, if_true]
  rfl

end

/-! ### The packets that carry a signal (R45, R279) -/

/-- The signal packet, and a WR to the block on which a signal rides, do what the signal says. -/
theorem State.actOn_signal {q : Pkt} (h : Pkt.Is q 5 1 ∨ Pkt.Is q 2 1 ∧ q.sig = true) (u : State) (p : Nat) (data : List PByte) :
    u.actOn p q data = u.signalIn p q := by
  rcases h with ⟨hcls, hop⟩ | ⟨⟨hcls, hop⟩, hsig⟩
  · simp only [State.actOn, hcls, hop]
  · simp only [State.actOn, hcls, hop, hsig, if_true]

/-- The data of a WR to the block is discarded (R47). -/
theorem State.actOn_wr {q : Pkt} (h : Pkt.Is q 2 1) (hsig : q.sig = false) (u : State) (p : Nat) (data : List PByte) : u.actOn p q data = u := by
  simp only [State.actOn, h.1, h.2, hsig, Bool.false_eq_true, if_false]

theorem State.signalIn_counted {q : Pkt} (h : 1 ≤ q.sigCount) (u : State) (p : Nat) : u.signalIn p q = u.fabricSignal q.src q.cleat q.sigCount :=
  if_neg (by omega)

theorem State.signalIn_empty {q : Pkt} (h : q.sigCount = 0) (u : State) (p : Nat) : u.signalIn p q = u.badPacket p := if_pos h

/-- What a packet's arrival counts is no event of a function. -/
theorem State.value_heard {p : Nat} (hp : p < 32) (n f m : Nat) (s : State) : (s.heard p n).ctr.value (ctrId 7 f m) = s.ctr.value (ctrId 7 f m) := by
  have hflits : ctrId 7 f m ≠ ctrId 4 p 1 := by unfold ctrId; omega
  have hpoison : ctrId 7 f m ≠ ctrId 4 p 4 := by unfold ctrId; omega
  unfold State.heard State.countPoison
  rw [if_pos hp]
  exact (Counters.value_add_ne _ _ hpoison).trans (Counters.value_add_ne _ _ hflits)

/-- A packet that carries a signal acts by the signal on the state after its arrival, in which the functions' events are as they were. -/
theorem acts_signal {s : State} {p : Nat} {q : Pkt} {bs : List Byte} {k : Instr} (h : Comes s p q bs)
    (hk : Pkt.Is q 5 1 ∧ k = .cleatSignalPacket p (s.peerFlits p q bs) ∨
      Pkt.Is q 2 1 ∧ q.sig = true ∧ k = .wrToBlock p (s.peerFlits p q bs)) :
    ∃ u, Received s u p ∧ (∀ f m, u.ctr.value (ctrId 7 f m) = s.ctr.value (ctrId 7 f m)) ∧ Acts k s (u.signalIn p q) := by
  obtain ⟨⟨hpower, hp, hrun, hkey⟩, hproper⟩ := h
  have hact : Acts k s (s.arrive p (s.peerFlits p q bs)) := by
    rcases hk with ⟨-, rfl⟩ | ⟨-, -, rfl⟩ <;> rfl
  have hq : Pkt.Is q 5 1 ∨ Pkt.Is q 2 1 ∧ q.sig = true := hk.imp And.left fun ⟨his, hsig, _⟩ => ⟨his, hsig⟩
  rw [State.arrive_proper hpower hp hrun hkey hproper, State.actOn_signal hq] at hact
  exact ⟨_, received_heard s p _, fun f m => State.value_heard hp _ f m s, hact⟩

/-! ### The state after its arrival -/

namespace Received

variable {s u : State} {p : Nat} (h : Received s u p)
include h

theorem cleats_eq : u.cleats = s.cleats := by rw [h.eq]

theorem cleat_eq (c : Nat) : u.cleat c = s.cleat c := congrArg (NMap.get · c) h.cleats_eq

theorem accepted_eq : u.accepted = s.accepted := by rw [h.eq]

theorem cleatOwner_eq (c : Nat) : u.cleatOwner c = s.cleatOwner c := by
  rw [h.eq]
  rfl

theorem attachedTo_eq (ep f : Nat) : u.attachedTo ep f = s.attachedTo ep f := by
  rw [State.attachedTo, h.eps_eq, State.attachedTo]

theorem restarting_eq (x : Proc) : u.restarting x = s.restarting x := by
  rw [h.eq]
  rfl

theorem plainCleat {c f : Nat} (hc : PlainCleat s c f) : PlainCleat u c f := by
  rw [h.eq]
  exact hc

/-- An event that is noted for a function is counted once and logged, and no Cleat and no entry changes. -/
theorem noted {f m : Nat} (hctr : u.ctr.value (ctrId 7 f m) = s.ctr.value (ctrId 7 f m)) (code : Nat) (d : List Nat) :
    (u.noteFor f m code d).cleats = s.cleats ∧ CountedOnce s (u.noteFor f m code d) (ctrId 7 f m) ∧
      (u.noteFor f m code d).accepted = s.accepted ∧ (s.restarting .masthead = false → Logged (u.noteFor f m code d) code d) := by
  have hlost : ctrId 7 f m ≠ ctrId 0 0 1 := by unfold ctrId; omega
  refine ⟨(State.logFn_cleats ..).trans h.cleats_eq, fun hv => ?_, (State.logFn_accepted ..).trans h.accepted_eq, fun hm => ?_⟩
  · rw [← hctr] at hv ⊢
    exact (State.value_logFn hlost ..).trans (Counters.value_add_one_of_lt hv)
  · exact State.logged_logWith (s := u.bump (ctrId 7 f m)) ((h.restarting_eq _).trans hm) ..

end Received

/-- Settles O16: each packet by what its signal does to the state after its arrival. -/
theorem signalPackets : Obligations.SignalPackets := by
  intro s p f q bs k hcomes
  refine ⟨fun hk => ?_, fun hq hsig => ?_⟩
  · obtain ⟨u, hu, hctr, hact⟩ := acts_signal hcomes hk
    refine ⟨fun hone hplain hatt hfits => ?_, fun hone hplain hatt hover => ?_, fun hone hown hatt => ?_, fun hzero => ?_⟩
    · rw [State.signalIn_counted hone, State.fabricSignal_adds (hu.plainCleat hplain) ((hu.attachedTo_eq ..).trans hatt)
        ((hu.cleat_eq _).symm ▸ hfits), hu.cleat_eq] at hact
      refine ⟨_, hact, State.cleat_setCleat_pos _ _ (by omega), fun c hc => ?_, ?_⟩
      · exact (State.cleat_setCleat_ne _ _ hc).trans (hu.cleat_eq c)
      · rw [hu.eq]
        rfl
    · rw [State.signalIn_counted hone, State.fabricSignal_overflows (hu.plainCleat hplain) ((hu.attachedTo_eq ..).trans hatt)
        ((hu.cleat_eq _).symm ▸ hover)] at hact
      exact ⟨_, hact, hu.noted (hctr f 2) ..⟩
    · rw [State.signalIn_counted hone, State.fabricSignal_foreign ((hu.cleatOwner_eq _).trans hown) ((hu.attachedTo_eq ..).trans hatt)] at hact
      exact ⟨_, hact, hu.noted (hctr f 1) ..⟩
    · rw [State.signalIn_empty hzero] at hact
      exact ⟨_, hact, hu.discarded hcomes.1.2.1⟩
  · obtain ⟨u, hu, harrive⟩ := State.arrive_comes hcomes
    have hact : Acts (.wrToBlock p (s.peerFlits p q bs)) s (s.arrive p (s.peerFlits p q bs)) := rfl
    rw [harrive, State.actOn_wr hq hsig] at hact
    exact ⟨u, hact, hu.only⟩

end Sys2Proof.Machine
end

section
/-! PROOFS. The Cleat entries (R280, R281, R283 to R285): CLEAT_SIGNAL to a Cleat of the block, and CLEAT_WAIT. A signal of 0 to a Cleat that
counts 0 leaves the count only where no Cleat is listed twice: `NMap.set` then takes one listing of the Cleat away. -/

namespace Sys2Proof.Machine

open Sys2Proof.Claims

/-! ### Counts that are set -/

/-- A Cleat reads as it was set: a zero only where no Cleat is listed twice. -/
theorem State.cleat_setCleat_of {s : State} {n : Nat} (h : n ≠ 0 ∨ FMap.Sorted s.cleats) (c : Nat) : (s.setCleat c n).cleat c = n :=
  h.elim (s.cleat_setCleat_pos c) (s.cleat_setCleat c n)

/-- Only the Cleat that is set differs. -/
theorem cleatsSame_setCleat (s : State) (c n : Nat) : CleatsSame s (s.setCleat c n) c := fun _ hk => s.cleat_setCleat_ne n hk

/-! ### An entry that is at work -/

/-- An entry that goes to a phase of its work. -/
def Acc.goes (phase : Phase) (a : Acc) : Acc := { a with phase := phase }

/-- The state after the entry `a` has gone to a phase of its work. -/
def State.works (a : Acc) (phase : Phase) (s : State) : State := s.modAcc a.id (Acc.goes phase)

section
variable {s : State} {a : Acc} {c n : Nat}

theorem State.acc_works (h : Fresh s a) (phase : Phase) : (s.works a phase).acc a.id = some (a.goes phase) :=
  State.acc_modAcc_some _ (fun _ => rfl) h.1

/-- An entry that has just gone to its wait is the only one of a Cleat on which none waited. -/
theorem State.waitsOf_works (h : Fresh s a) (hids : (s.accepted.map (·.id)).Nodup) (hnone : s.waitsOf c = [])
    (hwait : ((a.goes .waiting).waitsOn.map (·.1)) = some c) : (s.works a .waiting).waitsOf c = [a.goes .waiting] := by
  obtain ⟨before, after, hsplit⟩ := List.append_of_mem (List.mem_of_find?_eq_some h.1)
  have hother : ∀ l : List Acc, (∀ x ∈ l, x ∈ s.accepted ∧ x.id ≠ a.id) →
      (l.map fun x => if x.id = a.id then x.goes .waiting else x).filter (fun x => x.waitsOn.map (·.1) == some c) = [] := by
    intro l hl
    rw [List.map_congr_left fun x hx => if_neg (hl x hx).2, List.map_id']
    exact List.filter_eq_nil_iff.mpr fun x hx => List.filter_eq_nil_iff.mp hnone x (hl x hx).1
  rw [hsplit, List.map_append, List.map_cons, List.nodup_append, List.nodup_cons] at hids
  obtain ⟨-, ⟨hafter, -⟩, hapart⟩ := hids
  have hbefore : ∀ x ∈ before, x ∈ s.accepted ∧ x.id ≠ a.id := fun x hx =>
    ⟨hsplit ▸ List.mem_append_left _ hx, hapart _ (List.mem_map_of_mem hx) _ List.mem_cons_self⟩
  have hlater : ∀ x ∈ after, x ∈ s.accepted ∧ x.id ≠ a.id := fun x hx =>
    ⟨hsplit ▸ List.mem_append_right _ (List.mem_cons_of_mem _ hx), fun hid => hafter (hid ▸ List.mem_map_of_mem hx)⟩
  unfold State.works State.modAcc State.waitsOf
  simp only [hsplit, List.map_append, List.map_cons, List.filter_append, if_true]
  rw [hother before hbefore, List.filter_cons_of_pos (by simpa using hwait), hother after hlater]
  rfl

/-! ### CLEAT_SIGNAL (R280, R281, R285) -/

/-- With no signal of its own, to a Cleat that its function owns, a CLEAT_SIGNAL is not refused. -/
theorem State.runCleatSignal_own (hsig : a.hdr.sig = false) (hown : s.cleatOwner c = a.fn) :
    s.runCleatSignal a c n s.setup.fabEp = (s.works a .running).signalOwn a c n := by
  have hrefusal : s.cleatRefusal a c s.setup.fabEp = none := by
    simp [State.cleatRefusal, State.signalRefusal_none _ _ _ hsig, hown]
  rw [State.runCleatSignal, hrefusal, State.orRefuse_none]
  exact if_pos rfl

end

/-- An entry that runs waits on no Cleat. -/
theorem Acc.waitsOn_running (a : Acc) : (a.goes .running).waitsOn = none := by
  unfold Acc.waitsOn Acc.goes
  split <;> rfl

/-- Nothing waits on a Cleat when one more entry runs. -/
theorem State.plainCleat_running {s : State} {a : Acc} {c f : Nat} (hc : PlainCleat s c f) : PlainCleat (s.works a .running) c f := by
  obtain ⟨hown, hbound, hwaits, hreset⟩ := hc
  refine ⟨hown, hbound, List.filter_eq_nil_iff.mpr fun x hx => ?_, hreset⟩
  obtain ⟨y, hy, rfl⟩ := List.mem_map.mp hx
  split_ifs
  · simp [Acc.waitsOn_running]
  · exact List.filter_eq_nil_iff.mp hwaits y hy

section
variable {s : State} {a : Acc} {c n : Nat} (h : Fresh s a) (hplain : Plain a) (hc : PlainCleat s c a.fn)
  (hop : a.op = .cleatSignal c n s.setup.fabEp)
include h hplain hc hop

theorem acts_cleatSignal : Acts (.cleatSignal a.id) s ((s.works a .running).signalOwn a c n) :=
  acts_started h rfl (by rw [hop]; exact State.runCleatSignal_own hplain.1 hc.1)

/-- A count that fits is added, and the entry ends. -/
theorem cleatSignal_adds (hfits : s.cleat c + n ≤ cleatMax) (hreads : s.cleat c + n ≠ 0 ∨ FMap.Sorted s.cleats) :
    ∃ t b, Acts (.cleatSignal a.id) s t ∧ t.cleat c = s.cleat c + n ∧ CleatsSame s t c ∧ t.acc a.id = some b ∧ b.fin = some 0 ∧
      b.conds = [] := by
  have hact := acts_cleatSignal h hplain hc hop
  rw [State.signalOwn, State.applySignal_adds (State.plainCleat_running hc) hfits] at hact
  exact ⟨_, _, hact, State.cleat_setCleat_of hreads c, cleatsSame_setCleat s c _,
    State.acc_endEntry_some (a := a.goes .running) (State.acc_works h .running) h.2.2 0, rfl, hplain.2⟩

/-- A count that does not fit is not added, and the entry ends with OVERFLOW. -/
theorem cleatSignal_overflows (hover : cleatMax < s.cleat c + n) :
    ∃ t b, Acts (.cleatSignal a.id) s t ∧ t.cleats = s.cleats ∧ t.acc a.id = some b ∧ b.fin = some 0 ∧
      b.conds = [⟨0x62, c + a.sq * 2 ^ 16 + s.cleat c * 2 ^ 32⟩] := by
  have hact := acts_cleatSignal h hplain hc hop
  rw [State.signalOwn, State.applySignal_overflows (State.plainCleat_running hc) hover] at hact
  exact ⟨_, _, hact, rfl, State.acc_failEntry_some (a := a.goes .running) (State.acc_works h .running) h.2.2 hplain.2 .., rfl, rfl⟩

end

/-! ### CLEAT_WAIT (R283, R284) -/

/-- The entry waits, with its threshold. -/
theorem Acc.waitsOn_waiting {a : Acc} {c n timeout : Nat} (hop : a.op = .cleatWait c n timeout) (hfin : a.fin = none) :
    (a.goes .waiting).waitsOn = some (c, n) := by
  simp [Acc.waitsOn, Acc.goes, hop, hfin]

/-- The wait is the only one of its Cleat: it is served where the count reaches its threshold. -/
theorem State.evaluate_works {s : State} {a : Acc} {c n timeout : Nat} (h : Fresh s a) (hids : (s.accepted.map (·.id)).Nodup)
    (hnone : s.waitsOf c = []) (hop : a.op = .cleatWait c n timeout) : (s.works a .waiting).evaluate c =
    if n ≤ s.cleat c then (s.works a .waiting).serveWait c (a.goes .waiting) else s.works a .waiting := by
  have hwaits := Acc.waitsOn_waiting hop h.2.2
  have hcleat : (s.works a .waiting).cleat c = s.cleat c := rfl
  rw [State.evaluate, State.waitsOf_works h hids hnone (by rw [hwaits]; rfl)]
  simp only [List.filter_cons, List.filter_nil, hwaits, hcleat, Option.map_some, Option.getD_some, decide_eq_true_eq]
  split_ifs <;> rfl

section
variable {s : State} {a : Acc} {c n timeout : Nat} (h : Fresh s a) (hplain : Plain a) (hc : PlainCleat s c a.fn)
  (hids : (s.accepted.map (·.id)).Nodup) (hop : a.op = .cleatWait c n timeout) (hroom : s.waits < 4096)
include h hplain hc hop hroom

theorem acts_cleatWait : Acts (.cleatWait a.id) s ((s.works a .waiting).evaluate c) := by
  have hrefusal : s.waitRefusal a c = none := by
    simp [State.waitRefusal, State.signalRefusal_none _ _ _ hplain.1, hc.1, hc.2.1, Nat.not_le.mpr hroom]
  refine acts_started h rfl ?_
  rw [hop]
  exact (congrArg (s.orRefuse a.id · _) hrefusal).trans (State.orRefuse_none ..)

include hids

/-- A threshold that the count reaches is taken off, and the entry ends with what is left. -/
theorem cleatWait_reached (hn : n ≤ s.cleat c) :
    ∃ t b, Acts (.cleatWait a.id) s t ∧ t.acc a.id = some b ∧ b.fin = some (s.cleat c - n) ∧ b.conds = [] ∧
      (FMap.Sorted s.cleats → t.cleat c = s.cleat c - n) ∧ CleatsSame s t c := by
  have hact := acts_cleatWait h hplain hc hop hroom
  have hserved : (s.works a .waiting).serveWait c (a.goes .waiting) =
      ((s.works a .waiting).setCleat c (s.cleat c - n)).endEntry a.id (s.cleat c - n) := by
    have hreached : ¬(s.works a .waiting).cleat c < n := Nat.not_lt.mpr hn
    simp only [State.serveWait, Acc.waitsOn_waiting hop h.2.2, Option.map_some, Option.getD_some, hreached, if_false]
    rfl
  rw [State.evaluate_works h hids hc.2.2.1 hop, if_pos hn, hserved] at hact
  exact ⟨_, _, hact, State.acc_endEntry_some (a := a.goes .waiting) (State.acc_works h .waiting) h.2.2 _, rfl, hplain.2,
    fun hs => s.cleat_setCleat c _ hs, cleatsSame_setCleat s c _⟩

/-- Until then the entry waits. -/
theorem cleatWait_waits (hn : s.cleat c < n) :
    ∃ t, Acts (.cleatWait a.id) s t ∧ Works t a .waiting ∧ t.cleats = s.cleats := by
  have hact := acts_cleatWait h hplain hc hop hroom
  rw [State.evaluate_works h hids hc.2.2.1 hop, if_neg (Nat.not_le.mpr hn)] at hact
  exact ⟨_, hact, works_modAcc h.1 h.2.2 (fun _ => rfl) rfl ⟨rfl, rfl, rfl⟩, rfl⟩

end

end Sys2Proof.Machine
end

section
/-! PROOFS. Seals that a pipe suspends and resumes (R293, R295): GCM taken up block by block is GCM at one go. -/

namespace Sys2Proof.Machine

/-! ### Pieces of a byte string -/

/-- Cutting into pieces needs no more fuel than the list has elements. -/
theorem chunksAux_fuel {α : Type} {n : Nat} (hn : 0 < n) : ∀ (f g : Nat) (xs : List α), xs.length ≤ f → xs.length ≤ g →
    chunksAux n f xs = chunksAux n g xs := by
  intro f
  induction f with
  | zero =>
    intro g xs hf _
    obtain rfl := List.length_eq_zero_iff.mp (Nat.le_zero.mp hf)
    cases g <;> rfl
  | succ f ih =>
    intro g xs hf hg
    cases xs with
    | nil => cases g <;> rfl
    | cons x xs =>
      obtain ⟨g, rfl⟩ : ∃ k, g = k + 1 := ⟨g - 1, by simp at hg; omega⟩
      simp only [List.length_cons] at hf hg
      simp only [chunksAux, List.isEmpty_cons, Bool.false_eq_true, if_false]
      rw [ih g] <;> simp <;> omega

theorem chunks_of_ne_nil {α : Type} {n : Nat} (hn : 0 < n) {xs : List α} (h : xs ≠ []) :
    chunks n xs = xs.take n :: chunks n (xs.drop n) := by
  cases xs with
  | nil => exact absurd rfl h
  | cons x xs =>
    simp only [chunks, List.length_cons, chunksAux, List.isEmpty_cons, Bool.false_eq_true, if_false]
    rw [chunksAux_fuel hn xs.length _ _ (by simp; omega) (Nat.le_refl _)]

/-- Whole pieces in front of a list are cut off as they are. -/
theorem chunks_append {α : Type} {n : Nat} (hn : 0 < n) (ys : List α) : ∀ (m : Nat) (xs : List α), xs.length = n * m →
    chunks n (xs ++ ys) = chunks n xs ++ chunks n ys := by
  intro m
  induction m with
  | zero =>
    intro xs h
    obtain rfl := List.length_eq_zero_iff.mp h
    rfl
  | succ m ih =>
    intro xs h
    rw [Nat.mul_succ] at h
    have hne : xs ≠ [] := List.ne_nil_of_length_pos (by omega)
    rw [chunks_of_ne_nil hn hne, chunks_of_ne_nil hn (List.append_ne_nil_of_left_ne_nil hne ys),
      List.take_append_of_le_length (by omega), List.drop_append_of_le_length (by omega),
      ih _ (by rw [List.length_drop]; omega), List.cons_append]

/-! ### GCM over whole blocks and a rest (R295) -/

/-- Does a byte string fill whole blocks? -/
def WholeBlocks (bs : List Byte) : Prop := bs.length % 16 = 0

theorem ghashOn_append (h y : BitVec 128) {a : List Byte} (ha : WholeBlocks a) (b : List Byte) :
    ghashOn h y (a ++ b) = ghashOn h (ghashOn h y a) b := by
  simp only [ghashOn]
  rw [chunks_append (by decide) b (a.length / 16) a (by rw [WholeBlocks] at ha; omega), List.foldl_append]

theorem padBlock_append {a : List Byte} (ha : WholeBlocks a) (b : List Byte) : padBlock (a ++ b) = a ++ padBlock b := by
  rw [WholeBlocks] at ha
  rw [padBlock, padBlock, List.length_append, Nat.add_mod, ha, Nat.zero_add, Nat.mod_mod, List.append_assoc]

theorem padBlock_of_whole {a : List Byte} (ha : WholeBlocks a) : padBlock a = a := by
  rw [WholeBlocks] at ha
  simp [padBlock, ha]

theorem wholeBlocks_padBlock (a : List Byte) : WholeBlocks (padBlock a) := by
  rw [WholeBlocks, padBlock, List.length_append, List.length_replicate]
  omega

/-- A key stream is its first blocks and the stream that goes on from there. -/
theorem gcmStream_add (key iv : List Byte) (m n : Nat) : gcmStream key iv (m + n) = gcmStream key iv m ++ gcmStreamOn key iv m n := by
  simp only [gcmStream, gcmStreamOn, List.range_add, List.map_append, List.flatten_append, List.map_map]
  rfl

/-- Blocks of a text in front of a rest are counted apart. -/
theorem ceilDiv_add {a : Nat} (ha : a % 16 = 0) (b : Nat) : ceilDiv (a + b) 16 = ceilDiv a 16 + ceilDiv b 16 := by
  simp only [ceilDiv]
  omega

theorem gcmCrypt_append {key : List Byte} (hk : key.length = 32) (iv : List Byte) {a : List Byte} (ha : WholeBlocks a) (b : List Byte) :
    gcmCrypt key iv (a ++ b) =
      gcmCrypt key iv a ++ xorBytes b (gcmStreamOn key iv (ceilDiv a.length 16) (ceilDiv b.length 16)) := by
  have hlen : a.length = (gcmStream key iv (ceilDiv a.length 16)).length := by
    rw [WholeBlocks] at ha
    rw [length_gcmStream hk, ceilDiv]
    omega
  rw [gcmCrypt, List.length_append, ceilDiv_add ha, gcmStream_add]
  exact List.zipWith_append hlen

/-! ### A seal under way (R293) -/

/-- The pipe's context once it has absorbed a beginning of an object's text at one go. -/
def GcmCtx.after (k : KeySlot) (i : SealId) (len : Nat) (pre : List Byte) : GcmCtx :=
  { GcmCtx.start k i len with
    ghash := ghashOn (gcmHashKey k.key) 0
      (sealHeader i k.keyId k.salt k.counter len ++ padBlock (gcmCrypt k.key (sealIv k.salt k.counter) pre))
    block := ceilDiv pre.length 16, done := pre.length, out := gcmCrypt k.key (sealIv k.salt k.counter) pre }

theorem wholeBlocks_sealHeader (i : SealId) (keyId salt counter len : Nat) : WholeBlocks (sealHeader i keyId salt counter len) := by
  rw [WholeBlocks, sealHeader, length_fit]

section
variable {k : KeySlot} (i : SealId) (len : Nat)

theorem GcmCtx.start_eq_after : GcmCtx.start k i len = GcmCtx.after k i len [] := by
  simp [GcmCtx.after, GcmCtx.start, gcmCrypt, padBlock, xorBytes, ceilDiv]

@[simp] theorem GcmCtx.done_after (pre : List Byte) : (GcmCtx.after k i len pre).done = pre.length := rfl

theorem GcmCtx.absorb_nil (c : GcmCtx) : c.absorb [] = c := by
  simp [GcmCtx.absorb, xorBytes, padBlock, ceilDiv, ghashOn, chunks, chunksAux]

variable (hk : k.key.length = 32)
include hk

/-- A piece behind whole blocks is absorbed as if the text had come at one go. -/
theorem GcmCtx.absorb_after {pre : List Byte} (hpre : WholeBlocks pre) (piece : List Byte) :
    (GcmCtx.after k i len pre).absorb piece = GcmCtx.after k i len (pre ++ piece) := by
  have hout : WholeBlocks (gcmCrypt k.key (sealIv k.salt k.counter) pre) := by rwa [WholeBlocks, length_gcmCrypt hk]
  have hhead : WholeBlocks (sealHeader i k.keyId k.salt k.counter len ++ gcmCrypt k.key (sealIv k.salt k.counter) pre) := by
    have := wholeBlocks_sealHeader i k.keyId k.salt k.counter len
    simp only [WholeBlocks, List.length_append] at *
    omega
  simp only [GcmCtx.absorb, GcmCtx.after, GcmCtx.start, gcmCrypt_append hk _ hpre, padBlock_append hout, padBlock_of_whole hout,
    ← List.append_assoc, ghashOn_append _ _ hhead, List.length_append, ceilDiv_add hpre]

/-- Every piece that a run takes is the next of the text, of which the context has absorbed all before it. -/
theorem GcmCtx.run_after (text : List Byte) : ∀ n m : Nat,
    (GcmCtx.after k i len (text.take (4096 * m))).run text n = GcmCtx.after k i len (text.take (4096 * (m + n))) := by
  intro n
  induction n with
  | zero => intro m; rfl
  | succ n ih =>
    intro m
    have hnext : (GcmCtx.after k i len (text.take (4096 * m))).absorb
        (slice text (text.take (4096 * m)).length pipePiece) = GcmCtx.after k i len (text.take (4096 * (m + 1))) := by
      rw [List.length_take]
      rcases Nat.le_total (4096 * m) text.length with hm | hm
      · rw [Nat.min_eq_left hm, GcmCtx.absorb_after i len hk (by rw [WholeBlocks, List.length_take, Nat.min_eq_left hm]; omega),
          slice, ← List.take_add]
        rfl
      · rw [Nat.min_eq_right hm, slice, List.drop_length, List.take_nil, GcmCtx.absorb_nil, List.take_of_length_le hm,
          List.take_of_length_le (by omega)]
    rw [GcmCtx.run, GcmCtx.done_after, hnext, ih, Nat.add_right_comm, Nat.add_assoc]

/-- The object of a context that has absorbed the whole text. -/
theorem GcmCtx.finish_after (text : List Byte) : (GcmCtx.after k i text.length text).finish = sealObject k i text := by
  have hhead := wholeBlocks_sealHeader i k.keyId k.salt k.counter text.length
  have hfront : WholeBlocks (sealHeader i k.keyId k.salt k.counter text.length ++
      padBlock (gcmCrypt k.key (sealIv k.salt k.counter) text)) := by
    have := wholeBlocks_padBlock (gcmCrypt k.key (sealIv k.salt k.counter) text)
    simp only [WholeBlocks, List.length_append] at *
    omega
  simp only [GcmCtx.finish, GcmCtx.after, GcmCtx.start, ← ghashOn_append _ _ hfront, sealObject, gcmTag, length_gcmCrypt hk,
    padBlock_of_whole hhead, List.append_assoc]
  rfl

end

/-- Settles O60: however many pieces a pipe has taken, its context is that of the text so far, absorbed at one go. -/
theorem sealsInPieces : Obligations.SealsInPieces := by
  intro k i text n hk hn
  have hrun := GcmCtx.run_after i text.length hk text n 0
  rw [Nat.mul_zero, List.take_zero, ← GcmCtx.start_eq_after, Nat.zero_add, List.take_of_length_le hn] at hrun
  rw [hrun, GcmCtx.finish_after i hk text]

end Sys2Proof.Machine
end

section
/-! PROOFS. The SPDM responder (R315 to R317): every request of Table 10-5 is answered by its handler, whose answer joins the transcripts. -/

namespace Sys2Proof.Machine

open Sys2Proof.Claims

/-! ### A request that the mailbox holds -/

/-- The mailbox holds an SPDM request of a kind, and Shroud runs. -/
def AsksSpdm (s : State) (r : MbReq) (q : SpdmReq) : Prop :=
  Holds s r ∧ r.cmd = 0x01 ∧ r.spdm = q ∧ s.restarting .shroud = false

/-- The request has joined the transcripts. -/
def State.hears (s : State) (q : SpdmReq) (r : MbReq) : State := { s with spdm := s.spdm.heard q r.payload }

/-- What a handler may change: the chain and the free values. -/
def State.spdmKept (u : State) (chain : List Byte) (free : Nat) : State := { u with spdm := { u.spdm with chain := chain }, free := free }

/-- The state after a request's answer, with the chain and the free values that its handler leaves. -/
def State.spdmAfter (s : State) (q : SpdmReq) (r : MbReq) (b chain : List Byte) (free : Nat) : State :=
  { s with
    mb := (s.respond r (0, b)).mb
    spdm := { (s.spdm.heard q r.payload).said q r.wantsSignature b with chain := chain }
    free := free }

@[simp] theorem Spdm.chain_heard (x : Spdm) (q : SpdmReq) (bs : List Byte) : (x.heard q bs).chain = x.chain := by cases q <;> rfl

theorem Spdm.said_with_chain (x : Spdm) (q : SpdmReq) (signed : Bool) (bs chain : List Byte) :
    ({ x with chain := chain } : Spdm).said q signed bs = { x.said q signed bs with chain := chain } := by cases q <;> rfl

@[simp] theorem State.hears_chain (s : State) (q : SpdmReq) (r : MbReq) : (s.hears q r).spdm.chain = s.spdm.chain := Spdm.chain_heard ..

theorem State.measuresFor_hears (s : State) (q : SpdmReq) (r : MbReq) (op : Nat) : (s.hears q r).measuresFor op = s.measuresFor op := rfl

/-- What answers each request. -/
def spdmHandler : SpdmReq → MbReq → State → Reply × State
  | .getVersion => fun r => answer r.versions
  | .getCapabilities => fun r => answer r.capabilities
  | .negotiateAlgorithms => fun r => answer r.algorithms
  | .getDigests => fun r s => answer (State.spdmDigests r s) s
  | .getCertificate => fun r s => answer (State.spdmCertificate r s) s
  | .challenge => State.spdmChallenge
  | .getMeasurements => State.spdmMeasurements
  | .setCertificate => State.spdmSet
  | .unsupported => fun r => answer (r.spdmError spdmUnsupported)

theorem exec_spdmRow {q : SpdmReq} {c : Instr} (hc : (q, c) ∈ spdmRows) (s : State) :
    exec c s = s.doneSpdm (s.spdmServe q (spdmHandler q)) := by
  simp only [spdmRows, List.mem_cons, Prod.mk.injEq, List.not_mem_nil, or_false] at hc
  rcases hc with ⟨rfl, rfl⟩ | ⟨rfl, rfl⟩ | ⟨rfl, rfl⟩ | ⟨rfl, rfl⟩ | ⟨rfl, rfl⟩ | ⟨rfl, rfl⟩ | ⟨rfl, rfl⟩ | ⟨rfl, rfl⟩ | ⟨rfl, rfl⟩
  all_goals rfl

section
variable {s : State} {r : MbReq} {q : SpdmReq} (h : AsksSpdm s r q)
include h

theorem State.spdmServe_asked (k : MbReq → State → Reply × State) :
    s.spdmServe q k = ({ (k r (s.hears q r)).2 with
      spdm := (k r (s.hears q r)).2.spdm.said q r.wantsSignature (k r (s.hears q r)).1.2 } : State).respond r (k r (s.hears q r)).1 := by
  obtain ⟨⟨hout, hready, hrec, hres, hlen⟩, hcmd, hq, hshroud⟩ := h
  simp only [State.spdmServe, State.mbServe, MbReq.headerOk, hout, hready, hrec, hres, hlen, hcmd, hq, hshroud, beq_self_eq_true,
    decide_true, Bool.and_true, Bool.false_and, Bool.or_false, Bool.not_true, Bool.false_eq_true, if_false]
  rfl

/-- A request acts by what its handler answers and leaves (R315). -/
theorem exec_spdm_asked {c : Instr} (hc : (q, c) ∈ spdmRows) {b chain : List Byte} {free : Nat}
    (hk : spdmHandler q r (s.hears q r) = ((0, b), (s.hears q r).spdmKept chain free)) :
    exec c s = .next (s.spdmAfter q r b chain free) := by
  rw [exec_spdmRow hc, State.spdmServe_asked h, hk, State.spdmKept, Spdm.said_with_chain]
  simp only [State.doneSpdm, State.keepFixed, State.respond, State.hears, State.spdmAfter]

end

/-! ### What the handlers answer (Table 10-5) -/

/-- The header of a response: the request's version, the code of the request less 0x80, and two parameters. -/
def MbReq.spdmHead (r : MbReq) (p1 p2 : Nat) : List Byte :=
  [BitVec.ofNat 8 r.spdmVersion, BitVec.ofNat 8 (r.spdmCode - 0x80), BitVec.ofNat 8 p1, BitVec.ofNat 8 p2]

/-- A response to the request, and no ERROR. -/
def MbReq.Answered (r : MbReq) (b : List Byte) : Prop := ∃ p1 p2 body, b = r.spdmHead p1 p2 ++ body

theorem MbReq.spdmReply_eq (r : MbReq) (p1 p2 : Nat) (body : List Byte) : r.spdmReply p1 p2 body = (0, r.spdmHead p1 p2 ++ body) := rfl

/-- ERROR with a code, as bytes. -/
def MbReq.errorBytes (r : MbReq) (code : Nat) : List Byte := [BitVec.ofNat 8 r.spdmVersion, 0x7F, BitVec.ofNat 8 code, 0]

/-- Which kind of response answers a request, in the state that has heard it. -/
def SpdmSays (r : MbReq) (u : State) (b : List Byte) : SpdmReq → Prop
  | .unsupported => b = r.errorBytes spdmUnsupported
  | .getMeasurements =>
    (u.measuresFor (leAt r.payload 3 1) = none → b = r.errorBytes spdmInvalid) ∧
      (u.measuresFor (leAt r.payload 3 1) ≠ none → r.Answered b)
  | .getCertificate | .setCertificate => b = r.errorBytes spdmInvalid ∨ r.Answered b
  | _ => r.Answered b

section
variable (r : MbReq) {u : State}

theorem State.spdmDigests_of_chain (h : u.spdm.chain ≠ []) : u.spdmDigests r = r.spdmReply 0 1 (sha384 u.spdm.chain) := by
  rw [State.spdmDigests, List.isEmpty_eq_false_iff.mpr h]
  rfl

theorem State.spdmDigests_of_none (h : u.spdm.chain = []) : u.spdmDigests r = r.spdmReply 0 0 [] := by
  rw [State.spdmDigests, h]
  rfl

/-- The bytes of the chain that a GET_CERTIFICATE gets. -/
def State.portion (u : State) (r : MbReq) : Nat := min (min (leAt r.payload 6 2) (u.spdm.chain.length - leAt r.payload 4 2)) 4080

theorem State.spdmCertificate_inside (hlen : 8 ≤ r.payload.length) (hoff : leAt r.payload 4 2 < u.spdm.chain.length) :
    u.spdmCertificate r = r.spdmReply 0 0 (toLe 2 (u.portion r) ++
      toLe 2 (u.spdm.chain.length - leAt r.payload 4 2 - u.portion r) ++ slice u.spdm.chain (leAt r.payload 4 2) (u.portion r)) := by
  simp only [State.spdmCertificate, Nat.not_lt.mpr hlen, Nat.not_le.mpr hoff, decide_false, Bool.or_self, Bool.false_eq_true, if_false]
  rfl

theorem State.spdmCertificate_outside (h : ¬(8 ≤ r.payload.length ∧ leAt r.payload 4 2 < u.spdm.chain.length)) :
    u.spdmCertificate r = r.spdmError spdmInvalid := by
  rw [State.spdmCertificate]
  exact if_pos (by simpa [Nat.not_le, Nat.not_lt, imp_iff_not_or] using h)

/-- Does SET_CERTIFICATE store the chain that it carries (R316)? -/
def State.storesChain (u : State) (r : MbReq) : Prop :=
  u.spdm.chain = [] ∧ r.payload.drop 4 ≠ [] ∧ (r.payload.drop 4).length ≤ 16384 ∧
    leafHolds (r.payload.drop 4) (devicePublic u.pen.deviceRoot) = true

theorem State.spdmSet_stores (h : u.storesChain r) : u.spdmSet r = (r.spdmReply 0 0 [], u.spdmKept (r.payload.drop 4) u.free) := by
  obtain ⟨hnone, hnew, hlen, hleaf⟩ := h
  rw [State.spdmSet]
  exact if_pos (by simp only [hnone, hlen, hleaf, List.isEmpty_eq_false_iff.mpr hnew]; rfl)

theorem State.spdmSet_keeps (h : ¬u.storesChain r) : u.spdmSet r = (r.spdmError spdmInvalid, u) := by
  rw [State.spdmSet]
  refine if_neg fun hall => h ?_
  simpa [State.storesChain, and_assoc] using hall

/-- The header of MEASUREMENTS: where no block is asked for, with the number of blocks. -/
def State.measHeader (u : State) (r : MbReq) : List Byte := r.spdmHead (if leAt r.payload 3 1 = 0 then u.measures.length else 0) 0

/-- MEASUREMENTS of some blocks (R317), up to what follows the nonce. -/
def State.measFront (u : State) (r : MbReq) (blocks : List (List Byte)) : List Byte :=
  u.measHeader r ++ toLe 1 blocks.length ++ toLe 3 blocks.flatten.length ++ blocks.flatten ++ u.spdmNonce

/-- What follows the nonce, before a signature. -/
def MbReq.measOpaque (r : MbReq) : List Byte := toLe 2 0 ++ r.spdmContext (if r.wantsSignature then 37 else 4)

/-- The signature over a transcript that ends with MEASUREMENTS. -/
def State.measSigned (u : State) (r : MbReq) (blocks : List (List Byte)) : List Byte :=
  u.spdmSign r.spdmVersion "responder-measurements signing"
    (u.spdm.vca ++ u.spdm.meas ++ (u.measFront r blocks ++ r.measOpaque))

theorem State.spdmMeasurements_none (h : u.measuresFor (leAt r.payload 3 1) = none) :
    u.spdmMeasurements r = (r.spdmError spdmInvalid, u) := by
  simp only [State.spdmMeasurements, h]

theorem State.spdmMeasurements_some {blocks : List (List Byte)} (h : u.measuresFor (leAt r.payload 3 1) = some blocks) :
    u.spdmMeasurements r = ((0, u.measFront r blocks ++ (r.measOpaque ++ if r.wantsSignature then u.measSigned r blocks else [])),
      u.spdmKept u.spdm.chain (u.free + 1)) := by
  have hsaid : (r.spdmReply (if leAt r.payload 3 1 = 0 then u.measures.length else 0) 0 (toLe 1 blocks.length ++
      toLe 3 blocks.flatten.length ++ blocks.flatten ++ u.spdmNonce ++ toLe 2 0 ++
      r.spdmContext (if r.wantsSignature then 37 else 4))) = (0, u.measFront r blocks ++ r.measOpaque) := by
    simp only [MbReq.spdmReply_eq, State.measFront, State.measHeader, MbReq.measOpaque, List.append_assoc]
  simp only [State.spdmMeasurements, h, hsaid, State.measSigned]
  cases r.wantsSignature <;> simp [Reply.more, State.spdmKept]

end

/-- Every handler answers RESULT OK, and leaves all but the chain and the free values. -/
theorem spdmHandler_says (q : SpdmReq) (r : MbReq) (u : State) : ∃ b chain free,
    spdmHandler q r u = ((0, b), u.spdmKept chain free) ∧ SpdmSays r u b q ∧ (q ≠ .setCertificate → chain = u.spdm.chain) := by
  cases q with
  | getVersion | getCapabilities | negotiateAlgorithms => exact ⟨_, _, u.free, rfl, ⟨_, _, _, rfl⟩, fun _ => rfl⟩
  | challenge => exact ⟨_, _, u.free + 1, rfl, ⟨_, _, _, List.append_assoc ..⟩, fun _ => rfl⟩
  | unsupported => exact ⟨_, _, u.free, rfl, rfl, fun _ => rfl⟩
  | getDigests =>
    by_cases hc : u.spdm.chain = []
    · exact ⟨_, _, u.free, congrArg (answer · u) (State.spdmDigests_of_none r hc), ⟨_, _, _, rfl⟩, fun _ => rfl⟩
    · exact ⟨_, _, u.free, congrArg (answer · u) (State.spdmDigests_of_chain r hc), ⟨_, _, _, rfl⟩, fun _ => rfl⟩
  | getCertificate =>
    by_cases hin : 8 ≤ r.payload.length ∧ leAt r.payload 4 2 < u.spdm.chain.length
    · exact ⟨_, _, u.free, congrArg (answer · u) (State.spdmCertificate_inside r hin.1 hin.2), .inr ⟨_, _, _, rfl⟩, fun _ => rfl⟩
    · exact ⟨_, _, u.free, congrArg (answer · u) (State.spdmCertificate_outside r hin), .inl rfl, fun _ => rfl⟩
  | getMeasurements =>
    cases hm : u.measuresFor (leAt r.payload 3 1) with
    | none => exact ⟨_, _, u.free, State.spdmMeasurements_none r hm, ⟨fun _ => rfl, fun hne => absurd hm hne⟩, fun _ => rfl⟩
    | some blocks =>
      have hans : ∀ tail, r.Answered (u.measFront r blocks ++ tail) := fun tail =>
        ⟨_, 0, _, by rw [State.measFront, State.measHeader, List.append_assoc, List.append_assoc, List.append_assoc, List.append_assoc]⟩
      exact ⟨_, _, _, State.spdmMeasurements_some r hm, ⟨fun hn => absurd (hm.symm.trans hn) (by simp), fun _ => hans _⟩, fun _ => rfl⟩
  | setCertificate =>
    by_cases hst : u.storesChain r
    · exact ⟨_, _, _, State.spdmSet_stores r hst, .inr ⟨_, _, _, rfl⟩, fun hne => absurd rfl hne⟩
    · exact ⟨_, _, u.free, State.spdmSet_keeps r hst, .inl rfl, fun _ => rfl⟩

/-! ### SpdmServes (R315) -/

theorem leAt_first (x : Byte) (xs : List Byte) : leAt (x :: xs) 0 1 = x.toNat := by simp [leAt, slice, le]

theorem leAt_second (x y : Byte) (xs : List Byte) : leAt (x :: y :: xs) 1 1 = y.toNat := by simp [leAt, slice, le]

theorem MbReq.Answered.header {r : MbReq} {b : List Byte} (h : r.Answered b) :
    4 ≤ b.length ∧ leAt b 0 1 = r.spdmVersion % 256 ∧ leAt b 1 1 = (r.spdmCode - 0x80) % 256 := by
  obtain ⟨p1, p2, body, rfl⟩ := h
  refine ⟨by simp [MbReq.spdmHead], ?_, ?_⟩
  · exact (leAt_first _ _).trans (BitVec.toNat_ofNat ..)
  · exact (leAt_second _ _ _).trans (BitVec.toNat_ofNat ..)

theorem MbReq.errorBytes_header (r : MbReq) (code : Nat) :
    4 ≤ (r.errorBytes code).length ∧ leAt (r.errorBytes code) 0 1 = r.spdmVersion % 256 :=
  ⟨Nat.le_refl 4, (leAt_first _ _).trans (BitVec.toNat_ofNat ..)⟩

/-- Every response starts with the request's version (DSP0274, log 23). -/
theorem SpdmSays.header {r : MbReq} {u : State} {b : List Byte} {q : SpdmReq} (h : SpdmSays r u b q) :
    4 ≤ b.length ∧ leAt b 0 1 = r.spdmVersion % 256 := by
  have herr : ∀ code, b = r.errorBytes code → 4 ≤ b.length ∧ leAt b 0 1 = r.spdmVersion % 256 := by
    rintro code rfl
    exact r.errorBytes_header code
  have hans : r.Answered b → 4 ≤ b.length ∧ leAt b 0 1 = r.spdmVersion % 256 := fun h => ⟨h.header.1, h.header.2.1⟩
  cases q with
  | unsupported => exact herr _ h
  | getMeasurements =>
    by_cases hm : u.measuresFor (leAt r.payload 3 1) = none
    · exact herr _ (h.1 hm)
    · exact hans (h.2 hm)
  | getCertificate | setCertificate => exact h.elim (herr _) hans
  | getVersion | getCapabilities | negotiateAlgorithms | getDigests | challenge => exact hans h

/-- A request of Table 10-5 has its code. -/
theorem MbReq.spdmCode_of_spdm {r : MbReq} {q : SpdmReq} (h : r.spdm = q) (hq : q ≠ .unsupported) : r.spdmCode = q.code := by
  rw [MbReq.spdm] at h
  split at h
  · next p hp =>
    have hcode := List.find?_some hp
    split_ifs at h
    · rw [← h]
      exact (beq_iff_eq.mp hcode).symm
    · exact absurd h.symm hq
  · exact absurd h.symm hq

theorem MbReq.Answered.code {r : MbReq} {b : List Byte} {q : SpdmReq} (h : r.Answered b) (hr : r.spdm = q) (hq : q ≠ .unsupported) :
    leAt b 1 1 = q.code - 0x80 := by
  rw [h.header.2.2, MbReq.spdmCode_of_spdm hr hq]
  cases q <;> simp [SpdmReq.code]

theorem spdmServes : Claims.SpdmServes := by
  rintro s r ⟨q, c⟩ hc hholds hcmd hq hshroud
  obtain ⟨b, chain, free, hk, hsays, hchain⟩ := spdmHandler_says q r (s.hears q r)
  obtain ⟨hlen, hversion⟩ := hsays.header
  refine ⟨_, b, exec_spdm_asked ⟨hholds, hcmd, hq, hshroud⟩ hc hk, rfl, hlen, rfl, fun hne => ?_, rfl, hversion, ?_, ?_, ?_, ?_⟩
  · exact (hchain hne).trans (s.hears_chain q r)
  · rintro rfl
    exact hsays
  · rintro rfl hm
    exact hsays.1 ((s.measuresFor_hears ..).trans hm)
  · rintro rfl hm
    have hans : r.Answered b := hsays.2 ((s.measuresFor_hears ..).trans_ne hm)
    simpa [SpdmReq.code] using hans.code hq (by simp)
  · intro hu hgc hsc hgm
    cases q with
    | unsupported => exact absurd rfl hu
    | getCertificate => exact absurd rfl hgc
    | setCertificate => exact absurd rfl hsc
    | getMeasurements => exact absurd rfl hgm
    | getVersion | getCapabilities | negotiateAlgorithms | getDigests | challenge => exact MbReq.Answered.code hsays hq hu

/-! ### Certificates (R316) -/

theorem certificateChain : Claims.CertificateChain := by
  intro s r hholds hcmd hshroud
  have hasks : ∀ {q}, r.spdm = q → AsksSpdm s r q := fun hq => ⟨hholds, hcmd, hq, hshroud⟩
  refine ⟨fun hq hne => ?_, fun hq hlen hoff => ?_, fun hq => ?_⟩
  · have hdigest : spdmHandler .getDigests r (s.hears .getDigests r) = _ :=
      congrArg (answer · _) (State.spdmDigests_of_chain r (u := s.hears .getDigests r) hne)
    exact ⟨_, _, exec_spdm_asked (hasks hq) (by decide) (free := s.free) hdigest, rfl, rfl⟩
  · have hcert : spdmHandler .getCertificate r (s.hears .getCertificate r) = _ :=
      congrArg (answer · _) (State.spdmCertificate_inside r (u := s.hears .getCertificate r) hlen hoff)
    have hportion : s.portion r ≤ leAt r.payload 6 2 ∧ s.portion r ≤ s.spdm.chain.length - leAt r.payload 4 2 := by
      rw [State.portion]
      omega
    refine ⟨_, r.spdmHead 0 0, s.portion r, s.spdm.chain.length - leAt r.payload 4 2 - s.portion r,
      exec_spdm_asked (hasks hq) (by decide) (free := s.free) hcert, ?_, rfl, hportion.1, by omega⟩
    rw [List.append_assoc, List.append_assoc, ← List.append_assoc (toLe 2 _)]
    rfl
  · by_cases hst : s.storesChain r
    · have hset := State.spdmSet_stores r (u := s.hears .setCertificate r) hst
      exact ⟨_, exec_spdm_asked (hasks hq) (by decide) hset, (if_pos hst).symm⟩
    · have hset := State.spdmSet_keeps r (u := s.hears .setCertificate r) hst
      exact ⟨_, exec_spdm_asked (hasks hq) (by decide) (free := s.free) hset, (if_neg hst).symm⟩

/-! ### Measurements (R317) -/

theorem State.measuresFor_index (s : State) {i : Nat} (h0 : i ≠ 0) (h255 : i ≠ 255) :
    s.measuresFor i = (s.measures[i - 1]?).map fun b => [b] := by
  rw [State.measuresFor, if_neg h0, if_neg h255]

/-- A block of Table 10-6 starts with its index. -/
theorem leAt_dmtfBlock {i : Nat} (h : i < 256) (kind : Nat) (raw : Bool) (value : List Byte) : leAt (dmtfBlock i kind raw value) 0 1 = i := by
  simp only [dmtfBlock, List.append_assoc]
  exact leAt_here (n := 1) h _

theorem State.measure_indexed (s : State) {i : Nat} (h1 : 1 ≤ i) (h8 : i ≤ 8) : ∃ b, s.measures[i - 1]? = some b ∧ leAt b 0 1 = i := by
  have hi : i = 1 ∨ i = 2 ∨ i = 3 ∨ i = 4 ∨ i = 5 ∨ i = 6 ∨ i = 7 ∨ i = 8 := by omega
  rcases hi with rfl | rfl | rfl | rfl | rfl | rfl | rfl | rfl <;> exact ⟨_, rfl, leAt_dmtfBlock (by decide) _ _ _⟩

theorem State.measuresFor_image (s : State) {code : Nat} (h : code < 5) :
    s.measuresFor (code + 2) = some [dmtfBlock (code + 2) 1 false (s.measureImage code)] := by
  have hc : code = 0 ∨ code = 1 ∨ code = 2 ∨ code = 3 ∨ code = 4 := by omega
  rcases hc with rfl | rfl | rfl | rfl | rfl <;> rfl

/-- MEASUREMENTS of the blocks asked for, of which only the signature depends on the transcripts (R317). -/
theorem exec_getMeasurements {s : State} {r : MbReq} (h : AsksSpdm s r .getMeasurements) {blocks : List (List Byte)}
    (hm : s.measuresFor (leAt r.payload 3 1) = some blocks) :
    exec .getMeasurements s = .next (s.spdmAfter .getMeasurements r (s.measFront r blocks ++
      (r.measOpaque ++ if r.wantsSignature then (s.hears .getMeasurements r).measSigned r blocks else [])) s.spdm.chain (s.free + 1)) :=
  exec_spdm_asked h (by decide) (State.spdmMeasurements_some r ((s.measuresFor_hears ..).trans hm))

/-- The signature covers the connection's transcripts with the request, and the response up to it (R317). -/
theorem State.measSigned_hears (s : State) (r : MbReq) (blocks : List (List Byte)) : (s.hears .getMeasurements r).measSigned r blocks =
    ecdsaSign (deviceKey s.pen.deviceRoot) (1 + Config.signSecret s.free % (p384Order - 1)) (spdmSigned r.spdmVersion
      "responder-measurements signing" (s.spdm.vca ++ (s.spdm.meas ++ r.payload) ++ (s.measFront r blocks ++ r.measOpaque))) := rfl

theorem measurements : Claims.Measurements := by
  intro s r hholds hcmd hshroud hq
  refine ⟨fun blocks hm => ?_, rfl, rfl, rfl, fun i h1 h8 => ?_, fun code h => s.measuresFor_image h, rfl⟩
  · refine ⟨_, s.measHeader r, _, exec_getMeasurements ⟨hholds, hcmd, hq, hshroud⟩ hm, rfl, rfl, fun hw => ?_, fun hw => ?_⟩
    · simp [MbReq.measOpaque, hw]
    · refine ⟨1 + Config.signSecret s.free % (p384Order - 1), by omega, ?_, ?_⟩
      · have := Nat.mod_lt (Config.signSecret s.free) (show 0 < p384Order - 1 by decide)
        omega
      · rw [State.measSigned_hears, MbReq.measOpaque, hw]
        rfl
  · obtain ⟨b, hb, hi⟩ := s.measure_indexed h1 h8
    exact ⟨b, by rw [s.measuresFor_index (by omega) (by omega), hb]; rfl, hb, hi⟩

/-- Settles O40: the request that the mailbox holds acts by its handler, and each handler's answer is one of Table 10-5. -/
theorem spdmResponder : Obligations.SpdmResponder := ⟨spdmServes, certificateChain, measurements⟩

end Sys2Proof.Machine
end

section
/-! PROOFS. DIGEST and SNAP_LATCH (R311 to R314, R410). -/

namespace Sys2Proof.Machine

open Sys2Proof.Claims

/-! ### Digest contexts (R311, R314) -/

section
variable (s : State) {c : Nat} {x : DigestCtx}

theorem State.ctx_putCtx (c : Nat) (x : DigestCtx) : (s.putCtx c x).ctx c = some x := FMap.find_put_self ..

theorem State.ctx_putCtx_ne (x : DigestCtx) {k : Nat} (h : k ≠ c) : (s.putCtx c x).ctx k = s.ctx k := FMap.find_put_ne _ _ h

theorem DigestCtx.restart_running (h : x.finished = false) : x.restart = x := by
  rw [DigestCtx.restart, h]
  rfl

theorem DigestCtx.restart_finished (h : x.finished = true) :
    x.restart = { x with finished := false, chain := x.initState, half := [], count := 0 } := if_pos h

theorem DigestCtx.finished_restart (x : DigestCtx) : x.restart.finished = false := by
  cases hx : x.finished with
  | false => rw [DigestCtx.restart_running hx, hx]
  | true => rw [DigestCtx.restart_finished hx]

/-- Less than a block and no more data stays less than a block (R312). -/
theorem DigestCtx.absorb_nil (h : x.half.length < shaBlockLen x.alg) : x.absorb [] = x := by
  simp [DigestCtx.absorb, Nat.div_eq_of_lt h, shaBlocks, chunks, chunksAux]

/-- An INIT restarts nothing: it sets its context itself (R314). -/
theorem State.restartCtx_init {f : DigestF} (h : f.op = 0) : s.restartCtx f = s := by
  rw [State.restartCtx]
  split
  · exact if_pos h
  · rfl

/-- A restart touches the contexts only. -/
theorem State.restartCtx_eq (f : DigestF) : ∃ k, s.restartCtx f = { s with keys := k } := by
  unfold State.restartCtx
  split
  · split_ifs
    · exact ⟨_, rfl⟩
    · exact ⟨_, rfl⟩
  · exact ⟨_, rfl⟩

variable {s}

theorem State.restartCtx_some {f : DigestF} (h : f.op ≠ 0) (hx : s.ctx f.ctx = some x) : s.restartCtx f = s.putCtx f.ctx x.restart := by
  simp only [State.restartCtx, hx, h, if_false]

end

/-! ### What a DIGEST does (R312) -/

/-- A length of a segment at most is one piece. -/
theorem piecesOf_segment {n : Nat} (h1 : 1 ≤ n) (hn : n ≤ segBytes) : piecesOf n = [(0, n)] := by
  have hone : ceilDiv n segBytes = 1 := by
    rw [segBytes] at *
    rw [ceilDiv]
    omega
  rw [piecesOf, spans, hone]
  simp [hn]

section
variable {s : State} {a : Acc} {f : DigestF}

theorem State.digestTaken_init (h : f.op = 0) (data : List Byte) :
    s.digestTaken a f data = (s.putCtx f.ctx (s.ctxInit a.fn f)).endEntry a.id 0 := if_pos h

/-- An entry has had all its data. -/
def Acc.taken (n : Nat) (a : Acc) : Acc := { a with count := n, note := [] }

variable {x : DigestCtx} (hx : s.ctx f.ctx = some x)
include hx

theorem State.digestTaken_update (h : f.op = 1) (data : List Byte) : s.digestTaken a f data =
    ((s.modAcc a.id (Acc.taken data.length)).putCtx f.ctx (x.absorb data)).endEntry a.id data.length := by
  simp only [State.digestTaken, h, hx]
  rfl

theorem State.digestTaken_finish (h : f.op = 2) (data : List Byte) : s.digestTaken a f data =
    ((s.modAcc a.id (Acc.taken data.length)).putCtx f.ctx { x.absorb data with finished := true }).queueXfer a.fn (.resultOut a.id) []
      [Part.load (.host (s.pasidOf a.fn) f.out) (plain (x.absorb data).digest)] := by
  simp only [State.digestTaken, h, hx]
  rfl

end

section
variable {s : State} {a : Acc} {f : DigestF} (hsig : a.hdr.sig = false) (hfirst : s.digestBehind a f = false)
  (hno : s.digestRefusal a.fn f = none)
include hsig hfirst hno

theorem State.runDigest_empty (hlen : f.len = 0) : s.runDigest a f = ((s.restartCtx f).works a .running).digestTaken a f [] := by
  simp only [State.runDigest, State.signalRefusal_none _ _ _ hsig, hfirst, hno, hlen, State.orRefuse_none, Bool.false_eq_true, if_false,
    if_true]
  rfl

/-- With data of one piece, the entry reads it from host memory. -/
theorem State.runDigest_data (h1 : 1 ≤ f.len) (hseg : f.len ≤ segBytes) : s.runDigest a f =
    ((s.restartCtx f).works a .running).queueXfer a.fn (.digest a.id)
      [Part.at (.host ((s.restartCtx f).pasidOf a.fn) f.src) f.len] [] := by
  simp only [State.runDigest, State.signalRefusal_none _ _ _ hsig, hfirst, hno, State.orRefuse_none, Bool.false_eq_true, if_false,
    Nat.ne_of_gt h1, piecesOf_segment h1 hseg]
  rfl

end

/-- The entry is at work, and its context is the one that it goes on from. -/
theorem State.acc_digesting {s : State} {a : Acc} (h : Fresh s a) (f : DigestF) :
    ((s.restartCtx f).works a .running).acc a.id = some (a.goes .running) := by
  obtain ⟨k, hk⟩ := s.restartCtx_eq f
  rw [hk]
  exact State.acc_works (s := { s with keys := k }) h .running

theorem State.ctx_digesting {s : State} {f : DigestF} {x : DigestCtx} (h : f.op ≠ 0) (hx : s.ctx f.ctx = some x) (a : Acc) (phase : Phase) :
    ((s.restartCtx f).works a phase).ctx f.ctx = some x.restart := by
  rw [State.restartCtx_some h hx]
  exact State.ctx_putCtx ..

theorem State.pasidOf_restartCtx (s : State) (f : DigestF) (fn : Nat) : (s.restartCtx f).pasidOf fn = s.pasidOf fn := by
  obtain ⟨k, hk⟩ := s.restartCtx_eq f
  rw [hk]
  rfl

theorem State.nextId_restartCtx (s : State) (f : DigestF) : (s.restartCtx f).nextId = s.nextId := by
  obtain ⟨k, hk⟩ := s.restartCtx_eq f
  rw [hk]

/-- The transfer that an entry queues takes the next number. -/
theorem State.find_queueXfer {s : State} {n : Nat} (h : s.nextId = n) (fn : Nat) (w : Work) (srcs dsts : List Part) :
    FMap.find (s.queueXfer fn w srcs dsts).xfers n = some { id := n, fn := fn, work := w, srcs := srcs, dsts := dsts } := by
  subst h
  exact FMap.find_put_self ..

theorem acts_digest {s : State} {a : Acc} (h : Fresh s a) {f : DigestF} (hop : a.op = .digest f) :
    Acts (.digest a.id) s (s.runDigest a f) := acts_started h rfl (by rw [hop])

theorem digests : Claims.Digests := by
  intro s a f hfresh hplain hop hfirst hno
  obtain ⟨hsig, -⟩ := hplain
  have ⟨hacc, _, hfin⟩ := hfresh
  have hact := acts_digest hfresh hop
  refine ⟨fun h0 hlen hhmac => ?_, fun x h1 hlen hx hrun hhalf => ?_, fun x h2 hlen hx hrun hhmac hhalf => ?_, fun x h12 h1 hseg hx => ?_⟩
  · rw [State.runDigest_empty hsig hfirst hno hlen, s.restartCtx_init h0, State.digestTaken_init h0] at hact
    have hacc' := State.acc_endEntry_some (a := a.goes .running) (State.acc_works hfresh .running) hfin 0
    have hchain : ((s.works a .running).ctxInit a.fn f).chain = shaInit f.alg := by simp [State.ctxInit, hhmac]
    exact ⟨_, _, _, hact, State.ctx_putCtx .., rfl, rfl, hchain, rfl, rfl, rfl, fun k hk => State.ctx_putCtx_ne _ _ hk, hacc', rfl⟩
  · have hctx := State.ctx_digesting (by omega) hx a .running
    rw [DigestCtx.restart_running hrun] at hctx
    rw [State.runDigest_empty hsig hfirst hno hlen, State.digestTaken_update hctx h1, DigestCtx.absorb_nil hhalf] at hact
    have hacc' := State.acc_modAcc_some (Acc.taken 0) (fun _ => rfl) (State.acc_digesting hfresh f)
    exact ⟨_, x, _, hact, State.ctx_putCtx .., rfl, rfl, rfl,
      State.acc_endEntry_some (a := (a.goes .running).taken 0) hacc' hfin 0, rfl⟩
  · have hctx := State.ctx_digesting (by omega) hx a .running
    rw [DigestCtx.restart_running hrun] at hctx
    have hpasid : ((s.restartCtx f).works a .running).pasidOf a.fn = s.pasidOf a.fn := s.pasidOf_restartCtx f a.fn
    rw [State.runDigest_empty hsig hfirst hno hlen, State.digestTaken_finish hctx h2, DigestCtx.absorb_nil hhalf] at hact
    have hdigest : x.digest = shaOut x.alg x.chain := by rw [DigestCtx.digest, hhmac]; rfl
    rw [hpasid, hdigest] at hact
    exact ⟨_, _, _, hact, State.ctx_putCtx .., rfl, State.find_queueXfer (s.nextId_restartCtx f) .., rfl, rfl, rfl⟩
  · have hctx := State.ctx_digesting (by omega) hx a .running
    rw [State.runDigest_data hsig hfirst hno h1 hseg, State.pasidOf_restartCtx] at hact
    refine ⟨_, x.restart, _, hact, ?_, hctx, ?_, fun hdone => ?_, DigestCtx.restart_running,
      State.find_queueXfer (s.nextId_restartCtx f) .., rfl, rfl, rfl⟩
    · exact ⟨_, State.acc_digesting hfresh f, rfl, hfin, rfl, rfl⟩
    · exact x.finished_restart
    · rw [DigestCtx.restart_finished hdone]
      exact ⟨rfl, rfl, rfl⟩

/-! ### SNAP_LATCH (R410) -/

theorem State.runSnapLatch_host {s : State} {a : Acc} (hsig : a.hdr.sig = false) (hfn : a.fn = 0) :
    s.runSnapLatch a = s.latch.endEntry a.id (s.ctr.latchSeq + 1).toNat := by
  simp only [State.runSnapLatch, State.signalRefusal_none _ _ _ hsig, hfn, bne_self_eq_false, refuse_false, firstCond_cons_none,
    firstCond_nil, State.orRefuse_none]
  rfl

theorem FMap.find_keep {α : Type} (m : FMap α) (p : Nat → Bool) {n : Nat} (h : p n = true) :
    FMap.find (FMap.keep m fun k _ => p k) n = FMap.find m n := by
  induction m with
  | nil => rfl
  | cons e m ih =>
    obtain ⟨k, v⟩ := e
    by_cases hk : k = n
    · subst hk
      simp [FMap.keep, FMap.find, h]
    · have hrest : FMap.find ((k, v) :: m) n = FMap.find m n := by simp only [FMap.find, hk, if_false]
      rw [hrest, ← ih, FMap.keep, List.filter_cons]
      split_ifs
      · simp only [FMap.find, hk, if_false]
        rfl
      · rfl

theorem latches : Claims.Latches := by
  intro s a hfresh hplain hop hfn
  have hact : Acts (.snapLatch a.id) s (s.runSnapLatch a) := acts_started hfresh rfl (by rw [hop])
  rw [State.runSnapLatch_host hplain.1 hfn] at hact
  refine ⟨_, hact, endsOk_endEntry (s := s.latch) hfresh.1 hfresh.2.2 _, rfl, rfl, rfl, rfl, rfl, fun id hid => ?_, rfl⟩
  exact congrArg (·.getD 0) (FMap.find_keep _ s.ctrExists hid)

/-- Settles O56: a DIGEST by its operation and its data, and the latch. -/
theorem digestsAndLatches : Obligations.DigestsAndLatches := ⟨digests, latches⟩

end Sys2Proof.Machine
end

section
/-! PROOFS. The Key Unit (R301 to R309): how entries join its queue, how it serves the request at the front, and what the key alarms do. -/

namespace Sys2Proof.Machine

open Sys2Proof.Claims

/-! ### Random masks (R306, R308) -/

theorem State.drbgReady_eq (s : State) : ∃ n, s.drbgReady.2 = { s with free := n } := by
  unfold State.drbgReady
  split
  · exact ⟨_, rfl⟩
  · dsimp only
    split_ifs
    · exact ⟨_, rfl⟩
    · exact ⟨_, rfl⟩

/-- The CTR_DRBG and the free values have moved on. -/
def State.drawn (s : State) (d : Option Drbg) (n : Nat) : State := { s with keys := { s.keys with drbg := d }, free := n }

theorem State.draw_eq (n : Nat) (s : State) : ∃ d k, (s.draw n).2 = s.drawn d k := by
  obtain ⟨k, hk⟩ := s.drbgReady_eq
  refine ⟨(s.draw n).2.keys.drbg, k, ?_⟩
  simp only [State.draw, State.drawn, hk]

theorem State.drawMasks_eq (n : Nat) (s : State) : ∃ d k, s.drawMasks n = s.drawn d k := by
  unfold State.drawMasks
  induction n with
  | zero => exact ⟨s.keys.drbg, s.free, rfl⟩
  | succ n ih =>
    obtain ⟨d, k, hn⟩ := ih
    rw [List.range_succ, List.foldl_append, hn]
    exact (s.drawn d k).draw_eq 32

/-! ### The request at the front (R302, R303, R306) -/

/-- The request at the front has been taken off the queue. -/
def State.kuTaken (s : State) (rest : List KuReq) : State := { s with keys := { s.keys with queue := rest } }

/-- A KEY_LOAD at the front is served (R302). -/
theorem State.kuServe_keyLoad {s : State} {r : KuReq} {rest : List KuReq} {a : Acc} {slot typ src len : Nat}
    (hq : s.keys.queue = r :: rest) (hshroud : s.restarting .shroud = false) (hdrbg : s.keys.drbgStopped = false)
    (ha : s.acc r.entry = some a) (hop : a.op = .keyLoad slot typ src len) :
    s.kuServe = (s.kuTaken rest).keyUnwrapped a slot r.wrapper := by
  simp only [State.kuServe, hq, hshroud, hdrbg, State.acc_with_keys, ha, hop, Bool.or_self, Bool.false_eq_true, if_false, State.kuTaken]

/-- Random values change nothing of which slots drains seal with. -/
theorem State.sealsWith_drawn (s : State) (d : Option Drbg) (n slot : Nat) (hm : Bool) :
    (s.drawn d n).sealsWith slot hm = s.sealsWith slot hm := rfl

section
variable {s : State} {a : Acc} {wrapper : List Byte}

theorem State.keyUnwrapped_bad (h : unwrapBlob a.note wrapper = none) (slot : Nat) :
    ∃ d n, s.keyUnwrapped a slot wrapper = (s.drawn d n).failEntry a.id 0x26 1 := by
  obtain ⟨d, n, hmasks⟩ := s.drawMasks_eq (parseBlob a.note).blocks
  exact ⟨d, n, by simp only [State.keyUnwrapped, hmasks, h]⟩

variable {key : List Byte} {slot : Nat} (h : unwrapBlob a.note wrapper = some key)
include h

theorem State.keyUnwrapped_sealing (hseals : s.sealsWith slot ((parseBlob a.note).typ == 1) = true) :
    ∃ d n, s.keyUnwrapped a slot wrapper = (s.drawn d n).failEntry a.id 0x40 16 := by
  obtain ⟨d, n, hmasks⟩ := s.drawMasks_eq (parseBlob a.note).blocks
  exact ⟨d, n, by simp only [State.keyUnwrapped, hmasks, h, State.sealsWith_drawn, hseals, if_true]⟩

theorem State.keyUnwrapped_free (hseals : s.sealsWith slot ((parseBlob a.note).typ == 1) = false) :
    ∃ d n w, s.keyUnwrapped a slot wrapper = ((s.drawn d n).loadSlot slot (parseBlob a.note) key w).endEntry a.id 0 := by
  obtain ⟨d, n, hmasks⟩ := s.drawMasks_eq (parseBlob a.note).blocks
  exact ⟨d, n, (s.drawn d n).wrapId (parseBlob a.note), by
    simp only [State.keyUnwrapped, hmasks, h, State.sealsWith_drawn, hseals, Bool.false_eq_true, if_false]⟩

end

/-- What a blob of a migration or a key-encryption key loads (R302). -/
def Blob.slotOf (b : Blob) (key : List Byte) (w : Nat) : KeySlot :=
  { key := key, typ := b.typ, keyId := b.keyId, ku := b.ku, migExport := b.migExport, hmacAlg := 0, wrapKeyId := w, salt := 0 }

/-- Such a key is loaded without a salt. -/
theorem State.loadSlot_unsalted (s : State) (slot : Nat) {b : Blob} (h : b.typ = 2 ∨ b.typ = 3) (key : List Byte) (w : Nat) :
    s.loadSlot slot b key w = { s with keys := { s.keys with store := FMap.put s.keys.store slot (b.slotOf key w) } } := by
  have h1 : b.typ ≠ 1 := by omega
  have h0 : b.typ ≠ 0 := by omega
  simp only [State.loadSlot, h1, h0, if_false]
  rfl

/-- With nothing to serve, or without what serves it, the Key Unit does nothing (R306, log 31). -/
theorem State.kuServe_idle {s : State} (h : s.keys.queue = [] ∨ s.restarting .shroud = true ∨ s.keys.drbgStopped = true) : s.kuServe = s := by
  unfold State.kuServe
  split
  · rfl
  · next r rest hq =>
    refine if_pos ?_
    rcases h with h | h | h
    · rw [hq] at h
      exact absurd h (List.cons_ne_nil _ _)
    · rw [h, Bool.true_or]
    · rw [h, Bool.or_true]

theorem keyUnitServes : Claims.KeyUnitServes := by
  intro s
  refine ⟨fun r rest a slot typ src len hq hshroud hdrbg ha hop hid hfin hconds => ?_, fun h => ?_⟩
  · have hacc : ∀ d n, ((s.kuTaken rest).drawn d n).acc a.id = some a := fun _ _ => hid ▸ ha
    have hact : Acts .keyUnitRequestDone s s.kuServe := rfl
    have hends : ∀ d n status info, EndsWith (((s.kuTaken rest).drawn d n).failEntry a.id status info) a status info := by
      intro d n status info
      rw [EndsWith, hconds]
      exact State.acc_failEntry_some (hacc d n) hfin hconds status info
    rw [State.kuServe_keyLoad hq hshroud hdrbg ha hop] at hact
    refine ⟨fun hbad => ?_, fun key hkey hseals => ?_, fun key hkey htyp hseals => ?_⟩
    · obtain ⟨d, n, ht⟩ := State.keyUnwrapped_bad (s := s.kuTaken rest) hbad slot
      exact ⟨_, ht ▸ hact, hends .., rfl⟩
    · obtain ⟨d, n, ht⟩ := State.keyUnwrapped_sealing (s := s.kuTaken rest) hkey hseals
      exact ⟨_, ht ▸ hact, hends .., rfl⟩
    · have hbulk : ((parseBlob a.note).typ == 1) = false := beq_eq_false_iff_ne.mpr (by omega)
      obtain ⟨d, n, w, ht⟩ := State.keyUnwrapped_free (s := s.kuTaken rest) hkey (by rw [hbulk]; exact hseals)
      rw [ht, State.loadSlot_unsalted _ _ htyp] at hact
      exact ⟨_, _, hact, endsOk_endEntry (hacc d n) hfin 0, FMap.find_put_self .., rfl, rfl, rfl, rfl,
        fun k hk => FMap.find_put_ne _ _ hk, rfl⟩
  · have hact : Acts .keyUnitRequestDone s s.kuServe := rfl
    rwa [State.kuServe_idle h] at hact

/-! ### KEY_LOAD and KU_BLOCK join the queue (R301, R303, R306, R307) -/

/-- The blob that a KEY_LOAD keeps for the Key Unit. -/
def Acc.noted (bs : List Byte) (a : Acc) : Acc := { a with note := bs }

section
variable {s : State} {a : Acc} {slot : Nat} (hsig : a.hdr.sig = false) (hdrbg : s.keys.drbgStopped = false)
include hsig hdrbg

/-- A KEY_LOAD that nothing refuses keeps its blob, and takes the device's root where the blob names no slot (R302). -/
theorem State.runKeyLoad_queued {typ len : Nat} {bs : List Byte} (hok : blobOk bs = true) (hwrap : (parseBlob bs).wrap = 0)
    (hhalt : s.queuesHalted (s.keyOwner slot (typ == 1)) = false) (hno : s.keyLoadRefusal slot typ len (parseBlob bs) = none) :
    s.runKeyLoad a slot typ len (.data bs) =
      (s.modAcc a.id (Acc.noted bs)).queueKu a (deviceKek s.pen.deviceRoot) := by
  have hrun : s.drbgRefusal = none := by rw [State.drbgRefusal, hdrbg]; rfl
  have hnoted : Acc.noted bs = fun a => { a with note := bs } := rfl
  simp [State.runKeyLoad, readBytes, hok, State.haltedRefusal_none hhalt, State.signalRefusal_none _ _ _ hsig, hno, hrun, hwrap, hnoted]

theorem State.runKuBlock_queued {k : KeySlot} (hk : FMap.find s.keys.store slot = some k) (htyp : k.typ = 3) (hku : k.ku = true)
    (hown : s.keyOwner slot false = a.fn) : s.runKuBlock a slot = s.queueKu a k.key := by
  have hrun : s.drbgRefusal = none := by rw [State.drbgRefusal, hdrbg]; rfl
  simp [State.runKuBlock, hk, htyp, hku, hown, State.signalRefusal_none _ _ _ hsig, hrun]

end

/-- KEY_LOAD reads its blob, and then acts on it. -/
theorem acts_keyLoad {s : State} {a : Acc} (h : Fresh s a) (hroom : s.readRoom = true) {slot typ src len : Nat} {bs : List Byte}
    (hop : a.op = .keyLoad slot typ src len) :
    ∃ os, Acts (.keyLoad a.id (.data bs)) s ((s.issuing os).runKeyLoad a slot typ len (.data bs)) := by
  obtain ⟨os, hos⟩ := s.readStruct_issuing a.fn src (.data bs)
  exact ⟨os, acts_startedRead h hroom rfl (by rw [hop]; exact congrArg (State.runKeyLoad a slot typ len (.data bs)) hos)⟩

/-- An entry that has joined the Key Unit's queue waits (R306). -/
theorem State.acc_queueKu {s : State} {a b : Acc} (h : s.acc a.id = some b) (w : List Byte) :
    (s.queueKu a w).acc a.id = some (b.goes .waiting) :=
  State.acc_modAcc_some (a := b) (Acc.goes .waiting) (fun _ => rfl) h

theorem keyEntries : Claims.KeyEntries := by
  intro s a slot hfresh hplain hdrbg
  obtain ⟨hsig, -⟩ := hplain
  have ⟨hacc, _, hfin⟩ := hfresh
  refine ⟨fun typ src len bs hop hroom hok hwrap hhalt hno => ?_, fun k decrypt data out hop hk htyp hku hown => ?_⟩
  · obtain ⟨os, hact⟩ := acts_keyLoad hfresh hroom (bs := bs) hop
    rw [State.runKeyLoad_queued (s := s.issuing os) hsig hdrbg hok hwrap hhalt hno] at hact
    have hnoted : ((s.issuing os).modAcc a.id (Acc.noted bs)).acc a.id = some (a.noted bs) :=
      State.acc_modAcc_some (s := s.issuing os) _ (fun _ => rfl) hacc
    have hqueued := State.acc_queueKu (a := a) hnoted (deviceKek s.pen.deviceRoot)
    exact ⟨_, _, hact, ⟨_, hqueued, rfl, hfin, rfl, rfl⟩, hqueued, rfl, rfl⟩
  · have hact : Acts (.kuBlock a.id) s (s.runKuBlock a slot) := acts_started hfresh rfl (by rw [hop])
    rw [State.runKuBlock_queued hsig hdrbg hk htyp hku hown] at hact
    exact ⟨_, hact, ⟨_, State.acc_queueKu hacc k.key, rfl, hfin, rfl, rfl⟩, rfl⟩

/-! ### Key alarms (R309) -/

/-- The state after reports: in the log, in a counter where the log loses them, and in GLOBAL_FAULT. -/
def State.reported (s : State) (l : Log) (c : Counters) (f : BitVec 16) : State :=
  { s with log := l, ctr := c, glob := { s.glob with fault := f } }

/-- What is logged changes the log, and a counter where it is lost (R404). -/
theorem State.logEvent_reported (s : State) (code : Nat) (d : List Nat) : ∃ l c, s.logEvent code d = s.reported l c s.glob.fault := by
  unfold State.logEvent State.logWith State.logEntry
  split_ifs
  · exact ⟨_, _, rfl⟩
  · exact ⟨_, _, rfl⟩
  · exact ⟨_, _, rfl⟩

theorem State.setFault_reported (s : State) (l : Log) (c : Counters) (f : BitVec 16) (bit : Nat) :
    (s.reported l c f).setFault bit = s.reported l c (f ||| 1#16 <<< bit) := rfl

@[simp] theorem State.keys_reported (s : State) (l : Log) (c : Counters) (f : BitVec 16) : (s.reported l c f).keys = s.keys := rfl

@[simp] theorem State.faults_reported (s : State) (l : Log) (c : Counters) (f : BitVec 16) : (s.reported l c f).faults = s.faults := rfl

@[simp] theorem State.acc_reported (s : State) (l : Log) (c : Counters) (f : BitVec 16) (e : Nat) :
    (s.reported l c f).acc e = s.acc e := rfl

@[simp] theorem State.debugUnlocked_reported (s : State) (l : Log) (c : Counters) (f : BitVec 16) :
    (s.reported l c f).glob.debugUnlocked = s.glob.debugUnlocked := rfl

theorem State.failEntries_eq (code : Nat) (l : List KuReq) (s : State) :
    ∃ as, l.foldl (fun s r => s.failEntry r.entry 0x44 code) s = { s with accepted := as } := by
  induction l generalizing s with
  | nil => exact ⟨_, rfl⟩
  | cons r l ih => exact ih (s.failEntry r.entry 0x44 code)

/-- The KEY_LOADs and KU_BLOCKs leave the Key Unit's queue with KEY_FAULT, and nothing changes but entries. -/
theorem State.failKu_eq (code : Nat) (s : State) :
    ∃ as, s.failKu code = { s with keys := { s.keys with queue := s.keys.queue.filter fun r => !s.faults r }, accepted := as } :=
  State.failEntries_eq ..

/-- Where no generation is, no seal is in flight. -/
theorem State.failSeals_none {s : State} (h : s.gens = []) (code : Nat) : s.failSeals code = s := by
  rw [State.failSeals, h]
  rfl

/-- The first fabric links have stopped, each asking for retraining (Table 2-5). -/
def LinksStopped (t : State) (n : Nat) : Prop := ∀ p, p < n → (t.link p).state = .stopped ∧ (t.link p).retrain = true

/-- The state with other links. -/
def State.linked (s : State) (l : FMap Link) : State := { s with links := l }

/-- Where no response is owed, stopping links changes links only. -/
theorem State.stopLinks_eq {s : State} (h : s.freqs = []) (n : Nat) :
    ∃ l, (List.range n).foldl (fun s p => s.stopLink p) s = s.linked l ∧ LinksStopped (s.linked l) n := by
  induction n with
  | zero => exact ⟨s.links, rfl, fun p hp => absurd hp (Nat.not_lt_zero p)⟩
  | succ n ih =>
    obtain ⟨l, hl, hstopped⟩ := ih
    have hstop : (s.linked l).stopLink n = (s.linked l).modLink n Link.stopped :=
      State.stopLink_none fun r hr => absurd (h ▸ hr : r ∈ []) List.not_mem_nil
    refine ⟨((s.linked l).modLink n Link.stopped).links, ?_, fun p hp => ?_⟩
    · rw [List.range_succ, List.foldl_append, hl]
      exact hstop
    · have hlink : (s.linked ((s.linked l).modLink n Link.stopped).links).link p = ((s.linked l).modLink n Link.stopped).link p := rfl
      rw [hlink]
      rcases Nat.lt_succ_iff_lt_or_eq.mp hp with hlt | rfl
      · rw [State.link_modLink_ne _ _ (Nat.ne_of_lt hlt)]
        exact hstopped p hlt
      · rw [State.link_modLink_self]
        exact ⟨rfl, rfl⟩

/-- What an erasure leaves (R309): no key, context or saved seal, no KEY_LOAD or KU_BLOCK, every fabric link stopped, and KEYS_ERASED. -/
def Erased (s t : State) : Prop :=
  t.keys.store = [] ∧ t.keys.hmac = [] ∧ t.keys.ctxs = [] ∧ t.keys.queue = s.keys.queue.filter (fun r => !s.faults r) ∧ t.pipeCtx = [] ∧
    LinksStopped t 32 ∧ t.glob.fault.getLsbD 4 = true

/-- The keys and seals of an erased block, as its links stop. -/
def State.wiped (s : State) : State :=
  { s with
    keys := { s.keys with store := [], hmac := [], ctxs := [] }, pipeCtx := []
    xfers := FMap.mapV s.xfers fun _ x => { x with keys := FMap.mapV x.keys fun _ k => k.erased } }

theorem State.eraseKeys_eq {s : State} (hgens : s.gens = []) (hfreqs : s.freqs = []) (code : Nat) :
    ∃ l, s.eraseKeys code = (((s.failKu code).wiped.linked l).logEvent 0x0502 []).setFault 4 ∧
      LinksStopped ((s.failKu code).wiped.linked l) 32 := by
  have hnone : (s.failKu code).wiped.freqs = [] := by
    obtain ⟨as, hku⟩ := s.failKu_eq code
    rw [hku]
    exact hfreqs
  obtain ⟨l, hl, hstopped⟩ := State.stopLinks_eq hnone 32
  refine ⟨l, ?_, hstopped⟩
  rw [State.eraseKeys, State.failSeals_none hgens, ← hl]
  rfl

theorem State.eraseKeys_erased {s : State} (hgens : s.gens = []) (hfreqs : s.freqs = []) (code : Nat) :
    Erased s (s.eraseKeys code) ∧ (s.eraseKeys code).glob.debugUnlocked = s.glob.debugUnlocked := by
  obtain ⟨l, herase, hstopped⟩ := State.eraseKeys_eq hgens hfreqs code
  obtain ⟨as, hku⟩ := s.failKu_eq code
  obtain ⟨g, c, hlog⟩ := ((s.failKu code).wiped.linked l).logEvent_reported 0x0502 []
  rw [hku] at hlog hstopped
  rw [herase, hku, hlog, State.setFault_reported]
  refine ⟨⟨rfl, rfl, rfl, rfl, rfl, hstopped, ?_⟩, rfl⟩
  show (s.glob.fault ||| 1#16 <<< 4).getLsbD 4 = true
  simp

/-- An erasure of a block whose alarm has been reported. -/
theorem State.eraseKeys_reported {s : State} (hquiet : Quiet s) (l : Log) (c : Counters) (f : BitVec 16) (code : Nat) :
    Erased s ((s.reported l c f).eraseKeys code) ∧ ((s.reported l c f).eraseKeys code).glob.debugUnlocked = s.glob.debugUnlocked := by
  obtain ⟨_, hgens, _, _, hfreqs, _⟩ := hquiet
  have herased := State.eraseKeys_erased (s := s.reported l c f) hgens hfreqs code
  simpa only [Erased, State.keys_reported, State.faults_reported, State.debugUnlocked_reported] using herased

/-- An alarm is logged; in the ERASE mode every alarm erases, in the native mode each has its own response (Table 10-3). -/
theorem State.keyAlarm_eq (s : State) (code : Nat) : ∃ l c, s.keyAlarm code =
    if s.pen.inForce.keyFault = 1 then
      (s.reported l c (if code = 2 then s.glob.fault ||| 1#16 <<< 3 else s.glob.fault)).eraseKeys code
    else (s.reported l c s.glob.fault).nativeAlarm code := by
  obtain ⟨l, c, hlog⟩ := s.logEvent_reported 0x0501 [code]
  refine ⟨l, c, ?_⟩
  have hpen : (s.reported l c s.glob.fault).pen = s.pen := rfl
  simp only [State.keyAlarm, hlog, hpen, State.setFault_reported]
  split_ifs <;> rfl

/-- An unlock of the debug region, or any alarm in the ERASE mode, erases. -/
theorem State.keyAlarm_erases {s : State} (h : Quiet s) {code : Nat} (hmode : s.pen.inForce.keyFault = 1 ∨ code = 5) :
    Erased s (s.keyAlarm code) ∧ (s.keyAlarm code).glob.debugUnlocked = s.glob.debugUnlocked := by
  obtain ⟨l, c, halarm⟩ := s.keyAlarm_eq code
  by_cases hkf : s.pen.inForce.keyFault = 1
  · rw [halarm, if_pos hkf]
    exact State.eraseKeys_reported h ..
  · obtain rfl := hmode.resolve_left hkf
    rw [halarm, if_neg hkf]
    exact State.eraseKeys_reported h ..

/-- A parity mismatch fails the front request, where it is a KEY_LOAD or a KU_BLOCK. -/
theorem State.nativeAlarm_parity {s : State} {r : KuReq} {rest : List KuReq} {a : Acc} (hq : s.keys.queue = r :: rest)
    (ha : s.acc r.entry = some a) (hop : a.op.takesKeyFault = true) : s.nativeAlarm 1 = (s.kuTaken rest).failEntry a.id 0x44 1 := by
  have hfaults : s.faults r = true := by rw [State.faults, ha]; exact hop
  rw [s.acc_id ha]
  simp only [State.nativeAlarm, hq, hfaults, if_true]
  rfl

theorem State.nativeAlarm_idle {s : State} (hq : s.keys.queue = []) : s.nativeAlarm 1 = s := by
  simp only [State.nativeAlarm, hq]

/-- An entropy failure stops the generator, and with it every KEY_LOAD and KU_BLOCK (log 31). -/
theorem State.nativeAlarm_entropy (s : State) : ∃ as, s.nativeAlarm 2 = ({ s with
    keys := { s.keys with drbgStopped := true, queue := s.keys.queue.filter fun r => !s.faults r }, accepted := as } : State).setFault 3 := by
  obtain ⟨as, hku⟩ := State.failKu_eq 2 { s with keys := { s.keys with drbgStopped := true } }
  exact ⟨as, congrArg (State.setFault 3) hku⟩

/-- The debug region is open (R458). -/
def State.unlocked (s : State) : State := { s with glob := { s.glob with debugUnlocked := true } }

@[simp] theorem State.keys_unlocked (s : State) : s.unlocked.keys = s.keys := rfl

@[simp] theorem State.faults_unlocked (s : State) : s.unlocked.faults = s.faults := rfl

section
variable {s : State} (h : Alive s)
include h

theorem acts_debugUnlock : Acts .debugUnlock s (s.unlocked.keyAlarm 5) := by
  have hact : Acts .debugUnlock s s.unlockDebug := rfl
  have hup : ¬(s.glob.power = .held || s.glob.power = .pennant) = true := by
    rcases h.1 with hp | hp <;> simp [hp]
  rw [State.unlockDebug, if_neg hup] at hact
  exact hact

theorem acts_keyUnitParityMismatch : Acts .keyUnitParityMismatch s (s.keyAlarm 1) := by
  have hact : Acts .keyUnitParityMismatch s (if s.mainOn then s.keyAlarm 1 else s) := rfl
  rwa [if_pos (State.mainOn_of_alive h)] at hact

theorem acts_entropyHealthFailure : Acts .entropyHealthFailure s (s.keyAlarm 2) := by
  have hact : Acts .entropyHealthFailure s (if s.mainOn then s.keyAlarm 2 else s) := rfl
  rwa [if_pos (State.mainOn_of_alive h)] at hact

end

theorem keyAlarms : Claims.KeyAlarms := by
  intro s halive hquiet
  have hparity := acts_keyUnitParityMismatch halive
  have hentropy := acts_entropyHealthFailure halive
  refine ⟨fun hnative => ?_, fun c hc => ?_⟩
  · have hlogged : ∀ code, ∃ l n, s.keyAlarm code = (s.reported l n s.glob.fault).nativeAlarm code := fun code => by
      obtain ⟨l, n, halarm⟩ := s.keyAlarm_eq code
      exact ⟨l, n, halarm.trans (if_neg hnative)⟩
    refine ⟨fun hq => ?_, fun r rest a hq ha hop hfin hconds => ?_, ?_⟩
    · obtain ⟨l, n, halarm⟩ := hlogged 1
      rw [halarm, State.nativeAlarm_idle (s := s.reported l n s.glob.fault) hq] at hparity
      exact ⟨_, hparity, rfl⟩
    · obtain ⟨l, n, halarm⟩ := hlogged 1
      rw [halarm, State.nativeAlarm_parity (s := s.reported l n s.glob.fault) hq ha hop] at hparity
      refine ⟨_, hparity, ?_, rfl⟩
      rw [EndsWith, hconds]
      exact State.acc_failEntry_some (s.acc_id ha ▸ ha) hfin hconds 0x44 1
    · obtain ⟨l, n, halarm⟩ := hlogged 2
      obtain ⟨as, hstop⟩ := (s.reported l n s.glob.fault).nativeAlarm_entropy
      rw [halarm, hstop] at hentropy
      exact ⟨_, hentropy, rfl, rfl⟩
  · have herases : ∃ t, Acts c s t ∧ Erased s t ∧ (c = .debugUnlock → t.glob.debugUnlocked = true) := by
      rcases hc with rfl | ⟨hmode, rfl | rfl⟩
      · have herase := State.keyAlarm_erases (s := s.unlocked) hquiet (code := 5) (.inr rfl)
        refine ⟨_, acts_debugUnlock halive, ?_, fun _ => herase.2⟩
        simpa only [Erased, State.keys_unlocked, State.faults_unlocked] using herase.1
      · exact ⟨_, hparity, (State.keyAlarm_erases hquiet (.inl hmode)).1, by simp⟩
      · exact ⟨_, hentropy, (State.keyAlarm_erases hquiet (.inl hmode)).1, by simp⟩
    obtain ⟨t, hact, ⟨hstore, hhmac, hctxs, hqueue, hpipe, hlinks, hfault⟩, hopen⟩ := herases
    exact ⟨t, hact, hstore, hhmac, hctxs, hqueue, hpipe, hlinks, hfault, hopen⟩

/-- Settles O50: the alarms, the Key Unit's service of its front request, and the entries that join its queue. -/
theorem keyUnitRules : Obligations.KeyUnitRules := ⟨keyAlarms, keyUnitServes, keyEntries⟩

end Sys2Proof.Machine
end


section
/-! PROOFS. ATTACH_ENDPOINT, COPY and FILL (R24, R344, R469): an accelerator joins a slice or leaves it, and a length of one segment is
one transfer. -/

namespace Sys2Proof.Machine

open Sys2Proof.Claims

/-! ### ATTACH_ENDPOINT (R344) -/

/-- The endpoint that an ATTACH_ENDPOINT attaches. -/
def AttachF.endpoint (f : AttachF) : Ep :=
  { fn := f.slice, belay := f.belay, quiesce := f.quiesce, winBase := f.winBase, winLen := f.winLen, forkBase := f.forkBase,
    forkSegs := f.forkSegs }

theorem State.loseBuddy_none {s : State} (h : s.gens = []) (ep : Nat) : s.loseBuddy ep = s := by
  rw [State.loseBuddy, h]
  rfl

theorem State.restDetached_none {s : State} (h : s.restores = []) (ep : Nat) : s.restDetached ep = s := by
  rw [State.restDetached, h]
  rfl

/-- The block without what it holds of an endpoint: the attachment, the loss, the forks and the packets that wait for it. -/
def State.without (ep : Nat) (s : State) : State :=
  { s with
    eps := FMap.del s.eps ep, lost := s.lost.filter (· != ep), forks := s.forks.filter (·.ep != ep)
    waitPkts := s.waitPkts.filter fun w => w.1 != 0 || w.2.1.dst != ep }

theorem State.detach_unused {s : State} (hgens : s.gens = []) (hrests : s.restores = []) (ep : Nat) : s.detach ep = s.without ep := by
  have hbuddy : (s.without ep).loseBuddy ep = s.without ep := State.loseBuddy_none (s := s.without ep) hgens ep
  have hrest : (s.without ep).restDetached ep = s.without ep := State.restDetached_none (s := s.without ep) hrests ep
  have hdetach : s.detach ep = ((s.without ep).loseBuddy ep).restDetached ep := rfl
  rw [hdetach, hbuddy, hrest]

section
variable {s : State} {a : Acc} {f : AttachF} (hsig : a.hdr.sig = false)
include hsig

theorem State.runAttach_attach (hatt : f.detach = false) (hhalt : s.queuesHalted f.slice = false) (hno : s.attachRefusal f = none) :
    s.runAttach a f = (({ s with eps := FMap.put s.eps f.ep f.endpoint } : State).zeroCtr 0xC f.ep).endEntry a.id 0 := by
  simp [State.runAttach, hatt, State.haltedRefusal_none hhalt, State.signalRefusal_none _ _ _ hsig, hno, AttachF.endpoint]

theorem State.runAttach_detach {x : Ep} (hdet : f.detach = true) (hx : FMap.find s.eps f.ep = some x)
    (hhalt : s.queuesHalted x.fn = false) (hgens : s.gens = []) (hrests : s.restores = []) :
    s.runAttach a f = (s.without f.ep).endEntry a.id 0 := by
  have hno : s.detachRefusal f.ep = none := by simp [State.detachRefusal, FMap.has, hx, hgens]
  simp [State.runAttach, hdet, hx, State.haltedRefusal_none hhalt, State.signalRefusal_none _ _ _ hsig, hno,
    State.detach_unused hgens hrests]

end

/-- Settles O22: an endpoint is put among the attached ones, or taken off with all that the block holds of it. -/
theorem endpointsAttached : Obligations.EndpointsAttached := by
  intro s a f hfresh hplain hop
  obtain ⟨hsig, -⟩ := hplain
  have ⟨hacc, _, hfin⟩ := hfresh
  have hact : Acts (.attachEndpoint a.id) s (s.runAttach a f) := acts_started hfresh rfl (by rw [hop])
  refine ⟨fun hatt hhalt hno => ?_, fun x hdet hx hhalt hgens hrests _ hsorted => ?_⟩
  · rw [State.runAttach_attach hsig hatt hhalt hno] at hact
    exact ⟨_, f.endpoint, hact, State.acc_endEntry_some hacc hfin 0, FMap.find_put_self .., rfl, rfl, rfl, rfl, rfl, rfl, rfl, rfl, rfl,
      fun k hk => FMap.find_put_ne _ _ hk⟩
  · rw [State.runAttach_detach hsig hdet hx hhalt hgens hrests] at hact
    have hlost : f.ep ∉ s.lost.filter (· != f.ep) := by simp
    exact ⟨_, hact, State.acc_endEntry_some (s := s.without f.ep) hacc hfin 0, FMap.find_del_self _ _ hsorted, hlost,
      fun k hk => FMap.find_del_ne _ hk⟩

/-! ### COPY and FILL (R24, R469) -/

section
variable {s : State} {a : Acc}

theorem State.runCopy_segment {f : CopyF} (h1 : 1 ≤ f.len) (hseg : f.len ≤ segBytes) (hno : s.copyRefusal a f = none) :
    s.runCopy a f = (s.works a .running).queueXfer a.fn (.copy a.id) [Part.at (s.locOf a.fn f.srcSpace f.src) f.len]
      [Part.at (s.locOf a.fn f.dstSpace f.dst) f.len] := by
  rw [State.runCopy, hno, State.orRefuse_none, State.queueCopy, piecesOf_segment h1 hseg]
  rfl

theorem State.runFill_segment {f : FillF} (h1 : 1 ≤ f.len) (hseg : f.len ≤ segBytes) (hno : s.fillRefusal a f = none) :
    s.runFill a f = (s.works a .running).queueXfer a.fn (.fill a.id) []
      [Part.load (s.locOf a.fn f.dstSpace f.dst) (plain (patternBytes f.pattern f.len))] := by
  rw [State.runFill, hno, State.orRefuse_none, State.queueFill, piecesOf_segment h1 hseg]
  rfl

/-- An entry that has gone to a phase of its work, with nothing met, is at work. -/
theorem works_works (h : s.acc a.id = some a) (hfin : a.fin = none) (phase : Phase) : Works (s.works a phase) a phase :=
  works_modAcc h hfin (fun _ => rfl) rfl ⟨rfl, rfl, rfl⟩

/-- An entry that queues its transfers is at work. -/
theorem works_queueXfer (h : Fresh s a) (fn : Nat) (w : Work) (srcs dsts : List Part) :
    Works ((s.works a .running).queueXfer fn w srcs dsts) a .running := works_works h.1 h.2.2 .running

/-- Every other transfer stays. -/
theorem State.find_queueXfer_ne {k : Nat} (hk : k ≠ s.nextId) (fn : Nat) (w : Work) (srcs dsts : List Part) :
    FMap.find (s.queueXfer fn w srcs dsts).xfers k = FMap.find s.xfers k := FMap.find_put_ne _ _ hk

end

/-- Settles O25: a length of one segment is one piece, whose transfer takes the next number. -/
theorem copiesAndFills : Obligations.CopiesAndFills := by
  intro s a hfresh hplain
  refine ⟨fun f hop h1 hseg hno => ?_, fun f hop h1 hseg hno => ?_⟩
  · have hact : Acts (.copy a.id) s (s.runCopy a f) := acts_started hfresh rfl (by rw [hop])
    rw [State.runCopy_segment h1 hseg hno] at hact
    exact ⟨_, _, hact, works_queueXfer hfresh .., State.find_queueXfer (s := s.works a .running) rfl .., rfl, rfl, rfl, rfl,
      fun k hk => State.find_queueXfer_ne (s := s.works a .running) hk .., rfl⟩
  · have hact : Acts (.fill a.id) s (s.runFill a f) := acts_started hfresh rfl (by rw [hop])
    rw [State.runFill_segment h1 hseg hno] at hact
    exact ⟨_, _, hact, works_queueXfer hfresh .., State.find_queueXfer (s := s.works a .running) rfl .., rfl, rfl, rfl, rfl,
      fun k hk => State.find_queueXfer_ne (s := s.works a .running) hk .., rfl⟩

end Sys2Proof.Machine
end

section
/-! PROOFS. SLICE_CREATE and SLICE_RESIZE (R334, R341, R342, R345): what a slice holds when it comes into being, and what a resize
leaves. -/

namespace Sys2Proof.Machine

open Sys2Proof.Claims

/-! ### What is logged (R401, R404, R424) -/

/-- What is logged changes the log, and a counter where it is lost (R404). -/
theorem State.logWith_reported (s : State) (code sev src mast : Nat) (func : Option Nat) (d : List Nat) :
    ∃ l c, s.logWith code sev src mast func d = s.reported l c s.glob.fault := by
  unfold State.logWith State.logEntry
  split_ifs
  · exact ⟨_, _, rfl⟩
  · exact ⟨_, _, rfl⟩
  · exact ⟨_, _, rfl⟩

theorem State.logFn_reported (s : State) (code f : Nat) (d : List Nat) : ∃ l c, s.logFn code f d = s.reported l c s.glob.fault :=
  s.logWith_reported ..

/-- The report of reduced shares changes no more. -/
theorem State.logCut_reported (s : State) (loss : Nat) : ∃ l c, s.logCut loss = s.reported l c s.glob.fault := by
  unfold State.logCut
  split_ifs
  · exact ⟨s.log, s.ctr, rfl⟩
  · exact s.logWith_reported ..

/-! ### A slice comes into being (R290, R300, R311, R341, R342) -/

/-- A map that keeps what a test accepts finds nothing at a key that the test refuses. -/
theorem FMap.find_keep_none {α : Type} (m : FMap α) (p : Nat → Bool) {n : Nat} (h : p n = false) :
    FMap.find (FMap.keep m fun k _ => p k) n = none := by
  rw [Option.eq_none_iff_forall_ne_some]
  intro v hv
  have hkept : p n = true := (List.mem_filter.mp (FMap.mem_of_find hv)).2
  exact Bool.false_ne_true (h.symm.trans hkept)

/-- The lowest free run is free (R342). -/
theorem State.runFree_freeRun {s : State} {f len base : Nat} (h : s.freeRun f len = some base) : s.runFree f base len = true := by
  unfold State.freeRun at h
  refine List.foldlRecOn (motive := fun o => ∀ c, o = some c → s.runFree f c len = true) _ _
    (fun c hc => absurd hc (Option.some_ne_none c).symm) (fun o ho b hb c hc => ?_) base h
  have hfree : s.runFree f b len = true := (List.mem_filter.mp hb).2
  cases o with
  | none => exact Option.some.inj hc ▸ hfree
  | some d =>
    obtain rfl : min b d = c := Option.some.inj hc
    rcases min_choice b d with hmin | hmin
    · rwa [hmin]
    · rw [hmin]
      exact ho d rfl

/-- The function that a created slice is (R341, R342). -/
def State.newSlice (s : State) (f pasid : Nat) (al : Allot) : Fn :=
  { state := .active, pasid := pasid, lanes := al.lanes, queues := al.queues, sheets := al.sheets
    quotaBase := if al.staging = 0 then 0 else (s.freeRun f al.staging).getD 0, quotaLen := al.staging, beat := s.now
    bucket := (s.part f).fnBurst }

/-- What a slice's creation leaves: the slice, with nothing of its number in Cleats, slots and contexts. -/
structure State.Makes (s : State) (f : Nat) (x : Fn) (t : State) : Prop where
  slice : FMap.find t.fns f = some x
  others : ∀ k, k ≠ f → FMap.find t.fns k = FMap.find s.fns k
  cleats : ∀ c, s.cleatOwner c ≠ f → t.cleat c = s.cleat c
  cleared : ∀ c, s.cleatOwner c = f → t.cleat c = 0
  store : ∀ k, s.keyOwner k false = f → FMap.find t.keys.store k = none
  hmac : ∀ k, s.keyOwner k true = f → FMap.find t.keys.hmac k = none
  ctxs : ∀ d c, t.ctx d = some c → c.fn ≠ f

theorem State.makes_makeSlice (s : State) (f pasid : Nat) (al : Allot) : s.Makes f (s.newSlice f pasid al) (s.makeSlice f pasid al) where
  slice := FMap.find_put_self ..
  others _ hk := FMap.find_put_ne _ _ hk
  cleats c hc := congrArg (·.getD 0) (FMap.find_keep s.cleats (fun c => s.cleatOwner c != f) (bne_iff_ne.mpr hc))
  cleared c hc := congrArg (·.getD 0) (FMap.find_keep_none s.cleats (fun c => s.cleatOwner c != f) (by simp [hc]))
  store k hk := FMap.find_keep_none s.keys.store (fun k => !(s.keyOwner k false == f)) (by simp [hk])
  hmac k hk := FMap.find_keep_none s.keys.hmac (fun k => !(s.keyOwner k true == f)) (by simp [hk])
  ctxs _ _ hc := bne_iff_ne.mp (List.mem_filter.mp (FMap.mem_of_find hc)).2

@[simp] theorem State.acc_makeSlice (s : State) (f pasid : Nat) (al : Allot) (e : Nat) : (s.makeSlice f pasid al).acc e = s.acc e := by
  unfold State.acc
  rfl

/-! ### SLICE_CREATE (R341) -/

theorem State.bindRecognised_none {s : State} {f : Nat} (h : ∀ g ∈ s.gens, g.fn ≠ f) (pasid : Option Nat) :
    s.bindRecognised f pasid = s := by
  have hnone : s.gens.filter (fun g => g.fn == f && g.retained) = [] := List.filter_eq_nil_iff.mpr fun g hg => by simp [h g hg]
  rw [State.bindRecognised, hnone]
  rfl

/-- A slice that is not refused for its staging has a free run of it. -/
theorem State.runFree_newSlice {s : State} {f pasid : Nat} {al : Allot} (hno : s.sliceRefusal f pasid al = none) (hst : al.staging ≠ 0) :
    s.runFree f (s.newSlice f pasid al).quotaBase al.staging = true := by
  have hall := List.findSome?_eq_none_iff.mp hno (refuse (al.staging != 0 && (s.freeRun f al.staging).isNone) 0x41 32) (by simp)
  cases hrun : s.freeRun f al.staging with
  | none =>
    rw [hrun, bne_iff_ne.mpr hst] at hall
    exact absurd hall (Option.some_ne_none _)
  | some base =>
    have hbase : (s.newSlice f pasid al).quotaBase = base := by simp [State.newSlice, hst, hrun]
    rw [hbase]
    exact State.runFree_freeRun hrun

theorem State.runSliceCreate_made {s : State} {a : Acc} {f pasid : Nat} {al : Allot} (hsig : a.hdr.sig = false)
    (hhalt : s.queuesHalted f = false) (hno : s.sliceRefusal f pasid al = none) (hgens : ∀ g ∈ s.gens, g.fn ≠ f) :
    ∃ l c, s.runSliceCreate a f pasid al = ((s.makeSlice f pasid al).reported l c s.glob.fault).endEntry a.id 0 := by
  obtain ⟨l, c, hlog⟩ := (s.makeSlice f pasid al).logCut_reported s.shareLoss
  refine ⟨l, c, ?_⟩
  simp only [State.runSliceCreate, State.haltedRefusal_none hhalt, State.signalRefusal_none _ _ _ hsig, hno, firstCond_cons_none,
    firstCond_nil, State.orRefuse_none, State.bindRecognised_none hgens, hlog]
  rfl

theorem slicesCreated : Claims.SlicesCreated := by
  intro s a f pasid al hfresh hplain hop _ hhalt hno hgens
  have ⟨hacc, _, hfin⟩ := hfresh
  have hact : Acts (.sliceCreate a.id) s (s.runSliceCreate a f pasid al) := acts_started hfresh rfl (by rw [hop])
  obtain ⟨l, c, hrun⟩ := State.runSliceCreate_made hplain.1 hhalt hno hgens
  rw [hrun] at hact
  obtain ⟨hslice, hothers, hcleats, hcleared, hstore, hhmac, hctxs⟩ := s.makes_makeSlice f pasid al
  have hmade : ((s.makeSlice f pasid al).reported l c s.glob.fault).acc a.id = some a := by simpa using hacc
  exact ⟨_, _, hact, endsOk_endEntry hmade hfin 0, hslice, rfl, rfl, rfl, rfl, rfl, rfl, State.runFree_newSlice hno, hothers,
    hcleats, hcleared, hstore, hhmac, hctxs⟩

/-! ### SLICE_RESIZE (R334, R345) -/

/-- A slice that has reserved a resize, and the run for it where it has none yet. -/
def Fn.reserving (base : Nat) (al : Allot) (x : Fn) : Fn :=
  { x with resize := some al, newBase := if x.quotaLen = 0 then base else 0, cutSeen := false }

/-- A slice whose resize has taken effect. -/
def Fn.resized (base : Nat) (al : Allot) (x : Fn) : Fn :=
  { x with
    lanes := al.lanes, queues := al.queues, sheets := al.sheets, quotaBase := base, quotaLen := al.staging
    resize := none, newBase := 0, cutSeen := false }

/-- The block with one run of staging more to overwrite. -/
def State.scrubbed (k : Scrub) (s : State) : State := { s with scrubs := s.scrubs ++ [k] }

@[simp] theorem State.acc_scrubbed (k : Scrub) (s : State) (e : Nat) : (s.scrubbed k).acc e = s.acc e := rfl

@[simp] theorem State.acc_modFn (f : Nat) (g : Fn → Fn) (s : State) (e : Nat) : (s.modFn f g).acc e = s.acc e := rfl

/-- The block after a slice has reserved a resize. -/
def State.reserved (f : Nat) (al : Allot) (s : State) : State := s.modFn f (Fn.reserving ((s.freeRun f al.staging).getD 0) al)

@[simp] theorem State.acc_reserved (f : Nat) (al : Allot) (s : State) (e : Nat) : (s.reserved f al).acc e = s.acc e := rfl

section
variable {s : State} {f : Nat} {al : Allot} {x : Fn} (hx : FMap.find s.fns f = some x)
include hx

theorem State.find_modFn (g : Fn → Fn) : FMap.find (s.modFn f g).fns f = some (g x) := by
  rw [State.modFn, FMap.find_modify_self, hx]
  rfl

theorem State.find_reserved : FMap.find (s.reserved f al).fns f = some (x.reserving ((s.freeRun f al.staging).getD 0) al) :=
  State.find_modFn hx _

/-- A reserved resize that keeps staging takes effect; what is cut off at the end is overwritten (R334). -/
theorem State.applyResize_eq (hal : x.resize = some al) (hlen : x.quotaLen ≠ 0) (hst : al.staging ≠ 0) (entry : Nat) :
    ∃ l c, s.applyResize entry f = State.reported (if al.staging < x.quotaLen then
        (s.modFn f (Fn.resized x.quotaBase al)).scrubbed
          { entry := entry, base := x.quotaBase + al.staging, len := x.quotaLen - al.staging, fn := some f }
      else s.modFn f (Fn.resized x.quotaBase al)) l c s.glob.fault := by
  have hlogs : ∀ t : State, t.glob = s.glob → ∃ l c,
      (t.logFn 0x0205 f [al.lanes, al.queues, al.sheets, al.staging]).logCut s.shareLoss = t.reported l c s.glob.fault := by
    intro t ht
    obtain ⟨l, c, hlog⟩ := t.logFn_reported 0x0205 f [al.lanes, al.queues, al.sheets, al.staging]
    obtain ⟨l', c', hcut⟩ := (t.reported l c t.glob.fault).logCut_reported s.shareLoss
    refine ⟨l', c', ?_⟩
    rw [hlog, hcut, ← ht]
    rfl
  have hresized : s.modFn f (fun x' => { x' with
      lanes := al.lanes, queues := al.queues, sheets := al.sheets, quotaBase := x.quotaBase, quotaLen := al.staging
      resize := none, newBase := 0, cutSeen := false }) = s.modFn f (Fn.resized x.quotaBase al) := rfl
  by_cases hcut : al.staging < x.quotaLen
  · obtain ⟨l, c, hlog⟩ := hlogs ((s.modFn f (Fn.resized x.quotaBase al)).scrubbed
      { entry := entry, base := x.quotaBase + al.staging, len := x.quotaLen - al.staging, fn := some f }) rfl
    refine ⟨l, c, ?_⟩
    have hpos : x.quotaLen - al.staging ≠ 0 := by omega
    simp only [State.applyResize, hx, hal, hlen, hst, hcut, if_false, if_true, hresized, State.scrubQuota, hpos]
    exact hlog
  · obtain ⟨l, c, hlog⟩ := hlogs (s.modFn f (Fn.resized x.quotaBase al)) rfl
    refine ⟨l, c, ?_⟩
    simp only [State.applyResize, hx, hal, hlen, hst, hcut, if_false, hresized]
    exact hlog

end

section
variable {s : State} {a : Acc} {f : Nat} {al : Allot} {x : Fn} (hsig : a.hdr.sig = false) (hhalt : s.queuesHalted f = false)
  (hno : s.resizeRefusal f al = none)
include hsig hhalt hno

/-- While a generation is OPEN the resize is reserved (R345). -/
theorem State.runSliceResize_open (hopen : s.hasOpen f = true) : s.runSliceResize a f al = (s.reserved f al).endEntry a.id 0 := by
  have hopen' : (s.reserved f al).hasOpen f = true := hopen
  simp only [State.runSliceResize, State.haltedRefusal_none hhalt, State.signalRefusal_none _ _ _ hsig, hno, firstCond_cons_none,
    firstCond_nil, State.orRefuse_none]
  exact if_pos hopen'

/-- Otherwise it takes effect, and the entry waits where it has staging to overwrite. -/
theorem State.runSliceResize_now (hopen : s.hasOpen f = false) : s.runSliceResize a f al =
    if ((s.reserved f al).applyResize a.id f).scrubsFor a.id then ((s.reserved f al).applyResize a.id f).works a .waiting
    else ((s.reserved f al).applyResize a.id f).endEntry a.id 1 := by
  have hopen' : (s.reserved f al).hasOpen f = false := hopen
  simp only [State.runSliceResize, State.haltedRefusal_none hhalt, State.signalRefusal_none _ _ _ hsig, hno, firstCond_cons_none,
    firstCond_nil, State.orRefuse_none]
  exact if_neg (ne_true_of_eq_false hopen')

variable (hx : FMap.find s.fns f = some x) (hlen : x.quotaLen ≠ 0) (hopen : s.hasOpen f = false)
include hx hlen hopen

/-- A resize that leaves the staging as it is ends at once (R345). -/
theorem State.runSliceResize_same (hst : al.staging = x.quotaLen) (hscrubs : s.scrubsFor a.id = false) :
    ∃ l c, s.runSliceResize a f al =
      (((s.reserved f al).modFn f (Fn.resized x.quotaBase al)).reported l c s.glob.fault).endEntry a.id 1 := by
  obtain ⟨l, c, happly⟩ := State.applyResize_eq (State.find_reserved hx) rfl hlen (hst ▸ hlen) a.id
  rw [if_neg (by exact Nat.not_lt.mpr hst.ge)] at happly
  refine ⟨l, c, ?_⟩
  rw [State.runSliceResize_now hsig hhalt hno hopen, happly]
  exact if_neg (ne_true_of_eq_false hscrubs)

/-- A resize that gives staging back waits until it is overwritten (R334). -/
theorem State.runSliceResize_shrink (hst : al.staging < x.quotaLen) (hpos : 0 < al.staging) :
    ∃ l c, s.runSliceResize a f al = ((((s.reserved f al).modFn f (Fn.resized x.quotaBase al)).scrubbed
      { entry := a.id, base := x.quotaBase + al.staging, len := x.quotaLen - al.staging, fn := some f }).reported l c
        s.glob.fault).works a .waiting := by
  obtain ⟨l, c, happly⟩ := State.applyResize_eq (State.find_reserved hx) rfl hlen hpos.ne' a.id
  rw [if_pos (by exact hst)] at happly
  refine ⟨l, c, ?_⟩
  rw [State.runSliceResize_now hsig hhalt hno hopen, happly]
  exact if_pos (by simp [State.scrubsFor, State.scrubbed, State.reported])

end

theorem slicesResized : Claims.SlicesResized := by
  intro s a f al x hfresh hplain hop hx hhalt hno hlen
  have ⟨hacc, _, hfin⟩ := hfresh
  have hact : Acts (.sliceResize a.id) s (s.runSliceResize a f al) := acts_started hfresh rfl (by rw [hop])
  have hfind : ∀ g, FMap.find ((s.reserved f al).modFn f g).fns f = some (g (x.reserving ((s.freeRun f al.staging).getD 0) al)) :=
    State.find_modFn (State.find_reserved hx)
  have hother : ∀ g k, k ≠ f → FMap.find ((s.reserved f al).modFn f g).fns k = FMap.find s.fns k := fun g k hk =>
    (FMap.find_modify_ne _ _ hk).trans (FMap.find_modify_ne _ _ hk)
  refine ⟨fun hopen hst hscrubs => ?_, fun hopen hst hpos => ?_, fun hopen hst => ?_⟩
  · obtain ⟨l, c, hrun⟩ := State.runSliceResize_same hplain.1 hhalt hno hx hlen hopen hst hscrubs
    rw [hrun] at hact
    have hsame : (((s.reserved f al).modFn f (Fn.resized x.quotaBase al)).reported l c s.glob.fault).acc a.id = some a := by
      simpa using hacc
    exact ⟨_, _, hact, endsOk_endEntry hsame hfin 1, hfind _, rfl, rfl, rfl, rfl, rfl, rfl, hother _⟩
  · obtain ⟨l, c, hrun⟩ := State.runSliceResize_shrink hplain.1 hhalt hno hx hlen hopen hst hpos
    rw [hrun] at hact
    have hsame : ((((s.reserved f al).modFn f (Fn.resized x.quotaBase al)).scrubbed
        { entry := a.id, base := x.quotaBase + al.staging, len := x.quotaLen - al.staging, fn := some f }).reported l c
          s.glob.fault).acc a.id = some a := by simpa using hacc
    exact ⟨_, _, _, hact, works_works hsame hfin .waiting, hfind _, rfl, rfl, rfl, rfl, rfl, rfl, rfl⟩
  · rw [State.runSliceResize_open hplain.1 hhalt hno hopen] at hact
    have hsame : (s.reserved f al).acc a.id = some a := by simpa using hacc
    exact ⟨_, _, hact, endsOk_endEntry hsame hfin 0, State.find_reserved hx, rfl, rfl,
      fun k hk => FMap.find_modify_ne _ _ hk⟩

/-- Settles O54: a slice comes into being, and its allotments change at once or are reserved. -/
theorem sliceAllotments : Obligations.SliceAllotments := ⟨slicesCreated, slicesResized⟩

end Sys2Proof.Machine
end

section
/-! PROOFS. SLICE_FREEZE, SLICE_RESET, SLICE_SAVE and SLICE_LOAD (R305, R306, R352 to R358): a slice without work of its own stops or
starts afresh, and its image is written and read. -/

namespace Sys2Proof.Machine

open Sys2Proof.Claims

/-! ### SLICE_FREEZE (R355) -/

/-- A slice that accepts no more entries. -/
def Fn.stopping (x : Fn) : Fn := { x with freezing := true }

theorem State.runSliceFreeze_idle {s : State} {a : Acc} {f : Nat} {x : Fn} (hsig : a.hdr.sig = false) (hx : FMap.find s.fns f = some x)
    (hstate : x.state = .active) (hbusy : s.freezeBusy f x = false) :
    s.runSliceFreeze a f = (s.modFn f Fn.stopping).works a .waiting := by
  have hgo : ((FMap.find s.fns f).map fun x => x.state == .frozen || s.freezeBusy f x).getD true = false := by
    simp [hx, hbusy, hstate]
  simp only [State.runSliceFreeze, State.signalRefusal_none _ _ _ hsig, hgo]
  rfl

/-! ### SLICE_RESET (R352) -/

/-- A slice with no entry and no work of its own, in a block without work, endpoints and reserved resizes. -/
structure State.Bare (s : State) (f : Nat) : Prop where
  entries : ∀ b ∈ s.accepted, b.sq = 0
  sheets : s.sheets = []
  gens : s.gens = []
  eps : s.eps = []
  xfers : s.xfers = []
  hreqs : s.hreqs = []
  resizes : ∀ p ∈ s.fns, p.2.resize = none
  rings : ∀ r ∈ s.cqs, r.2.fn ≠ f

/-- What step 1 does to a queue of the slice that runs. -/
def Sq.disabledOf (f k : Nat) (q : Sq) : Sq := if k != 0 && q.fn == f && q.state == SqState.running then q.stop .disabled else q

/-- What step 4 does to a queue of the slice that is halted. -/
def Sq.clearedOf (f k : Nat) (q : Sq) : Sq := if k != 0 && q.fn == f && q.state == SqState.halted then { q with state := .disabled } else q

/-- What step 4 does to a ring of the slice that is halted. -/
def Cq.clearedOf (f k : Nat) (r : Cq) : Cq := if k != 0 && r.fn == f && r.state == CqState.halted then { r with state := .running } else r

/-- A slice whose reset has begun: signals that fall due are discarded (R290). -/
def Fn.discarding (x : Fn) : Fn := { x with resetting := true }

/-- A slice without its orphan report (R350). -/
def Fn.unreported (x : Fn) : Fn := { x with orphan := {}, missed := false }

/-- The slice after its reset. -/
def Fn.restarted (now : Nat) (x : Fn) : Fn :=
  { x with state := .active, haltCause := 0, haltIndex := 0, haltQid := 0, resetting := false, freezing := false, beat := now }

/-- Step 1 of Table 12-6, of a slice without work. -/
def State.resetBegun (f : Nat) (s : State) : State :=
  { s.modFn f Fn.discarding with sqs := FMap.mapV s.sqs (Sq.disabledOf f) }

/-- Step 4 of Table 12-6, of a slice without waits and rings. -/
def State.resetCleared (f : Nat) (s : State) : State :=
  ({ (s.clearCleatsOf f).freeCtxs f with
    sqs := FMap.mapV s.sqs (Sq.clearedOf f), cqs := FMap.mapV s.cqs (Cq.clearedOf f) } : State).modFn f Fn.unreported

/-- A SLICE_RESET that has done step 1 of Table 12-6. -/
def Acc.resetting (a : Acc) : Acc := { a with phase := .waiting, step := 1 }

/-- A SLICE_RESET that has done step 4, with the number of entries that it squashed. -/
def Acc.resetDone (n : Nat) (a : Acc) : Acc := { a with step := 2, count := n }

namespace State.Bare
variable {s : State} {f : Nat} (h : s.Bare f)
include h

/-! #### What keeps a slice without work so -/

theorem modAcc {e : Nat} {g : Acc → Acc} (hg : ∀ b, (g b).sq = b.sq) : (s.modAcc e g).Bare f where
  __ := h
  entries b hb := by
    obtain ⟨c, hc, rfl⟩ := List.mem_map.mp hb
    have hsq : (if c.id = e then g c else c).sq = c.sq := by
      split_ifs
      · exact hg c
      · rfl
    exact hsq.trans (h.entries c hc)

theorem resetBegun : (s.resetBegun f).Bare f where
  __ := h
  resizes := FMap.forall_modify h.resizes fun _ hx => hx

theorem noRings : (FMap.mapV s.cqs (Cq.clearedOf f)).filter (fun r => r.2.fn == f) = [] := by
  refine List.filter_eq_nil_iff.mpr fun p hp => ?_
  obtain ⟨q, hq, rfl⟩ := List.mem_map.mp hp
  have hfn : (q.2.clearedOf f q.1).fn = q.2.fn := by
    unfold Cq.clearedOf
    split_ifs <;> rfl
  simpa [hfn] using h.rings q hq

theorem resetCleared : (s.resetCleared f).Bare f where
  __ := h
  resizes := FMap.forall_modify h.resizes fun _ hx => hx
  rings r hr hf := List.filter_eq_nil_iff.mp h.noRings r hr (beq_iff_eq.mpr hf)

/-! #### The steps of Table 12-6 -/

theorem ioEntries : s.ioEntries f = [] := List.filter_eq_nil_iff.mpr fun b hb => by simp [h.entries b hb]

theorem unended : s.unended f = [] := by
  rw [State.unended, h.ioEntries]
  rfl

/-- No resize waits for its epoch boundary. -/
theorem settleResize : s.settleResize = s := by
  have hnone : s.fns.filter (fun p => p.2.resize.isSome && (p.2.cutSeen || !s.hasOpen p.1)) = [] :=
    List.filter_eq_nil_iff.mpr fun p hp => by simp [h.resizes p hp]
  rw [State.settleResize, hnone]
  rfl

theorem resetStart (squash : Bool) : s.resetStart f squash = s.resetBegun f := by
  simp only [State.resetStart, State.resetBegun, State.modFn, h.sheets, h.gens, h.eps, List.filter_nil, List.foldl_nil,
    List.flatMap_nil]
  rfl

/-- Nothing is left to end (step 3). -/
theorem resetEnd (info : Nat) : s.resetEnd f info = s := by
  have hself : ({ s with sheets := [], gens := [], xfers := [], hreqs := [] } : State) = s := by
    rw [← h.sheets, ← h.gens, ← h.xfers, ← h.hreqs]
  simp only [State.resetEnd, h.unended, List.filter_nil, List.foldl_nil, h.sheets, h.xfers, h.gens, h.hreqs]
  exact hself

theorem resetClear (info : Nat) : s.resetClear f info = s.resetCleared f := by
  have hrings : (FMap.mapV s.cqs fun k r =>
      if k != 0 && r.fn == f && r.state == CqState.halted then { r with state := .running } else r).filter (fun r => r.2.fn == f) = [] :=
    h.noRings
  simp only [State.resetClear, h.unended, List.filter_nil, List.foldl_nil, State.freeCtxs, State.clearCleatsOf, hrings]
  rfl

/-- Nothing of the slice is still to be reported (R354). -/
theorem reporting : s.reporting f = false := by
  have hcqs : (s.cqs.any fun r => r.2.fn == f && r.2.state == .running && !r.2.held.isEmpty) = false :=
    List.any_eq_false.mpr fun r hr => by simp [h.rings r hr]
  rw [State.reporting, h.ioEntries, hcqs, h.hreqs]
  rfl

variable {x : Fn} (hx : FMap.find s.fns f = some x) (hstate : x.state ≠ .frozen)
include hx hstate

/-- Nothing keeps the slice from coming back to ACTIVE (step 6). -/
theorem resetLeave (a : Acc) : s.resetLeave a f = (s.modFn f (Fn.restarted s.now)).endEntry a.id a.count := by
  have hgo : ((FMap.find s.fns f).map fun x => x.state == .frozen).getD false = false := by simpa [hx] using hstate
  simp only [State.resetLeave, h.reporting, hgo, Bool.false_eq_true, if_false]
  rfl

/-- With no entry to squash the reset ends at once, with INFO 0 (steps 3 to 6). -/
theorem resetFinish (a : Acc) (squash : Bool) : s.resetFinish a f squash =
    (((s.resetCleared f).modAcc a.id (Acc.resetDone 0)).modFn f (Fn.restarted s.now)).endEntry a.id 0 := by
  have hdone : ((s.resetCleared f).modAcc a.id (Acc.resetDone 0)).Bare f := h.resetCleared.modAcc fun _ => rfl
  have hleave := hdone.resetLeave (x := x.unreported) (State.find_modFn hx Fn.unreported) hstate (a.resetDone 0)
  simp only [State.resetFinish, h.unended, List.length_nil, h.resetEnd, h.resetClear, h.resetCleared.settleResize]
  exact hleave

/-- A SLICE_RESET in SQUASH mode does its steps at once (R352). -/
theorem runSliceReset {a : Acc} (hsig : a.hdr.sig = false) : s.runSliceReset a f true =
    (((((s.resetBegun f).modAcc a.id Acc.resetting).resetCleared f).modAcc a.id (Acc.resetDone 0)).modFn f
      (Fn.restarted s.now)).endEntry a.id 0 := by
  have hthere : refuse (!FMap.has s.fns f) 0x40 16 = none := by simp [FMap.has, hx]
  have hbegun : ((s.resetBegun f).modAcc a.id Acc.resetting).Bare f := h.resetBegun.modAcc fun _ => rfl
  have hfinish := hbegun.resetFinish (x := x.discarding) (State.find_modFn hx Fn.discarding) hstate a true
  simp only [State.runSliceReset, State.signalRefusal_none _ _ _ hsig, hthere, firstCond_cons_none, firstCond_nil, State.orRefuse_none,
    h.resetStart, h.resetBegun.settleResize, if_true]
  exact hfinish

end State.Bare

/-- A queue of the slice that was halted is DISABLED after both steps. -/
theorem Sq.state_cleared {f k : Nat} {q : Sq} (hk : k ≠ 0) (hf : q.fn = f) (hq : q.state = .halted) :
    ((q.disabledOf f k).clearedOf f k).state = .disabled := by
  have hkept : q.disabledOf f k = q := if_neg (by simp [hq])
  rw [hkept, Sq.clearedOf, if_pos (by simp [hk, hf, hq])]

theorem slicesFrozenAndReset : Claims.SlicesFrozenAndReset := by
  intro s a f x hfresh hplain hx
  obtain ⟨hsig, hconds⟩ := hplain
  have ⟨hacc, _, hfin⟩ := hfresh
  refine ⟨fun hop hstate hbusy => ?_, fun timeout hop hquiet hstate haccepted hsq heps hresizes hrings => ?_⟩
  · have hact : Acts (.sliceFreeze a.id) s (s.runSliceFreeze a f) := acts_started hfresh rfl (by rw [hop])
    rw [State.runSliceFreeze_idle hsig hx hstate hbusy] at hact
    have hsame : (s.modFn f Fn.stopping).acc a.id = some a := hacc
    exact ⟨_, _, hact, State.find_modFn hx _, rfl, works_works hsame hfin .waiting, fun k hk => FMap.find_modify_ne _ _ hk⟩
  · have hact : Acts (.sliceReset a.id) s (s.runSliceReset a f true) := acts_started hfresh rfl (by rw [hop])
    obtain ⟨hxfers, hgens, hsheets, _, _, _, hhreqs, _⟩ := hquiet
    have hbare : s.Bare f :=
      { entries := fun b hb => by rw [haccepted, List.mem_singleton] at hb; rw [hb, hsq]
        sheets := hsheets, gens := hgens, eps := heps, xfers := hxfers, hreqs := hhreqs, resizes := hresizes, rings := hrings }
    rw [hbare.runSliceReset hx hstate hsig] at hact
    have hbegun : ((s.resetBegun f).modAcc a.id Acc.resetting).acc a.id = some a.resetting :=
      State.acc_modAcc_some (s := s.resetBegun f) _ (fun _ => rfl) hacc
    have hdone := State.acc_modAcc_some (s := ((s.resetBegun f).modAcc a.id Acc.resetting).resetCleared f) (Acc.resetDone 0)
      (fun _ => rfl) hbegun
    refine ⟨_, (x.discarding.unreported).restarted s.now, _, hact, ?_, rfl, rfl, rfl,
      State.acc_endEntry_some (a := a.resetting.resetDone 0) hdone hfin 0, rfl, hconds, fun k q hk hq hf hhalted => ?_⟩
    · exact State.find_modFn (s := (((s.resetBegun f).modAcc a.id Acc.resetting).resetCleared f).modAcc a.id (Acc.resetDone 0))
        (State.find_modFn (State.find_modFn hx Fn.discarding) Fn.unreported) _
    · have hfind : FMap.find (FMap.mapV (FMap.mapV s.sqs (Sq.disabledOf f)) (Sq.clearedOf f)) k =
          some ((q.disabledOf f k).clearedOf f k) := by
        rw [FMap.find_mapV, FMap.find_mapV, hq]
        rfl
      exact ⟨_, hfind, Sq.state_cleared hk hf hhalted⟩

/-! ### SLICE_SAVE (R305, R306, R356, R357) -/

/-- A SLICE_SAVE at work on an image of n bytes. -/
def Acc.saving (n : Nat) (a : Acc) : Acc := { a with phase := .running, count := n }

section
variable {s : State} {a : Acc} {f dest len slot : Nat} {x : Fn} {k : KeySlot}

/-- A SLICE_SAVE whose image fits its destination. -/
theorem State.runSliceSave_fits (hsig : a.hdr.sig = false) (hx : FMap.find s.fns f = some x) (hstate : x.state = .frozen)
    (hk : s.migKey slot = some k) (hdrbg : s.keys.drbgStopped = false) (hlen : imageLen (s.exported f).length ≤ len) :
    s.runSliceSave a f dest len slot = if (s.exported f).isEmpty then s.imageReady a f dest x k else s.queueKu a k.key := by
  have hroom : decide (len < imageLen (s.keyRecords f []).length) = false := by
    rw [State.keyRecords, List.length_map]
    exact decide_eq_false (Nat.not_lt.mpr hlen)
  simp [State.runSliceSave, State.signalRefusal_none _ _ _ hsig, hx, hstate, hk, hroom, hdrbg]

/-- Without keys to wrap, the image is one transfer to host memory, of 128 bytes. -/
theorem State.imageReady_keyless (hnone : s.exported f = []) : ∃ d n bs, s.imageReady a f dest x k =
    ((s.drawn d n).modAcc a.id (Acc.saving 128)).queueXfer a.fn (.resultOut a.id) [] [Part.load (.host (s.pasidOf a.fn) dest) bs] := by
  obtain ⟨d, n, hdraw⟩ := s.draw_eq 12
  have hpieces : piecesOf 128 = [(0, 128)] := piecesOf_segment (by decide) (by decide)
  rcases hiv : s.draw 12 with ⟨iv, t⟩
  obtain rfl : t = s.drawn d n := by rw [← hdraw, hiv]
  simp only [State.imageReady, State.keyRecords, hnone, List.map_nil, List.length_nil, List.foldl_nil, imageLen, Nat.mul_zero,
    Nat.add_zero, hpieces, List.foldl_cons, hiv]
  exact ⟨d, n, _, rfl⟩

end

/-! ### SLICE_LOAD (R305, R306, R358, log 170) -/

/-- SLICE_LOAD reads its image, and then acts on it. -/
theorem acts_sliceLoad {s : State} {a : Acc} (h : Fresh s a) (hroom : s.readRoom = true) {f pasid src len slot : Nat} {bs : List Byte}
    (hop : a.op = .sliceLoad f pasid src len slot) :
    ∃ os, Acts (.sliceLoad a.id (.data bs)) s ((s.issuing os).runSliceLoad a f pasid len slot (.data bs)) := by
  obtain ⟨os, hos⟩ := s.readStruct_issuing a.fn src (.data bs)
  exact ⟨os, acts_startedRead h hroom rfl (by rw [hop]; exact congrArg (State.runSliceLoad a f pasid len slot (.data bs)) hos)⟩

theorem imageAuth_forged {k : KeySlot} {bs : List Byte}
    (h : slice bs 64 16 ≠ gcmTag k.key (slice bs 52 12) (overlay (bs.take (leAt bs 12 4)) 64 (List.replicate 16 0)) []) :
    imageAuth (some k) bs = some 1 := by
  refine if_pos ?_
  rw [bne_iff_ne.mpr h, Bool.or_true]

section
variable {s : State} {a : Acc} {f pasid len slot : Nat} {bs : List Byte} {k : KeySlot} (hsig : a.hdr.sig = false)
  (hhalt : s.queuesHalted f = false) (hk : s.migKey slot = some k) (hlen : bs.length = len)

section
include hsig hhalt hk hlen

/-- An image whose tag does not verify ends its entry before anything else is read of it. -/
theorem State.runSliceLoad_forged {cause : Nat} (hauth : imageAuth (some k) bs = some cause) :
    s.runSliceLoad a f pasid len slot (.data bs) = s.failEntry a.id 0x26 cause := by
  have hfit : fit len 0 bs = bs := by simp [fit, ← hlen]
  simp only [State.runSliceLoad, readBytes, hfit, hk, hauth, State.haltedRefusal_none hhalt, State.signalRefusal_none _ _ _ hsig]
  rfl

/-- An image that nothing refuses makes its slice, or waits for the Key Unit where it carries keys. -/
theorem State.runSliceLoad_taken (hauth : imageAuth (some k) bs = none) (htotal : leAt bs 12 4 = len) (hok : sliceImageOk bs = true)
    (hno : s.loadRefusal f pasid bs = none) : s.runSliceLoad a f pasid len slot (.data bs) =
      if (imageRecords bs).isEmpty then s.loadImage a f pasid k bs else (s.modAcc a.id (Acc.noted bs)).queueKu a k.key := by
  have hfit : fit len 0 bs = bs := by simp [fit, ← hlen]
  simp only [State.runSliceLoad, readBytes, hfit, hk, hauth, htotal, hok, State.haltedRefusal_none hhalt,
    State.signalRefusal_none _ _ _ hsig, hno, bne_self_eq_false, Bool.not_true, Bool.and_false]
  rfl

end

/-- An image without keys is its slice (R358). -/
theorem State.loadImage_keyless (hnone : imageRecords bs = []) (hgens : ∀ g ∈ s.gens, g.fn ≠ f) :
    s.loadImage a f pasid k bs = (s.makeSlice f pasid (imageAllot bs)).endEntry a.id 0 := by
  simp [State.loadImage, State.imageKeys, hnone, State.bindRecognised_none hgens]

end

theorem slicesSavedAndLoaded : Claims.SlicesSavedAndLoaded := by
  intro s a f slot len k hfresh hplain hk hdrbg
  obtain ⟨hsig, hconds⟩ := hplain
  have ⟨hacc, _, hfin⟩ := hfresh
  refine ⟨fun dest x hop hx hstate => ?_, fun pasid src bs hop hroom _ hhalt hlen =>
    ⟨fun hauth htotal hok hno hgens => ?_, fun hforged => ?_⟩⟩
  · have hact : Acts (.sliceSave a.id) s (s.runSliceSave a f dest len slot) := acts_started hfresh rfl (by rw [hop])
    refine ⟨fun hnone hlen => ?_, fun hsome hlen => ?_⟩
    · obtain ⟨d, n, bs, hready⟩ := State.imageReady_keyless (a := a) (dest := dest) (x := x) (k := k) hnone
      rw [State.runSliceSave_fits hsig hx hstate hk hdrbg (by rw [hnone]; exact hlen), hnone, List.isEmpty_nil, if_pos rfl, hready] at hact
      have hsaving : ((s.drawn d n).modAcc a.id (Acc.saving 128)).acc a.id = some (a.saving 128) :=
        State.acc_modAcc_some (s := s.drawn d n) _ (fun _ => rfl) hacc
      exact ⟨_, _, _, hact, ⟨_, hsaving, rfl, hfin, rfl, rfl⟩,
        State.find_queueXfer (s := (s.drawn d n).modAcc a.id (Acc.saving 128)) rfl .., rfl, rfl, rfl, hsaving, rfl⟩
    · rw [State.runSliceSave_fits hsig hx hstate hk hdrbg hlen, List.isEmpty_eq_false_iff.mpr hsome, if_neg Bool.false_ne_true] at hact
      exact ⟨_, hact, ⟨_, State.acc_queueKu hacc k.key, rfl, hfin, rfl, rfl⟩, rfl⟩
  · obtain ⟨os, hact⟩ := acts_sliceLoad hfresh hroom (bs := bs) hop
    rw [State.runSliceLoad_taken (s := s.issuing os) hsig hhalt hk hlen hauth htotal hok hno] at hact
    refine ⟨fun hnone => ?_, fun hsome => ?_⟩
    · rw [hnone, List.isEmpty_nil, if_pos rfl, State.loadImage_keyless (s := s.issuing os) hnone hgens] at hact
      have hmade : ((s.issuing os).makeSlice f pasid (imageAllot bs)).acc a.id = some a := (State.acc_makeSlice ..).trans hacc
      exact ⟨_, _, hact, endsOk_endEntry hmade hfin 0, ((s.issuing os).makes_makeSlice f pasid (imageAllot bs)).slice, rfl, rfl, rfl,
        rfl, rfl, rfl⟩
    · rw [List.isEmpty_eq_false_iff.mpr hsome, if_neg Bool.false_ne_true] at hact
      have hnoted : ((s.issuing os).modAcc a.id (Acc.noted bs)).acc a.id = some (a.noted bs) :=
        State.acc_modAcc_some (s := s.issuing os) _ (fun _ => rfl) hacc
      have hqueued := State.acc_queueKu (a := a) hnoted k.key
      exact ⟨_, _, hact, ⟨_, hqueued, rfl, hfin, rfl, rfl⟩, hqueued, rfl, rfl⟩
  · obtain ⟨os, hact⟩ := acts_sliceLoad hfresh hroom (bs := bs) hop
    rw [State.runSliceLoad_forged (s := s.issuing os) hsig hhalt hk hlen (imageAuth_forged hforged)] at hact
    exact ⟨_, hact, endsWith_failEntry (t := s.issuing os) hfresh hconds rfl .., rfl, rfl⟩

/-- Settles O55: a slice is frozen or starts afresh, and its image is written or read. -/
theorem sliceStates : Obligations.SliceStates := ⟨slicesFrozenAndReset, slicesSavedAndLoaded⟩

end Sys2Proof.Machine
end

section
/-! PROOFS. RIG_STAGE, RIG_COMMIT and RIG_ROLLBACK on the paths that nothing refuses (R382 to R385): what a set that takes effect leaves of
Cleats and key slots, and which set is current, staged and kept. -/

namespace Sys2Proof.Machine

open Sys2Proof.Claims

/-! ### A set takes effect (R384) -/

/-- The state `t` is `s` with the set `r` current: the Cleats and key slots that it moves are empty, and the others as they were. -/
structure State.TakesRigs (s : State) (r : RigSet) (t : State) : Prop where
  rigs : t.rigs = { s.rigs with cur := r }
  accepted : t.accepted = s.accepted
  cleats : ∀ c, s.movesCleat r c = false → t.cleat c = s.cleat c
  cleared : ∀ c, s.movesCleat r c = true → t.cleat c = 0
  store : ∀ k, s.movesSlot r false k = false → FMap.find t.keys.store k = FMap.find s.keys.store k
  emptied : ∀ k, s.movesSlot r false k = true → FMap.find t.keys.store k = none

theorem State.takesRigs_applyRigs (s : State) (r : RigSet) : s.TakesRigs r (s.applyRigs r) := by
  have hcleats (c : Nat) (hc : s.movesCleat r c = false) : NMap.get (FMap.keep s.cleats fun c _ => !s.movesCleat r c) c = s.cleat c :=
    congrArg (·.getD 0) (FMap.find_keep s.cleats (fun c => !s.movesCleat r c) (by simp [hc]))
  have hcleared (c : Nat) (hc : s.movesCleat r c = true) : NMap.get (FMap.keep s.cleats fun c _ => !s.movesCleat r c) c = 0 :=
    congrArg (·.getD 0) (FMap.find_keep_none s.cleats (fun c => !s.movesCleat r c) (by simp [hc]))
  have hstore (k : Nat) (hk : s.movesSlot r false k = false) :=
    FMap.find_keep s.keys.store (fun k => !s.movesSlot r false k) (n := k) (by simp [hk])
  have hemptied (k : Nat) (hk : s.movesSlot r false k = true) :=
    FMap.find_keep_none s.keys.store (fun k => !s.movesSlot r false k) (n := k) (by simp [hk])
  unfold State.applyRigs
  dsimp only
  split_ifs
  · exact ⟨rfl, rfl, hcleats, hcleared, hstore, hemptied⟩
  · exact ⟨rfl, rfl, hcleats, hcleared, hstore, hemptied⟩

/-! ### The rig-set entries (R382, R383, R385) -/

/-- The state with other rig sets. -/
def State.withRigs (s : State) (x : Rigs) : State := { s with rigs := x }

section
variable {s : State} {a : Acc} (hsig : a.hdr.sig = false)
include hsig

/-- A well-formed image of a newer set is staged. -/
theorem State.runRigStage_newer {len gen : Nat} {bs : List Byte} (hlen : bs.length = len) (hok : rigImageOk bs len gen = true)
    (hgt : serialGt (BitVec.ofNat 32 gen) (BitVec.ofNat 32 s.rigs.cur.gen) = true) :
    s.runRigStage a len gen (.data bs) = (s.withRigs { s.rigs with staged := some (parseRigs bs) }).endEntry a.id 0 := by
  have hfit : fit len 0 bs = bs := by simp [fit, ← hlen]
  simp only [State.runRigStage, readBytes, hfit, hok, hgt, State.signalRefusal_none _ _ _ hsig]
  rfl

/-- The staged set becomes the current one, and the current one is kept. -/
theorem State.runRigCommit_taken {gen : Nat} {r : RigSet} (hr : s.rigs.staged = some r) (hg : r.gen = gen) (hb : s.commitBreach r = none) :
    s.runRigCommit a gen = ((s.applyRigs r).withRigs { cur := r, prev := some s.rigs.cur, staged := none }).endEntry a.id gen := by
  simp [State.runRigCommit, State.signalRefusal_none _ _ _ hsig, hr, hg, hb, State.withRigs, (s.takesRigs_applyRigs r).rigs]

/-- The set that was kept becomes the current one, and none is kept. -/
theorem State.runRigRollback_taken {gen : Nat} {r : RigSet} (hg : s.rigs.cur.gen = gen) (hr : s.rigs.prev = some r)
    (hb : s.commitBreach r = none) :
    s.runRigRollback a gen = ((s.applyRigs r).withRigs { s.rigs with cur := r, prev := none }).endEntry a.id r.gen := by
  simp [State.runRigRollback, State.signalRefusal_none _ _ _ hsig, hr, hg, hb, State.withRigs, (s.takesRigs_applyRigs r).rigs]

end

/-- An entry that nothing refuses ends OK, whatever sets its row leaves. -/
theorem endsOk_withRigs {s t : State} {a : Acc} (h : Fresh s a) (ht : t.accepted = s.accepted) (x : Rigs) (info : Nat) :
    EndsOk ((t.withRigs x).endEntry a.id info) a info := by
  obtain ⟨hacc, -, hfin⟩ := h
  refine endsOk_endEntry (s := t.withRigs x) ?_ hfin info
  rw [← hacc, State.acc, State.acc, State.withRigs, ht]

/-- Settles O23, entry by entry. -/
theorem rigSets : Obligations.RigSets := by
  intro s a hfresh hplain
  obtain ⟨hsig, -⟩ := hplain
  refine ⟨fun src len gen bs hop hroom hlen hok hgt => ?_, fun gen r hop hr hg hb => ?_, fun gen r hop hg hr hb => ?_⟩
  · obtain ⟨os, hos⟩ := s.readStruct_issuing a.fn src (.data bs)
    refine ⟨_, exec_startedRigs (c := .rigStage a.id (.data bs)) hfresh (congrArg s.doneRigs (State.startedRead_room hroom _ _)) ?_,
      endsOk_withRigs hfresh (t := s.issuing os) rfl _ 0, rfl, rfl, rfl⟩
    rw [hop]
    exact (congrArg (State.runRigStage a len gen (.data bs)) hos).trans (State.runRigStage_newer (s := s.issuing os) hsig hlen hok hgt)
  · have htakes := s.takesRigs_applyRigs r
    have hrun := State.runRigCommit_taken (a := a) hsig hr hg hb
    refine ⟨_, exec_startedRigs (c := .rigCommit a.id) hfresh rfl (Eq.trans ?_ hrun), endsOk_withRigs hfresh htakes.accepted _ gen, rfl,
      rfl, rfl, htakes.cleats, fun c hc _ => htakes.cleared c hc, fun k hk _ => htakes.emptied k hk, htakes.store⟩
    rw [hop]
  · have hrun := State.runRigRollback_taken (a := a) hsig hg hr hb
    refine ⟨_, exec_startedRigs (c := .rigRollback a.id) hfresh rfl (Eq.trans ?_ hrun),
      endsOk_withRigs hfresh (s.takesRigs_applyRigs r).accepted _ r.gen, rfl, rfl, rfl⟩
    rw [hop]

end Sys2Proof.Machine
end

section
/-! PROOFS. What halts and lane faults leave of the processors (R95, R371, R374, R420 to R424): none of them makes a processor restart or
come back, and a replay of reads changes requests and transfers only. -/

namespace Sys2Proof.Machine

open Sys2Proof.Claims

/-! ### Reads (R421) -/

/-- A state apart from its transfers, and from what is asked and counted at the ports. -/
def State.apart (s : State) : State :=
  { s with freqs := [], sreqs := [], hreqs := [], links := [], ctr := {}, nextId := 0, issued := [], xfers := [] }

theorem State.fields_of_apart {s t : State} (h : t.apart = s.apart) :
    t.yards = s.yards ∧ t.log = s.log ∧ t.gens = s.gens ∧ t.cleats = s.cleats ∧ t.accepted = s.accepted :=
  ⟨(congrArg State.yards h :), (congrArg State.log h :), (congrArg State.gens h :), (congrArg State.cleats h :),
    (congrArg State.accepted h :)⟩

theorem State.apart_foldl {α : Type} {g : State → α → State} (h : ∀ s a, (g s a).apart = s.apart) (l : List α) (s : State) :
    (l.foldl g s).apart = s.apart :=
  List.foldlRecOn l g (motive := fun t => t.apart = s.apart) rfl fun t ht a _ => (h t a).trans ht

theorem State.apart_sendAt (port : Nat) (p : Pkt) (bs : List PByte) (s : State) : (s.sendAt port p bs).apart = s.apart := by
  obtain ⟨_, _, h⟩ := s.sendAt_eq port p bs
  rw [h]
  rfl

theorem State.apart_readPart (x : Xfer) (i port : Nat) (p : Part) (s : State) : (s.readPart x i port p).apart = s.apart := by
  unfold State.readPart
  split
  · refine State.apart_foldl (fun t c => ?_) _ s
    exact State.apart_sendAt _ _ _ _
  · refine State.apart_foldl (fun t g => ?_) _ s
    rfl
  · refine State.apart_foldl (fun t c => ?_) _ s
    rfl

theorem State.apart_startReads (x : Xfer) (port : Nat) (s : State) : (s.startReads x port).apart = s.apart :=
  State.apart_foldl (fun _ _ => State.apart_readPart _ _ _ _ _) _ s

theorem Work.not_sheet {w : Work} (h : w.isSheet = false) (n u : Nat) : w ≠ .sheet n u ∧ w ≠ .tail n u := by
  constructor
  · rintro rfl
    cases h
  · rintro rfl
    cases h

/-- A transfer that reads, and is no Sheet's, reads anew where it is replayed. -/
theorem Xfer.rewound_reading {x : Xfer} (hread : x.phase = .reading) (hsheet : x.work.isSheet = false) :
    x.rewound = { x with phase := .queued, replayed := true, srcs := x.srcs.map fun p => Part.at p.loc p.len } := by
  rw [Xfer.rewound, if_pos hread]
  split
  · next hwork => exact absurd hwork (Work.not_sheet hsheet _ _).1
  · rfl

/-- What is no Sheet's does nothing where a Sheet's unit would go on. -/
theorem State.apart_unpark {x : Xfer} (hsheet : x.work.isSheet = false) (lane : Nat) (s : State) : (s.unpark x lane).apart = s.apart := by
  unfold State.unpark
  extract_lets y t
  split
  · next hwork => exact absurd hwork (Work.not_sheet hsheet _ _).1
  · next hwork => exact absurd hwork (Work.not_sheet hsheet _ _).1
  · next hwork => exact absurd hwork (Work.not_sheet hsheet _ _).2
  · rfl

theorem State.apart_replayXfer {x : Xfer} (hread : x.phase = .reading) (hsheet : x.work.isSheet = false) (hsrcs : x.srcs ≠ [])
    (served : Bool) (s : State) : (s.replayXfer served x).apart = s.apart := by
  have hnext : x.rewound.nextParts = some (x.rewound.srcs, false) := by
    rw [Xfer.rewound_reading hread hsheet, Xfer.nextParts]
    simp [hsrcs]
  have hwork : x.rewound.work.isSheet = false := by rwa [Xfer.rewound_reading hread hsheet]
  unfold State.replayXfer
  extract_lets y t
  split_ifs
  · rfl
  · exact State.apart_unpark hwork _ _
  · rfl
  · rw [show y.nextParts = _ from hnext]
    dsimp only
    split
    · exact State.apart_startReads _ _ _
    · rfl

/-! ### Requests and writes of transfers -/

theorem State.procs_foldl {α : Type} {g : State → α → State} (h : ∀ s a, (g s a).procs = s.procs) (l : List α) (s : State) :
    (l.foldl g s).procs = s.procs :=
  List.foldlRecOn l g (motive := fun t => t.procs = s.procs) rfl fun t ht a _ => (h t a).trans ht

theorem State.procs_foldl_snd {α β : Type} {g : β × State → α → β × State} (h : ∀ p a, (g p a).2.procs = p.2.procs) (l : List α)
    (p : β × State) : (l.foldl g p).2.procs = p.2.procs :=
  List.foldlRecOn l g (motive := fun t => t.2.procs = p.2.procs) rfl fun t ht a _ => (h t a).trans ht

theorem State.procs_of_apart {s t : State} (h : t.apart = s.apart) : t.procs = s.procs := (congrArg State.procs h :)

@[simp] theorem State.procs_sendAt (port : Nat) (p : Pkt) (bs : List PByte) (s : State) : (s.sendAt port p bs).procs = s.procs :=
  State.procs_of_apart (s.apart_sendAt port p bs)

@[simp] theorem State.procs_readPart (x : Xfer) (i port : Nat) (p : Part) (s : State) : (s.readPart x i port p).procs = s.procs :=
  State.procs_of_apart (s.apart_readPart x i port p)

@[simp] theorem State.procs_startReads (x : Xfer) (port : Nat) (s : State) : (s.startReads x port).procs = s.procs :=
  State.procs_of_apart (s.apart_startReads x port)

@[simp] theorem State.procs_takeFlip (target unit : Nat) (s : State) : (s.takeFlip target unit).2.procs = s.procs := by
  obtain ⟨_, _, h⟩ := s.takeFlip_eq target unit
  rw [h]

@[simp] theorem State.procs_stgWrite (x i rel off : Nat) (bs : List PByte) (s : State) : (s.stgWrite x i rel off bs).procs = s.procs :=
  State.procs_takeFlip 2 _ s

theorem State.procs_fabWrite (fn x i port a off : Nat) (bs : List PByte) (sig : Option (Nat × Nat)) (s : State) :
    (s.fabWrite fn x i port a off bs sig).procs = s.procs :=
  State.procs_foldl (fun _ _ => State.procs_sendAt _ _ _ _) (spans bs.length 512) _

theorem State.procs_writePart (x : Xfer) (i port : Nat) (lastPart : Bool) (p : Part) (s : State) :
    (s.writePart x i port lastPart p).procs = s.procs := by
  unfold State.writePart
  split
  · exact State.procs_foldl (fun _ _ => State.procs_fabWrite _ _ _ _ _ _ _ _ _) _ (s.staleLines p.loc p.len)
  · refine State.procs_foldl (fun t g => ?_) _ (s.staleLines p.loc p.len)
    extract_lets c
    split_ifs
    · exact State.procs_stgWrite _ _ _ _ _ t
    · rfl
  · refine State.procs_foldl (fun t c => ?_) _ (s.staleLines p.loc p.len)
    rfl

@[simp] theorem State.procs_startWrites (x : Xfer) (port : Nat) (s : State) : (s.startWrites x port).procs = s.procs :=
  State.procs_foldl (fun _ _ => State.procs_writePart _ _ _ _ _ _) _ s

@[simp] theorem State.procs_writeSlots (x : Xfer) (s : State) : (s.writeSlots x).procs = s.procs :=
  State.procs_foldl (fun _ _ => State.procs_writePart _ _ _ _ _ _) _ s

/-! ### Words with an error in them (R327) -/

@[simp] theorem State.procs_uncEvent (owner : Option Acc) (mem cause unit word n : Nat) (s : State) :
    (s.uncEvent owner mem cause unit word n).procs = s.procs := by
  unfold State.uncEvent
  cases owner <;> simp [State.haltQueue]

theorem State.procs_sheetCond (n slot status info : Nat) (s : State) : (s.sheetCond n slot status info).procs = s.procs := by
  unfold State.sheetCond
  split
  · rfl
  · split_ifs <;> simp [State.meetNew]

@[simp] theorem State.procs_meetAt (x : Xfer) (q status info : Nat) (s : State) : (s.meetAt x q status info).procs = s.procs := by
  unfold State.meetAt
  split
  · exact State.procs_sheetCond _ _ _ _ s
  · exact State.procs_sheetCond _ _ _ _ s
  · split <;> rfl

theorem State.procs_uncorrectable (x : Xfer) (q mem cause unit word n : Nat) (s : State) :
    (s.uncorrectable x q mem cause unit word n).procs = s.procs := by
  unfold State.uncorrectable
  cases s.ownerOf x with
  | none => simp
  | some a =>
    dsimp only
    split_ifs <;> simp

theorem State.procs_readFlip (x : Xfer) (q : Nat) (m : Byte) (s : State) : (s.readFlip x q m).2.procs = s.procs := by
  unfold State.readFlip
  extract_lets word t
  split
  · rfl
  · rfl
  · exact State.procs_uncorrectable _ _ _ _ _ _ _ t

@[simp] theorem State.procs_readDsts (x : Xfer) (s : State) : (s.readDsts x).procs = s.procs :=
  State.procs_foldl (fun _ _ => State.procs_readFlip _ _ _ _) _ s

/-! ### A Sheet's lines, and replay (R267, R421) -/

theorem State.procs_issueLine (x i : Nat) (s : State) : (s.issueLine x i).procs = s.procs := by
  unfold State.issueLine
  split
  · rfl
  · split
    · rfl
    · split
      · split
        · exact State.procs_readPart _ _ _ _ _
        · rfl
      · split_ifs
        · exact State.procs_readPart _ _ _ _ _
        · rfl

theorem State.procs_putBytes (x i off : Nat) (bs : List PByte) (dirty : Bool) (s : State) :
    (s.putBytes x i off bs dirty).procs = s.procs := by
  obtain ⟨_, _, h⟩ := s.putBytes_eq x i off bs dirty
  rw [h]

theorem State.procs_tackleRead {mast gen : Nat} {l : Loc} {s : State} {r : Option (List Byte) × State} (hr : s.tackleRead mast gen l = r) :
    r.2.procs = s.procs := by
  obtain ⟨_, _, _, h⟩ := s.tackleRead_eq mast gen l
  rw [← hr, h]

theorem State.procs_fetchLines (n x : Nat) (s : State) : (s.fetchLines n x).2.procs = s.procs := by
  unfold State.fetchLines
  split
  · split
    · refine State.procs_foldl_snd (fun acc l => ?_) _ (false, s)
      extract_lets t loc i
      split
      · next hread => exact (State.procs_putBytes _ _ _ _ _ _).trans (State.procs_tackleRead hread)
      · next hread => exact (State.procs_issueLine _ _ _).trans (State.procs_tackleRead hread)
    · rfl
  · rfl

theorem State.procs_unpark (x : Xfer) (lane : Nat) (s : State) : (s.unpark x lane).procs = s.procs := by
  unfold State.unpark
  extract_lets y t
  split
  · exact State.procs_fetchLines _ _ t
  · simp [t]
  · simp [t]
  · rfl

theorem State.procs_replayXfer (served : Bool) (x : Xfer) (s : State) : (s.replayXfer served x).procs = s.procs := by
  unfold State.replayXfer
  extract_lets y t
  split_ifs
  · rfl
  · exact State.procs_unpark _ _ _
  · rfl
  · split
    · split
      · split_ifs
        · exact (State.procs_startWrites _ _ _).trans (State.procs_readDsts _ _)
        · exact State.procs_startReads _ _ _
      · rfl
    · rfl

@[simp] theorem State.procs_replayLane (y k : Nat) (s : State) : (s.replayLane y k).procs = s.procs :=
  State.procs_foldl (fun _ _ => State.procs_replayXfer _ _ _) _ s

/-! ### A halt of the block (R95) -/

theorem State.procs_sendProto (p : Pkt) (bs : List PByte) (s : State) : (s.sendProto p bs).procs = s.procs := by
  obtain ⟨_, _, _, _, _, h⟩ := s.sendProto_eq p bs
  rw [h]

theorem State.procs_disarm (ep e : Nat) (s : State) : (s.disarm ep e).procs = s.procs := State.procs_sendProto _ _ s

theorem State.procs_resumeAll (e : Nat) (s : State) : (s.resumeAll e).procs = s.procs := by
  refine State.procs_foldl (fun t p => ?_) _ s
  exact State.procs_sendProto _ _ t

theorem State.procs_dropWork (p : Work → Bool) (s : State) : (s.dropWork p).procs = s.procs := by
  refine State.procs_foldl (fun t x => ?_) _ s
  rfl

theorem State.procs_freePlaces (g : Gen) (s : State) : (s.freePlaces g).procs = s.procs := by
  unfold State.freePlaces State.freeEntry
  dsimp only
  split_ifs
  · rfl
  · refine State.procs_foldl (fun t x => ?_) _ _
    rfl
  · refine State.procs_foldl (fun t x => ?_) _ _
    rfl

theorem State.procs_cleanJob (job : Nat) (s : State) : (s.cleanJob job).procs = s.procs := by
  unfold State.cleanJob
  split
  · rfl
  · split_ifs <;> rfl

theorem State.procs_abandon (e cause ep : Nat) (s : State) : (s.abandon e cause ep).procs = s.procs := by
  unfold State.abandon
  split
  · rfl
  · split_ifs
    · rfl
    · extract_lets disarmed resumed failed dropped undrained v
      have hresumed : resumed.procs = s.procs :=
        (State.procs_resumeAll _ _).trans (State.procs_foldl (fun t p => State.procs_disarm p _ t) _ s)
      have hfailed : failed.procs = resumed.procs := by
        refine State.procs_foldl (fun t a => ?_) _ resumed
        rfl
      have hdropped : dropped.procs = s.procs := (State.procs_dropWork _ failed).trans (hfailed.trans hresumed)
      have hundrained : undrained.procs = s.procs := by
        simp only [undrained]
        split
        · exact (State.procs_dropWork _ _).trans hdropped
        · exact hdropped
      exact (State.procs_cleanJob _ _).trans ((State.procs_freePlaces _ v).trans hundrained)

@[simp] theorem State.procs_haltBlock (bit : Nat) (s : State) : (s.haltBlock bit).procs = s.procs := by
  unfold State.haltBlock
  extract_lets halted armed disarmed
  exact (State.procs_foldl (fun _ _ => State.procs_abandon _ _ _ _) _ disarmed).trans
    (State.procs_foldl (fun _ _ => State.procs_disarm _ _ _) armed halted)

@[simp] theorem State.procs_safetyEvent (s : State) : s.safetyEvent.procs = s.procs := by
  unfold State.safetyEvent
  split_ifs
  · exact State.procs_haltBlock _ s
  · rfl

/-! ### Lanes (R420 to R424) -/

@[simp] theorem State.procs_logMast (code mast : Nat) (d : List Nat) (s : State) : (s.logMast code mast d).procs = s.procs :=
  State.logWith_procs _ _ _ _ _ _ s

@[simp] theorem State.procs_modYard (y : Nat) (g : Yard → Yard) (s : State) : (s.modYard y g).procs = s.procs := rfl

theorem State.procs_testFail (y p check context : Nat) (s : State) : (s.testFail y p check context).procs = s.procs := by
  simp [State.testFail, State.fence]

theorem State.procs_takeOver (y k : Nat) (fails : List (Nat × Nat)) (ps : List Nat) :
    ∀ s : State, (s.takeOver y k fails ps).2.procs = s.procs := by
  induction ps with
  | nil => exact fun _ => rfl
  | cons p ps ih =>
    intro s
    rw [State.takeOver]
    split
    · exact State.procs_logMast _ _ _ _
    · exact (ih _).trans (State.procs_testFail _ _ _ _ s)

theorem State.procs_vacate (y loss : Nat) (s : State) : (s.vacate y loss).procs = s.procs := by
  unfold State.vacate State.logDegraded
  dsimp only
  split_ifs <;> simp

theorem State.procs_replaceLane (y k loss : Nat) (fails : List (Nat × Nat)) (s : State) :
    (s.replaceLane y k loss fails).procs = s.procs := by
  have htake := State.procs_takeOver y k fails (s.sparesFree y) s
  unfold State.replaceLane
  split
  · next t h => rw [State.procs_replayLane, ← htake, h]
  · next t h => rw [State.procs_replayLane, State.procs_vacate, ← htake, h]

theorem State.procs_endTrial (y : Nat) (s : State) : (s.endTrial y).procs = s.procs := by
  unfold State.endTrial
  split
  · rfl
  · split
    · rfl
    · exact State.procs_foldl (fun _ _ => State.procs_replayXfer _ _ _) _ _

theorem State.procs_loseLane (y p cause : Nat) (fails : List (Nat × Nat)) (s : State) : (s.loseLane y p cause fails).procs = s.procs := by
  unfold State.loseLane
  extract_lets t k loss u
  have hu : u.procs = s.procs := (State.procs_logMast _ _ _ _).trans (State.procs_endTrial y s)
  clear_value k
  split
  · exact (State.procs_replaceLane _ _ _ _ u).trans hu
  · exact hu

theorem State.procs_serveParity (lane : Nat) (fails : List (Nat × Nat)) (s : State) : (s.serveParity lane fails).procs = s.procs := by
  unfold State.serveParity
  dsimp only
  split_ifs
  · rfl
  · split <;> simp
  · exact (State.procs_loseLane _ _ _ _ _).trans (State.procs_modYard _ _ s)

theorem State.procs_serveStall (lane : Nat) (fails : List (Nat × Nat)) (s : State) : (s.serveStall lane fails).procs = s.procs := by
  unfold State.serveStall
  dsimp only
  split
  · rfl
  · split_ifs
    · rfl
    · exact State.procs_loseLane _ _ _ _ s

/-! ### Lane faults and dispatch (R22, R374) -/

/-- A lane fault is served or waits, and no processor restarts for it. -/
theorem State.restarting_laneFault (lane cause : Nat) (fails : List (Nat × Nat)) (s : State) :
    (s.laneFault lane cause fails).procs.restarting = s.procs.restarting := by
  unfold State.laneFault
  split_ifs
  · rfl
  · exact congrArg Procs.restarting (State.procs_serveParity _ _ s)
  · exact congrArg Procs.restarting (State.procs_serveStall _ _ s)

/-- Who dispatches for whom changes no processor's restart. -/
theorem State.restarting_refreshDispatch (s : State) : s.refreshDispatch.procs.restarting = s.procs.restarting := by
  unfold State.refreshDispatch
  extract_lets down lone new before t u held
  have hu : u.procs = t.procs := by
    refine State.procs_foldl (fun v m => ?_) new t
    simp
  refine (List.foldlRecOn held _ (motive := fun v : State => v.procs.restarting = s.procs.restarting) ?_ fun v hv f _ =>
    (State.restarting_laneFault _ _ _ v).trans hv)
  exact (congrArg Procs.restarting hu :)

end Sys2Proof.Machine
end

section
/-! PROOFS. Crashes of processors and the ends of their restarts (R371 to R374, Table 13-5). -/

namespace Sys2Proof.Machine

open Sys2Proof.Claims

/-! ### Crashes (R371) -/

/-- A crash puts the processor on the list, and no other leaves or joins it. -/
theorem State.restarting_startRestart (p : Proc) (s : State) :
    (s.startRestart p).procs.restarting = s.procs.restarting ++ [p] := by
  cases p with
  | dispatch m => exact State.restarting_refreshDispatch _
  | service m c => rfl
  | mainstay => rfl
  | masthead => rfl
  | trim => rfl
  | shroud => rfl

/-- What is logged while Masthead restarts is held, where there is room (R404). -/
theorem State.held_logWith {s : State} (hm : s.restarting .masthead = true) (hroom : s.log.held.length < 256) (code sev src mast : Nat)
    (func : Option Nat) (d : List Nat) : ∃ e, (s.logWith code sev src mast func d).log.held = s.log.held ++ [e] ∧ e.code = code ∧
      e.d = (d ++ [0, 0, 0, 0, 0]).take 5 := by
  rw [State.logWith, State.logEntry, if_pos hm, if_pos hroom]
  exact ⟨_, rfl, rfl, rfl⟩

/-- What a crash leaves (Table 13-5): `t` is `s` with the processor restarting, the crash logged or held, and what the restart loses. -/
structure Crashed (s t : State) (p : Proc) (cause pc : Nat) : Prop where
  down : t.restarting p = true
  others : ∀ q, q ≠ p → t.restarting q = s.restarting q
  unpaired : p = .mainstay → t.glob.mainstayUnpaired = true ∧ t.procs.unpairedSince = some s.pen.timer
  unready : p = .masthead → t.mb.notReady = true ∧ t.tt.sampling = false
  logged : p ≠ .masthead → s.restarting .masthead = false → Logged t 0x0503 [cause, pc]
  held : p = .masthead → s.log.held.length < 256 →
    ∃ e, t.log.held = s.log.held ++ [e] ∧ e.code = 0x0503 ∧ e.d = [cause, pc, 0, 0, 0]

/-- Only the processors, the clock and the log of the state before count. -/
theorem Crashed.of_same {s u t : State} {p : Proc} {cause pc : Nat} (h : Crashed u t p cause pc) (hprocs : u.procs = s.procs)
    (hpen : u.pen = s.pen) (hlog : u.log = s.log) : Crashed s t p cause pc := by
  have hrestarting (q : Proc) : u.restarting q = s.restarting q := by rw [State.restarting, hprocs, State.restarting]
  refine ⟨h.down, fun q hq => (h.others q hq).trans (hrestarting q), ?_, h.unready, ?_, ?_⟩
  · rw [← hpen]
    exact h.unpaired
  · rw [← hrestarting]
    exact h.logged
  · rw [← hlog]
    exact h.held

/-- A processor of the block that runs crashes. -/
theorem State.crashed_crash {s : State} (hon : s.mainOn = true) {p : Proc} (hp : procExists p = true) (hup : s.restarting p = false)
    (cause pc : Nat) : Crashed s (s.crash p cause pc) p cause pc := by
  have hcrash : s.crash p cause pc = (s.startRestart p).logCrash p cause pc := by
    rw [State.crash, hon, hp, hup]
    rfl
  have hlist (q : Proc) : (s.startRestart p).restarting q = (s.procs.restarting ++ [p]).contains q :=
    congrArg (·.contains q) (s.restarting_startRestart p)
  have hothers (q : Proc) (hq : q ≠ p) : (s.startRestart p).restarting q = s.restarting q := by
    rw [hlist, State.restarting]
    simp [hq]
  have hrestarting (q : Proc) : ((s.startRestart p).logCrash p cause pc).restarting q = (s.startRestart p).restarting q :=
    congrArg (fun x : Procs => x.restarting.contains q) (State.logWith_procs _ _ _ _ _ _ _)
  rw [hcrash]
  refine ⟨?_, fun q hq => (hrestarting q).trans (hothers q hq), ?_, ?_, fun hm hrun => ?_, ?_⟩
  · rw [hrestarting, hlist]
    simp
  · rintro rfl
    simp [State.logCrash, State.startRestart, State.now]
  · rintro rfl
    simp [State.logCrash, State.startRestart]
  · exact State.logged_logWith ((hothers _ (Ne.symm hm)).trans hrun) _ _ _ _ _ _
  · rintro rfl hroom
    have hdown : (s.startRestart .masthead).restarting .masthead = true := by
      rw [hlist]
      simp
    exact State.held_logWith hdown hroom 0x0503 2 4 0 none [cause, pc]

/-- A trigger leaves a block whose processors run so. -/
theorem State.mainOn_wake (s : State) : s.wake.mainOn = s.mainOn := by
  unfold State.wake
  split_ifs with hidle
  · rfl
  · simp [State.mainOn, hidle]
  · rfl

/-- The expiry of a watchdog is a trigger where it is Masthead's (R31), and else no more than the crash. -/
theorem State.watchdog_crash (s : State) (p : Proc) (pc : Nat) :
    ∃ u : State, s.watchdog p pc = u.crash p 2 pc ∧ u.mainOn = s.mainOn ∧ u.procs = s.procs ∧ u.pen = s.pen ∧ u.log = s.log := by
  unfold State.watchdog
  split_ifs
  · exact ⟨_, rfl, State.mainOn_wake _, State.wake_procs _, State.wake_pen _, State.wake_log _⟩
  · exact ⟨s, rfl, rfl, rfl, rfl, rfl⟩

/-- A crash by any cause (R371): lockstep of a pair, a watchdog, or a trap. -/
theorem acts_crash {s : State} {p : Proc} {pc : Word64} (hon : s.mainOn = true) (hp : procExists p = true) (hup : s.restarting p = false)
    {c : Instr} {cause : Nat} (hc : (c = Instr.watchdogExpiry p pc ∧ cause = 2) ∨ (c = .trap p pc none ∧ cause = 3) ∨
      (c = .lockstepMismatch p pc ∧ cause = 1 ∧ (p = .mainstay ∨ ∃ m, p = .dispatch m))) :
    ∃ t, Acts c s t ∧ Crashed s t p cause pc.toNat := by
  rcases hc with ⟨rfl, rfl⟩ | ⟨rfl, rfl⟩ | ⟨rfl, rfl, hpair⟩
  · obtain ⟨u, hu, huon, hprocs, hpen, hlog⟩ := s.watchdog_crash p pc.toNat
    have huup : u.restarting p = false := by rw [State.restarting, hprocs]; exact hup
    exact ⟨_, rfl, hu ▸ (State.crashed_crash (huon.trans hon) hp huup 2 pc.toNat).of_same hprocs hpen hlog⟩
  · exact ⟨_, rfl, State.crashed_crash hon hp hup 3 pc.toNat⟩
  · refine ⟨s.crash p 1 pc.toNat, ?_, State.crashed_crash hon hp hup 1 pc.toNat⟩
    rcases hpair with rfl | ⟨m, rfl⟩ <;> rfl

/-! ### A second Mainstay processor (R373) -/

/-- Without generations the block's halt is not logged. -/
theorem State.haltBlock_log {s : State} (h : s.gens = []) (bit : Nat) : (s.haltBlock bit).log = s.log := by
  unfold State.haltBlock
  simp only [h, List.flatMap_nil, List.foldl_nil, List.filter_nil]
  rfl

/-- A crash of Mainstay while its pair is not whole is logged and halts the block. -/
theorem State.watchdog_unpaired {s : State} (hon : s.mainOn = true) (hdown : s.restarting .mainstay = true) (pc : Nat) :
    s.watchdog .mainstay pc = (s.logCrash .mainstay 2 pc).haltBlock 1 := by
  simp [State.watchdog, State.crash, hon, hdown, procExists]

/-! ### The end of a restart (R372) -/

/-- A restarted processor's alert for Masthead is logged and counted, and no work changes. -/
theorem State.serveAlert_leaves (u : Bool) (s : State) : (s.serveAlert u).procs = s.procs ∧ (s.serveAlert u).glob = s.glob ∧
    WorkSame s (s.serveAlert u) := by
  unfold State.serveAlert State.droop
  split_ifs
  · simp [WorkSame]
  · exact ⟨rfl, rfl, rfl, rfl, rfl, rfl, rfl⟩

/-- A processor that no activation restarts is back, whatever its checks give, and Masthead services an alert that waited for it. -/
theorem State.backUp_leaves {s : State} {p : Proc} (hdown : s.restarting p = true) (hact : s.activationOf p = none) (ok : Bool) :
    (∃ al, (s.backUp p ok).procs = { (s.restarted p).procs with alert := al }) ∧ (s.backUp p ok).glob = (s.restarted p).glob ∧
    WorkSame (s.restarted p) (s.backUp p ok) := by
  have hback : s.procBack p ok = s.restarted p := by simp [State.procBack, hdown, hact]
  unfold State.backUp
  rw [hback]
  dsimp only
  split
  · split_ifs
    · obtain ⟨hprocs, hglob, hwork⟩ :=
        State.serveAlert_leaves _ { s.restarted p with procs := { (s.restarted p).procs with alert := none } }
      exact ⟨⟨none, hprocs⟩, hglob, hwork⟩
    · exact ⟨⟨_, rfl⟩, rfl, rfl, rfl, rfl, rfl, rfl⟩
  · exact ⟨⟨_, rfl⟩, rfl, rfl, rfl, rfl, rfl, rfl⟩

/-- Mainstay, Shroud and the service cores come back without further ado: the list loses the processor, and Mainstay's pair is whole. -/
theorem State.restarted_leaves {p : Proc} (hkind : p = .mainstay ∨ p = .shroud ∨ ∃ m c, p = .service m c) (s : State) :
    (s.restarted p).procs.restarting = s.procs.restarting.filter (· != p) ∧
    (p = .mainstay → (s.restarted p).glob.mainstayUnpaired = false ∧ (s.restarted p).procs.unpairedSince = none) ∧
    WorkSame s (s.restarted p) := by
  rcases hkind with rfl | rfl | ⟨m, c, rfl⟩
  · exact ⟨rfl, fun _ => ⟨rfl, rfl⟩, rfl, rfl, rfl, rfl, rfl⟩
  · exact ⟨rfl, nofun, rfl, rfl, rfl, rfl, rfl⟩
  · exact ⟨rfl, nofun, rfl, rfl, rfl, rfl, rfl⟩

theorem workSame_trans {s t u : State} (h : WorkSame s t) (k : WorkSame t u) : WorkSame s u := by
  obtain ⟨hx, hs, hg, hc, ha⟩ := h
  obtain ⟨kx, ks, kg, kc, ka⟩ := k
  exact ⟨kx.trans hx, ks.trans hs, kg.trans hg, kc.trans hc, ka.trans ha⟩

theorem crashRules : Claims.CrashRules := by
  intro s pc halive
  have hon := State.mainOn_of_alive halive
  refine ⟨fun p hp hup c cause hc => ?_, fun hdown hm hgens => ?_, fun p ok hdown hact hkind => ?_, fun p ok hup halert => ?_⟩
  · obtain ⟨t, hact, ht⟩ := acts_crash hon hp hup hc
    exact ⟨t, hact, ht.down, ht.others, ht.unpaired, ht.unready, ht.logged, ht.held⟩
  · have hlogged : (s.logCrash .mainstay 2 pc.toNat).gens = [] := (State.logWith_gens _ _ _ _ _ _ s).trans hgens
    have hact : Acts (.watchdogExpiry .mainstay pc) s (s.watchdog .mainstay pc.toNat) := rfl
    rw [State.watchdog_unpaired hon hdown] at hact
    refine ⟨_, hact, ?_, ?_, ?_⟩
    · rw [State.haltBlock_glob hlogged]
    · rw [Raises, State.haltBlock_glob hlogged, State.logCrash, State.logWith_glob]
    · rw [Logged, State.haltBlock_log hlogged]
      exact State.logged_logWith hm _ _ _ _ _ _
  · obtain ⟨⟨al, hprocs⟩, hglob, hwork⟩ := State.backUp_leaves hdown hact ok
    obtain ⟨hlist, hpair, hsame⟩ := s.restarted_leaves hkind
    have hrestarting (q : Proc) : (s.backUp p ok).restarting q = (s.procs.restarting.filter (· != p)).contains q := by
      rw [State.restarting, hprocs, ← hlist]
    refine ⟨s.backUp p ok, rfl, ?_, fun q hq => ?_, ?_, workSame_trans hsame hwork⟩
    · simp [hrestarting]
    · rw [hrestarting, State.restarting]
      simp [hq]
    · rw [hglob, hprocs]
      exact hpair
  · have hback : s.backUp p ok = s := by simp [State.backUp, State.procBack, hup, halert]
    rw [show exec (.processorRestartComplete p ok) s = s.done (((s.backUp p ok).settle).pwrHeld.settle) from rfl, hback]
    rfl

end Sys2Proof.Machine
end

section
/-! PROOFS. Parity faults and stalls of lanes (R22, R374, R420 to R423, log 38): a strike, a fenced lane whose number a spare takes, and
what waits for a dispatcher. -/

namespace Sys2Proof.Machine

open Sys2Proof.Claims

/-! ### A lane's number goes to a spare (R420, R423) -/

@[simp] theorem State.yard_modYard_self (y : Nat) (g : Yard → Yard) (s : State) : (s.modYard y g).yard y = g (s.yard y) := by
  rw [State.yard, State.modYard, FMap.getD, FMap.find_put_self]
  rfl

theorem State.yard_modYard_ne {y z : Nat} (g : Yard → Yard) (s : State) (h : z ≠ y) : (s.modYard y g).yard z = s.yard z := by
  rw [State.yard, State.modYard, FMap.getD, FMap.find_put_ne _ _ h]
  rfl

theorem State.yard_logMast (code mast : Nat) (d : List Nat) (s : State) (y : Nat) : (s.logMast code mast d).yard y = s.yard y :=
  congrArg (fun m : FMap Yard => FMap.getD m y {}) (State.logWith_yards _ _ _ _ _ _ s)

theorem State.spareMap_logMast (code mast : Nat) (d : List Nat) (s : State) (y : Nat) : (s.logMast code mast d).spareMap y = s.spareMap y :=
  congrArg (fun p : Pen => FMap.getD p.inForce.spares y (32, 33)) (State.logWith_pen _ _ _ _ _ _ s)

theorem Yard.fenced_stand (sp : Nat × Nat) (p : Nat) (k : Option Nat) (v : Yard) : (v.stand sp p k).fenced = v.fenced := by
  unfold Yard.stand
  split_ifs <;> rfl

/-- A fence takes its lane off the spares, and no other. -/
theorem State.sparesFree_fence (y p cause : Nat) (s : State) : (s.fence y p cause).sparesFree y = (s.sparesFree y).filter (· != p) := by
  have hyard : (s.fence y p cause).yard y = { (s.yard y).stand (s.spareMap y) p none with fenced := (s.yard y).fenced ++ [p] } := by
    rw [State.fence, State.yard_logMast, State.yard_modYard_self]
  have hspares : (s.fence y p cause).spareMap y = s.spareMap y := State.spareMap_logMast _ _ _ _ _
  unfold State.sparesFree
  rw [hyard, hspares]
  generalize s.spareMap y = sp
  generalize s.yard y = v
  have hpiece (b : Bool) (q : Nat) : (if b then [q] else []).filter (· != p) = if b && q != p then [q] else [] := by
    cases b <;> by_cases hq : q = p <;> simp [hq]
  dsimp only
  rw [List.filter_append, hpiece, hpiece]
  unfold Yard.stand
  by_cases hfirst : sp.1 = p
  · by_cases hsecond : sp.2 = p
    · simp [hfirst, hsecond]
    · simp [hfirst, hsecond]
  · by_cases hsecond : sp.2 = p
    · simp [hfirst, hsecond, Ne.symm hfirst]
    · simp [hfirst, hsecond, Ne.symm hfirst, Ne.symm hsecond]

/-- A fenced lane's number has gone to a spare: `t` is `s` with the lane listed in its Yard, and both steps in the log. -/
structure State.Spared (s t : State) (y p cause a k : Nat) : Prop where
  only : ∃ m l, t = { s with yards := m, log := l }
  fenced : (t.yard y).fenced = (s.yard y).fenced ++ [p]
  others : ∀ z, z ≠ y → t.yard z = s.yard z
  fence : LogHolds t 0x0801 [34 * y + p, cause]
  standIn : Logged t 0x0803 [34 * y + a, 32 * y + k]

/-- While Masthead is there, a Yard's change that is logged changes the Yards and the log. -/
theorem State.logMast_modYard {s : State} (hm : s.restarting .masthead = false) (code y : Nat) (d : List Nat) (g : Yard → Yard) :
    ∃ m l, (s.modYard y g).logMast code (y / 8) d = { s with yards := m, log := l } :=
  ⟨_, _, State.logWith_up (s := s.modYard y g) hm _ _ _ _ _ _⟩

theorem State.spared_standIn {s : State} (hm : s.restarting .masthead = false) (y p cause a k : Nat) :
    s.Spared ((s.fence y p cause).standIn y a k) y p cause a k := by
  obtain ⟨m, l, hfence⟩ : ∃ m l, s.fence y p cause = { s with yards := m, log := l } := State.logMast_modYard hm ..
  have hup : (s.fence y p cause).restarting .masthead = false := by rw [hfence]; exact hm
  obtain ⟨hfenced, hothers⟩ := State.yard_fence y p cause s
  have hlogged : Logged (s.fence y p cause) 0x0801 [34 * y + p, cause] := State.logged_logWith (s := s.modYard y _) hm _ _ _ _ _ _
  refine ⟨?_, ?_, fun z hz => ?_, State.logHolds_logEntry (s := (s.fence y p cause).modYard y _) hlogged _, ?_⟩
  · obtain ⟨m', l', hstand⟩ : ∃ m l, (s.fence y p cause).standIn y a k = { s.fence y p cause with yards := m, log := l } :=
      State.logMast_modYard hup ..
    exact ⟨m', l', by rw [hstand, hfence]⟩
  · rw [State.standIn, State.yard_logMast, State.yard_modYard_self, Yard.fenced_stand, hfenced]
  · rw [State.standIn, State.yard_logMast, State.yard_modYard_ne _ _ hz, hothers z hz]
  · exact State.logged_logWith (s := (s.fence y p cause).modYard y _) hup _ _ _ _ _ _

/-- A lane that is lost, where the first free spare is another lane and passes its test: the spare takes its number, and what the lane moved
is replayed. -/
theorem State.loseLane_spared {s : State} {y p k a : Nat} {rest : List Nat} (ht : s.tests.trials = [])
    (hk : (s.yard y).servesAs (s.spareMap y) p = some k) (hfree : s.sparesFree y = a :: rest) (ha : a ≠ p) (cause : Nat) :
    s.loseLane y p cause [] = ((s.fence y p cause).standIn y a k).replayLane y k := by
  have hend : s.endTrial y = s := by simp [State.endTrial, State.trialOf, ht]
  have hspares : (s.fence y p cause).sparesFree y = a :: rest.filter (· != p) := by
    rw [State.sparesFree_fence, hfree, List.filter_cons_of_pos (by simpa using ha)]
  have htake : (s.fence y p cause).takeOver y k [] ((s.fence y p cause).sparesFree y) = (true, (s.fence y p cause).standIn y a k) := by
    rw [hspares]
    rfl
  unfold State.loseLane State.replaceLane
  simp only [hend, hk, htake]

/-- Where nothing moves there is nothing to replay. -/
theorem State.replayLane_nil {s : State} (h : s.xfers = []) (y k : Nat) : s.replayLane y k = s := by
  rw [State.replayLane, State.movingOn, h]
  rfl

/-! ### Who serves a lane fault (R22, R374, log 38) -/

section
variable {y p : Nat} (hp : p < 34)
include hp

theorem laneIndex_yard : (34 * y + p) / 34 = y := by omega

theorem laneIndex_lane : (34 * y + p) % 34 = p := by omega

/-- Where the Mast has no dispatcher the fault waits. -/
theorem State.laneFault_waits {s : State} (h : y / 8 ∈ s.procs.orphanMasts) (cause : Nat) (fails : List (Nat × Nat)) :
    s.laneFault (34 * y + p) cause fails =
      { s with procs := { s.procs with laneFaults := s.procs.laneFaults ++ [(34 * y + p, cause, fails)] } } := by
  rw [State.laneFault, laneIndex_yard hp, if_pos (List.contains_iff_mem.mpr h)]

theorem State.laneFault_served {s : State} (h : y / 8 ∉ s.procs.orphanMasts) (cause : Nat) (fails : List (Nat × Nat)) :
    s.laneFault (34 * y + p) cause fails =
      if cause = 1 then s.serveParity (34 * y + p) fails else s.serveStall (34 * y + p) fails := by
  rw [State.laneFault, laneIndex_yard hp, if_neg (mt List.contains_iff_mem.mp h)]

variable (hy : y < 64) {s : State} (hon : s.mainOn = true)
include hy hon

/-- A parity fault of a lane that is not fenced is counted, and then served or kept. -/
theorem State.parityFault_counted (hf : (s.yard y).fenced = []) (fails : List (Nat × Nat)) :
    s.parityFault (34 * y + p) fails = (s.bump (ctrId 3 (34 * y + p) 2)).laneFault (34 * y + p) 1 fails := by
  simp [State.parityFault, laneIndex_yard hp, laneIndex_lane hp, hon, hf, hy]

/-- A stall of a lane that is not under test concerns it where its number moves something. -/
theorem State.stallFault_eq (ht : s.tests.trials = []) (fails : List (Nat × Nat)) : s.stallFault (34 * y + p) fails =
    ((s.yard y).servesAs (s.spareMap y) p).elim s fun k =>
      if (s.movingOn y k).isEmpty then s else s.laneFault (34 * y + p) 2 fails := by
  have hnumber : s.numberOf y p = (s.yard y).servesAs (s.spareMap y) p := by simp [State.numberOf, State.trialOf, ht]
  have hrange : (decide (64 ≤ y) || !s.mainOn) = false := by simp [hon, hy]
  unfold State.stallFault
  rw [laneIndex_yard hp, laneIndex_lane hp, hnumber, hrange]
  cases (s.yard y).servesAs (s.spareMap y) p with
  | none => rfl
  | some k => rfl

end

/-! ### Strikes (R422) -/

/-- The state with other strikes of a Yard's lanes. -/
def State.withStrikes (y : Nat) (hits : List (Nat × Nat)) (s : State) : State := s.modYard y fun v => { v with strikes := hits }

theorem State.yard_withStrikes (y : Nat) (hits : List (Nat × Nat)) (s : State) :
    (s.withStrikes y hits).yard y = { s.yard y with strikes := hits } := State.yard_modYard_self _ _ s

/-- Strikes change nothing of which spares are free and which number a lane serves. -/
theorem State.lanes_withStrikes (y p : Nat) (hits : List (Nat × Nat)) (s : State) :
    (s.withStrikes y hits).sparesFree y = s.sparesFree y ∧
    ((s.withStrikes y hits).yard y).servesAs ((s.withStrikes y hits).spareMap y) p = (s.yard y).servesAs (s.spareMap y) p := by
  unfold State.sparesFree
  rw [State.yard_withStrikes]
  exact ⟨rfl, rfl⟩

section
variable {y p : Nat} (hp : p < 34) {s : State} (hf : (s.yard y).fenced = [])
include hp hf

/-- Below the policy's count the strike is noted and logged; nothing is replayed where nothing moves. -/
theorem State.serveParity_noted (hx : s.xfers = []) (hs : (s.yard y).strikes = []) (hn : 2 ≤ s.rigs.cur.spare.strikes)
    (fails : List (Nat × Nat)) : s.serveParity (34 * y + p) fails =
      (s.withStrikes y [(p, s.pen.lifeS)]).logMast 0x0802 (y / 8) [34 * y + p, 1] := by
  have hreplay (k : Nat) : ((s.withStrikes y [(p, s.pen.lifeS)]).logMast 0x0802 (y / 8) [34 * y + p, 1]).replayLane y k =
      (s.withStrikes y [(p, s.pen.lifeS)]).logMast 0x0802 (y / 8) [34 * y + p, 1] :=
    State.replayLane_nil ((State.logWith_xfers _ _ _ _ _ _ (s.withStrikes y _)).trans hx) y k
  have hone : 1 < s.rigs.cur.spare.strikes := hn
  have hcount : [(p, s.pen.lifeS)].filter (·.1 == p) = [(p, s.pen.lifeS)] := by simp
  unfold State.serveParity
  simp only [laneIndex_yard hp, laneIndex_lane hp, hf, hs, List.contains_nil, List.filter_nil, List.nil_append, hcount,
    List.length_singleton, Bool.false_eq_true, if_false, if_pos hone]
  split
  · exact hreplay _
  · rfl

/-- At a count of one the lane is lost. -/
theorem State.serveParity_lost (hn : s.rigs.cur.spare.strikes = 1) (fails : List (Nat × Nat)) :
    ∃ hits, s.serveParity (34 * y + p) fails = (s.withStrikes y hits).loseLane y p 1 fails := by
  unfold State.serveParity
  simp only [laneIndex_yard hp, laneIndex_lane hp, hf, hn]
  refine ⟨_, (if_neg (by simp)).trans (if_neg ?_)⟩
  simp [List.filter_append]

end

/-! ### Parity faults and stalls (R420 to R423) -/

section
variable {s : State} {y p : Nat} (hon : s.mainOn = true) (hm : s.restarting .masthead = false) (hy : y < 64) (hp : p < 34)
  (hf : (s.yard y).fenced = [])
include hon hy hp hf

/-- Where the Mast has a dispatcher a parity fault is counted and served. -/
theorem acts_parityServed (hmast : y / 8 ∉ s.procs.orphanMasts) (fails : List (Nat × Nat)) :
    Acts (.datapathParityFault (34 * y + p) fails) s ((s.bump (ctrId 3 (34 * y + p) 2)).serveParity (34 * y + p) fails) := by
  have hact : Acts (.datapathParityFault (34 * y + p) fails) s (s.parityFault (34 * y + p) fails) := rfl
  rwa [State.parityFault_counted hp hy hon hf, State.laneFault_served hp (s := s.bump _) hmast, if_pos rfl] at hact

theorem acts_parityWaits (hmast : y / 8 ∈ s.procs.orphanMasts) (fails : List (Nat × Nat)) :
    ∃ t, Acts (.datapathParityFault (34 * y + p) fails) s t ∧
      t = { s with ctr := t.ctr, procs := { s.procs with laneFaults := s.procs.laneFaults ++ [(34 * y + p, 1, fails)] } } := by
  refine ⟨s.parityFault (34 * y + p) fails, rfl, ?_⟩
  rw [State.parityFault_counted hp hy hon hf, State.laneFault_waits hp (s := s.bump _) hmast]
  rfl

variable (hx : s.xfers = [])
include hm hx

/-- Below the count of the policy a parity fault is a strike. -/
theorem acts_parityNoted (hmast : y / 8 ∉ s.procs.orphanMasts) (hn : 2 ≤ s.rigs.cur.spare.strikes) (hs : (s.yard y).strikes = []) :
    ∃ t, Acts (.datapathParityFault (34 * y + p) []) s t ∧ (t.yard y).strikes = [(p, s.pen.lifeS)] ∧ (t.yard y).fenced = [] ∧
      (∀ z, z ≠ y → t.yard z = s.yard z) ∧ Logged t 0x0802 [34 * y + p, 1] ∧ WorkSame s t := by
  have hact := acts_parityServed hon hy hp hf hmast []
  rw [State.serveParity_noted (s := s.bump _) hp hf hx hs hn] at hact
  refine ⟨_, hact, ?_, ?_, fun z hz => ?_, ?_, ?_⟩
  · rw [State.yard_logMast, State.yard_withStrikes]
    rfl
  · rw [State.yard_logMast, State.yard_withStrikes]
    exact hf
  · exact (State.yard_logMast _ _ _ _ z).trans (State.yard_modYard_ne _ _ hz)
  · exact State.logged_logWith (s := (s.bump _).withStrikes y _) hm _ _ _ _ _ _
  · obtain ⟨_, _, hlog⟩ := State.logMast_modYard (s := s.bump (ctrId 3 (34 * y + p) 2)) hm 0x0802 y [34 * y + p, 1]
      fun v => { v with strikes := [(p, s.pen.lifeS)] }
    exact hlog ▸ ⟨rfl, rfl, rfl, rfl, rfl⟩

/-- At the count the lane is fenced, and a spare takes its number. -/
theorem acts_parityLost (ht : s.tests.trials = []) {k a : Nat} {rest : List Nat} (hmast : y / 8 ∉ s.procs.orphanMasts)
    (hn : s.rigs.cur.spare.strikes = 1) (hk : (s.yard y).servesAs (s.spareMap y) p = some k) (hfree : s.sparesFree y = a :: rest)
    (ha : a ≠ p) :
    ∃ t, Acts (.datapathParityFault (34 * y + p) []) s t ∧ (t.yard y).fenced = [p] ∧ (∀ z, z ≠ y → t.yard z = s.yard z) ∧
      LogHolds t 0x0801 [34 * y + p, 1] ∧ Logged t 0x0803 [34 * y + a, 32 * y + k] ∧ WorkSame s t := by
  have hact := acts_parityServed hon hy hp hf hmast []
  obtain ⟨hits, hlost⟩ := State.serveParity_lost (s := s.bump (ctrId 3 (34 * y + p) 2)) hp hf hn []
  obtain ⟨hspares, hserves⟩ := State.lanes_withStrikes y p hits (s.bump (ctrId 3 (34 * y + p) 2))
  have hspared := State.spared_standIn (s := (s.bump (ctrId 3 (34 * y + p) 2)).withStrikes y hits) hm y p 1 a k
  obtain ⟨m, l, honly⟩ := hspared.only
  rw [hlost, State.loseLane_spared (s := (s.bump _).withStrikes y hits) ht (hserves.trans hk) (hspares.trans hfree) ha,
    State.replayLane_nil (by rw [honly]; exact hx)] at hact
  refine ⟨_, hact, ?_, fun z hz => ?_, hspared.fence, hspared.standIn, ?_⟩
  · rw [hspared.fenced, State.yard_withStrikes]
    exact congrArg (· ++ [p]) hf
  · exact (hspared.others z hz).trans (State.yard_modYard_ne _ _ hz)
  · rw [honly]
    exact ⟨rfl, rfl, rfl, rfl, rfl⟩

end

/-- Where nothing moves a stall concerns no lane. -/
theorem acts_stallIdle {s : State} {y p : Nat} (hon : s.mainOn = true) (hy : y < 64) (hp : p < 34) (hx : s.xfers = [])
    (ht : s.tests.trials = []) : Acts (.laneStall (34 * y + p) []) s s := by
  have hact : Acts (.laneStall (34 * y + p) []) s (s.stallFault (34 * y + p) []) := rfl
  have hidle (k : Nat) : s.movingOn y k = [] := by rw [State.movingOn, hx]; rfl
  rw [State.stallFault_eq hp hy hon ht] at hact
  cases hk : (s.yard y).servesAs (s.spareMap y) p with
  | none => rwa [hk] at hact
  | some k => rwa [hk, Option.elim_some, hidle, List.isEmpty_nil, if_pos rfl] at hact

section
variable {s : State} {x : Xfer} {y p : Nat} (hx : s.xfers = [(x.id, x)])
include hx

/-- A lane that moves the one transfer there is moves nothing else. -/
theorem State.eq_of_mem_movingOn {k : Nat} {z : Xfer} (hz : z ∈ s.movingOn y k) : z = x := by
  rw [State.movingOn, hx] at hz
  obtain ⟨q, hq, rfl⟩ := List.mem_map.mp hz
  rw [List.mem_singleton.mp (List.mem_filter.mp hq).1]

/-- The replay of a lane that moves a transfer's reads changes transfers and requests only. -/
theorem State.apart_replayLane (hread : x.phase = .reading) (hsheet : x.work.isSheet = false) (hsrcs : x.srcs ≠ []) (k : Nat) :
    (s.replayLane y k).apart = s.apart := by
  refine List.foldlRecOn (s.movingOn y k) _ (motive := fun t : State => t.apart = s.apart) rfl fun t ht z hz => ?_
  obtain rfl := State.eq_of_mem_movingOn hx hz
  exact (State.apart_replayXfer hread hsheet hsrcs _ t).trans ht

variable (hread : x.phase = .reading) (hsheet : x.work.isSheet = false) (hsrcs : x.srcs ≠ []) {k : Nat} (hon : s.mainOn = true)
  (hy : y < 64) (hp : p < 34) (ht : s.tests.trials = []) (hxy : x.yard = y) (hxk : x.lane = k) (howes : s.owes x.id = true)
  (hk : (s.yard y).servesAs (s.spareMap y) p = some k)
include hread hon hy hp ht hxy hxk howes hk

/-- A stall of a lane that moves the transfer is served, or waits for a dispatcher; served, the lane is lost. -/
theorem State.stallFault_moving : s.stallFault (34 * y + p) [] = s.laneFault (34 * y + p) 2 [] ∧
    s.serveStall (34 * y + p) [] = s.loseLane y p 2 [] := by
  have hmoving : s.movingOn y k = [x] := by simp [State.movingOn, State.moving, hx, hxy, hxk, hread, howes]
  have hnumber : s.numberOf y p = some k := by simp [State.numberOf, State.trialOf, ht, hk]
  refine ⟨?_, ?_⟩
  · rw [State.stallFault_eq hp hy hon ht, hk, Option.elim_some, hmoving]
    rfl
  · rw [State.serveStall, laneIndex_yard hp, laneIndex_lane hp, hnumber]
    simp only [hmoving, List.isEmpty_cons, Bool.false_eq_true, if_false]

theorem acts_stallWaits (hmast : y / 8 ∈ s.procs.orphanMasts) : Acts (.laneStall (34 * y + p) []) s
    { s with procs := { s.procs with laneFaults := s.procs.laneFaults ++ [(34 * y + p, 2, [])] } } := by
  obtain ⟨hfault, -⟩ := State.stallFault_moving hx hread hon hy hp ht hxy hxk howes hk
  have hact : Acts (.laneStall (34 * y + p) []) s (s.stallFault (34 * y + p) []) := rfl
  rwa [hfault, State.laneFault_waits hp hmast] at hact

include hsheet hsrcs

/-- A stalled lane is fenced, a spare takes its number, and the reads that it moved are replayed. -/
theorem acts_stallLost (hm : s.restarting .masthead = false) (hf : (s.yard y).fenced = []) {a : Nat} {rest : List Nat}
    (hfree : s.sparesFree y = a :: rest) (ha : a ≠ p) (hmast : y / 8 ∉ s.procs.orphanMasts) :
    ∃ t, Acts (.laneStall (34 * y + p) []) s t ∧ (t.yard y).fenced = [p] ∧ (∀ z, z ≠ y → t.yard z = s.yard z) ∧
      LogHolds t 0x0801 [34 * y + p, 2] ∧ LogHolds t 0x0803 [34 * y + a, 32 * y + k] ∧ t.gens = s.gens ∧ t.cleats = s.cleats ∧
      t.accepted = s.accepted := by
  obtain ⟨hfault, hserve⟩ := State.stallFault_moving hx hread hon hy hp ht hxy hxk howes hk
  have hact : Acts (.laneStall (34 * y + p) []) s (s.stallFault (34 * y + p) []) := rfl
  rw [hfault, State.laneFault_served hp hmast, if_neg (by decide), hserve, State.loseLane_spared ht hk hfree ha] at hact
  have hspared := State.spared_standIn hm y p 2 a k
  obtain ⟨m, l, honly⟩ := hspared.only
  have hreplayed : (((s.fence y p 2).standIn y a k).replayLane y k).apart = ((s.fence y p 2).standIn y a k).apart :=
    State.apart_replayLane (by rw [honly]; exact hx) hread hsheet hsrcs k
  obtain ⟨hyards, hlog, hgens, hcleats, hacc⟩ := State.fields_of_apart hreplayed
  have hyard (z : Nat) : (((s.fence y p 2).standIn y a k).replayLane y k).yard z = ((s.fence y p 2).standIn y a k).yard z := by
    rw [State.yard, hyards, State.yard]
  refine ⟨_, hact, ?_, fun z hz => (hyard z).trans (hspared.others z hz), ?_, ?_, ?_, ?_, ?_⟩
  · rw [hyard, hspared.fenced, hf]
    rfl
  · rw [LogHolds, hlog]
    exact hspared.fence
  · rw [LogHolds, hlog]
    exact logHolds_of_logged hspared.standIn
  · rw [hgens, honly]
  · rw [hcleats, honly]
  · rw [hacc, honly]

end

theorem laneFaultRules : Claims.LaneFaultRules := by
  refine ⟨fun s y p halive hm hy hp hf hx ht => ?_,
    fun s y p k a rest x halive hm hy hp hf ht hx hxy hxk hread hsrcs howes hsheet hk hfree ha => ?_⟩
  · have hon := State.mainOn_of_alive halive
    exact ⟨fun k hmast hn hs _ => acts_parityNoted hon hm hy hp hf hx hmast hn hs,
      fun k a rest hmast hn hk hfree ha => acts_parityLost hon hm hy hp hf hx ht hmast hn hk hfree ha,
      fun fails hmast => acts_parityWaits hon hy hp hf hmast fails, acts_stallIdle hon hy hp hx ht⟩
  · have hon := State.mainOn_of_alive halive
    exact ⟨acts_stallLost hx hread hsheet hsrcs hon hy hp ht hxy hxk howes hk hm hf hfree ha,
      acts_stallWaits hx hread hon hy hp ht hxy hxk howes hk⟩

/-- Settles O20: the crashes and restarts, and the lane faults. -/
theorem crashesAndLaneFaults : Obligations.CrashesAndLaneFaults := ⟨crashRules, laneFaultRules⟩

end Sys2Proof.Machine
end
